-- ==== Sys2Proof/Word.lean ====
section
/-! DEFINITION. The word types of the model and their plainest arithmetic. -/

namespace Sys2Proof

/-- One byte. -/
abbrev Byte := BitVec 8
/-- A 16-bit word. -/
abbrev Half := BitVec 16
/-- A 32-bit word: an FP32 or I32 lane, a handle, a scalar register. -/
abbrev Word := BitVec 32
/-- A 64-bit register or field. -/
abbrev Dword := BitVec 64

end Sys2Proof
end

