-- ==== Sys2Proof/Syntax.lean ====
section
/-! DEFINITION. The commands of the module as syntax: one constructor of `Instr` per row of spec/opcode_table.json,
with the operands an event, a message, a register access or an engine command carries. -/

namespace Sys2Proof

/-- The engines that run command queues (R48, R259: an NMU's two engines queue by themselves). -/
inductive Engine where
  | cluster (c : Nat)
  | gemv (s : Nat)
  | att (s : Nat)
  | yarder (y : Nat)
  deriving DecidableEq, Repr

/-- The kinds of fenceable unit (table *Fence units*, R481). -/
inductive UnitKind where
  | cluster | nmu | link | cxl | sap | pdm
  deriving DecidableEq, Repr

/-- One fenceable unit (R29). -/
structure UnitId where
  kind : UnitKind
  index : Nat
  deriving DecidableEq, Repr

/-- Work classes (R48). -/
inductive Cls where
  | D | I | B
  deriving DecidableEq, Repr

/-- Internal paths (table *Internal paths*, R25). -/
inductive PathId where
  | stack (s : Nat) | nmuDram (s : Nat) | lcRead (i : Nat) | lcWrite (i : Nat)
  | clusterIn (c : Nat) | clusterOut (c : Nat)
  | linkDieTx (d : Nat) | linkDieRx (d : Nat) | controlTx | controlRx
  | dwevyTx (l : Nat) | dwevyRx (l : Nat) | cxlRd (p : Nat) | cxlWr (p : Nat)
  | ethTx (e : Nat) | ethRx (e : Nat)
  deriving DecidableEq, Repr

/-- What a command draws power as (table *Power model*, R561). -/
inductive PowerKind where
  | array | ve | gemv | att | none
  deriving DecidableEq, Repr

/-- What a link transfer of activations names (R107, R108, R112): the link scale table, by its place in the package, the
channels of a row, and whether a received row is decoded to FP32, else BF16. -/
structure LinkRow where
  table : Nat
  channels : Nat
  fp32 : Bool
  deriving DecidableEq, Repr

/-- What a key-value or attention command of a template serves: its attention layer, and its token counted from the first position of
the work (R247, R254). -/
structure KvRef where
  layer : Nat
  token : Nat
  deriving DecidableEq, Repr

/-- A command of a template (section "Proving a plan"): engine, class, worst case, dependencies, bytes on each
path, release offset, the bytes that it needs before it can start (B of R339), the tensor of the package that it runs with the form
that the template names for it (R125, R141, R263), the narrow
rows that a link stream carries, the layer and token of a key-value or attention command, and the cross-module sum that a write
contributes to with the ID of the module it comes from (R357). Times are in units of 1/5400 µs (cluster cycle 2, fabric cycle 3, NMU cycle 4). -/
structure TCmd where
  name : Nat
  engine : Engine
  cls : Cls
  wcet : Nat
  release : Nat
  deadline : Nat
  inputs : List Nat
  need : Nat
  hops : Nat
  paths : List (PathId × Nat)
  power : PowerKind
  form : Nat
  word : List Byte
  tensor : Option Nat
  row : Option LinkRow
  kv : Option KvRef
  contrib : Option (Nat × Nat)
  deriving DecidableEq, Repr

/-- The pieces of work a model's templates describe. -/
inductive TemplKind where
  | decode | encode | decoder | stopword | prefill | load
  deriving DecidableEq, Repr

/-- One template, compiled for one set of units in service (R34), with the merge slot descriptors (R255) and, by link, the
link stream entries (R408) that it needs. -/
structure Template where
  kind : TemplKind
  clusterMask : Nat
  nmuMask : Nat
  cmds : List TCmd
  merges : List (List Byte)
  links : List (Nat × List Byte)
  deriving DecidableEq, Repr

/-- A recurrent layer group of a model (R206, R487). -/
structure RecGroup where
  heads : Nat
  dk16 : Nat
  dv16 : Nat
  layers : Nat
  decayVec : Bool
  deriving DecidableEq, Repr

/-- The attention geometry of a model (R115, R271, R282). -/
structure AttGeom where
  layers : Nat
  heads : Nat
  d : Nat
  layerStep : Nat
  ropePair : Nat
  deriving DecidableEq, Repr

/-- A model package (R485): its header and section table as bytes, every section as its chapter's records. -/
structure Package where
  header : List Byte
  tensors : List (List (List Byte))
  templates : List Template
  vePrograms : List (List Dword)
  linkTables : List (List (Word × Byte))
  rotary : List Word
  attention : Option AttGeom
  recurrent : List RecGroup
  skidQueues : Nat
  prefillChain : List TCmd
  loadChain : List TCmd
  deriving DecidableEq, Repr

/-- A mailbox message as a client writes it (R460): the mailbox it stands in and every header field the client
writes, the reserved ones included, and the payload bytes. -/
structure Msg where
  client : Nat
  mbox : Nat
  ownWord : Word
  seq : Word
  plen : Nat
  refAddr : Dword
  refLen : Nat
  refSpace : Byte
  rsvd1D : BitVec 24
  rsvd30 : BitVec 128
  payload : List Byte
  deriving DecidableEq, Repr

/-- The fields of a VE instruction word beside OP (R161). -/
structure VEWord where
  fmt : BitVec 3
  zm : Bool
  msk : BitVec 3
  vd : BitVec 5
  va : BitVec 5
  vb : BitVec 5
  vc : BitVec 5
  imm : BitVec 29
  deriving DecidableEq, Repr

/-- Who contributes to a merge (R255, R256). -/
inductive MergeSrc where
  | stack (i : Nat)
  | modul (id : Nat)
  deriving DecidableEq, Repr

/-- One contribution to a merge slot: the (m, s) pairs of its rows, or its partial output rows (R251, R252, R256). -/
inductive MergeData where
  | pairs (ms : List (Word × Word)) (status : Half)
  | partials (rows : List (List Word)) (status : Half)
  deriving DecidableEq, Repr

/-- A beat marker (R413). -/
structure Marker where
  beat : Dword
  tickTime : Dword
  sendTime : Dword
  master : BitVec 12
  hops : Nat
  rsvd : Nat
  deriving DecidableEq, Repr

/-- A Dwevy frame as it reaches a receiver after FEC (R380): header, body as sent, tag, CRC. -/
structure Frame where
  ctl : Byte
  domain : Byte
  len : Half
  dest : Half
  dstream : Half
  seq : Word
  body : List Byte
  tag : List Byte
  crc : Word
  deriving DecidableEq, Repr

/-- What reaches a receiver from the lanes: a frame, the symbols in error of each codeword that carries it (R379), and for a transfer the
symbols in error of the worst word that its memory access reads (R362). -/
structure RxFrame where
  fr : Frame
  cw : List Nat
  sym : Nat
  deriving DecidableEq, Repr
/-- A frame by its bytes as they arrive: the 12 bytes of the header, and the body, the tag and the CRC (R380). -/
def rxOf (head rest : List Byte) (cw : List Nat) : RxFrame :=
  let n := rest.length - 20
  { fr := {
      ctl := head.getD 0 0, domain := head.getD 1 0, len := head.getD 3 0 ++ head.getD 2 0, dest := head.getD 5 0 ++ head.getD 4 0,
      dstream := head.getD 7 0 ++ head.getD 6 0, seq := head.getD 11 0 ++ head.getD 10 0 ++ head.getD 9 0 ++ head.getD 8 0,
      body := rest.take n, tag := (rest.drop n).take 16,
      crc := rest.getD (n + 19) 0 ++ rest.getD (n + 18) 0 ++ rest.getD (n + 17) 0 ++ rest.getD (n + 16) 0 },
    cw := cw, sym := 0 }

/-- The checker tests of R509, row by row. -/
inductive Checker where
  | clusterEcc (c : Nat) | clusterSfu (c : Nat) | clusterWd (c : Nat)
  | nmuWd (s : Nat) | nmuEcc (s : Nat) | nmuFw (s : Nat)
  | yarderWd (y : Nat) | sliceFw (i : Nat) | sliceEcc (i : Nat)
  | cxlFw (p : Nat) | cxlPoison (p : Nat) | linkFw (l : Nat) | linkFrame (l : Nat)
  | comparator | afe | monitor | lockstep
  deriving DecidableEq, Repr

/-- What DESCRIPTOR_FETCH fetches: the stream's number, and the symbols in error of the worst word read (R362). -/
structure DescRead where
  num : Nat
  sym : Nat
  deriving DecidableEq, Repr

/-- The return test of a unit (R36, R528): its outcome, and for a CXL port what the training finds: the device's capacity in bytes, RATE × 4 +
WIDTH, and the slowest of the 4,096 reads in nanoseconds (R359, R360). -/
structure UnitTest where
  passed : Bool
  bytes : Nat
  code : Nat
  slowest : Nat
  deriving DecidableEq, Repr

/-- A group frame at the pins: what each SAP receives, slot by slot, and how long the frame lasts, in units of 2^-32 of its nominal period by
the module's reference (R432, R444). -/
structure PinFrames where
  frames : List (Nat × List (BitVec 32))
  span : Nat
  deriving DecidableEq, Repr

/-- One signed image or its absence, as NOR holds it (R532). -/
abbrev Image := List Byte

/-- THE COMMANDS. One constructor per row of spec/opcode_table.json, in the table's order. Times `t` are local
time in units of 1/16 ns (R413); physical facts (errors found, levels, measurements) are operands. -/
inductive Instr where
  -- the beat
  | tick (t : Nat)
  | planCompose
  | beatInEdge (t : Nat)
  | beatInTimeout
  | beatEnable (dom : Nat) (t : Nat)
  | beatApplyWrite (dom : Nat) (v : Dword)
  | markerSend (t : Nat)
  | markerReceive (l : Nat) (r : RxFrame) (t : Nat)
  | markerMissing
  | execWindowEnd
  | kerfStart
  | commandStart (e : Engine) (t : Nat)
  | watchdogTrip (e : Engine)
  -- the Matrix Array and the Vector Engine
  | matmul (c : Nat) (w : List Byte) (ecc : Bool)
  | arrayStall (c : Nat) (cycles : Nat)
  | veprog (c : Nat) (w : List Byte) (ecc : Bool)
  | nop (c : Nat) (f : VEWord)
  | add (c : Nat) (f : VEWord)
  | sub (c : Nat) (f : VEWord)
  | mul (c : Nat) (f : VEWord)
  | fma (c : Nat) (f : VEWord)
  | max (c : Nat) (f : VEWord)
  | min (c : Nat) (f : VEWord)
  | abs (c : Nat) (f : VEWord)
  | neg (c : Nat) (f : VEWord)
  | ceq (c : Nat) (f : VEWord)
  | clt (c : Nat) (f : VEWord)
  | cle (c : Nat) (f : VEWord)
  | cun (c : Nat) (f : VEWord)
  | sel (c : Nat) (f : VEWord)
  | cvt (c : Nat) (f : VEWord)
  | pack (c : Nat) (f : VEWord)
  | unpk (c : Nat) (f : VEWord)
  | lqu8 (c : Nat) (f : VEWord)
  | lqs8 (c : Nat) (f : VEWord)
  | ldq (c : Nat) (f : VEWord)
  | perm (c : Nat) (f : VEWord)
  | shuf (c : Nat) (f : VEWord)
  | iadd (c : Nat) (f : VEWord)
  | iand (c : Nat) (f : VEWord)
  | ior (c : Nat) (f : VEWord)
  | ixor (c : Nat) (f : VEWord)
  | ishl (c : Nat) (f : VEWord)
  | ishr (c : Nat) (f : VEWord)
  | iota (c : Nat) (f : VEWord)
  | mand (c : Nat) (f : VEWord)
  | mor (c : Nat) (f : VEWord)
  | mxor (c : Nat) (f : VEWord)
  | mnot (c : Nat) (f : VEWord)
  | ld (c : Nat) (f : VEWord)
  | st (c : Nat) (f : VEWord)
  | rsum (c : Nat) (f : VEWord)
  | rmax (c : Nat) (f : VEWord)
  | rmin (c : Nat) (f : VEWord)
  | ramax (c : Nat) (f : VEWord)
  | rugo (c : Nat) (f : VEWord)
  | ruPass (c : Nat)
  | ruwait (c : Nat) (f : VEWord)
  | rurd (c : Nat) (f : VEWord)
  | rufin (c : Nat) (f : VEWord)
  | sfn (c : Nat) (f : VEWord)
  | smov (c : Nat) (f : VEWord)
  | sadd (c : Nat) (f : VEWord)
  | sget (c : Nat) (f : VEWord)
  | tin (c : Nat) (f : VEWord)
  | tout (c : Nat) (f : VEWord)
  | loop (c : Nat) (f : VEWord)
  | endl (c : Nat) (f : VEWord)
  | ska (c : Nat) (f : VEWord)
  | skn (c : Nat) (f : VEWord)
  | endP (c : Nat) (f : VEWord)
  -- the Scan Unit and the SFU banks
  | scanChunk (c : Nat) (w : List Byte) (ecc : List Nat)
  | scanStep (c : Nat) (w : List Byte) (ecc : List Nat)
  | scanZero (c : Nat) (w : List Byte)
  | sfuBankLoad (c : Nat) (tset : Word) (image : List Byte)
  -- the NMUs and the merge
  | gemv (s : Nat) (w : List Byte) (sym : Nat)
  | attScore (s : Nat) (w : List Byte) (sym : Nat)
  | attValue (s : Nat) (w : List Byte) (sym : Nat)
  | kvput (s : Nat) (w : List Byte) (sym : Nat)
  | kvseal (s : Nat) (w : List Byte) (sym : Nat)
  | mergeContribution (slot : Nat) (src : MergeSrc) (d : MergeData)
  | mergeDeadline (slot : Nat)
  -- yarders
  | stream (y : Nat) (w : List Byte)
  | copy (y : Nat) (w : List Byte)
  | descriptorFetch (y : Nat) (r : DescRead)
  | tileDeliver (y : Nat) (num : Nat)
  | transferComplete (y : Nat) (num : Nat) (idx : Nat) (sym : Nat)
  | skidPush (y : Nat) (num : Nat)
  -- fences and background work
  | faultFence (u : UnitId) (lost : Bool) (sliceSaved : Bool)
  | fenceDataMoveComplete (u : UnitId) (fault : Bool) (sliceSaved : Bool)
  | relayComplete
  | unitReturn (u : UnitId)
  | patrolScrub (s : Nat) (corrected uncorrectable : List Nat)
  | lcPatrolScrub (i : Nat) (corrected uncorrectable : List Nat)
  | stackCalibration (s : Nat)
  | linkCalibration (l : Nat)
  | cxlCalibration (p : Nat)
  | catchUpCalibration (u : UnitId)
  | telemetrySampling (vin iin pin : Nat) (temps : List Nat)
  | linkDelayMeasurement (l : Nat) (t : Nat)
  | regionRetire (region : Nat)
  | blazeFrame (sigs : List Word) (expected : List Word) (invalid : Bool)
  | selfTestSlice (e : Option Engine) (start : Nat) (tests : List (Checker × Bool))
  | lockstepTest (pass : Bool)
  | latentCheck (now : Nat)
  -- records to the clients
  | tokenRecordWrite (session : Nat) (token : Word) (status : Half)
  | telemetryWrite (client : Nat)
  -- messages and their completions
  | mailboxWriteDrop (client mbox : Nat)
  | clientCreate (m : Msg)
  | clientDestroy (m : Msg)
  | beatConfig (m : Msg)
  | topology (m : Msg)
  | poolConfig (m : Msg)
  | fence (m : Msg)
  | unfence (m : Msg) (test : UnitTest)
  | portgroupConfig (m : Msg)
  | portgroupArm (m : Msg)
  | telemetryConfig (m : Msg)
  | faultClear (m : Msg)
  | memAlloc (m : Msg)
  | memFree (m : Msg)
  | memCopy (m : Msg)
  | memCopyComplete (client mbox : Nat) (status : Half)
  | modelLoad (m : Msg) (pkg : Package)
  | modelLoadComplete (client mbox : Nat)
  | modelUnload (m : Msg)
  | modelSetTables (m : Msg)
  | tsetCreate (m : Msg)
  | tsetDestroy (m : Msg)
  | tsetDestroyComplete (tset : Nat)
  | stateCreate (m : Msg)
  | stateDestroy (m : Msg)
  | pinnedDestroy (obj : Nat)
  | stateSwap (m : Msg)
  | swapCopyStart (obj : Nat)
  | swapCopyComplete (obj : Nat) (refused : Bool) (newHandle : Word)
  | stateReset (m : Msg)
  | stateCopy (m : Msg)
  | stateCopyComplete (client mbox : Nat)
  | sessionOpen (m : Msg)
  | sessionClose (m : Msg)
  | prefill (m : Msg)
  | prefillComplete (session : Nat) (status : Half)
  | reusePointReady (node : Nat)
  | decodeStart (m : Msg)
  | decodeStop (m : Msg)
  | sessionFork (m : Msg)
  | sessionQuery (m : Msg)
  | pageMoveComplete (session : Nat) (page : Nat)
  | pageMoveBackComplete (session : Nat)
  | channelOpen (m : Msg)
  | channelClose (m : Msg)
  | channelStart (m : Msg)
  | channelStop (m : Msg)
  | channelMute (m : Msg)
  | channelUnmute (m : Msg)
  | channelGain (m : Msg)
  | zeroCrossingApply (ch : Nat)
  | zcTimeout (ch : Nat)
  | stopwordStart (m : Msg)
  | stopwordStop (m : Msg)
  -- audio
  | afeInputProcess (ch : Nat)
  | afeOutputProcess (ch : Nat)
  | trigInEdge (t : Nat)
  | groupStart (g : Nat)
  | slip (p : Nat) (cause : Nat)
  | slipRejoin (p : Nat)
  | clkLost (g : Nat)
  -- the Safety Monitor
  | verdictWrite (dom : Nat) (slot path : Nat) (vrec : List Byte) (status : Half)
  | verdictDeadline (slot path : Nat)
  | verdictStarvation (slot path : Nat)
  | safeAckEdge (lowMs highMs : Nat)
  | testPulse (channelB : Bool) (readLow readHigh : Bool)
  | tickLoss
  | refclkLoss
  -- Dwevy links
  | frameEgress (l : Nat)
  | epochRollover (l : Nat) (space : Nat)
  | frameStream (l : Nat) (r : RxFrame)
  | frameWrite (l : Nat) (r : RxFrame)
  | frameRead (l : Nat) (r : RxFrame)
  | frameReadData (l : Nat) (r : RxFrame)
  | frameWriteDone (l : Nat) (r : RxFrame)
  | ack (l : Nat) (r : RxFrame)
  | ackTimer (l : Nat)
  | nak (l : Nat) (r : RxFrame)
  | delayReq (l : Nat) (r : RxFrame) (t2 t3 : Nat)
  | delayResp (l : Nat) (head rest : List Byte) (cw : List Nat) (t4 : Nat)
  | corrupt (l : Nat) (r : RxFrame)
  | hello (l : Nat) (r : RxFrame)
  | helloRepeat (l : Nat)
  | keyed (l : Nat) (r : RxFrame)
  | linkTrainingComplete (l : Nat) (lanesOk : Bool)
  | laneLoss (l : Nat)
  | dlkEnable (dom : Nat) (l : Nat)
  | dlkRetrain (dom : Nat) (l : Nat)
  -- register writes
  | nmuShareWrite (dom : Nat) (s : Nat) (v : Dword)
  | yardOutstWrite (dom : Nat) (y : Nat) (v : Dword)
  | yardSplitWrite (dom : Nat) (v : Dword)
  | lcPartWrite (dom : Nat) (v : Dword)
  | regionTagWrite (dom : Nat) (region : Nat) (v : Half)
  | pwrCapWrite (dom : Nat) (v : Dword)
  | gpioCtrlWrite (dom : Nat) (v : Dword)
  | registerWrite (dom : Nat) (addr : Nat) (v : Dword)
  -- power, boot and resets
  | powerUp (vin : Nat)
  | boot (katOk : Bool) (cxl : List (Nat × Nat × Nat × Nat))
  | trialTimeout
  | powerFail (vin pin : Nat)
  | protectiveShed (vin pin : Nat)
  | vinBrownout (vin : Nat)
  | thermalCapStep (temps : List Nat)
  | modelHigh (measured : Nat)
  | bbCommit
  | norRefresh (corrections : List (Nat × Nat))
  | drbgReseed (entropy : List Byte)
  | mrstNPulse (ns : Nat)
  | moduleReset (cause : Nat)
  | warmReset (cause : Nat)
  | computeReset (cause : Nat)
  -- PMBus
  | operationOn
  | operationOff
  | clearFaults
  | statusWord
  | statusInput
  | statusTemperature
  | readVin
  | readIin
  | readPin
  | readTemperature1
  | pmbusRevision
  | pmbusUnsupported (code : Byte)
  | powerStateActive
  | powerStateStandby
  | powerStateSleep
  | mfrPowerCap (write : Option Nat)
  | mfrResetWarm
  | mfrResetModule
  | mfrResetCompute
  | mfrBbRead (off : Nat)
  -- the Root of Trust over SMBus
  | getCerts (payload : List Byte)
  | attest (payload : List Byte)
  | stageBegin (payload : List Byte)
  | stageData (payload : List Byte)
  | stageEnd (payload : List Byte)
  | commit (payload : List Byte)
  | stageAbort (payload : List Byte)
  | keyEnroll (payload : List Byte)
  | debugChallenge (payload : List Byte)
  | debugUnlock (payload : List Byte)
  | rotReplyRead (off : Nat)
  -- the rest
  | chainChangeCheck (cfg : Dword) (holdMax : Nat)
  | chainChangeAnswer (modul : Nat) (accept : Bool)
  | groupFrame (g : Nat) (rx : PinFrames) (pdm : List (Nat × List Bool))
  | refclkWithinLimits (ms : Nat)
  | errorInterrupt (unit : Nat)
  | accessFault (core : Nat) (addr : Nat) (write : Bool)
  | mailboxReservedOpcode (opcode : Half) (m : Msg)
  | rotReservedOperation (op : Byte)
  deriving DecidableEq, Repr

end Sys2Proof
end

