-- ==== Sys2Proof/Decode.lean ====
section
/-! DEFINITION. The commands that a word of spec/opcode_table.json spells. -/

namespace Sys2Proof

/-- The command a table word spells. No row of spec/opcode_table.json gives bits: its rows are the module's operations
and events, so no word spells a command. -/
def decodeTableWord (_nbits _w : Nat) : Option Instr := none

end Sys2Proof
end

