-- ==== Sys2Proof/Machine/Fp.lean ====
section
/-! DEFINITION. The number formats and their arithmetic (R80 to R85): values are exact dyadic numbers, and every
operation rounds the exact result once. -/

namespace Sys2Proof.Machine

/-- A floating-point format: significand bits, exponents of its smallest and its largest normal binade. -/
structure Fmt where
  p : Nat
  emin : Int
  emax : Int
  deriving DecidableEq, Repr

/-- FP32 (R80). -/
def fmt32 : Fmt := ⟨24, -126, 127⟩
/-- BF16 (R80). -/
def fmtB16 : Fmt := ⟨8, -126, 127⟩
/-- FP16 (R80). -/
def fmtF16 : Fmt := ⟨11, -14, 15⟩
/-- FP8 E4M3 (R80). -/
def fmtE4 : Fmt := ⟨4, -6, 8⟩

/-- A value: NaN, an infinity, or (−1)^neg × m × 2^e exactly. -/
inductive Fv where
  | nan
  | inf (neg : Bool)
  | fin (neg : Bool) (m : Nat) (e : Int)
  deriving DecidableEq, Repr

/-- +0. -/
def fvZero : Fv := .fin false 0 0
/-- The value of an integer. -/
def fvInt (i : Int) : Fv := .fin (decide (i < 0)) i.natAbs 0
/-- Negation. -/
def fvNeg : Fv → Fv
  | .nan => .nan | .inf s => .inf (!s) | .fin s m e => .fin (!s) m e
/-- Magnitude. -/
def fvAbs : Fv → Fv
  | .nan => .nan | .inf _ => .inf false | .fin _ m e => .fin false m e
/-- The value is NaN. -/
def fvIsNan : Fv → Bool
  | .nan => true | _ => false
/-- The value is finite. -/
def fvFinite : Fv → Bool
  | .fin _ _ _ => true | _ => false
/-- The value is a zero of either sign. -/
def fvIsZero : Fv → Bool
  | .fin _ 0 _ => true | _ => false

/-! ## Decoding -/

/-- A value from sign, exponent field, fraction: subnormals read as zero with their sign (R82), every NaN encoding as
NaN (R84). -/
def decIeee (ebits fbits : Nat) (v : Nat) : Fv :=
  let s := v / 2 ^ (ebits + fbits) % 2 == 1
  let x := v / 2 ^ fbits % 2 ^ ebits
  let f := v % 2 ^ fbits
  if x = 2 ^ ebits - 1 then (if f = 0 then .inf s else .nan)
  else if x = 0 then .fin s 0 0
  else .fin s (2 ^ fbits + f) ((x : Int) - (2 ^ (ebits - 1) - 1 : Nat) - (fbits : Nat))

/-- FP32. -/
def dec32 (w : Word) : Fv := decIeee 8 23 w.toNat
/-- BF16. -/
def decB16 (h : Half) : Fv := decIeee 8 7 h.toNat
/-- FP16. -/
def decF16 (h : Half) : Fv := decIeee 5 10 h.toNat
/-- FP8 E4M3: no infinity; 0x7F and 0xFF are NaN (R80). -/
def decE4 (b : Byte) : Fv :=
  let v := b.toNat
  let s := v / 128 == 1
  let x := v / 8 % 16
  let f := v % 8
  if x = 15 ∧ f = 7 then .nan
  else if x = 0 then .fin s 0 0
  else .fin s (8 + f) ((x : Int) - 10)

/-! ## Rounding -/

/-- floor(log2 (num / den)) of a positive ratio. -/
def ratLog2 (num den : Nat) : Int :=
  let e : Int := (Nat.log2 num : Int) - (Nat.log2 den : Int)
  -- num / den < 2 ^ e decides between e and e − 1
  if e ≥ 0 then (if num < den * 2 ^ e.toNat then e - 1 else e)
  else (if num * 2 ^ (-e).toNat < den then e - 1 else e)

/-- The quotient num / den to the nearest integer; ties away from zero, or to even for the compatibility mode (R200). -/
def divRound (even : Bool) (num den : Nat) : Nat :=
  let q := num / den
  let r := num % den
  if 2 * r > den then q + 1
  else if 2 * r = den then (if even && q % 2 == 0 then q else q + 1)
  else q

/-- A positive ratio rounded to `p` significant bits with an unbounded exponent: (significand, exponent of its unit). -/
def rndRat (even : Bool) (p : Nat) (num den : Nat) : Nat × Int :=
  let e := ratLog2 num den
  let k : Int := (p : Int) - 1 - e
  let q := if k ≥ 0 then divRound even (num * 2 ^ k.toNat) den else divRound even num (den * 2 ^ (-k).toNat)
  if q = 2 ^ p then (2 ^ (p - 1), 1 - k) else (q, -k)

/-- The range check after rounding (R82, R83): below the smallest normal a signed zero, beyond the largest finite value
an infinity. -/
def rangeFv (f : Fmt) (neg : Bool) (q : Nat) (u : Int) : Fv :=
  let e := u + (f.p : Int) - 1
  if e < f.emin then .fin neg 0 0
  else if e > f.emax then .inf neg
  else .fin neg q u

/-- A ratio rounded once to a format. -/
def rndQ (even : Bool) (f : Fmt) (neg : Bool) (num den : Nat) : Fv :=
  if num = 0 ∨ den = 0 then .fin neg 0 0
  else let r := rndRat even f.p num den; rangeFv f neg r.1 r.2

/-- A value rounded once to a format (R81 to R84). -/
def rndE (even : Bool) (f : Fmt) : Fv → Fv
  | .nan => .nan
  | .inf s => .inf s
  | .fin s m e => if e ≥ 0 then rndQ even f s (m * 2 ^ e.toNat) 1 else rndQ even f s m (2 ^ (-e).toNat)

/-- Rounding to nearest, ties away from zero (R81). -/
def rnd (f : Fmt) (v : Fv) : Fv := rndE false f v

/-! ## Encoding: of values that already fit the format -/

/-- The encoding of a value of an IEEE format; NaN is canonical (R84). -/
def encIeee (ebits fbits : Nat) : Fv → Nat
  | .nan => (2 ^ ebits - 1) * 2 ^ fbits + 2 ^ (fbits - 1)
  | .inf s => (if s then 2 ^ (ebits + fbits) else 0) + (2 ^ ebits - 1) * 2 ^ fbits
  | .fin s m e =>
    let top := if s then 2 ^ (ebits + fbits) else 0
    if m = 0 then top
    else
      -- normalise to fbits + 1 significant bits
      let l := Nat.log2 m
      let q := if l ≤ fbits then m * 2 ^ (fbits - l) else m / 2 ^ (l - fbits)
      let x : Int := e + (l : Int) + (2 ^ (ebits - 1) - 1 : Nat)
      if x ≤ 0 then top else top + x.toNat * 2 ^ fbits + (q - 2 ^ fbits)

/-- FP32. -/
def enc32 (v : Fv) : Word := BitVec.ofNat 32 (encIeee 8 23 v)
/-- BF16. -/
def encB16 (v : Fv) : Half := BitVec.ofNat 16 (encIeee 8 7 v)
/-- FP16. -/
def encF16 (v : Fv) : Half := BitVec.ofNat 16 (encIeee 5 10 v)
/-- E4M3 of a finite value that fits. -/
def encE4fin (v : Fv) : Byte :=
  match v with
  | .fin s m e =>
    let top := if s then 128 else 0
    if m = 0 then BitVec.ofNat 8 top
    else
      let l := Nat.log2 m
      let q := if l ≤ 3 then m * 2 ^ (3 - l) else m / 2 ^ (l - 3)
      let x : Int := e + (l : Int) + 7
      if x ≤ 0 then BitVec.ofNat 8 top else BitVec.ofNat 8 (top + x.toNat * 8 + (q - 8))
  | _ => 0x7F

/-- Rounded once to FP32. -/
def to32 (v : Fv) : Word := enc32 (rnd fmt32 v)
/-- Rounded once to BF16. -/
def toB16 (v : Fv) : Half := encB16 (rnd fmtB16 v)
/-- Rounded once to FP16. -/
def toF16 (v : Fv) : Half := encF16 (rnd fmtF16 v)

/-- The canonical NaN of FP32. -/
def nan32 : Word := 0x7FC00000
/-- The canonical NaN of BF16. -/
def nanB16 : Half := 0x7FC0

/-! ## Exact operations (R84, R85) -/

/-- The exact sum. -/
def fvAdd (a b : Fv) : Fv :=
  match a, b with
  | .nan, _ => .nan
  | _, .nan => .nan
  | .inf s, .inf t => if s = t then .inf s else .nan
  | .inf s, _ => .inf s
  | _, .inf t => .inf t
  | .fin s m e, .fin t n f =>
    let u := if m = 0 then f else if n = 0 then e else min e f
    let x : Int := (if m = 0 then 0 else ((m * 2 ^ (e - u).toNat : Nat) : Int)) * (if s then -1 else 1)
    let y : Int := (if n = 0 then 0 else ((n * 2 ^ (f - u).toNat : Nat) : Int)) * (if t then -1 else 1)
    let z := x + y
    if z = 0 then .fin (s && t) 0 0 else .fin (decide (z < 0)) z.natAbs u

/-- The exact difference. -/
def fvSub (a b : Fv) : Fv := fvAdd a (fvNeg b)

/-- The exact product. -/
def fvMul (a b : Fv) : Fv :=
  match a, b with
  | .nan, _ => .nan
  | _, .nan => .nan
  | .inf s, .inf t => .inf (s != t)
  | .inf s, .fin t n _ => if n = 0 then .nan else .inf (s != t)
  | .fin s m _, .inf t => if m = 0 then .nan else .inf (s != t)
  | .fin s m e, .fin t n f => .fin (s != t) (m * n) (e + f)

/-- Exact comparison of two values that are not NaN: a < b. -/
def fvLt (a b : Fv) : Bool :=
  match a, b with
  | .nan, _ => false
  | _, .nan => false
  | .inf s, .inf t => s && !t
  | .inf s, _ => s
  | _, .inf t => !t
  | .fin s m e, .fin t n f =>
    let u := min e f
    let x : Int := ((m * 2 ^ (e - u).toNat : Nat) : Int) * (if s then -1 else 1)
    let y : Int := ((n * 2 ^ (f - u).toNat : Nat) : Int) * (if t then -1 else 1)
    decide (x < y)

/-- Exact equality of two values that are not NaN; +0 equals −0. -/
def fvEq (a b : Fv) : Bool := !fvIsNan a && !fvIsNan b && !fvLt a b && !fvLt b a

/-- The quotient of two finite values rounded once to a format. -/
def fvDivRnd (f : Fmt) (a b : Fv) : Fv :=
  match a, b with
  | .fin s m e, .fin t n g =>
    if n = 0 then (if m = 0 then .nan else .inf (s != t))
    else
      let d := e - g
      if d ≥ 0 then rndQ false f (s != t) (m * 2 ^ d.toNat) n else rndQ false f (s != t) m (n * 2 ^ (-d).toNat)
  | .nan, _ => .nan
  | _, .nan => .nan
  | .inf _, .inf _ => .nan
  | .inf s, .fin t _ _ => .inf (s != t)
  | .fin s _ _, .inf t => .fin (s != t) 0 0

/-- The quotient of two finite values to the nearest integer, ties away from zero. -/
def fvDivInt (a b : Fv) : Int :=
  match a, b with
  | .fin s m e, .fin t n g =>
    if n = 0 then 0
    else
      let d := e - g
      let q := if d ≥ 0 then divRound false (m * 2 ^ d.toNat) n else divRound false m (n * 2 ^ (-d).toNat)
      if s != t then -(q : Int) else q
  | _, _ => 0

/-- A finite value to the nearest integer, ties away from zero. -/
def fvToInt (a : Fv) : Int := fvDivInt a (fvInt 1)

/-- floor(log2 |v|) of a finite nonzero value. -/
def fvExp : Fv → Int
  | .fin _ m e => (Nat.log2 m : Int) + e
  | _ => 0

/-- The value scaled by a power of two, exactly. -/
def fvScale (v : Fv) (k : Int) : Fv :=
  match v with
  | .fin s m e => .fin s m (e + k)
  | x => x

/-! ## FP32 on words -/

/-- FP32 sum, rounded once. -/
def add32 (a b : Word) : Word := to32 (fvAdd (dec32 a) (dec32 b))
/-- FP32 difference. -/
def sub32 (a b : Word) : Word := to32 (fvSub (dec32 a) (dec32 b))
/-- FP32 product. -/
def mul32 (a b : Word) : Word := to32 (fvMul (dec32 a) (dec32 b))
/-- FP32 a × b + c, rounded once. -/
def fma32 (a b c : Word) : Word := to32 (fvAdd (fvMul (dec32 a) (dec32 b)) (dec32 c))

/-- The larger of two values, −0 below +0; NaN if either is NaN (R84). -/
def fvMax (a b : Fv) : Fv :=
  if fvIsNan a || fvIsNan b then .nan
  else if fvLt a b then b
  else if fvLt b a then a
  else match a, b with
    | .fin true _ _, y => y
    | x, _ => x

/-- The smaller of two values, −0 below +0; NaN if either is NaN (R84). -/
def fvMin (a b : Fv) : Fv :=
  if fvIsNan a || fvIsNan b then .nan
  else if fvLt a b then a
  else if fvLt b a then b
  else match a, b with
    | .fin true m e, _ => .fin true m e
    | _, y => y

end Sys2Proof.Machine
end

