-- ==== Sys2Proof/Config.lean ====
section
/-! DEFINITION. What an implementation fixes and the spec leaves open: constants without a body, so that no proof can
rest on one of their values. -/

namespace Sys2Proof.Config

/-- A free value for a word that the spec leaves open: the n-th one the machine asks for. -/
opaque freeWord : Nat → BitVec 64

/-- A lane of a Vector Engine result that the spec does not state, as a function of the operation, of the source lanes it
reads and of its place, so that equal inputs give equal lanes (R20, R162). -/
opaque freeLane : Nat → List (BitVec 32) → Nat → BitVec 64

/-- The exponential of a table set without EXP_SLOT at an input, as a function of the set's image and the input, so that equal inputs
give equal results (R20, R251). -/
opaque freeExp : List (BitVec 8) → BitVec 32 → BitVec 32

/-- The set of the Landing Cache that a line falls in, an unstated mapping (R353, R368): slice and set from the line. -/
opaque lcSet : Nat → Nat

/-- Which of the cached lines stands at a slice-local place of the cache ways: (slice, offset) to a position, an unstated
mapping (R364). -/
opaque lcWayLine : Nat → Nat → Nat

/-- The resampler filter h of the signed AFE image for a nominal step: coefficient h[q][j] (R430). -/
opaque resampleTap : Nat → Nat → Nat → BitVec 32
/-- T of the resampler filter for a nominal step (R430). -/
opaque resampleTaps : Nat → Nat
/-- A coefficient mel[b][k] of the signed AFE image for a number of bins (R434). -/
opaque melTap : Nat → Nat → Nat → BitVec 32
/-- The fixed decimator of the signed AFE image: a decimation factor and a microphone's bits, oldest first (R446). -/
opaque pdmSample : Nat → List Bool → BitVec 24

/-- Where in the activation buffer the bytes of the stream of a TAG land: the endpoint names the stack alone (R312). -/
opaque actOffset : Nat → Nat

/-- The link number at the far end of a link's cable, which the key derivation takes (R403). -/
opaque peerLink : Nat → Nat

/-- The module that a link of a module of the chain leads to, by module IDs: how the chain is cabled (R411). -/
opaque cable : Nat → Nat → Option Nat

/-- The LINEAR11 exponent plus 16 that the part uses for a quantity: 0 voltage, 1 current, 2 power, 3 temperature. -/
opaque linearExp : Nat → Nat

/-- The secrets and constants of one part (R531, R543, R546): the unique device secret, the root key, the certificates,
the silicon revision, and what the entropy source gives. -/
opaque uds : List (BitVec 8)
/-- The Halelasa root public key in ROM. -/
opaque rootPub : List (BitVec 8)
/-- The two certificates, device then CA, as DER. -/
opaque certs : List (List (BitVec 8))
/-- The silicon revision. -/
opaque siliconRev : BitVec 16
/-- The identity private key as boot derives it from the secret. -/
opaque idPriv : Nat
/-- DEVICE_ID of the part. -/
opaque deviceId : BitVec 64
/-- Bytes of the on-die entropy source: the n-th seed. -/
opaque seedBytes : Nat → List (BitVec 8)
/-- How long after a marker's arrival its relayed copy leaves, in 1/16 ns: by the beat it announces and the link (R414). -/
opaque markerLag : Nat → Nat → Nat
/-- How the four items of the configuration measurement are laid out as bytes (R546). -/
opaque configBytes : Nat → Nat → Nat → List (Option (BitVec 256) × Bool) → List (BitVec 8)

end Sys2Proof.Config
end

