-- ==== Sys2Proof/Machine/StateTypes.lean ====
section
/-! DEFINITION. The pieces of the module's state, unit by unit, as plain data: registers by their field names, stores as
canonical lists of cells, records as the spec lays them out. `Machine/State.lean` puts them together. -/

namespace Sys2Proof.Machine

/-- A store of bytes: (address, byte) pairs, addresses strictly rising, no byte 0 listed (an unlisted byte reads 0). -/
abbrev Mem := List Host.Cell

/-! ## The beat (R37 to R78) -/

/-- BEAT_CUR and BEAT_NEXT (R44). -/
structure BeatCfg where
  bfloor : BitVec 10
  kerf : BitVec 10
  bg : BitVec 10
  period : BitVec 9
  deriving DecidableEq, Repr

/-- A change of the chain's settings that waits for the modules' answers or for its tick (R43, R478). -/
structure ChainChange where
  client : Nat
  mbox : Nat
  cfg : BeatCfg
  holdMax : BitVec 4
  received : Nat
  waiting : List Nat
  deriving DecidableEq, Repr

/-- A route entry of a TOPOLOGY message (R479). -/
structure RouteEntry where
  from_ : Nat
  dest : Nat
  links : Nat
  deriving DecidableEq, Repr

/-- A TOPOLOGY that waits for its tick (R479). -/
structure Topo where
  client : Nat
  mbox : Nat
  applyBeat : Nat
  master : Nat
  masterSrc : Nat
  entries : List RouteEntry
  deriving DecidableEq, Repr

/-- The part of the beat that runs (R37, R45, R46). -/
inductive BeatPart where
  | window | background | kerf
  deriving DecidableEq, Repr

/-- The Beat Sequencer: its registers by field (R44) and what R38, R40, R77 and R606 make it remember. `fresh` says that no
tick has come since ENABLE was set, `ticked` that ticks run, `missSet` that the last BEAT_IN timeout set SYNC_LOST, `part` what part
of the beat runs, `clock` the latest time from the tick that a command boundary has shown, in units of 1/5400 µs. -/
structure BeatSt where
  holdMax : BitVec 4
  beatOutEn : Bool
  master : Bool
  src : BitVec 2
  enable : Bool
  cur : BeatCfg
  next : BeatCfg
  applyAt : Dword
  number : Dword
  overrunCount : Half
  deadlineMiss : Bool
  syncLost : Bool
  planMiss : Bool
  overrun : Bool
  cfgErr : Bool
  holdover : Bool
  locked : Bool
  offsetPs : Word
  tickTime : Nat
  refTime : Option Nat
  qualified : Bool
  misses : Nat
  missSet : Bool
  ticked : Bool
  fresh : Bool
  nextTick : Option Nat
  nextNumber : Option Nat
  markerSeen : Bool
  holdBeats : Nat
  armedHoldMax : Option (Nat × BitVec 4)
  beatOutEdges : Nat
  chainMaster : Nat
  chainModules : List Nat
  change : Option ChainChange
  topo : Option Topo
  answers : List (Nat × Bool)
  markersOut : List (Nat × Marker)
  part : BeatPart
  clock : Nat
  lastMark : Option (Nat × Nat)
  rate : Nat × Nat
  deriving DecidableEq, Repr

/-! ## Plans, queues and reservations (R48 to R71) -/

/-- Where a planned command stands in its beat. -/
inductive RunState where
  | queued | running | done | abandoned
  deriving DecidableEq, Repr

/-- What a piece of class B work does (R58). -/
inductive BKind where
  | prefill | modelLoad | memCopy | stateCopy | pageMove | pageBack | dataMove | snapshot | reuse
  deriving DecidableEq, Repr

/-- A piece of admitted class B work, in client order (R63); `taken` says that a copy's source has been read (R488), or
that a move or load has come to its end. -/
structure BWork where
  kind : BKind
  client : Nat
  mbox : Nat
  obj : Nat
  arg : Nat
  model : Nat
  beat : Nat
  taken : Bool
  deriving DecidableEq, Repr

/-- A copy that the DCP itself places in a plan (R303, R311, R58): a page of one attention layer before a session's first write into it, as session, frame set left, frame
set taken, layer; or a part of a piece of class B work, of a swap of a state object, of a fence's data move, of the re-lay for a returning stack. -/
inductive DcpCopy where
  | page (session src dst layer : Nat) | work (b : BWork) | swap (obj : Nat) | move (u : UnitId) | relay
  deriving DecidableEq, Repr

/-- A command placed in a plan (R53), with its run in the beat (R49, R54, R64 to R70): `tname` is its name in its template;
`rows` are the row descriptors that the DCP writes for a Scan command (R234), or the page list of an attention command (R247); `acc`
says of a contribution to a cross-module sum whether it is written with ACC (R357); `copy` is the copy of the DCP that the command is. -/
structure PCmd where
  id : Nat
  tname : Nat
  t : TCmd
  client : Nat
  obj : Word
  kind : TemplKind
  dom : Nat
  blaze : Bool
  model : Nat
  stream : Nat
  start : Nat
  finish : Nat
  run : RunState
  startedAt : Nat
  finishedAt : Nat
  readyAt : Nat
  status : Half
  rows : List (List Byte)
  acc : Option Bool
  copy : Option DcpCopy
  deriving DecidableEq, Repr

/-- An SFU bank load that a plan places (R196): the cluster, the handle of the set, the planned commands that it waits for, those
that wait for it, the command that makes the other bank active first, whether it has come to its end, and whether its check has failed (R197). -/
structure BankLoad where
  cluster : Nat
  set : Word
  before : List Nat
  after : List Nat
  turn : Option Nat
  done : Bool
  failed : Bool
  deriving DecidableEq, Repr

/-- A task of the background budget (table *Background tasks*, R72), by its unit. -/
inductive BgTask where
  | scrub (stack : Nat) | stackCal (stack : Nat) | lcScrub (slice : Nat) | linkCal (link : Nat) | cxlCal (port : Nat)
  | delay (link : Nat) | telemetry
  deriving DecidableEq, Repr

/-- What a plan carries beside its commands: per-tick register values (NMU_SHARE of each stack as GEMV, ATT and IF, R267;
YARD_OUTST as D, I and B and YARD_SPLIT as read, write and remote, R344), merge slots (slot, model, domain, descriptor, R255),
link stream entries by link (R408), its modelled power, the tree nodes that its tick frees (R288, R300), and the page copies
it makes: session, frame set left, frame set taken (R303), the SFU bank loads (R196), and the standby streams of multicast members: stream
number, cluster, yarder (R326), and the links in service when it was composed, over which it routes (R31, R36, R410). -/
structure PlanRegs where
  shares : List (Nat × Nat × Nat)
  outst : Nat × Nat × Nat
  split : Nat × Nat × Nat
  merges : List (Nat × Nat × Nat × List Byte)
  links : List (Nat × List Byte)
  modelW : Nat
  frees : List Nat
  cows : List (Nat × Nat × Nat)
  loads : List BankLoad
  standby : List (Nat × Nat × Nat)
  served : BitVec 24
  deriving DecidableEq, Repr

/-- A standing reservation of class D or I (R57, R61). -/
structure Resv where
  obj : Word
  client : Nat
  cls : Cls
  kind : TemplKind
  model : Nat
  dom : Nat
  beat : Nat
  seq : Nat
  suspended : Bool
  deriving DecidableEq, Repr

/-- The tally of one client (R71). -/
structure Tally where
  beat : Dword
  waitTotal : Word
  waitMax : Word
  preempt : Half
  refusedBeat : Half
  waitCum : Dword
  preemptCum : Dword
  liveWait : Nat
  liveMax : Nat
  livePreempt : Nat
  liveRefused : Nat
  deriving DecidableEq, Repr

/-- The planner and the run of the released plan. `carry` holds, for work that is planned over several beats, the commands of
earlier beats that are not OK: object, name in the template, status (R63, R67). `bgDue` are the background tasks of the beat that
have not run. -/
structure PlanSt where
  cur : List PCmd
  curRegs : PlanRegs
  next : Option (Nat × List PCmd × PlanRegs)
  resvs : List Resv
  bwork : List BWork
  seq : Nat
  queueOf : List (Engine × Cls)
  incomplete : List Engine
  droppedUnits : List UnitId
  safetyPrev : List Engine
  suspendedModels : List Nat
  carry : List (Word × Nat × Half)
  bgDue : List BgTask
  deriving DecidableEq, Repr

/-! ## Clusters (R123 to R240) -/

/-- The bytes a stream has delivered to an endpoint and the endpoint has not consumed, or an endpoint has given up
and a write stream has not taken; `ep` is the endpoint (table *Stream endpoints*), `ended` says that the stream has come to its end
(R314), `flaws` which of the bytes are invalid: first byte, count, status. -/
structure StreamBuf where
  num : Nat
  ep : Nat
  tiles : List (List Byte)
  status : Half
  ended : Bool
  flaws : List (Nat × Nat × Half)
  deriving DecidableEq, Repr

/-- An array command that has begun (R144 to R147): its word, whether its stores met an uncorrectable error, and the bytes of
the banks that the array has released. -/
structure ArrRun where
  word : List Byte
  ecc : Bool
  codes : List Byte
  acts : List Byte
  deriving DecidableEq, Repr

/-- A Scan command that has begun (R238): its word, the rows whose state reads meet an uncorrectable error, the next row, and
the bytes taken from IN_STREAM and STATE_STREAM. -/
structure ScanRun where
  word : List Byte
  ecc : List Nat
  row : Nat
  buf : StreamBuf
  sbuf : StreamBuf
  deriving DecidableEq, Repr

/-- ARR_STATUS, ARR_LAST_TAG, ARR_COUNT and ARR_STALL (R155). -/
structure ArrRegs where
  lastStatus : Half
  poison : Bool
  eccUe : Bool
  domFault : Bool
  stalled : Bool
  curMode : BitVec 2
  busy : Bool
  lastTag : Word
  count : Dword
  stall : Dword
  deriving DecidableEq, Repr

/-- VE_STATUS, VE_LAST_TAG, VE_COUNT and VE_STALL (R185). -/
structure VeRegs where
  lastStatus : Half
  var1Clamp : Bool
  eccUe : Bool
  domFault : Bool
  stalled : Bool
  nonfinite : Bool
  busy : Bool
  lastTag : Word
  count : Dword
  stall : Dword
  deriving DecidableEq, Repr

/-- SCAN_STATUS to SCAN_STALL (R240). -/
structure ScanRegs where
  lastStatus : Half
  gone : Bool
  eccUe : Bool
  domFault : Bool
  stalled : Bool
  invalidRow : Bool
  busy : Bool
  lastTag : Word
  count : Dword
  rows : Dword
  stall : Dword
  deriving DecidableEq, Repr

/-- One SFU bank: the handle of its set and the set's image (R195, R204). -/
structure SfuBank where
  set : Word
  valid : Bool
  compat : Bool
  image : List Byte
  deriving DecidableEq, Repr

/-- The SFU of a cluster (R204), with the bytes that its load stream has delivered (R195). -/
structure SfuSt where
  bankA : SfuBank
  bankB : SfuBank
  active : Bool
  loading : Bool
  loadErr : Bool
  busy : Bool
  loads : Dword
  switches : Dword
  arrived : List Byte
  deriving DecidableEq, Repr

/-- One row of the Reduction Unit: fold stacks, extrema, running soft maximum, non-finite marks (R172 to R177). -/
structure RuRow where
  sum : List (Nat × Word)
  sumsq : List (Nat × Word)
  d2 : List (Nat × Word)
  minV : Word
  maxV : Word
  smM : Word
  smS : Word
  markSum : Bool
  markSq : Bool
  markD2 : Bool
  markSm : Bool
  deriving DecidableEq, Repr

/-- The finish values of one row (table *Finish values*, R174). -/
structure RuFin where
  sum : Word
  mean : Word
  msq : Word
  var1 : Word
  var2 : Word
  maxV : Word
  minV : Word
  smM : Word
  smS : Word
  flags : Word
  deriving DecidableEq, Repr

/-- One queued pass (R170). -/
structure RuPass where
  tile : Nat
  stats : BitVec 4
  c0 : Nat
  w : Nat
  clr : Bool
  bf16 : Bool
  deriving DecidableEq, Repr

/-- The Reduction Unit of a cluster. -/
structure RuSt where
  rows : List RuRow
  nSum : Nat
  nSq : Nat
  nD2 : Nat
  nSm : Nat
  accSum : Bool
  accSq : Bool
  accD2 : Bool
  accSm : Bool
  fin : Option (List RuFin)
  queue : List RuPass
  running : Option RuPass
  deriving DecidableEq, Repr

/-- One tile buffer (R156, R179). -/
structure TileSt where
  mem : Mem
  arrived : Bool
  held : Bool
  draining : Bool
  deriving DecidableEq, Repr

/-- The Vector Engine's registers, program position and tiles (R156, R159). -/
structure VeSt where
  v : List (List Word)
  m : List (BitVec 2048)
  s : List Word
  pc : Nat
  loops : List (Nat × Nat)
  imem : List (Nat × Dword)
  tiles : List TileSt
  tileMap : Nat
  dom : Nat
  inStream : Nat
  outStream : Nat
  nextIn : Nat
  drains : List Nat
  tag : Word
  status : Half
  ru : RuSt
  deriving DecidableEq, Repr

/-- One cluster. `outUnit` gives for an output stream the opcode of the command that fills it, `outRows` for a Scan output
stream the bytes of a row and the objects of its rows. -/
structure ClusterSt where
  arr : ArrRegs
  veRegs : VeRegs
  sfu : SfuSt
  scan : ScanRegs
  ve : VeSt
  inb : List StreamBuf
  outb : List StreamBuf
  arrRun : Option ArrRun
  scanRun : Option ScanRun
  outUnit : List (Nat × Nat)
  outRows : List (Nat × Nat × List Word)
  deriving DecidableEq, Repr

/-! ## NMUs and the merge (R241 to R270) -/

/-- One NMU (R270) with its activation buffer and the score buffer; `actDom` holds for each byte of the activation buffer one more than
the domain whose stream wrote it (R266). -/
structure NmuSt where
  lastStatus : Half
  cfgErr : Bool
  spill : Bool
  poison : Bool
  eccUe : Bool
  domFault : Bool
  stalled : Bool
  attBusy : Bool
  gemvBusy : Bool
  attTag : Word
  gemvTag : Word
  attCount : Word
  gemvCount : Word
  stall : Dword
  ifPm : BitVec 10
  attPm : BitVec 10
  gemvPm : BitVec 10
  act : Mem
  actDom : Mem
  scoreBuf : Mem
  expTables : List (Nat × Word)
  outb : List StreamBuf
  deriving DecidableEq, Repr

/-- A merge slot (R255 to R258): its descriptor, what has arrived, what it broadcast. -/
structure MergeSlot where
  slot : Nat
  rows : Nat
  d64 : Nat
  stkMask : Nat
  level : Nat
  modules : Nat
  root : Nat
  outFp32 : Bool
  model : Nat
  outAddr : Nat
  deadline : Nat
  tag : Word
  dom : Nat
  pairs : List (MergeSrc × List (Word × Word) × Half)
  parts : List (MergeSrc × List (List Word) × Half)
  bcast : Option (List (Word × Word))
  bcastStatus : Half
  toRoot : List (List Word)
  sent : List (Nat × MergeData)
  out : Option (List (List Word))
  outStatus : Half
  deriving DecidableEq, Repr

/-! ## Pages and prefixes (R271 to R305) -/

/-- A page pool (R275): its runs of regions, and of these the assigned ones with their model and domain (R276). -/
structure PoolSt where
  size2M : Nat
  cxl2M : Nat
  admitPm : Nat
  evictPm : Nat
  runs : List (Nat × Nat)
  regions : List (Nat × Nat × Nat)
  deriving DecidableEq, Repr

/-- Where a frame lies: tier 0 none, 1 HBM, 2 CXL (R279); the status that marked its own page invalid (R281); whether its page is
sealed (R116). -/
structure FrameLoc where
  tier : Nat
  stack : Nat
  off : Nat
  inv : Option Half
  sealed : Bool
  deriving DecidableEq, Repr

/-- A frame set: the frames of one page, one for each attention layer (R279). -/
structure FrameSet where
  id : Nat
  model : Nat
  dom : Nat
  page : Nat
  locs : List FrameLoc
  fill : Nat
  invalid : Option Half
  refs : Nat
  tree : Bool
  key : Dword
  moving : Bool
  deriving DecidableEq, Repr

/-- A node of a prefix tree (R293 to R301). -/
structure TreeNode where
  id : Nat
  model : Nat
  dom : Nat
  parent : Option Nat
  key : Dword
  ids : List Word
  fs : Nat
  snapshot : Option Nat
  reusable : Bool
  attachedAt : Nat
  deriving DecidableEq, Repr

/-- The page side of the module. -/
structure PagesSt where
  pools : List PoolSt
  sets : List FrameSet
  nodes : List TreeNode
  nextId : Nat
  pageHolds : Nat
  hashCollisions : Nat
  tokenHolds : Nat
  deriving DecidableEq, Repr

/-! ## Yarders (R306 to R344) -/

/-- A block descriptor as a stream uses it (R315): with the address of a popped entry in place of its own, and what that
entry says of its data (R330, R331). -/
structure Desc where
  addr : Nat
  len : Nat
  rep : Nat
  acc : Bool
  stride : Int
  zero : Bool
  st : Half
  deriving DecidableEq, Repr

/-- A descriptor list and the place of the next transfer in it (R316, R318): `descs` are the fetched descriptors from
index `di` on, the first of them in use. -/
structure ListSt where
  base : Nat
  count : Nat
  bursts : Nat
  descs : List Desc
  di : Nat
  run : Nat
  off : Nat
  deriving DecidableEq, Repr

/-- One transfer of a stream (R319): `pos` is its place in the stream's bytes, `req` the request sent to another module; `lost` says that
it was refused before it left the module, `drop` that the stream has been discarded since it was issued (R325). -/
structure Xfer where
  idx : Nat
  write : Bool
  pos : Nat
  di : Nat
  addr : Nat
  len : Nat
  acc : Bool
  zero : Bool
  lost : Bool
  drop : Bool
  done : Bool
  req : Option Nat
  data : List Byte
  status : Half
  deriving DecidableEq, Repr

/-- A skid entry (R327). -/
structure SkidEntry where
  addr : Nat
  len : Nat
  status : Half
  seq : Half
  deriving DecidableEq, Repr

/-- A descriptor that owes a push (R329): where its bytes end in the stream, the first status of its data that is not OK and the place of
that data. -/
structure Owed where
  di : Nat
  upto : Nat
  addr : Nat
  len : Nat
  status : Half
  badAt : Nat
  deriving DecidableEq, Repr

/-- A stream context (R307, R310, R316 to R332). `held` says that its command has the context while the stream does not move, `discarded`
that the stream resumes when its command starts (R325). `rd` is the list read from memory, `wr` the list written; `staged` holds
bytes in order with their status; `donePos` counts the bytes that reached their end. -/
structure StreamCtx where
  num : Nat
  word : List Byte
  cls : Cls
  dom : Nat
  started : Bool
  held : Bool
  discarded : Bool
  rd : Option ListSt
  wr : Option ListSt
  popped : Option (List SkidEntry)
  xfers : List Xfer
  nextIdx : Nat
  rPos : Nat
  wPos : Nat
  staged : List (List Byte × Half)
  donePos : Nat
  fetched : Nat
  owed : List Owed
  pushed : Nat
  status : Half
  mask : Nat
  deriving DecidableEq, Repr

/-- One yarder (R343); `spent` are bank streams that have come to their end while their command has not started, which a
discard takes up again (R325). -/
structure YarderSt where
  lastStatus : Half
  cfgErr : Bool
  descErr : Bool
  eccUe : Bool
  domFault : Bool
  stalled : Bool
  skidFull : Bool
  discard : Bool
  lastTag : Word
  count : Dword
  stall : Dword
  outB : BitVec 7
  outI : BitVec 7
  outD : BitVec 7
  bytes : Dword
  ctxs : List StreamCtx
  spent : List StreamCtx
  deriving DecidableEq, Repr

/-- A skid queue (SKID_STATE, R343); `late` are placeholders that wait for room (R332, R333). -/
structure SkidQ where
  entries : List SkidEntry
  late : List SkidEntry
  pushSeq : Half
  popSeq : Half
  deriving DecidableEq, Repr

/-- The yarders and what they share. -/
structure YardSt where
  yards : List YarderSt
  splitErr : Bool
  remotePm : BitVec 10
  writePm : BitVec 10
  readPm : BitVec 10
  skids : List SkidQ
  deriving DecidableEq, Repr

/-! ## Memory (R345 to R376) -/

/-- MEM_ECC (R376). -/
structure EccReg where
  ce : Word
  ue : Half
  ueSeen : Bool
  deriving DecidableEq, Repr

/-- CXL_STATUS (R376). -/
structure CxlReg where
  cap2M : Word
  poison : Bool
  latFail : Bool
  rate : BitVec 2
  width : BitVec 2
  up : Bool
  deriving DecidableEq, Repr

/-- What the code of the memories makes of a word that is read (R362). -/
inductive EccOut where
  | clean | corrected | uncorrectable
  deriving DecidableEq, Repr

/-- A line of the Landing Cache's cache ways, with the tag copied at fill (R354, R368). -/
structure LcLine where
  line : Nat
  tag : Half
  deriving DecidableEq, Repr

/-- Memory, tiers and domains. -/
structure MemSt where
  dev : Mem
  poisoned : List Nat
  tags : List (Nat × Half)
  lastDom : List (Nat × Nat)
  lines : List LcLine
  winWays : BitVec 5
  winNext : Option (BitVec 5)
  lcCfgErr : Bool
  memMode : BitVec 2
  ecc : List EccReg
  ceLog : List (Nat × Nat × Nat)
  violValid : Bool
  violCount : BitVec 15
  violDom : BitVec 6
  violKind : BitVec 2
  violWrite : Bool
  violCfgErr : Bool
  violPoint : Byte
  violAddr : BitVec 60
  refusals : List (Nat × Nat × Nat × Nat)
  cxl : List CxlReg
  linkDom : List Dword
  carve : List (Nat × Nat)
  runs : List (Nat × Nat × Nat)
  held : List (Nat × Nat × Word)
  scrubPos : List Nat
  deriving DecidableEq, Repr

/-! ## Links (R377 to R417) -/

/-- A frame in a replay buffer, with the epoch it was first sent in (R386, R404). -/
structure SentFrame where
  fr : Frame
  epoch : Nat
  deriving DecidableEq, Repr

/-- A link stream entry (R408). -/
structure LinkStream where
  stream : Nat
  dstream : Nat
  dest : Nat
  comp : Bool
  urg : Bool
  deriving DecidableEq, Repr

/-- Bytes of an egress stream that wait for frames: a tile as delivered, or what is left of its coded blocks (R393). -/
structure TxTile where
  num : Nat
  dom : Nat
  coded : Bool
  bytes : List Byte
  deriving DecidableEq, Repr

/-- What waits at a link's egress (R385); `src` is the stream that an addressed transfer belongs to. -/
structure EgressItem where
  prio : Nat
  fr : Frame
  replayed : Bool
  src : Option Nat
  deriving DecidableEq, Repr

/-- The decoder side of one ingress stream (R383, R393, R400): coded bytes not yet decoded, bytes of a narrow row not yet whole, bytes not
yet taken. -/
structure Ingress where
  num : Nat
  pend : List Byte
  raw : List Byte
  out : List Byte
  status : Half
  deriving DecidableEq, Repr

/-- One Dwevy link: registers (R417) and protocol state; `lastTx` is the stream without URG that it served last (R337), `rowBuf` holds the
elements of egress streams that do not make a whole row yet (R108). -/
structure LinkSt where
  peerId : BitVec 12
  orphan : Bool
  peerFail : Bool
  laneFail : Bool
  corrupt : Bool
  authFail : Bool
  replay : Bool
  training : Bool
  keyed : Bool
  up : Bool
  enable : Bool
  oneWay : Word
  naks : Half
  authFails : Half
  corruptBlocks : Half
  fecUncorr : Half
  txSeq : List Word
  txEpoch : List Nat
  txWrap : List Bool
  rxSeq : List Word
  rxEpoch : List Nat
  sent : List SentFrame
  egress : List EgressItem
  txPend : List TxTile
  rowBuf : List (Nat × List Byte)
  lastTx : Nat
  ingress : List Ingress
  streams : List LinkStream
  naksBeat : Nat
  tagFailed : Option Word
  sinceAck : Nat
  nonce : List Byte
  ephPriv : Nat
  helloOut : List Byte
  peerHello : Option (List Byte)
  prk : List Byte
  keyedSent : Bool
  keyedGot : Bool
  delayT1 : Nat
  wire : List Frame
  deriving DecidableEq, Repr

/-- The links of the module. -/
structure LinksSt where
  links : List LinkSt
  moduleId : BitVec 12
  routes : List (Nat × BitVec 24)
  planRoutes : Option (List (Nat × BitVec 24))
  reads : List (Nat × List Byte × Half)
  dones : List (Nat × Half)
  sentReqs : Nat
  deriving DecidableEq, Repr

/-! ## Audio (R418 to R454) -/

/-- A pending gain change of an output channel (R440, R441). -/
structure GainChange where
  gain : Option Word
  run : Option Bool
  mute : Option Bool
  beat : Nat
  s0 : Option Nat
  closing : Bool
  clients : List (Nat × Nat)
  deriving DecidableEq, Repr

/-- An open audio channel (R422) and its run. A stream position counts samples since the start: `hist` are the last ones
taken, the first of them at `base`; `phase` is φ of R430. `flaws` marks positions, `flawInt` internal samples: 0 zero-filled,
1 a skip before it, 2 lost to a slip, 3 replaced under R433, 4 refused. `internal` are the internal samples from index
`intBase` on, `inBeat` the last beat whose work is done,
`feats` the complete frames of the chunk in the making and `chunkPhase` the phase of its first sample. -/
structure Channel where
  idx : Nat
  client : Nat
  record : List Byte
  sizeLog2 : Nat
  started : Bool
  startBeat : Option Nat
  integ : Int
  adj : Int
  phase : Nat
  base : Nat
  hist : List Word
  flaws : List (Nat × Nat)
  gframe : Nat
  inBeat : Option Nat
  intBase : Nat
  internal : List (Word × Nat)
  flawInt : List (Nat × Nat)
  nextChunk : Nat
  chunkPhase : Nat
  feats : List (List Word)
  port : List (Word × Nat)
  snapWr : Nat
  snapRd : Nat
  snapFill : Nat
  shortCnt : Nat
  dropped : Nat
  applied : Word
  gain : Word
  running : Bool
  muted : Bool
  pendingCh : Option GainChange
  lastY : Word
  nOut : Nat
  zeroed : Bool
  faultStatus : Option Half
  closing : Option (Nat × Nat)
  closeAt : Option Nat
  req : Option Nat
  deriving DecidableEq, Repr

/-- A serial audio port: SAP_CTRL, SAP_STATUS and its FIFOs (R454). -/
structure SapSt where
  group : BitVec 4
  mclkEn : Bool
  bclkInv : Bool
  dataDelay : Bool
  i2s : Bool
  slots : BitVec 5
  rate : BitVec 4
  slotW : BitVec 2
  sampleW : BitVec 2
  master : Bool
  enable : Bool
  slips : Half
  cfgErr : Bool
  clkLost : Bool
  underrun : Bool
  overrun : Bool
  slip : Bool
  rearmed : Bool
  running : Bool
  rx : List (List Word)
  tx : List (List Word)
  pins : List (List Word)
  slipBeats : List Nat
  slippedAt : Nat
  rejoinDue : Bool
  primed : Bool
  acc : Nat
  deriving DecidableEq, Repr

/-- A PDM clock: PDM_CTRL (R454) and the bit histories of its two lines' microphones. -/
structure PdmSt where
  clk : BitVec 2
  dec128 : Bool
  group : BitVec 4
  enable : Bool
  running : Bool
  bits : List (List Bool)
  deriving DecidableEq, Repr

/-- An audio PLL: APLL_STATUS (R454) and ip (R432). -/
structure PllSt where
  adj : Int
  ip : Int
  hold : Bool
  limit : Bool
  family : Bool
  slave : Bool
  locked : Bool
  enabled : Bool
  deriving DecidableEq, Repr

/-- A port group (R447, R448). -/
structure GroupSt where
  exists_ : Bool
  pll : Nat
  slave : Bool
  trigIn : Bool
  saps : Nat
  pdms : Nat
  refSap : Nat
  armedFrom : Option Nat
  armMsg : Option (Nat × Nat)
  trigAt : Option Nat
  running : Bool
  frame : Nat
  deriving DecidableEq, Repr

/-- The Audio Front End. -/
structure AudioSt where
  trigCount : Word
  short : Bool
  domFault : Bool
  badSamp : Bool
  zcTimeout : Bool
  busy : Bool
  chans : List Channel
  saps : List SapSt
  pdms : List PdmSt
  plls : List PllSt
  groups : List GroupSt
  deriving DecidableEq, Repr

/-! ## Clients, mailboxes, objects (R455 to R500) -/

/-- A control block (R469). -/
structure CtrlBlock where
  msiAddr : BitVec 62
  enTelem : Bool
  enToken : Bool
  enDone : Bool
  msiData : Word
  wrDrop : Bool
  telem : Bool
  token : Bool
  doneBits : BitVec 16
  bound : Bool
  domain : BitVec 6
  handle : Word
  deriving DecidableEq, Repr

/-- A mailbox in use: the header fields the DCP writes and what the client wrote (R460). -/
structure Mailbox where
  client : Nat
  mbox : Nat
  own : Bool
  opcode : Half
  status : Half
  seq : Word
  plen : Nat
  rlen : Nat
  refAddr : Dword
  refLen : Nat
  refSpace : Byte
  rsvd1D : BitVec 24
  rsvd30 : BitVec 128
  accBeat : Dword
  doneBeat : Dword
  payload : List Byte
  deriving DecidableEq, Repr

/-- A message whose final completion waits (R465), with what it waits for. -/
structure PendMsg where
  client : Nat
  mbox : Nat
  opcode : Half
  obj : Word
  doneBeat : Option Nat
  arg : Nat
  deriving DecidableEq, Repr

/-- The index pool of one kind of handle (R10, R476). -/
structure KindPool where
  fresh : Nat
  gens : List (Nat × BitVec 12)
  held : List Nat
  freed : List (Nat × Nat)
  deriving DecidableEq, Repr

/-- A loaded or loading model (R485, R486). -/
structure Model where
  idx : Nat
  client : Nat
  dom : Nat
  loaded : Bool
  unloading : Option Nat
  tset : Nat
  nextTset : Option (Nat × Nat)
  kvFp8 : Bool
  vocab : Nat
  pkg : Package
  stripes : List (List (Nat × Nat × Nat))
  veBase : List (Nat × Nat × Nat)
  suspended : Option Half
  keyM : BitVec 128
  queues : List (Nat × Nat)
  rotaryAt : List Nat
  deriving DecidableEq, Repr

/-- A table set (R189, R192). -/
structure Tset where
  idx : Nat
  client : Nat
  image : List Byte
  destroying : Option (Nat × Nat)
  deriving DecidableEq, Repr

/-- A swap in progress (R223 to R227). -/
structure SwapSt where
  dest : Nat
  modul : Nat
  client : Nat
  mbox : Nat
  target : Nat
  copying : Bool
  copied : Option Nat
  newHandle : Word
  deriving DecidableEq, Repr

/-- A state object: its record at the DCP, whose header fields stand in memory at `addr` as well (R215). -/
structure StateObj where
  idx : Nat
  client : Nat
  model : Nat
  owner : Word
  heads : Nat
  dk16 : Nat
  dv16 : Nat
  layers : Nat
  decayVec : Bool
  addr : Nat
  step : Nat
  seq : Nat
  invalid : Option Half
  resets : List Nat
  swap : Option SwapSt
  destroying : Option (Nat × Nat)
  copies : Nat
  gone : Bool
  freeAt : Option Nat
  deriving DecidableEq, Repr

/-- A token or telemetry ring as the DCP knows it (R493, R497). -/
structure RingSt where
  addr : Nat
  sizeLog2 : Nat
  wr : Word
  rdSnap : Word
  holds : Word
  deriving DecidableEq, Repr

/-- An open session (R489, R490). -/
structure Session where
  idx : Nat
  client : Nat
  model : Nat
  rstate : Word
  inCh : Word
  outCh : Word
  encModel : Word
  encState : Word
  decModel : Word
  decState : Word
  maxCtx : Nat
  ring : RingSt
  state : Nat
  positions : Nat
  ids : List Word
  pages : List Nat
  holds : Nat
  left : Nat
  lastActive : Nat
  recBeat : Option Nat
  lastStatus : Half
  faulted : Option (Nat × Half)
  prefill : Option (Nat × Nat × Nat × Bool)
  reused : Nat
  closing : Option Nat
  deriving DecidableEq, Repr

/-- One path of a stop-word slot at the Safety Monitor (R524, R525): the expected FRAME, the verdicts loaded for the beat
(first FRAME, how many) with their deadline as the time from the tick, how many came. -/
structure SwPath where
  channel : Word
  state : Word
  frame : Nat
  expect : Option (Nat × Nat)
  deadline : Nat
  got : Nat
  clearSeen : Bool
  clearSinceHold : Bool
  lastClear : Nat
  lost : Bool
  deriving DecidableEq, Repr

/-- A stop-word slot (R519 to R522). -/
structure SwSlot where
  slot : Nat
  client : Nat
  mbox : Nat
  model : Nat
  running : Bool
  started : Bool
  stopAt : Option Nat
  stopMsg : Option (Nat × Nat)
  paths : List SwPath
  deriving DecidableEq, Repr

/-- A telemetry ring's owner and mask (R497, R498): records of the beat that runs as type and body, and records of beats
that have ended, whole. -/
structure Telem where
  client : Nat
  ring : RingSt
  mask : Word
  events : List (Nat × List Byte)
  ready : List (List Byte)
  lastWritten : Option Nat
  deriving DecidableEq, Repr

/-- An interrupt the module raised: the write of `data` to `addr` (R469), or an interrupt of the Control Die. -/
structure Irq where
  addr : Nat
  data : Nat
  kind : Nat
  deriving DecidableEq, Repr

/-- The DCP's control side. -/
structure CtrlSt where
  blocks : List (Nat × CtrlBlock)
  boxes : List Mailbox
  pend : List PendMsg
  kinds : List KindPool
  models : List Model
  tsets : List Tset
  objs : List StateObj
  sessions : List Session
  slots : List SwSlot
  telems : List Telem
  tallies : List (Nat × Tally)
  closingClients : List (Nat × Nat × Nat × Nat)
  irqs : List Irq
  deriving DecidableEq, Repr

/-! ## Safety (R501 to R530) -/

/-- The Safety Monitor and the checkers (R530). -/
structure SafeSt where
  holds : Half
  foreign : Half
  swRun : BitVec 8
  outFail : Bool
  pulse : Bool
  hb : Bool
  bLvl : Bool
  aLvl : Bool
  tickLost : Bool
  resetActive : Bool
  hold : Bool
  causeBeat : Word
  cause : Byte
  causeUnit : Byte
  causeIndex : Byte
  causeSlot : Byte
  safetyDomain : Byte
  blazePasses : Word
  blazeFails : Half
  blazeUnit : Byte
  blazeMismatch : Bool
  blazeLate : Bool
  deferrals : Word
  latent : Half
  testFail : Bool
  latentSeen : Bool
  lastPass : List (Checker × Nat)
  failedTests : List Checker
  blazed : List Nat
  blazeBoot : Nat
  servedSafety : List UnitId
  refclkOk : Bool
  ackLow : Nat
  deriving DecidableEq, Repr

/-! ## Root of Trust (R531 to R552) -/

/-- A customer key slot (R531). -/
structure CustKey where
  hash : Option (BitVec 256)
  revoked : Bool
  deriving DecidableEq, Repr

/-- The NOR slots and the decision state of one image type (R533, R538, R539). -/
structure ImgType where
  slotA : Option Image
  slotB : Option Image
  active : Bool
  running : Bool
  pending : Bool
  trial : Bool
  committedSvn : Nat
  fused : Nat
  measured : BitVec 256
  runSvn : Nat
  runKey : Nat
  deriving DecidableEq, Repr

/-- A staging in progress (R541, R548). -/
structure Staging where
  type : Nat
  total : Nat
  data : Mem
  have_ : List (Nat × Nat)
  deriving DecidableEq, Repr

/-- HMAC_DRBG with SHA-256 (R531). -/
structure Drbg where
  k : List Byte
  v : List Byte
  requests : Nat
  deriving DecidableEq, Repr

/-- The Root of Trust. -/
structure RotSt where
  rootPub : List Byte
  uds : List Byte
  revoked : BitVec 4
  cust : List CustKey
  imgs : List ImgType
  idPriv : Nat
  deviceId : Dword
  drbg : Drbg
  staging : Option Staging
  challenge : Option (List Byte)
  debugPending : Option Half
  unlockedFor : Option Half
  bootCount : Dword
  osUnverified : Bool
  recovery : Bool
  reply : List Byte
  replyStatus : Half
  smbusOut : List Byte
  certs : List (List Byte)
  siliconRev : Half
  released : Bool
  dcpReady : Bool
  deriving DecidableEq, Repr

/-! ## Power, black box, pins (R553 to R594) -/

/-- A black-box record (table *Black-box record*, R577); CRC is computed when it is laid out. -/
structure BbRec where
  type : Half
  severity : Byte
  unit : Byte
  status : Half
  index : Byte
  beat : Dword
  time : Dword
  bootCount : Word
  data : List Byte
  deriving DecidableEq, Repr

/-- The configuration store's keys (R580) that settings of this manual name. -/
structure ConfigStore where
  safetyDomain : Byte
  memMode : BitVec 2
  moduleId : BitVec 12
  capW : Nat
  retired : List Nat
  deriving DecidableEq, Repr

/-- The NOR as wear management sees it (R580 to R582): `stored` is what the newest valid records of the configuration store hold, `logBlock`
the erase block that takes the log's records, with `logUsed` bytes of them, `logSeq` the newest record's sequence number, `dayWrites`
the configuration writes of a day: day, count. -/
structure NorSt where
  erases : List (Nat × Nat)
  refreshBuf : Option Nat
  lastRefresh : Nat
  dayWrites : Nat × Nat
  stored : ConfigStore
  logBlock : Nat
  logUsed : Nat
  logSeq : Nat
  deriving DecidableEq, Repr

/-- Module power states (R557). -/
inductive PwrMode where
  | active | standby | sleep | off
  deriving DecidableEq, Repr

/-- The Power Manager (R583), the black box (R576) and PMBus. -/
structure PowerSt where
  mode : PwrMode
  wanted : Option PwrMode
  tempMax : Byte
  modelHigh : Bool
  thermLimit : Bool
  capClamped : Bool
  vinLow : Bool
  bankOk : Bool
  pinW : Half
  iin : Half
  vin : Half
  modelW : Half
  capErr : Bool
  effective : Half
  capW : Half
  thermalCap : Nat
  thermalOn : Bool
  highBeats : Nat
  computeResets : Half
  rstCause : Byte
  rstKind : BitVec 2
  refusedState : Bool
  statusCml : Bool
  statusInputBits : Byte
  statusTempBits : Byte
  statusOff : Bool
  pmbusOut : List Byte
  failing : Bool
  timeUs : Nat
  cfg : ConfigStore
  nor : NorSt
  deriving DecidableEq, Repr

/-- The black box (R575 to R578). -/
structure BbSt where
  mram : Mem
  window : List BbRec
  dropped : Nat
  commitSeq : Dword
  journalSeq : Dword
  faultSeq : Dword
  snapSlot : Byte
  snapSeq : Dword
  snapDone : Option Byte
  deriving DecidableEq, Repr

/-- J1 inputs and GPIO (R584, R594). -/
structure PinsSt where
  gpioIn : BitVec 4
  gpioOe : BitVec 4
  gpioOut : BitVec 4
  refclkHold : Bool
  deriving DecidableEq, Repr

/-- A unit's service (R29 to R36). -/
inductive Svc where
  | inService | moving | fenced | returning
  deriving DecidableEq, Repr

/-- The service records of the units, and the fences in progress (R31, R32, R607). -/
structure UnitsSt where
  svc : List (UnitId × Svc)
  fences : List (UnitId × Nat × Bool)
  returns : List (UnitId × Bool × Bool)
  relayDue : Bool
  calStack : Nat
  calLink : Nat
  calCxl : Nat
  deriving DecidableEq, Repr

end Sys2Proof.Machine
end

