-- ==== Sys2Proof/Machine/State.lean ====
section
/-! DEFINITION. The state of the module, the reasons a step can stop, and the state after reset. -/

namespace Sys2Proof.Machine

/-- The whole module. Every field is plain data; `pending` is the queue of commands that wait (first in, first out). -/
structure State where
  beat : BeatSt
  plan : PlanSt
  clusters : List ClusterSt
  nmus : List NmuSt
  merges : List MergeSlot
  pages : PagesSt
  yard : YardSt
  mem : MemSt
  links : LinksSt
  audio : AudioSt
  ctrl : CtrlSt
  safe : SafeSt
  rot : RotSt
  power : PowerSt
  bb : BbSt
  pins : PinsSt
  units : UnitsSt
  freeCtr : Nat
  pending : List Instr
  deriving DecidableEq, Repr

/-- Reasons the module stops with a fault. -/
inductive Fault where
  /-- Raised by no meaning of this model: every event the spec describes ends in a next state. Safe. -/
  | stuck
  deriving DecidableEq, Repr

/-- Reasons a command has no meaning. -/
inductive Refusal where
  /-- Raised by an arm of `exec` whose command has no meaning in this model yet. Safe: the run stops. -/
  | notModelled (mnemonic : String)
  deriving DecidableEq, Repr

/-! ## Reset -/

/-- BEAT_CUR and BEAT_NEXT at reset (R44): P = 2 ms, BG = K = 100 µs, floor 50 ‰. -/
def BeatCfg.reset : BeatCfg := { bfloor := 0x032, kerf := 0x064, bg := 0x064, period := 0x020 }

/-- The Beat Sequencer at reset (R44). -/
def BeatSt.reset : BeatSt :=
  { holdMax := 4, beatOutEn := false, master := true, src := 0, enable := false, cur := .reset, next := .reset,
    applyAt := 0, number := 0, overrunCount := 0, deadlineMiss := false, syncLost := false, planMiss := false,
    overrun := false, cfgErr := false, holdover := false, locked := false, offsetPs := 0, tickTime := 0,
    refTime := none, qualified := false, misses := 0, missSet := false, ticked := false, fresh := true, nextTick := none, nextNumber := none, markerSeen := false,
    holdBeats := 0, armedHoldMax := none, beatOutEdges := 0, chainMaster := 0, chainModules := [],
    change := none, topo := none, answers := [], markersOut := [], part := .window, clock := 0, lastMark := none, rate := (1, 1) }

/-- No per-tick register value planned. -/
def PlanRegs.empty : PlanRegs :=
  { shares := [], outst := (64, 64, 64), split := (500, 300, 200), merges := [], links := [], modelW := 0, frees := [],
    cows := [], loads := [], standby := [], served := 0xFFFFFF }

/-- The planner with nothing admitted. -/
def PlanSt.reset : PlanSt :=
  { cur := [], curRegs := .empty, next := none, resvs := [], bwork := [], seq := 0, queueOf := [],
    incomplete := [], droppedUnits := [], safetyPrev := [], suspendedModels := [], carry := [], bgDue := [] }

/-- The array registers at reset (R155). -/
def ArrRegs.reset : ArrRegs :=
  { lastStatus := 0, poison := false, eccUe := false, domFault := false, stalled := false, curMode := 0,
    busy := false, lastTag := 0, count := 0, stall := 0 }

/-- The VE registers at reset (R185). -/
def VeRegs.reset : VeRegs :=
  { lastStatus := 0, var1Clamp := false, eccUe := false, domFault := false, stalled := false, nonfinite := false,
    busy := false, lastTag := 0, count := 0, stall := 0 }

/-- The Scan Unit registers at reset (R240). -/
def ScanRegs.reset : ScanRegs :=
  { lastStatus := 0, gone := false, eccUe := false, domFault := false, stalled := false, invalidRow := false,
    busy := false, lastTag := 0, count := 0, rows := 0, stall := 0 }

/-- An SFU bank that holds no set (R204). -/
def SfuBank.empty : SfuBank := { set := 0, valid := false, compat := false, image := [] }

/-- The SFU at reset (R204). -/
def SfuSt.reset : SfuSt :=
  { bankA := .empty, bankB := .empty, active := false, loading := false, loadErr := false, busy := false,
    loads := 0, switches := 0, arrived := [] }

/-- The positive infinity of FP32. -/
def posInf32 : Word := 0x7F800000

/-- The negative infinity of FP32. -/
def negInf32 : Word := 0xFF800000

/-- A row of the Reduction Unit that has received nothing: MAX −∞, MIN +∞, running maximum −∞ (R172, R177). -/
def RuRow.clear : RuRow :=
  { sum := [], sumsq := [], d2 := [], minV := posInf32, maxV := negInf32, smM := negInf32, smS := 0,
    markSum := false, markSq := false, markD2 := false, markSm := false }

/-- The Reduction Unit cleared: 512 rows (R171). -/
def RuSt.clear : RuSt :=
  { rows := List.replicate 512 .clear, nSum := 0, nSq := 0, nD2 := 0, nSm := 0, accSum := false, accSq := false,
    accD2 := false, accSm := false, fin := none, queue := [], running := none }

/-- An empty tile buffer. -/
def TileSt.empty : TileSt := { mem := [], arrived := false, held := false, draining := false }

/-- Mask register 0: all ones (R156). -/
def maskOnes : BitVec 2048 := BitVec.allOnes 2048

/-- The Vector Engine at reset: registers zero (log entry 3), mask 0 all ones. -/
def VeSt.reset : VeSt :=
  { v := List.replicate 16 (List.replicate 1024 0), m := maskOnes :: List.replicate 7 0,
    s := List.replicate 16 0, pc := 0, loops := [], imem := [], tiles := List.replicate 4 .empty, tileMap := 0,
    dom := 0, inStream := 0, outStream := 0, nextIn := 0, drains := [], tag := 0, status := 0, ru := .clear }

/-- A cluster at reset. -/
def ClusterSt.reset : ClusterSt :=
  { arr := .reset, veRegs := .reset, sfu := .reset, scan := .reset, ve := .reset, inb := [], outb := [],
    arrRun := none, scanRun := none, outUnit := [], outRows := [] }

/-- An NMU at reset (R270): shares 100, 300 and 600 ‰. -/
def NmuSt.reset : NmuSt :=
  { lastStatus := 0, cfgErr := false, spill := false, poison := false, eccUe := false, domFault := false,
    stalled := false, attBusy := false, gemvBusy := false, attTag := 0, gemvTag := 0, attCount := 0,
    gemvCount := 0, stall := 0, ifPm := 0x64, attPm := 0x12C, gemvPm := 0x258, act := [], actDom := [], scoreBuf := [],
    expTables := [], outb := [] }

/-- A pool before its first POOL_CONFIG (R275). -/
def PoolSt.unset : PoolSt := { size2M := 0, cxl2M := 0, admitPm := 50, evictPm := 80, runs := [], regions := [] }

/-- The page side at reset: no pool configured. -/
def PagesSt.reset : PagesSt :=
  { pools := List.replicate 16 .unset, sets := [], nodes := [], nextId := 0, pageHolds := 0, hashCollisions := 0, tokenHolds := 0 }

/-- A skid queue that holds nothing. -/
abbrev SkidQ.empty : SkidQ := { entries := [], late := [], pushSeq := 0, popSeq := 0 }
/-- A yarder at reset (R343): 64 outstanding transfers for each class. -/
def YarderSt.reset : YarderSt :=
  { lastStatus := 0, cfgErr := false, descErr := false, eccUe := false, domFault := false, stalled := false,
    skidFull := false, discard := false, lastTag := 0, count := 0, stall := 0, outB := 0x40, outI := 0x40,
    outD := 0x40, bytes := 0, ctxs := [], spent := [] }

/-- The yarders at reset (R343): 256 empty skid queues, shares 200, 300 and 500 ‰. -/
def YardSt.reset : YardSt :=
  { yards := List.replicate 32 .reset, splitErr := false, remotePm := 0xC8, writePm := 0x12C, readPm := 0x1F4,
    skids := List.replicate 256 .empty }

/-- MEM_ECC at reset (R376). -/
def EccReg.reset : EccReg := { ce := 0, ue := 0, ueSeen := false }

/-- CXL_STATUS of a port that is down (R376). -/
def CxlReg.down : CxlReg := { cap2M := 0, poison := false, latFail := false, rate := 0, width := 0, up := false }

/-- Memory at reset: nothing listed, region tags 0 (R366), 4 window ways (R376), domain 0 alone through every link. -/
def MemSt.reset : MemSt :=
  { dev := [], poisoned := [], tags := [], lastDom := [], lines := [], winWays := 4, winNext := none,
    lcCfgErr := false, memMode := 0, ecc := List.replicate 32 .reset, ceLog := [], violValid := false,
    violCount := 0, violDom := 0, violKind := 0, violWrite := false, violCfgErr := false, violPoint := 0,
    violAddr := 0, refusals := [], cxl := List.replicate 4 .down, linkDom := List.replicate 24 1, carve := [],
    runs := [], held := [], scrubPos := [] }

/-- A Dwevy link at reset (R417). -/
def LinkSt.reset : LinkSt :=
  { peerId := 0xFFF, orphan := false, peerFail := false, laneFail := false, corrupt := false, authFail := false,
    replay := false, training := false, keyed := false, up := false, enable := false, oneWay := 0, naks := 0,
    authFails := 0, corruptBlocks := 0, fecUncorr := 0, txSeq := [0, 0], txEpoch := [0, 0], txWrap := [false, false], rxSeq := [0, 0],
    rxEpoch := [0, 0], sent := [], egress := [], txPend := [], rowBuf := [], lastTx := 0, ingress := [], streams := [], naksBeat := 0,
    tagFailed := none, sinceAck := 0, nonce := [], ephPriv := 0, helloOut := [], peerHello := none, prk := [],
    keyedSent := false, keyedGot := false, delayT1 := 0, wire := [] }

/-- The links at reset: module identity unassigned (R417). -/
def LinksSt.reset : LinksSt :=
  { links := List.replicate 24 .reset, moduleId := 0xFFF, routes := [], planRoutes := none, reads := [], dones := [], sentReqs := 0 }

/-- A serial audio port at reset (R454). -/
def SapSt.reset : SapSt :=
  { group := 0, mclkEn := false, bclkInv := false, dataDelay := true, i2s := true, slots := 2, rate := 8,
    slotW := 1, sampleW := 1, master := true, enable := false, slips := 0, cfgErr := false, clkLost := false,
    underrun := false, overrun := false, slip := false, rearmed := false, running := false, rx := [], tx := [],
    pins := [], slipBeats := [], slippedAt := 0, rejoinDue := false, primed := false, acc := 0 }

/-- A PDM clock at reset (R454). -/
def PdmSt.reset : PdmSt :=
  { clk := 2, dec128 := false, group := 0, enable := false, running := false, bits := [] }

/-- An audio PLL at reset (R454). -/
def PllSt.reset : PllSt :=
  { adj := 0, ip := 0, hold := false, limit := false, family := false, slave := false, locked := false,
    enabled := false }

/-- A port group that no message has configured. -/
def GroupSt.none : GroupSt :=
  { exists_ := false, pll := 0, slave := false, trigIn := false, saps := 0, pdms := 0, refSap := 0,
    armedFrom := Option.none, armMsg := Option.none, trigAt := Option.none, running := false, frame := 0 }

/-- The Audio Front End at reset (R454). -/
def AudioSt.reset : AudioSt :=
  { trigCount := 0, short := false, domFault := false, badSamp := false, zcTimeout := false, busy := false,
    chans := [], saps := List.replicate 4 .reset, pdms := List.replicate 4 .reset, plls := List.replicate 2 .reset,
    groups := List.replicate 16 .none }

/-- The control block of a client index that is not bound (R469). -/
def CtrlBlock.unbound : CtrlBlock :=
  { msiAddr := 0, enTelem := false, enToken := false, enDone := false, msiData := 0, wrDrop := false, telem := false,
    token := false, doneBits := 0, bound := false, domain := 0, handle := 0 }

/-- An index pool from which nothing has been issued. -/
def KindPool.fresh0 : KindPool := { fresh := 0, gens := [], held := [], freed := [] }

/-- A tally of zeros (R71). -/
def Tally.zero : Tally :=
  { beat := 0, waitTotal := 0, waitMax := 0, preempt := 0, refusedBeat := 0, waitCum := 0, preemptCum := 0,
    liveWait := 0, liveMax := 0, livePreempt := 0, liveRefused := 0 }

/-- The DCP's control side at reset: the system client at index 0, domain 1, handle 0x7001_0000 (R471). -/
def CtrlSt.reset : CtrlSt :=
  { blocks := [(0, { CtrlBlock.unbound with bound := true, domain := 1, handle := 0x70010000 })], boxes := [],
    pend := [],
    kinds := [.fresh0, .fresh0, .fresh0, .fresh0, .fresh0, .fresh0, .fresh0,
      { fresh := 1, gens := [(0, 1)], held := [0], freed := [] }, .fresh0],
    models := [], tsets := [], objs := [], sessions := [], slots := [], telems := [], tallies := [(0, .zero)],
    closingClients := [], irqs := [] }

/-- The Safety Monitor at reset (R530): the hold asserted with CAUSE 0x0C, no slot. -/
def SafeSt.reset : SafeSt :=
  { holds := 0, foreign := 0, swRun := 0, outFail := false, pulse := false, hb := false, bLvl := false,
    aLvl := false, tickLost := false, resetActive := false, hold := true, causeBeat := 0, cause := 0x0C, causeUnit := 0,
    causeIndex := 0, causeSlot := 0xFF, safetyDomain := 0xFF, blazePasses := 0, blazeFails := 0, blazeUnit := 0,
    blazeMismatch := false, blazeLate := false, deferrals := 0, latent := 0, testFail := false,
    latentSeen := false, lastPass := [], failedTests := [], blazed := [], blazeBoot := 0, servedSafety := [], refclkOk := true,
    ackLow := 0 }

/-- An image type with nothing in either slot. -/
def ImgType.none : ImgType :=
  { slotA := Option.none, slotB := Option.none, active := false, running := false, pending := false, trial := false,
    committedSvn := 0, fused := 0, measured := 0, runSvn := 0, runKey := 0 }

/-- The Root of Trust before any power-up: no images, fuses unblown, the part's own secrets free (log entry 5). -/
def RotSt.reset : RotSt :=
  { rootPub := Config.rootPub, uds := Config.uds, revoked := 0,
    cust := List.replicate 2 { hash := Option.none, revoked := false }, imgs := List.replicate 6 .none,
    idPriv := Config.idPriv, deviceId := Config.deviceId,
    drbg := { k := Config.seedBytes 0, v := Config.seedBytes 1, requests := 1 },
    staging := Option.none, challenge := Option.none, debugPending := Option.none, unlockedFor := Option.none,
    bootCount := 1, osUnverified := false, recovery := false, reply := [], replyStatus := 0, smbusOut := [],
    certs := Config.certs, siliconRev := Config.siliconRev, released := true, dcpReady := true }

/-- The configuration store with every key at its default (R580). -/
def ConfigStore.reset : ConfigStore :=
  { safetyDomain := 0xFF, memMode := 0, moduleId := 0xFFF, capW := 2400, retired := [] }

/-- The Power Manager at reset (R583): hold-up bank charged, 2,400 W effective. -/
def PowerSt.reset : PowerSt :=
  { mode := .active, wanted := none, tempMax := 0, modelHigh := false, thermLimit := false, capClamped := false,
    vinLow := false, bankOk := true, pinW := 0, iin := 0, vin := 0, modelW := 0, capErr := false,
    effective := 0x960, capW := 2400, thermalCap := 2400, thermalOn := false, highBeats := 0, computeResets := 0,
    rstCause := 1, rstKind := 0, refusedState := false, statusCml := false, statusInputBits := 0,
    statusTempBits := 0, statusOff := false, pmbusOut := [], failing := false, timeUs := 0,
    cfg := .reset, nor := { erases := [], refreshBuf := none, lastRefresh := 0, dayWrites := (0, 0), stored := .reset, logBlock := 3008, logUsed := 4096, logSeq := 1 } }

/-- The black box as first powered: MRAM with nothing written. -/
def BbSt.reset : BbSt :=
  { mram := [], window := [], dropped := 0, commitSeq := 0, journalSeq := 0, faultSeq := 0, snapSlot := 0xFF,
    snapSeq := 0, snapDone := none }

/-- J1's inputs and GPIO at reset: all four GPIO are inputs (R594). -/
def PinsSt.reset : PinsSt :=
  { gpioIn := 0, gpioOe := 0, gpioOut := 0, refclkHold := false }

/-- Every unit in service (R29). -/
def UnitsSt.reset : UnitsSt :=
  { svc := [], fences := [], returns := [], relayDue := false, calStack := 0, calLink := 0, calCxl := 0 }

/-- THE MACHINE RIGHT AFTER RESET. -/
def State.reset : State :=
  { beat := .reset, plan := .reset, clusters := List.replicate 8 .reset, nmus := List.replicate 16 .reset,
    merges := [], pages := .reset, yard := .reset, mem := .reset, links := .reset, audio := .reset, ctrl := .reset,
    safe := .reset, rot := .reset, power := .reset, bb := .reset, pins := .reset, units := .reset, freeCtr := 0,
    pending := [] }

end Sys2Proof.Machine
end

