-- ==== Sys2Proof/Machine/Ops.lean ====
section
/-! DEFINITION. The named operations over bytes, memory and the parts of the state. -/

namespace Sys2Proof.Machine

/-! ## Status codes (table *Status codes*, R14) -/

abbrev stOk : Half := 0x0000
abbrev stPending : Half := 0x0001
abbrev stBadHandle : Half := 0x0010
abbrev stBadLength : Half := 0x0011
abbrev stBadFormat : Half := 0x0012
abbrev stRefusedPages : Half := 0x0020
abbrev stRefusedBeat : Half := 0x0021
abbrev stRefusedDomain : Half := 0x0022
abbrev stPagesExhausted : Half := 0x0030
abbrev stStateGone : Half := 0x0031
abbrev stBlockCorrupt : Half := 0x0040
abbrev stDomainFault : Half := 0x0041
abbrev stFenced : Half := 0x0042
abbrev stIntegrityFail : Half := 0x0043
abbrev stBeatOverrun : Half := 0x0044
abbrev stTimeout : Half := 0x0050
abbrev stInternal : Half := 0x00FF
/-- A status that an engine, a copy or another module reports: one of table *Status codes* that a completion can carry; any other value
is returned as INTERNAL (R14; DESIGN CHOICE, log entry 154). -/
def tableStatus (st : Half) : Half :=
  if [stOk, stBadHandle, stBadLength, stBadFormat, stRefusedPages, stRefusedBeat, stRefusedDomain, stPagesExhausted, stStateGone, stBlockCorrupt,
      stDomainFault, stFenced, stIntegrityFail, stBeatOverrun, stTimeout, stInternal].contains st then st else stInternal

/-! ## Bytes and bits -/

/-- The number a little-endian byte list spells (R3). -/
def leNat : List Byte → Nat
  | [] => 0
  | b :: bs => b.toNat + 256 * leNat bs

/-- The low `n` bytes of a number, little-endian (R3). -/
def natLe : Nat → Nat → List Byte
  | 0, _ => []
  | n + 1, v => BitVec.ofNat 8 v :: natLe n (v / 256)

/-- The field of `n` bytes at byte offset `off` of a record; bytes past its end read 0. -/
def fld (w : List Byte) (off n : Nat) : Nat := leNat ((w.drop off).take n)

/-- Bits [lo + n − 1 : lo] of a number. -/
def bitsOf (v lo n : Nat) : Nat := v / 2 ^ lo % 2 ^ n

/-- A Bool as a number. -/
def b2n (b : Bool) : Nat := if b then 1 else 0

/-- A number's low 32 bits read as a two's complement integer. -/
def sInt (bits v : Nat) : Int := if v % 2 ^ bits < 2 ^ (bits - 1) then (v % 2 ^ bits : Nat) else (v % 2 ^ bits : Nat) - (2 ^ bits : Nat)

/-- `n` zero bytes. -/
def zeros (n : Nat) : List Byte := List.replicate n 0

/-- Exactly `n` bytes: cut, or filled up with zeros. -/
def fit (n : Nat) (l : List Byte) : List Byte := (l ++ zeros n).take n
/-- A record with the bytes from an offset on replaced. -/
def putBytes (w : List Byte) (off : Nat) (b : List Byte) : List Byte := w.take off ++ b ++ w.drop (off + b.length)
/-- A record whose field of two bytes at an offset holds a local index, with the number of that index in its place. -/
def putIndex (tab : List (Nat × Nat)) (w : List Byte) (off : Nat) : List Byte :=
  match tab.find? (fun p => decide (p.1 = fld w off 2)) with
  | some p => putBytes w off (natLe 2 p.2)
  | none => w
/-- Numbers below a limit for local indices (R308), none of them taken: the index itself where it is free, else the lowest free one;
an index for which none is left gets the limit. -/
def assignNums (limit : Nat) : List Nat → List Nat → List (Nat × Nat)
  | [], _ => []
  | i :: r, taken =>
    let n := if i < limit ∧ taken.contains i = false then i
      else ((List.range limit).find? (fun n => !taken.contains n)).getD limit
    (i, n) :: assignNums limit r (n :: taken)

/-- All bytes of a range are zero. -/
def allZero (w : List Byte) (off n : Nat) : Bool := ((w.drop off).take n).all (· == 0)

/-- Words from bytes, four bytes each, little-endian; a ragged end is dropped. -/
def wordsOf : List Byte → List Word
  | a :: b :: c :: d :: rest => BitVec.ofNat 32 (leNat [a, b, c, d]) :: wordsOf rest
  | _ => []

/-- Half words from bytes, little-endian; a ragged end is dropped. -/
def halvesOf : List Byte → List Half
  | a :: b :: rest => BitVec.ofNat 16 (leNat [a, b]) :: halvesOf rest
  | _ => []

/-- The bytes of words, little-endian. -/
def bytesOfWords (l : List Word) : List Byte := l.flatMap (fun w => natLe 4 w.toNat)

/-- The bytes of half words, little-endian. -/
def bytesOfHalves (l : List Half) : List Byte := l.flatMap (fun w => natLe 2 w.toNat)

/-- A saturating count in `n` bits. -/
def satInc {n : Nat} (v : BitVec n) : BitVec n := if v = BitVec.allOnes n then v else v + 1

/-- A sum that saturates in `n` bits. -/
def satAdd {n : Nat} (v : BitVec n) (d : Nat) : BitVec n := BitVec.ofNat n (min (v.toNat + d) (2 ^ n - 1))

/-- Write-one-to-clear: a bit of the value written clears the flag. -/
def w1c (flag : Bool) (v : Nat) (i : Nat) : Bool := flag && !v.testBit i

/-- The smallest natural number at or above `a / b`. -/
def cdiv (a b : Nat) : Nat := (a + b - 1) / b

/-! ## Lists keyed by a number or a name -/

/-- The value kept for a key. -/
def kget {α β : Type} [DecidableEq α] (l : List (α × β)) (k : α) : Option β :=
  match l with
  | [] => none
  | (a, b) :: r => if a = k then some b else kget r k

/-- The list with a key's value set, in its place, or added at the end. -/
def kset {α β : Type} [DecidableEq α] (l : List (α × β)) (k : α) (v : β) : List (α × β) :=
  match l with
  | [] => [(k, v)]
  | (a, b) :: r => if a = k then (k, v) :: r else (a, b) :: kset r k v

/-- The list without a key. -/
def kdel {α β : Type} [DecidableEq α] (l : List (α × β)) (k : α) : List (α × β) := l.filter (fun p => decide (p.1 ≠ k))

/-- The list with one element changed where a test first holds. -/
def updFirst {α : Type} (l : List α) (p : α → Bool) (f : α → α) : List α :=
  match l with
  | [] => []
  | a :: r => if p a then f a :: r else a :: updFirst r p f

/-- The list with every element changed where a test holds. -/
def updAll {α : Type} (l : List α) (p : α → Bool) (f : α → α) : List α := l.map (fun a => if p a then f a else a)

/-- Insertion into a list kept in ascending order of a key. -/
def insertBy {α : Type} (key : α → Nat) (x : α) : List α → List α
  | [] => [x]
  | a :: r => if key a ≤ key x then a :: insertBy key x r else x :: a :: r

/-- A list in ascending order of a key, equal keys in their former order. -/
def sortBy {α : Type} (key : α → Nat) (l : List α) : List α := l.reverse.foldl (fun acc x => insertBy' key x acc) []
where
  /-- Insertion before the first element whose key is not smaller. -/
  insertBy' {α : Type} (key : α → Nat) (x : α) : List α → List α
    | [] => [x]
    | a :: r => if key x ≤ key a then x :: a :: r else a :: insertBy' key x r

/-! ## Memory -/

namespace MemOps

/-- One byte; a byte that nothing lists reads 0 (log entry 2). -/
def read : Mem → Nat → Byte
  | [], _ => 0
  | (a, b) :: m, x => if a = x then b else if x < a then 0 else read m x

/-- Write one byte; the list stays in its canonical form. -/
def write : Mem → Nat → Byte → Mem
  | [], x, v => if v = 0 then [] else [(x, v)]
  | (a, b) :: m, x, v =>
    if a < x then (a, b) :: write m x v
    else if a = x then (if v = 0 then m else (x, v) :: m)
    else if v = 0 then (a, b) :: m
    else (x, v) :: (a, b) :: m

/-- `n` bytes from an address on. -/
def readN (m : Mem) (a : Nat) : Nat → List Byte
  | 0 => []
  | n + 1 => read m a :: readN m (a + 1) n

/-- Write bytes from an address on. -/
def writeN (m : Mem) (a : Nat) : List Byte → Mem
  | [] => m
  | b :: bs => writeN (write m a b) (a + 1) bs

/-- Set `n` bytes from an address on to 0. -/
def clear (m : Mem) (a n : Nat) : Mem := m.filter (fun c => decide (¬ (a ≤ c.1 ∧ c.1 < a + n)))

/-- Copy `n` bytes from `src` in one store to `dst` in another, the source read whole first. -/
def copy (from_ : Mem) (m : Mem) (src dst n : Nat) : Mem :=
  (from_.filter (fun c => decide (src ≤ c.1 ∧ c.1 < src + n))).foldl (fun acc c => write acc (dst + (c.1 - src)) c.2)
    (clear m dst n)

/-- The canonical form: addresses strictly rising from `lo` on, no byte 0 listed. -/
def wfFrom : Nat → Mem → Bool
  | _, [] => true
  | lo, (a, b) :: m => decide (lo ≤ a) && decide (b ≠ 0) && wfFrom (a + 1) m

end MemOps

/-- The canonical form of a store of bytes. -/
def Memory.wf (m : Mem) : Bool := MemOps.wfFrom 0 m

/-! ## The parts of the state -/

/-- The state with its Beat Sequencer changed. -/
def State.onBeat (f : BeatSt → BeatSt) (s : State) : State := { s with beat := f s.beat }
/-- The state with its planner changed. -/
def State.onPlan (f : PlanSt → PlanSt) (s : State) : State := { s with plan := f s.plan }
/-- The state with its clusters changed. -/
def State.onClusters (f : List ClusterSt → List ClusterSt) (s : State) : State := { s with clusters := f s.clusters }
/-- The state with its NMUs changed. -/
def State.onNmus (f : List NmuSt → List NmuSt) (s : State) : State := { s with nmus := f s.nmus }
/-- The state with its merge slots changed. -/
def State.onMerges (f : List MergeSlot → List MergeSlot) (s : State) : State := { s with merges := f s.merges }
/-- The state with its pages changed. -/
def State.onPages (f : PagesSt → PagesSt) (s : State) : State := { s with pages := f s.pages }
/-- The state with its yarders changed. -/
def State.onYard (f : YardSt → YardSt) (s : State) : State := { s with yard := f s.yard }
/-- The state with its memory changed. -/
def State.onMem (f : MemSt → MemSt) (s : State) : State := { s with mem := f s.mem }
/-- The state with its links changed. -/
def State.onLinks (f : LinksSt → LinksSt) (s : State) : State := { s with links := f s.links }
/-- The state with its AFE changed. -/
def State.onAudio (f : AudioSt → AudioSt) (s : State) : State := { s with audio := f s.audio }
/-- The state with its control side changed. -/
def State.onCtrl (f : CtrlSt → CtrlSt) (s : State) : State := { s with ctrl := f s.ctrl }
/-- The state with its Safety Monitor changed. -/
def State.onSafe (f : SafeSt → SafeSt) (s : State) : State := { s with safe := f s.safe }
/-- The state with its Root of Trust changed. -/
def State.onRot (f : RotSt → RotSt) (s : State) : State := { s with rot := f s.rot }
/-- The state with its Power Manager changed. -/
def State.onPower (f : PowerSt → PowerSt) (s : State) : State := { s with power := f s.power }
/-- The state with its black box changed. -/
def State.onBb (f : BbSt → BbSt) (s : State) : State := { s with bb := f s.bb }
/-- The state with its pins changed. -/
def State.onPins (f : PinsSt → PinsSt) (s : State) : State := { s with pins := f s.pins }
/-- The state with its unit records changed. -/
def State.onUnits (f : UnitsSt → UnitsSt) (s : State) : State := { s with units := f s.units }

/-- Cluster `c`; a number past the last names no cluster and reads as one after reset. -/
def State.cluster (s : State) (c : Nat) : ClusterSt := s.clusters.getD c .reset
/-- The state with cluster `c` changed; a number that names no cluster changes nothing. -/
def State.onCluster (c : Nat) (f : ClusterSt → ClusterSt) (s : State) : State := s.onClusters (fun l => l.modify c f)
/-- NMU `i`; a number past the last names no NMU and reads as one after reset. -/
def State.nmu (s : State) (i : Nat) : NmuSt := s.nmus.getD i .reset
/-- The state with NMU `i` changed; a number that names no NMU changes nothing. -/
def State.onNmu (i : Nat) (f : NmuSt → NmuSt) (s : State) : State := s.onNmus (fun l => l.modify i f)
/-- Yarder `y`; a number past the last names no yarder and reads as one after reset. -/
def State.yarder (s : State) (y : Nat) : YarderSt := s.yard.yards.getD y .reset
/-- The state with yarder `y` changed; a number that names no yarder changes nothing. -/
def State.onYarder (y : Nat) (f : YarderSt → YarderSt) (s : State) : State :=
  s.onYard (fun k => { k with yards := k.yards.modify y f })
/-- Link `l`; a number past the last names no link and reads as one after reset. -/
def State.link (s : State) (l : Nat) : LinkSt := s.links.links.getD l .reset
/-- The state with link `l` changed; a number that names no link changes nothing. -/
def State.onLink (l : Nat) (f : LinkSt → LinkSt) (s : State) : State :=
  s.onLinks (fun k => { k with links := k.links.modify l f })
/-- The state with device memory changed. -/
def State.onDev (f : Mem → Mem) (s : State) : State := s.onMem (fun m => { m with dev := f m.dev })

/-- The next free value the spec leaves open, and the state that has used it. -/
def State.free (s : State) : BitVec 64 × State := (Config.freeWord s.freeCtr, { s with freeCtr := s.freeCtr + 1 })

/-! ## Units in service (R29 to R36) -/

/-- Where a unit's service stands; a unit that no record names is in service. -/
def State.svc (s : State) (u : UnitId) : Svc := (kget s.units.svc u).getD .inService
/-- The unit is in service. -/
def State.inSvc (s : State) (u : UnitId) : Bool := s.svc u == .inService
/-- The unit still takes part in plans: one whose fence has only been asked for serves to the beat before it takes effect (R31). -/
def State.serves (s : State) (u : UnitId) : Bool := s.svc u == .inService || s.svc u == .moving
/-- The unit of a position of the rotation (R502). -/
def blazeUnitOf (r : Nat) : UnitId := if r < 8 then ⟨.cluster, r⟩ else ⟨.nmu, r - 8⟩
/-- The next frame of the power-on sequence (R507): every serving unit in the rotation's order, each with all four golden sets; frame
`k` is that of unit `k / 4` with set `k % 4`. -/
def State.bootFrame (s : State) : Option Nat :=
  (List.range 96).find? (fun k => decide (s.safe.blazeBoot ≤ k) && s.serves (blazeUnitOf (k / 4)))
/-- The frames of the power-on sequence behind the machine once the next one has run. -/
def State.bootNext (s : State) : Nat := match s.bootFrame with
  | some k => k + 1
  | none => s.safe.blazeBoot
/-- The place in the rotation and the golden set of the next frame: the power-on sequence's (R507), then the beat's (R502). -/
def State.blazeSlot (s : State) : Nat × Nat := match s.bootFrame with
  | some k => (k / 4, k % 4)
  | none => (s.beat.number.toNat % 24, s.beat.number.toNat / 24 % 4)
/-- The state with a unit's service recorded. -/
def State.setSvc (u : UnitId) (v : Svc) (s : State) : State := s.onUnits (fun k => { k with svc := kset k.svc u v })
/-- How many units of a kind the module has (table *Fence units*). -/
def unitCount : UnitKind → Nat
  | .cluster => 8 | .nmu => 16 | .link => 24 | .cxl => 4 | .sap => 4 | .pdm => 8
/-- The UNIT code of a kind (table *Fence units*). -/
def unitCode : UnitKind → Nat
  | .cluster => 1 | .nmu => 2 | .link => 3 | .cxl => 4 | .sap => 5 | .pdm => 6
/-- The kind of a UNIT code; the other codes are reserved. -/
def unitOfCode : Nat → Option UnitKind
  | 1 => some .cluster | 2 => some .nmu | 3 => some .link | 4 => some .cxl | 5 => some .sap | 6 => some .pdm
  | _ => none
/-- The mask of the units of a kind that are in service. -/
def State.svcMask (s : State) (k : UnitKind) : Nat :=
  (List.range (unitCount k)).foldl (fun m i => if s.inSvc ⟨k, i⟩ then m + 2 ^ i else m) 0
/-- The units of a kind in service, ascending. -/
def State.svcList (s : State) (k : UnitKind) : List Nat := (List.range (unitCount k)).filter (fun i => s.inSvc ⟨k, i⟩)
/-- The fenceable unit that an engine belongs to; a yarder is none (R29, R30). -/
def engineUnit : Engine → Option UnitId
  | .cluster c => some ⟨.cluster, c⟩ | .gemv i => some ⟨.nmu, i⟩ | .att i => some ⟨.nmu, i⟩ | .yarder _ => none
/-- The application cores run: their mailbox window takes writes (R557). -/
def State.coresUp (s : State) : Bool := s.rot.dcpReady && (s.power.mode == .active || s.power.mode == .standby)

/-! ## Records for the black box and the clients -/

/-- A black-box record joins the open window (R576). -/
def bbAdd (type sev unit idx : Nat) (status : Half) (data : List Byte) (s : State) : State :=
  s.onBb (fun b => { b with window := b.window ++ [
    { type := BitVec.ofNat 16 type, severity := BitVec.ofNat 8 sev, unit := BitVec.ofNat 8 unit, status := status,
      index := BitVec.ofNat 8 idx, beat := if s.beat.ticked then s.beat.number else 0,
      time := BitVec.ofNat 64 s.power.timeUs, bootCount := BitVec.ofNat 32 s.rot.bootCount.toNat,
      data := fit 24 data }] })

/-- A telemetry record for a client, if its ring selects the type (R497). -/
def telemEvent (client type : Nat) (body : List Byte) (s : State) : State :=
  s.onCtrl (fun k => { k with
    telems := updAll k.telems (fun t => t.client == client && t.mask.toNat.testBit type)
      (fun t => { t with events := t.events ++ [(type, fit 48 body)] }) })

/-- The EVENT record of R499: an object lost, suspended or resumed without a request. -/
def eventRec (client : Nat) (h : Word) (st : Half) (s : State) : State :=
  telemEvent client 7 (natLe 4 h.toNat ++ natLe 2 st.toNat) s

/-! ## Handles (R7 to R11, R474 to R476) -/

/-- How many indices a kind has (table *Handle kinds*). -/
def kindMax : Nat → Nat
  | 1 => 8192 | 2 => 4096 | 3 => 65536 | 4 => 256 | 5 => 16 | 6 => 16 | 7 => 256 | 8 => 1024 | _ => 0
/-- The handle of an index at a generation (R7). -/
def mkHandle (kind idx gen : Nat) : Nat := kind % 16 * 2 ^ 28 + gen % 2 ^ 12 * 2 ^ 16 + idx % 2 ^ 16
/-- KIND of a handle. -/
def hKind (h : Nat) : Nat := bitsOf h 28 4
/-- GEN of a handle. -/
def hGen (h : Nat) : Nat := bitsOf h 16 12
/-- INDEX of a handle. -/
def hIdx (h : Nat) : Nat := bitsOf h 0 16
/-- The index pool of a kind. -/
def State.pool (s : State) (kind : Nat) : KindPool := s.ctrl.kinds.getD kind .fresh0
/-- The generation an index stands at; 0 before its first issue. -/
def State.genOf (s : State) (kind idx : Nat) : Nat := ((kget (s.pool kind).gens idx).getD 0).toNat
/-- The handle an index has now. -/
def State.handleOf (s : State) (kind idx : Nat) : Nat :=
  if kind = 5 then mkHandle 5 idx 1 else mkHandle kind idx (s.genOf kind idx)
/-- Planned commands that a command waits for. -/
def State.inputsOf (s : State) (c : PCmd) : List PCmd := s.plan.cur.filter (fun x => c.t.inputs.contains x.id)
/-- The planned command that runs on an engine. -/
def State.runningCmd (s : State) (e : Engine) : Option PCmd :=
  s.plan.cur.find? (fun c => c.t.engine == e && c.run == .running)
/-- The opcode of the planned command that runs on an engine; 0 where none runs. -/
def State.runningOp (s : State) (e : Engine) : Nat := match s.runningCmd e with | some c => fld c.t.word 0 1 | none => 0
/-- The handle of a model's table set (R192). -/
def State.setHandle (s : State) (model : Nat) : Option Word :=
  (s.ctrl.models.find? (·.idx == model)).map (fun m => BitVec.ofNat 32 (s.handleOf 8 m.tset))
/-- The handle of a model's table set in a beat: a switch holds from the beat of its tick on (R198). -/
def State.setHandleAt (s : State) (beat model : Nat) : Option Word :=
  (s.ctrl.models.find? (·.idx == model)).map (fun m => BitVec.ofNat 32 (s.handleOf 8 (match m.nextTset with
    | some n => if n.2 ≤ beat then n.1 else m.tset
    | none => m.tset)))
/-- The set that a planned cluster command of a beat needs: a VE program's and a Scan command's, by its model, whether or not it reads a
table (R192, R196; DESIGN CHOICE, log entry 176). -/
def State.setNeed (s : State) (beat : Nat) (c : PCmd) : Option Word :=
  match c.t.engine with
  | .cluster _ => if fld c.t.word 0 1 = 2 ∨ fld c.t.word 0 1 = 3 then s.setHandleAt beat c.model else none
  | _ => none
/-- The handle passes R11 for the kind a field requires, and its object is not retired (R475). -/
def State.hValid (s : State) (kind h : Nat) : Bool :=
  decide (h ≠ 0) && decide (hKind h = kind) && decide (hIdx h < kindMax kind) &&
  (if kind = 5 then decide (hGen h = 1)
   else decide (hGen h = s.genOf kind (hIdx h)) && (s.pool kind).held.contains (hIdx h))
/-- The generation after one more issue (R10). -/
def nextGen (g : Nat) : Nat := if g ≥ 0xFFF then 1 else g + 1
/-- The index that the next object of a kind takes (R476), if any can be issued. -/
def State.nextIdx (s : State) (kind : Nat) : Option Nat :=
  let p := s.pool kind
  if p.fresh < kindMax kind then some p.fresh
  else (p.freed.find? (fun e => decide (e.2 + 1024 ≤ s.beat.number.toNat))).map (·.1)
/-- Issue an index (R10, R476): it is held from now on and its generation rises by one. -/
def State.issue (kind idx : Nat) (s : State) : State :=
  s.onCtrl (fun k => { k with kinds := k.kinds.modify kind (fun p =>
    { fresh := if idx = p.fresh then p.fresh + 1 else p.fresh,
      gens := kset p.gens idx (BitVec.ofNat 12 (nextGen ((kget p.gens idx).getD 0).toNat)),
      held := p.held ++ [idx], freed := p.freed.filter (fun e => decide (e.1 ≠ idx)) }) })
/-- Retire an index (R474): it is free from this beat on, indices freed in one beat in ascending order. -/
def State.retire (kind idx : Nat) (s : State) : State :=
  s.onCtrl (fun k => { k with kinds := k.kinds.modify kind (fun p =>
    { p with held := p.held.filter (fun i => decide (i ≠ idx)),
             freed := insertBy (fun e => e.2 * 2 ^ 17 + e.1) (idx, s.beat.number.toNat) p.freed }) })

/-! ## The Safety Monitor's hold (R515, R516) -/

/-- A hold cause that lasts is present (R516): no ticks, a reset, a readback mismatch, no running slot, a slot with a
lost channel. -/
def State.causePresent (s : State) : Bool :=
  s.safe.tickLost || s.safe.resetActive || s.safe.outFail || s.safe.swRun == 0 ||
  s.ctrl.slots.any (fun k => k.running && k.paths.any (·.lost))
/-- The 64 bits of SAFE_CAUSE. -/
def SafeSt.causeWord (k : SafeSt) : Nat :=
  k.causeBeat.toNat * 2 ^ 32 + k.cause.toNat * 2 ^ 24 + k.causeUnit.toNat * 2 ^ 16 + k.causeIndex.toNat * 2 ^ 8 +
    k.causeSlot.toNat
/-- A cause asserts the latched hold (R515): both outputs low, the first cause since the last release kept, and fresh
clear verdicts asked of every path. -/
def assertHold (cause unit idx slot : Nat) (s : State) : State :=
  let s1 := s.onCtrl (fun k => { k with slots := k.slots.map (fun w =>
    { w with paths := w.paths.map (fun p => { p with clearSinceHold := false }) }) })
  if s1.safe.hold then s1
  else
    let s2 := s1.onSafe (fun k => { k with
      hold := true, holds := satInc k.holds, aLvl := false, bLvl := false,
      pulse := false, causeBeat := BitVec.ofNat 32 s.beat.number.toNat, cause := BitVec.ofNat 8 cause,
      causeUnit := BitVec.ofNat 8 unit, causeIndex := BitVec.ofNat 8 idx, causeSlot := BitVec.ofNat 8 slot })
    bbAdd 0x22 3 unit idx stOk (natLe 8 s2.safe.causeWord) s2

/-! ## Mailboxes (R460 to R469) -/

/-- The control block of a client index. -/
def State.block (s : State) (c : Nat) : CtrlBlock := (kget s.ctrl.blocks c).getD .unbound
/-- The state with a control block changed. -/
def State.onBlock (c : Nat) (f : CtrlBlock → CtrlBlock) (s : State) : State :=
  s.onCtrl (fun k => { k with blocks := kset k.blocks c (f ((kget k.blocks c).getD .unbound)) })
/-- The domain a client is bound to (R13). -/
def State.domainOf (s : State) (c : Nat) : Nat := (s.block c).domain.toNat
/-- An interrupt of a client: DATA written to ADDR, if its enable bit is 1 (R469). -/
def raiseIrq (c : Nat) (en : CtrlBlock → Bool) (kind : Nat) (s : State) : State :=
  let b := s.block c
  if en b then s.onCtrl (fun k => { k with
    irqs := k.irqs ++ [{ addr := b.msiAddr.toNat * 4, data := b.msiData.toNat, kind := kind }] })
  else s
/-- The mailbox of a client. -/
def State.box (s : State) (c m : Nat) : Option Mailbox := s.ctrl.boxes.find? (fun b => b.client == c && b.mbox == m)
/-- The state with a mailbox changed. -/
def State.onBox (c m : Nat) (f : Mailbox → Mailbox) (s : State) : State :=
  s.onCtrl (fun k => { k with boxes := updFirst k.boxes (fun b => b.client == c && b.mbox == m) f })
/-- A completion sets the DONE bit and writes the interrupt (R465, R469). -/
def signalDone (c m : Nat) (s : State) : State :=
  raiseIrq c (·.enDone) 0 (s.onBlock c (fun b => { b with doneBits := b.doneBits ||| BitVec.ofNat 16 (2 ^ m) }))
/-- A final completion (R465): reply, RLEN, STATUS and DONE_BEAT, then OWN, DONE and the interrupt. -/
def complete (c m : Nat) (st : Half) (reply : List Byte) (s : State) : State :=
  let s1 := s.onBox c m (fun b =>
    { b with status := st, own := false, doneBeat := s.beat.number,
             rlen := if st = stOk then reply.length else 0,
             payload := if st = stOk then reply ++ b.payload.drop reply.length else b.payload })
  let s2 := s1.onCtrl (fun k => { k with pend := k.pend.filter (fun p => !(p.client == c && p.mbox == m)) })
  let s3 := if st = stRefusedBeat then s2.onCtrl (fun k => { k with
    tallies := updAll k.tallies (fun p => p.1 == c)
      (fun p => (p.1, { p.2 with liveRefused := p.2.liveRefused + 1 })) }) else s2
  signalDone c m s3
/-- A mailbox is the DCP's. -/
def State.boxOwned (s : State) (c m : Nat) : Bool := ((s.box c m).map (·.own)).getD false
/-- Complete a message that still waits. -/
def completeOwned (c m : Nat) (st : Half) (reply : List Byte) (s : State) : State :=
  if s.boxOwned c m then complete c m st reply s else s
/-- An interim completion (R465): STATUS is PENDING, OWN stays. -/
def interim (c m : Nat) (s : State) : State := signalDone c m (s.onBox c m (fun b => { b with status := stPending }))

/-- What the checks and the effect of a message answer. -/
inductive Reply where
  /-- The final completion at once, with its status and, for OK, its reply payload. -/
  | done (st : Half) (reply : List Byte)
  /-- The interim completion; what the final one waits for is recorded. -/
  | pending (w : PendMsg)

/-- Configuration writes of a day (R582). -/
abbrev dayMost : Nat := 1000
/-- Erases of a block so far. -/
def NorSt.erasesOf (n : NorSt) (b : Nat) : Nat := (kget n.erases b).getD 0
/-- A block erased once more. -/
def NorSt.eraseAt (n : NorSt) (b : Nat) : NorSt := { n with erases := kset n.erases b (n.erasesOf b + 1) }
/-- The free block of the configuration store with the fewest erases, the lowest of several (R580). -/
def NorSt.fewest (n : NorSt) : Nat :=
  ((List.range 1088).map (3008 + ·)).foldl (fun (b i : Nat) =>
    if i ≠ n.logBlock ∧ (b = n.logBlock ∨ n.erasesOf i < n.erasesOf b) then i else b) n.logBlock
/-- Bytes of a record of the configuration store (the note of R582). -/
def recordBytes : Nat := 4096
/-- A record joins the log, complete or not at all. A block without room is compacted first: its live record goes to a fresh block, and
only then the old one is erased (R580; DESIGN CHOICE, log entry 158). -/
def NorSt.append (v : ConfigStore) (n : NorSt) : NorSt :=
  let m := if n.logUsed + recordBytes ≤ 65536 then { n with logUsed := n.logUsed + recordBytes }
    else { n.eraseAt n.logBlock with logBlock := n.fewest, logUsed := 2 * recordBytes }
  { m with stored := v, logSeq := n.logSeq + 1 }
/-- The DCP's settings written to the configuration store; after the writes that a day allows they wait for the next day (R582; DESIGN
CHOICE, log entry 158). -/
def saveCfg (p : PowerSt) : PowerSt :=
  let day := p.timeUs / 86400000000
  let n := if p.nor.dayWrites.1 = day then p.nor.dayWrites.2 else 0
  if n < dayMost then { p with nor := { p.nor.append p.cfg with dayWrites := (day, n + 1) } } else p
/-- The first failing check of a list in the order of R56. -/
def firstFail : List (Bool × Half) → Option Half
  | [] => none
  | (ok, st) :: r => if ok then firstFail r else some st

/-- The header of R466 in a message: reserved OWN bits, reserved bytes, REF_SPACE, a reference where none is taken,
then the payload length. -/
def headerFail (plen : Option Nat) (ref : Bool) (m : Msg) : Option Half :=
  firstFail [(decide (m.ownWord = 1) && decide (m.rsvd1D = 0) && decide (m.rsvd30 = 0) && decide (m.refSpace.toNat ≤ 1) &&
      (ref || decide (m.refAddr = 0)), stBadFormat),
    (decide (m.plen ≤ 4032) && (match plen with | none => true | some n => decide (m.plen = n)), stBadLength)]

/-- A message's way through its mailbox (R456 to R466): a mailbox the DCP owns ignores the write and sets WR_DROP; an
unbound page completes with BAD_HANDLE before every other check; then the header; then the message's own checks and
effect. -/
def withMsg (op : Nat) (plen : Option Nat) (ref : Bool) (m : Msg) (body : State → State × Reply) (s : State) : State :=
  if !s.coresUp then s
  else if ((s.box m.client m.mbox).map (·.own)).getD false then s.onBlock m.client (fun b => { b with wrDrop := true })
  else
    let nb : Mailbox := {
      client := m.client, mbox := m.mbox, own := true, opcode := BitVec.ofNat 16 op,
      status := ((s.box m.client m.mbox).map (·.status)).getD 0, seq := m.seq, plen := m.plen,
      rlen := ((s.box m.client m.mbox).map (·.rlen)).getD 0, refAddr := m.refAddr, refLen := m.refLen, refSpace := m.refSpace,
      rsvd1D := m.rsvd1D, rsvd30 := m.rsvd30, accBeat := s.beat.number,
      doneBeat := ((s.box m.client m.mbox).map (·.doneBeat)).getD 0, payload := m.payload.take 4032 }
    let s1 := s.onCtrl (fun k => { k with
      boxes := k.boxes.filter (fun b => !(b.client == m.client && b.mbox == m.mbox)) ++ [nb] })
    if !(s1.block m.client).bound then complete m.client m.mbox stBadHandle [] s1
    else match headerFail plen ref m with
      | some st => complete m.client m.mbox st [] s1
      | none =>
        match body s1 with
        | (s2, .done st reply) => complete m.client m.mbox st reply s2
        | (s2, .pending w) => interim m.client m.mbox (s2.onCtrl (fun k => { k with pend := k.pend ++ [w] }))

/-- Checks in the order of R56, then the effect. -/
def checked (checks : List (Bool × Half)) (effect : State → State × Reply) (s : State) : State × Reply :=
  match firstFail checks with
  | some st => (s, .done st [])
  | none => effect s

/-- Two records of one piece of class B work. -/
def BWork.same (a b : BWork) : Bool := a.kind == b.kind && decide (a.client = b.client ∧ a.mbox = b.mbox ∧ a.obj = b.obj ∧ a.arg = b.arg)
/-- A copy of the DCP is one that a piece of class B work asks for. -/
def DcpCopy.isFor (p : BWork → Bool) : DcpCopy → Bool
  | .work b => p b
  | _ => false
/-- The execution window runs, and in it a part of a copy that a test names has started: what a plan does not hold moves no byte (R46, R60). -/
def State.copyRuns (s : State) (p : DcpCopy → Bool) : Bool :=
  s.beat.ticked && s.beat.part == .window && s.plan.cur.any (fun c => (c.run == .running || c.run == .done) && c.copy.any p)

end Sys2Proof.Machine
end

