-- ==== Sys2Proof/Machine/ArrayCalc.lean ====
section
/-! DEFINITION. What an array command computes (R123 to R145): its word, its checks, its tables, sums and outputs. -/

namespace Sys2Proof.Machine

/-! ## The command word (R138, R139) -/

/-- TOKENS. -/
def arrTokens (w : List Byte) : Nat := fld w 0x04 2
/-- SLICES. -/
def arrSlices (w : List Byte) : Nat := fld w 0x06 2
/-- BCOLS. -/
def arrBcols (w : List Byte) : Nat := fld w 0x08 2
/-- K_LAST. -/
def arrKLast (w : List Byte) : Nat := fld w 0x0A 2
/-- NVALID. -/
def arrNvalid (w : List Byte) : Nat := fld w 0x0C 2
/-- ARR_MODE. -/
def arrMode (w : List Byte) : Nat := bitsOf (fld w 1 1) 0 2
/-- TSCALE. -/
def arrTscale (w : List Byte) : Bool := (fld w 1 1).testBit 2
/-- OUT_FP32. -/
def arrOut32 (w : List Byte) : Bool := (fld w 1 1).testBit 3
/-- Outputs written per token: O_w of R152. -/
def arrOw (w : List Byte) : Nat := if arrMode w = 1 then 2 * arrNvalid w else arrNvalid w
/-- C_cmd of R152, in cluster cycles. -/
def arrCycles (w : List Byte) : Nat :=
  64 + arrSlices w * (512 + (if arrMode w = 1 then 2 else 1) * arrBcols w) + 20 +
    3 * cdiv (arrOw w * arrTokens w * (if arrOut32 w then 4 else 2)) 2048

/-- The checks of R141 that the word alone decides, in offset order (R143 repeats them at run time). -/
def arrWordFail (w : List Byte) : Option Half :=
  let m := arrMode w
  firstFail [
    (decide (fld w 0 1 = 1), stBadFormat),
    (decide (m ≠ 3) && decide (fld w 1 1 < 16), stBadFormat),
    (decide (fld w 2 1 < 64), stBadFormat),
    (decide (fld w 3 1 = 0), stBadFormat),
    (decide (arrTokens w ≤ 512), stBadLength),
    (decide (1 ≤ arrSlices w) && decide (arrSlices w ≤ 128), stBadLength),
    (decide (arrBcols w % 64 = 0), stBadFormat),
    (decide (arrBcols w ≤ if m = 2 then 4096 else 2048), stBadLength),
    (decide (1 ≤ arrKLast w) && decide (arrKLast w ≤ 512), stBadLength),
    (decide (arrNvalid w ≤ if m = 0 then 2 * arrBcols w else arrBcols w), stBadLength),
    (decide (fld w 0x0E 2 = 0), stBadFormat),
    (decide (fld w 0x16 2 = 0), stBadFormat),
    (decide (fld w 0x18 4 ≠ 0), stBadLength),
    (decide (768 + arrCycles w ≤ fld w 0x18 4) && decide (fld w 0x18 4 ≤ 108000), stBadFormat)]

/-- The command is empty (R142). -/
def arrEmpty (w : List Byte) : Bool := decide (arrTokens w = 0 ∨ arrBcols w = 0 ∨ arrNvalid w = 0)

/-! ## The streams (R144, R145) -/

/-- Scales a command's code stream carries. -/
def arrScaleCount (w : List Byte) : Nat := if arrMode w = 2 then arrBcols w else 2 * arrBcols w
/-- 512-byte lines before the first slice: scales, then token scales. -/
def arrHeadLines (w : List Byte) : Nat :=
  cdiv (4 * arrScaleCount w) 512 + (if arrTscale w then cdiv (4 * arrTokens w) 512 else 0)
/-- Bytes the code stream delivers. -/
def arrCodeBytes (w : List Byte) : Nat := 512 * (arrHeadLines w + arrSlices w * (1 + arrBcols w))
/-- Bytes the activation stream delivers. -/
def arrActBytes (w : List Byte) : Nat := arrSlices w * arrTokens w * 1024
/-- Scale of an output, by its place in the scale lines. -/
def arrScale (codes : List Byte) (i : Nat) : Fv := dec32 (BitVec.ofNat 32 (fld codes (4 * i) 4))
/-- Token scale of token `t`. -/
def arrTokScale (w codes : List Byte) (t : Nat) : Fv :=
  dec32 (BitVec.ofNat 32 (fld codes (512 * cdiv (4 * arrScaleCount w) 512 + 4 * t) 4))
/-- Where slice `sl` starts in the code stream: its codebook line, then its code lines. -/
def arrSliceOff (w : List Byte) (sl : Nat) : Nat := 512 * (arrHeadLines w + sl * (1 + arrBcols w))
/-- Entry `i` of group `g`, codebook A (0) or B (1), of a slice (R92, R144). -/
def arrCb (w codes : List Byte) (sl g tbl i : Nat) : Fv :=
  decB16 (BitVec.ofNat 16 (fld codes (arrSliceOff w sl + g * (if arrMode w = 0 then 32 else 64) + tbl * 32 + 2 * i) 2))
/-- Activation of token `t` at row `k` of a slice; rows at or above K_LAST of the last slice read +0 (R130). -/
def arrX (w acts : List Byte) (sl t k : Nat) : Fv :=
  if sl + 1 = arrSlices w ∧ arrKLast w ≤ k then fvZero
  else decB16 (BitVec.ofNat 16 (fld acts (sl * arrTokens w * 1024 + (512 * t + k) * 2) 2))
/-- Code byte of byte-column `j` at row `k` of a slice (R144). -/
def arrCode (w codes : List Byte) (sl j k : Nat) : Nat := fld codes (arrSliceOff w sl + 512 * (1 + j) + k) 1

/-! ## Tables and sums (R124 to R134) -/

/-- The larger of two magnitudes. -/
def fvMaxAbs (l : List Fv) : Fv := l.foldl (fun a x => if fvLt a (fvAbs x) then fvAbs x else a) fvZero
/-- The largest magnitude of 16 codebook entries. -/
def arrCbMax (w codes : List Byte) (sl g tbl : Nat) : Fv := fvMaxAbs ((List.range 16).map (arrCb w codes sl g tbl))
/-- M of a table over a slice: for paired-256 the largest sum of the two codebooks' magnitudes (R94). -/
def arrM (w codes : List Byte) (sl tbl : Nat) : Fv :=
  fvMaxAbs ((List.range 8).map (fun g =>
    if arrMode w = 2 then fvAdd (arrCbMax w codes sl g 0) (arrCbMax w codes sl g 1) else arrCbMax w codes sl g tbl))
/-- X of a column in a slice. -/
def arrXmax (w acts : List Byte) (sl t : Nat) : Fv := fvMaxAbs ((List.range 512).map (arrX w acts sl t))
/-- The column is poisoned for the command (R129). -/
def arrPoison (w acts : List Byte) (t : Nat) : Bool :=
  (List.range (arrSlices w)).any (fun sl => (List.range 512).any (fun k => !fvFinite (arrX w acts sl t k)))
/-- The block exponent (R126, R128). -/
def arrB (x m : Fv) : Int := if fvIsZero x || fvIsZero m then 0 else fvExp x + fvExp m
/-- A table entry (R127, R128). -/
def arrEntry (x c : Fv) (xm mm : Fv) : Int :=
  if fvIsZero xm || fvIsZero mm then 0 else fvToInt (fvScale (fvMul x c) (25 - arrB xm mm))

/-- What feeds an output: byte-column, table of its exponent, and its place among the scales. -/
structure ArrOut where
  j : Nat
  tbl : Nat
  high : Bool
  scale : Nat
  deriving DecidableEq, Repr

/-- The outputs written per token, in drain order (R133, R152, R102). -/
def arrOuts (w : List Byte) : List ArrOut :=
  if arrMode w = 0 then (List.range (arrNvalid w)).map (fun n => ⟨n / 2, 0, n % 2 == 1, n⟩)
  else if arrMode w = 1 then
    (List.range (arrNvalid w)).map (fun n => ⟨n, 0, false, n⟩) ++
    (List.range (arrNvalid w)).map (fun n => ⟨n, 1, true, arrBcols w + n⟩)
  else (List.range (arrNvalid w)).map (fun n => ⟨n, 0, false, n⟩)

/-- The column sum of one output in one slice: 512 lookups added exactly (R133, R134). -/
def arrColsum (w codes acts : List Byte) (sl t : Nat) (o : ArrOut) (xm mm : Fv) : Int :=
  (List.range 512).foldl (fun acc k =>
    let b := arrCode w codes sl o.j k
    let x := arrX w acts sl t k
    let g := k / 64
    if arrMode w = 2 then
      acc + arrEntry x (arrCb w codes sl g 0 (b / 16)) xm mm + arrEntry x (arrCb w codes sl g 1 (b % 16)) xm mm
    else acc + arrEntry x (arrCb w codes sl g o.tbl (if o.high then b / 16 else b % 16)) xm mm) 0

/-- FP32 in one rounding. -/
def r32 (v : Fv) : Fv := rnd fmt32 v

/-- The accumulator of one output after every slice (R135, R136). -/
def arrAcc (w codes acts : List Byte) (t : Nat) (o : ArrOut) : Fv :=
  (List.range (arrSlices w)).foldl (fun acc sl =>
    let xm := arrXmax w acts sl t
    let mm := arrM w codes sl o.tbl
    let v := r32 (fvScale (fvInt (arrColsum w codes acts sl t o xm mm)) (arrB xm mm - 25))
    let v := r32 (fvMul v (arrScale codes o.scale))
    let v := if arrTscale w then r32 (fvMul v (arrTokScale w codes t)) else v
    r32 (fvAdd acc v)) fvZero

/-- One output value: canonical NaN for a poisoned column. -/
def arrValue (w codes acts : List Byte) (t : Nat) (o : ArrOut) : Fv :=
  if arrPoison w acts t then .nan else arrAcc w codes acts t o

/-- The drained bytes: token by token, each output BF16 or FP32 (R135, R152). -/
def arrDrain (w codes acts : List Byte) : List Byte :=
  (List.range (arrTokens w)).flatMap (fun t => (arrOuts w).flatMap (fun o =>
    if arrOut32 w then natLe 4 (to32 (arrValue w codes acts t o)).toNat
    else natLe 2 (toB16 (arrValue w codes acts t o)).toNat))

/-- Some used column is poisoned. -/
def arrAnyPoison (w acts : List Byte) : Bool := (List.range (arrTokens w)).any (arrPoison w acts)

end Sys2Proof.Machine
end

