-- ==== Sys2Proof/Machine/Crypto.lean ====
section
/-! DEFINITION. The checks, hashes, ciphers and signatures the spec names: CRC-32C, SipHash-2-4, SHA-256, HMAC, HKDF,
HMAC_DRBG, AES-256-GCM, ECDSA and ECDH over P-256. The spec names the algorithms; their definitions are the public
standards' (log entry 10). -/

namespace Sys2Proof.Machine

/-! ## CRC-32C -/

/-- Eight steps of the reflected CRC-32C register. -/
def crcByte : Nat → BitVec 32 → BitVec 32
  | 0, c => c
  | n + 1, c => crcByte n (if c.getLsbD 0 then (c >>> 1) ^^^ 0x82F63B78 else c >>> 1)

/-- CRC-32C of bytes. -/
def crc32c (l : List Byte) : Word :=
  (l.foldl (fun c b => crcByte 8 (c ^^^ b.zeroExtend 32)) 0xFFFFFFFF) ^^^ 0xFFFFFFFF

/-! ## SHA-256 and what is built from it -/

/-- The round constants of SHA-256. -/
def shaK : List Word :=
  [0x428A2F98, 0x71374491, 0xB5C0FBCF, 0xE9B5DBA5, 0x3956C25B, 0x59F111F1, 0x923F82A4, 0xAB1C5ED5] ++
  [0xD807AA98, 0x12835B01, 0x243185BE, 0x550C7DC3, 0x72BE5D74, 0x80DEB1FE, 0x9BDC06A7, 0xC19BF174] ++
  [0xE49B69C1, 0xEFBE4786, 0x0FC19DC6, 0x240CA1CC, 0x2DE92C6F, 0x4A7484AA, 0x5CB0A9DC, 0x76F988DA] ++
  [0x983E5152, 0xA831C66D, 0xB00327C8, 0xBF597FC7, 0xC6E00BF3, 0xD5A79147, 0x06CA6351, 0x14292967] ++
  [0x27B70A85, 0x2E1B2138, 0x4D2C6DFC, 0x53380D13, 0x650A7354, 0x766A0ABB, 0x81C2C92E, 0x92722C85] ++
  [0xA2BFE8A1, 0xA81A664B, 0xC24B8B70, 0xC76C51A3, 0xD192E819, 0xD6990624, 0xF40E3585, 0x106AA070] ++
  [0x19A4C116, 0x1E376C08, 0x2748774C, 0x34B0BCB5, 0x391C0CB3, 0x4ED8AA4A, 0x5B9CCA4F, 0x682E6FF3] ++
  [0x748F82EE, 0x78A5636F, 0x84C87814, 0x8CC70208, 0x90BEFFFA, 0xA4506CEB, 0xBEF9A3F7, 0xC67178F2]

/-- The initial hash value of SHA-256. -/
def shaInit : List Word :=
  [0x6A09E667, 0xBB67AE85, 0x3C6EF372, 0xA54FF53A, 0x510E527F, 0x9B05688C, 0x1F83D9AB, 0x5BE0CD19]

/-- The big-endian number of bytes. -/
def beNat (l : List Byte) : Nat := l.foldl (fun a b => a * 256 + b.toNat) 0
/-- `n` bytes of a number, big-endian. -/
def natBe (n v : Nat) : List Byte := (natLe n v).reverse

/-- Words from bytes, big-endian. -/
def beWords : List Byte → List Word
  | a :: b :: c :: d :: r => BitVec.ofNat 32 (beNat [a, b, c, d]) :: beWords r
  | _ => []

/-- The message schedule, the newest word first: `n` more words. -/
def shaSched : Nat → List Word → List Word
  | 0, w => w
  | n + 1, w =>
    let w2 := w.getD 1 0
    let w15 := w.getD 14 0
    let s0 := w15.rotateRight 7 ^^^ w15.rotateRight 18 ^^^ (w15 >>> 3)
    let s1 := w2.rotateRight 17 ^^^ w2.rotateRight 19 ^^^ (w2 >>> 10)
    shaSched n ((w.getD 15 0 + s0 + w.getD 6 0 + s1) :: w)

/-- One round. -/
def shaRound (st : List Word) (kw : Word) : List Word :=
  match st with
  | [a, b, c, d, e, f, g, h] =>
    let s1 := e.rotateRight 6 ^^^ e.rotateRight 11 ^^^ e.rotateRight 25
    let ch := (e &&& f) ^^^ (~~~e &&& g)
    let t1 := h + s1 + ch + kw
    let s0 := a.rotateRight 2 ^^^ a.rotateRight 13 ^^^ a.rotateRight 22
    let mj := (a &&& b) ^^^ (a &&& c) ^^^ (b &&& c)
    [t1 + (s0 + mj), a, b, c, d + t1, e, f, g]
  | x => x

/-- One block of 64 bytes. -/
def shaBlock (h : List Word) (blk : List Byte) : List Word :=
  let w := (shaSched 48 (beWords blk).reverse).reverse
  let st := (List.zipWith (· + ·) shaK w).foldl shaRound h
  List.zipWith (· + ·) h st

/-- The blocks of a padded message. -/
def shaBlocks : Nat → List Word → List Byte → List Word
  | 0, h, _ => h
  | n + 1, h, m => if m.isEmpty then h else shaBlocks n (shaBlock h (m.take 64)) (m.drop 64)

/-- SHA-256: 32 bytes. -/
def sha256 (m : List Byte) : List Byte :=
  let z := (119 - m.length % 64) % 64
  let p := m ++ [0x80] ++ zeros z ++ natBe 8 (8 * m.length)
  (shaBlocks (p.length / 64) shaInit p).flatMap (fun w => natBe 4 w.toNat)

/-- Bytes xored with one byte. -/
def xorAll (b : Byte) (l : List Byte) : List Byte := l.map (· ^^^ b)

/-- HMAC-SHA-256. -/
def hmac (key m : List Byte) : List Byte :=
  let k := fit 64 (if 64 < key.length then sha256 key else key)
  sha256 (xorAll 0x5C k ++ sha256 (xorAll 0x36 k ++ m))

/-- HKDF-Extract. -/
def hkdfExtract (salt ikm : List Byte) : List Byte := hmac salt ikm

/-- HKDF-Expand: blocks T(i). -/
def hkdfBlocks (prk info : List Byte) : Nat → Nat → List Byte → List Byte
  | 0, _, _ => []
  | n + 1, i, t =>
    let t' := hmac prk (t ++ info ++ [BitVec.ofNat 8 i])
    t' ++ hkdfBlocks prk info n (i + 1) t'
/-- HKDF-Expand to `n` bytes. -/
def hkdfExpand (prk info : List Byte) (n : Nat) : List Byte := (hkdfBlocks prk info (cdiv n 32) 1 []).take n

/-- HMAC_DRBG update. -/
def drbgUpdate (d : Drbg) (data : List Byte) : Drbg :=
  let k1 := hmac d.k (d.v ++ [0x00] ++ data)
  let v1 := hmac k1 d.v
  if data.isEmpty then { d with k := k1, v := v1 }
  else
    let k2 := hmac k1 (v1 ++ [0x01] ++ data)
    { d with k := k2, v := hmac k2 v1 }
/-- HMAC_DRBG instantiation. -/
def drbgInit (seed : List Byte) : Drbg :=
  drbgUpdate { k := zeros 32, v := List.replicate 32 0x01, requests := 1 } seed
/-- HMAC_DRBG reseed. -/
def drbgReseed (d : Drbg) (entropy : List Byte) : Drbg := { drbgUpdate d entropy with requests := 1 }
/-- Output blocks. -/
def drbgBlocks : Nat → Drbg → List Byte → Drbg × List Byte
  | 0, d, acc => (d, acc)
  | n + 1, d, acc => let v := hmac d.k d.v; drbgBlocks n { d with v := v } (acc ++ v)
/-- `n` bytes from the generator. -/
def drbgGet (d : Drbg) (n : Nat) : Drbg × List Byte :=
  let r := drbgBlocks (cdiv n 32) d []
  ({ drbgUpdate r.1 [] with requests := d.requests + 1 }, r.2.take n)

/-! ## SipHash-2-4 -/

/-- One SipRound. -/
def sipRound (v : Dword × Dword × Dword × Dword) : Dword × Dword × Dword × Dword :=
  let v0 := v.1 + v.2.1
  let v1 := v.2.1.rotateLeft 13 ^^^ v0
  let v0 := v0.rotateLeft 32
  let v2 := v.2.2.1 + v.2.2.2
  let v3 := v.2.2.2.rotateLeft 16 ^^^ v2
  let v0 := v0 + v3
  let v3 := v3.rotateLeft 21 ^^^ v0
  let v2 := v2 + v1
  let v1 := v1.rotateLeft 17 ^^^ v2
  let v2 := v2.rotateLeft 32
  (v0, v1, v2, v3)
/-- `n` SipRounds. -/
def sipRounds : Nat → Dword × Dword × Dword × Dword → Dword × Dword × Dword × Dword
  | 0, v => v
  | n + 1, v => sipRounds n (sipRound v)
/-- One word of the message. -/
def sipWord (v : Dword × Dword × Dword × Dword) (m : Dword) : Dword × Dword × Dword × Dword :=
  let w := sipRounds 2 (v.1, v.2.1, v.2.2.1, v.2.2.2 ^^^ m)
  (w.1 ^^^ m, w.2.1, w.2.2.1, w.2.2.2)
/-- The 8-byte words of a message. -/
def sipWords : Nat → List Byte → List Dword
  | 0, _ => []
  | n + 1, l => BitVec.ofNat 64 (leNat (l.take 8)) :: sipWords n (l.drop 8)
/-- SipHash-2-4 under a 128-bit key (R294). -/
def sipHash (key : BitVec 128) (m : List Byte) : Dword :=
  let k0 := BitVec.ofNat 64 key.toNat
  let k1 := BitVec.ofNat 64 (key.toNat / 2 ^ 64)
  let full := m.length / 8
  let last := BitVec.ofNat 64 (leNat (m.drop (8 * full)) + m.length % 256 * 2 ^ 56)
  let v := (sipWords full m ++ [last]).foldl sipWord
    (k0 ^^^ 0x736F6D6570736575, k1 ^^^ 0x646F72616E646F6D, k0 ^^^ 0x6C7967656E657261, k1 ^^^ 0x7465646279746573)
  let w := sipRounds 4 (v.1, v.2.1, v.2.2.1 ^^^ 0xFF, v.2.2.2)
  w.1 ^^^ w.2.1 ^^^ w.2.2.1 ^^^ w.2.2.2

/-! ## AES-256 and GCM -/

/-- Multiplication by x in GF(2^8). -/
def xtime (b : Byte) : Byte := if b.getLsbD 7 then (b <<< 1) ^^^ 0x1B else b <<< 1
/-- Multiplication in GF(2^8). -/
def gmul : Nat → Byte → Byte → Byte → Byte
  | 0, _, _, acc => acc
  | n + 1, a, b, acc => gmul n (xtime a) (b >>> 1) (if b.getLsbD 0 then acc ^^^ a else acc)
/-- The product in GF(2^8). -/
def gf8 (a b : Byte) : Byte := gmul 8 a b 0
/-- The inverse in GF(2^8), 0 for 0: x^254. -/
def gfInv (x : Byte) : Byte :=
  let x2 := gf8 x x
  let x4 := gf8 x2 x2
  let x8 := gf8 x4 x4
  let x16 := gf8 x8 x8
  let x32 := gf8 x16 x16
  let x64 := gf8 x32 x32
  let x128 := gf8 x64 x64
  gf8 (gf8 (gf8 x2 x4) (gf8 x8 x16)) (gf8 (gf8 x32 x64) x128)
/-- The S-box. -/
def sbox (x : Byte) : Byte :=
  let b := gfInv x
  b ^^^ b.rotateLeft 1 ^^^ b.rotateLeft 2 ^^^ b.rotateLeft 3 ^^^ b.rotateLeft 4 ^^^ 0x63
/-- Bytes xored with bytes. -/
def xorBytes (a b : List Byte) : List Byte := List.zipWith (· ^^^ ·) a b
/-- The key schedule of AES-256: words of four bytes, the newest first. -/
def aesSched : Nat → Nat → Byte → List (List Byte) → List (List Byte)
  | 0, _, _, w => w
  | n + 1, i, rc, w =>
    let t := w.getD 0 []
    let t1 := if i % 8 = 0 then
        xorBytes ((t.drop 1 ++ t.take 1).map sbox) [rc, 0, 0, 0]
      else if i % 8 = 4 then t.map sbox else t
    aesSched n (i + 1) (if i % 8 = 0 then xtime rc else rc) (xorBytes (w.getD 7 []) t1 :: w)
/-- Four-byte words of a key. -/
def quads : List Byte → List (List Byte)
  | a :: b :: c :: d :: r => [a, b, c, d] :: quads r
  | _ => []
/-- The 15 round keys, 16 bytes each. -/
def aesKeys (key : List Byte) : List (List Byte) :=
  let w := (aesSched 52 8 1 (quads (fit 32 key)).reverse).reverse
  (List.range 15).map (fun i => (w.drop (4 * i)).take 4 |>.flatten)
/-- ShiftRows. -/
def shiftRows (s : List Byte) : List Byte := (List.range 16).map (fun i => s.getD ((i + 4 * (i % 4)) % 16) 0)
/-- MixColumns of one column. -/
def mixCol (c : List Byte) : List Byte :=
  match c with
  | [a, b, x, d] =>
    [xtime a ^^^ (xtime b ^^^ b) ^^^ x ^^^ d, a ^^^ xtime b ^^^ (xtime x ^^^ x) ^^^ d,
      a ^^^ b ^^^ xtime x ^^^ (xtime d ^^^ d), (xtime a ^^^ a) ^^^ b ^^^ x ^^^ xtime d]
  | y => y
/-- The rounds of AES. -/
def aesRounds : List (List Byte) → List Byte → List Byte
  | [], s => s
  | [k], s => xorBytes (shiftRows (s.map sbox)) k
  | k :: ks, s => aesRounds ks (xorBytes ((quads (shiftRows (s.map sbox))).flatMap mixCol) k)
/-- One block under AES-256. -/
def aesBlock (key blk : List Byte) : List Byte :=
  match aesKeys key with
  | k0 :: ks => aesRounds ks (xorBytes (fit 16 blk) k0)
  | [] => blk
/-- Multiplication in GF(2^128) as GCM numbers its bits: big-endian, bit 0 the highest. -/
def ghMul : Nat → Nat → Nat → Nat → Nat
  | 0, _, _, z => z
  | n + 1, x, v, z =>
    ghMul n x (if v % 2 = 1 then v / 2 ^^^ (0xE1 * 2 ^ 120) else v / 2) (if x.testBit n then z ^^^ v else z)
/-- GHASH over 16-byte blocks. -/
def ghash (h : Nat) (l : List Byte) : Nat → Nat → Nat
  | 0, y => y
  | n + 1, y => ghash h (l.drop 16) n (ghMul 128 (y ^^^ beNat (fit 16 (l.take 16))) h 0)
/-- Bytes padded to whole 16-byte blocks. -/
def pad16 (l : List Byte) : List Byte := fit (16 * cdiv l.length 16) l
/-- The key stream of GCM's counter mode from counter `c` on. -/
def gcmStream (key iv : List Byte) : Nat → Nat → List Byte
  | 0, _ => []
  | n + 1, c => aesBlock key (iv ++ natBe 4 c) ++ gcmStream key iv n (c + 1)
/-- Encryption, or decryption: the same. -/
def gcmCrypt (key iv m : List Byte) : List Byte := xorBytes m (gcmStream key iv (cdiv m.length 16) 2)
/-- The tag over associated data and ciphertext. -/
def gcmTag (key iv aad ct : List Byte) : List Byte :=
  let h := beNat (aesBlock key (zeros 16))
  let l := pad16 aad ++ pad16 ct ++ natBe 8 (8 * aad.length) ++ natBe 8 (8 * ct.length)
  xorBytes (natBe 16 (ghash h l (l.length / 16) 0)) (aesBlock key (iv ++ natBe 4 1))

/-! ## P-256 -/

/-- The field prime of P-256. -/
def p256p : Nat := 2 ^ 256 - 2 ^ 224 + 2 ^ 192 + 2 ^ 96 - 1
/-- The group order of P-256. -/
def p256n : Nat := 0xFFFFFFFF00000000FFFFFFFFFFFFFFFFBCE6FAADA7179E84F3B9CAC2FC632551
/-- The curve's b. -/
def p256b : Nat := 0x5AC635D8AA3A93E7B3EBBD55769886BC651D06B0CC53B0F63BCE3C3E27D2604B
/-- The base point. -/
def p256g : Nat × Nat :=
  (0x6B17D1F2E12C4247F8BCE6E563A440F277037D812DEB33A0F4A13945D898C296,
   0x4FE342E2FE1A7F9B8EE7EB4A7C0F9E162BCE33576B315ECECBB6406837BF51F5)
/-- b^e modulo m over the low `n` bits of e. -/
def powMod (m : Nat) : Nat → Nat → Nat → Nat → Nat
  | 0, _, _, acc => acc
  | n + 1, b, e, acc => powMod m n (b * b % m) (e / 2) (if e % 2 = 1 then acc * b % m else acc)
/-- The inverse modulo a prime. -/
def invMod (m a : Nat) : Nat := powMod m 256 (a % m) (m - 2) 1
/-- Point addition; none is the point at infinity. -/
def ecAdd (a b : Option (Nat × Nat)) : Option (Nat × Nat) :=
  match a, b with
  | none, y => y
  | x, none => x
  | some (x1, y1), some (x2, y2) =>
    if x1 = x2 ∧ (y1 + y2) % p256p = 0 then none
    else
      let l := if x1 = x2 then (3 * x1 * x1 + (p256p - 3)) * invMod p256p (2 * y1) % p256p
        else (y2 + p256p - y1) * invMod p256p (x2 + p256p - x1) % p256p
      let x3 := (l * l + 2 * p256p - x1 - x2) % p256p
      some (x3, (l * (x1 + p256p - x3) + p256p - y1) % p256p)
/-- Scalar multiplication over the low `n` bits. -/
def ecMulN : Nat → Nat → Option (Nat × Nat) → Option (Nat × Nat) → Option (Nat × Nat)
  | 0, _, _, acc => acc
  | n + 1, k, q, acc => ecMulN n (k / 2) (ecAdd q q) (if k % 2 = 1 then ecAdd acc q else acc)
/-- Scalar multiplication. -/
def ecMul (k : Nat) (q : Nat × Nat) : Option (Nat × Nat) := ecMulN 256 k (some q) none
/-- The point lies on the curve. -/
def onCurve (q : Nat × Nat) : Bool :=
  decide (q.1 < p256p) && decide (q.2 < p256p) &&
    decide (q.2 * q.2 % p256p = (q.1 * q.1 * q.1 + (p256p - 3) * q.1 + p256b) % p256p)
/-- A public key of 64 bytes, x then y, big-endian. -/
def pubPoint (l : List Byte) : Nat × Nat := (beNat (l.take 32), beNat ((l.drop 32).take 32))
/-- A point's 64 bytes. -/
def pointBytes (q : Nat × Nat) : List Byte := natBe 32 q.1 ++ natBe 32 q.2
/-- ECDSA verification over SHA-256: the key as x ‖ y, the signature as r ‖ s. -/
def ecdsaVerify (pub msg sig : List Byte) : Bool :=
  let q := pubPoint pub
  let r := beNat (sig.take 32)
  let t := beNat ((sig.drop 32).take 32)
  if !onCurve q || r = 0 || t = 0 || p256n ≤ r || p256n ≤ t then false
  else
    let w := invMod p256n t
    let z := beNat (sha256 msg)
    match ecAdd (ecMul (z * w % p256n) p256g) (ecMul (r * w % p256n) q) with
    | some (x, _) => decide (x % p256n = r)
    | none => false
/-- ECDSA signature with nonce `k`: r ‖ s. -/
def ecdsaSign (d k : Nat) (msg : List Byte) : List Byte :=
  match ecMul k p256g with
  | some (x, _) =>
    let r := x % p256n
    let t := invMod p256n k * (beNat (sha256 msg) + r * d) % p256n
    natBe 32 r ++ natBe 32 t
  | none => zeros 64
/-- The public key of a private one. -/
def pubOf (d : Nat) : List Byte :=
  match ecMul d p256g with
  | some q => pointBytes q
  | none => zeros 64
/-- The shared secret of ECDH: the x coordinate. -/
def ecdh (d : Nat) (pub : List Byte) : Option (List Byte) :=
  let q := pubPoint pub
  if !onCurve q then none else (ecMul d q).map (fun p => natBe 32 p.1)

end Sys2Proof.Machine
end

