-- ==== Sys2Proof/Machine/Objects.lean ====
section
/-! DEFINITION. Regions and objects in memory: the general areas and their free runs (R348, R217), the carve-out's map
(R349), state objects and their headers (R215), sessions and channels by handle. -/

namespace Sys2Proof.Machine

/-! ## Addresses (R345, R348, R349) -/

/-- Bytes of a region. -/
def regionSize : Nat := 2 ^ 21
/-- The device address of a stack. -/
def stackBase (k : Nat) : Nat := k * 0x2000000000
/-- The device address of a CXL port. -/
def cxlBase (p : Nat) : Nat := 0x100000000000 + p * 2 ^ 42
/-- Where the general area of a stack starts, and where the stack ends, in regions. -/
def generalLo (k : Nat) : Nat := (stackBase k + 0xA0000000) / regionSize
def generalHi (k : Nat) : Nat := (stackBase k + 0x1400000000) / regionSize
/-- The stack an HBM address lies in. -/
def stackOfAddr (a : Nat) : Option Nat :=
  if a < 16 * 0x2000000000 ∧ a % 0x2000000000 < 0x1400000000 then some (a / 0x2000000000) else none
/-- The CXL port an address lies in. -/
def portOfAddr (a : Nat) : Option Nat :=
  if 0x100000000000 ≤ a ∧ a < 0x100000000000 + 4 * 2 ^ 42 then some ((a - 0x100000000000) / 2 ^ 42) else none
/-- The stack and stack-local offset of a carve-out slice: the map's entry, or its place at boot (R349). -/
def State.slice (s : State) (i : Nat) : Nat :=
  (kget s.mem.carve i).getD (stackBase i + 0x20000000)
/-- The device address of an application-core physical address (R349). -/
def State.carveAddr (s : State) (a : Nat) : Nat :=
  s.slice (a / 4096 % 16) + a / 65536 * 4096 + a % 4096
/-- Bytes of the carve-out from an application-core physical address on. -/
def State.carveRead (s : State) (a n : Nat) : List Byte :=
  (List.range n).map (fun i => MemOps.read s.mem.dev (s.carveAddr (a + i)))

/-! ## Free runs of regions -/

/-- Everything that holds regions, as (first region, count): runs of MEM_ALLOC, placed objects, pools, moved carve-out
slices, retired regions. -/
def State.taken (s : State) : List (Nat × Nat) :=
  s.mem.runs.map (fun r => (r.1 / regionSize, r.2.1)) ++
  s.mem.held.map (fun r => (r.1 / regionSize, r.2.1)) ++
  s.pages.pools.flatMap (·.runs) ++
  s.mem.carve.map (fun c => (c.2 / regionSize, 1024)) ++
  s.power.cfg.retired.map (fun r => (r, 1))
/-- No taken run overlaps `n` regions from `lo` on. -/
def freeAt (taken : List (Nat × Nat)) (lo n : Nat) : Bool :=
  taken.all (fun t => decide (t.1 + t.2 ≤ lo) || decide (lo + n ≤ t.1))
/-- The free runs of [lo, hi) between taken runs in ascending order. -/
def freeGaps : List (Nat × Nat) → Nat → Nat → List (Nat × Nat)
  | [], lo, hi => if lo < hi then [(lo, hi - lo)] else []
  | t :: r, lo, hi =>
    if t.1 ≤ lo then freeGaps r (max lo (t.1 + t.2)) hi
    else (if lo < min t.1 hi then [(lo, min t.1 hi - lo)] else []) ++ freeGaps r (t.1 + t.2) hi
/-- The first `n` regions of some runs; none where they hold fewer. -/
def firstRegions : Nat → List (Nat × Nat) → Option (List (Nat × Nat))
  | 0, _ => some []
  | _ + 1, [] => none
  | n + 1, r :: l => if n + 1 ≤ r.2 then some [(r.1, n + 1)] else (firstRegions (n + 1 - r.2) l).map (r :: ·)
/-- The free runs of a stack's general area. -/
def State.stackGaps (s : State) (k : Nat) : List (Nat × Nat) :=
  freeGaps (sortBy (·.1) s.taken) (generalLo k) (generalHi k)
/-- The lowest free run of `n` regions in [lo, hi). -/
def findRun (taken : List (Nat × Nat)) (lo hi n : Nat) : Option Nat :=
  let starts := sortBy id (lo :: (taken.map (fun t => t.1 + t.2)).filter (fun x => decide (lo ≤ x)))
  starts.find? (fun x => decide (x + n ≤ hi) && freeAt taken x n)
/-- The lowest free run of `n` regions in a stack's general area. -/
def State.stackRun (s : State) (k n : Nat) : Option Nat := findRun s.taken (generalLo k) (generalHi k) n
/-- The regions a CXL port has, by its capacity (R376 CAP_2M). -/
def State.portRegions (s : State) (p : Nat) : Nat := ((s.mem.cxl.getD p .down).cap2M).toNat
/-- Partitions of the fixed-partition mode; 1 in the normal mode (R372, R376). -/
def State.parts (s : State) : Nat := if s.mem.memMode = 0 then 1 else 2 ^ s.mem.memMode.toNat
/-- The partition of a domain, if the mode and the domain have one (R372). -/
def State.partOf (s : State) (dom : Nat) : Option Nat :=
  if s.parts = 1 ∨ dom < 2 ∨ 2 + s.parts ≤ dom then none else some (dom - 2)
/-- Of some stacks, those that a domain's work may use (R373). -/
def State.stksFor (s : State) (dom : Nat) (l : List Nat) : List Nat :=
  match s.partOf dom with
  | none => l
  | some k => l.filter (fun i => i / (16 / s.parts) == k)
/-- The stacks over which the stripes of a domain's tensors lie, one entry for each stripe (R98, R99, R375). -/
def State.stripeStks (s : State) (dom : Nat) (l : List Nat) : List Nat :=
  match s.partOf dom with
  | none => l
  | some _ =>
    let m := s.stksFor dom l
    if m.isEmpty then [] else (List.range 16).map (fun i => m.getD (i % m.length) 0)
/-- By how many halvings each CXL port runs below x16 at 64 GT/s, as it was trained (R358). -/
def State.cxlSlow (s : State) : List Nat := s.mem.cxl.map (fun c => c.rate.toNat + c.width.toNat)
/-- The tags of the Landing Cache window in fixed-partition mode: part k of the window is partition k's, to read and write, whose domain is
2 + k (R372, R373; DESIGN CHOICE, log entry 179). In the normal mode no rule assigns the window, and its tags stay. -/
def windowParts (s : State) : State :=
  if s.parts ≤ 1 then s
  else
    let n := s.mem.winWays.toNat * 16
    let lo := 0x080000000000 / regionSize
    s.onMem (fun m => { m with
      lines := m.lines.filter (fun l => decide (¬ (lo ≤ l.line * 256 / regionSize ∧ l.line * 256 / regionSize < lo + 320))),
      tags := (List.range n).foldl (fun t i => kset t (lo + i) (BitVec.ofNat 16 (2 * 2 ^ 14 + 2 + i * s.parts / n)))
        (m.tags.filter (fun t => decide (¬ (lo ≤ t.1 ∧ t.1 < lo + 320)))) })
/-- The regions of a CXL port that a domain may use, from the first to the one past the last: with eight partitions one half of the port's
4 TiB (R373). -/
def State.portRange (s : State) (dom p : Nat) : Nat × Nat :=
  let n := s.portRegions p
  let b := cxlBase p / regionSize
  match s.partOf dom with
  | none => (b, b + n)
  | some k =>
    if s.parts = 8 then (if k / 2 = p then (b + k % 2 * 2 ^ 20, b + max (k % 2 * 2 ^ 20) (min n ((k % 2 + 1) * 2 ^ 20))) else (b, b))
    else if p / (4 / s.parts) = k then (b, b + n) else (b, b)
/-- The first stack in service with a free run that a domain may use, and its first region. -/
def State.anyStackRun (s : State) (dom n : Nat) : Option (Nat × Nat) :=
  (s.stksFor dom (s.svcList .nmu)).findSome? (fun k => (s.stackRun k n).map (fun r => (k, r)))
/-- The lowest free run of `n` regions behind a CXL port that a domain may use. -/
def State.portRun (s : State) (dom p n : Nat) : Option Nat :=
  findRun s.taken (s.portRange dom p).1 (s.portRange dom p).2 n
/-- The first CXL port in service with a free run that a domain may use, and its first region. -/
def State.anyPortRun (s : State) (dom n : Nat) : Option (Nat × Nat) :=
  (s.svcList .cxl).findSome? (fun p => (s.portRun dom p n).map (fun r => (p, r)))
/-- A tag from its fields. -/
def mkTag (access cache dom : Nat) : Half := BitVec.ofNat 16 (access % 4 * 2 ^ 14 + cache % 2 * 2 ^ 13 + dom % 64)
/-- The tag the boot firmware gives a region (R348): domain 1 in the carve-out area of each stack, else no access. -/
def bootTag (region : Nat) : Half :=
  let a := region * regionSize
  if a < 16 * 0x2000000000 ∧ 0x20000000 ≤ a % 0x2000000000 ∧ a % 0x2000000000 < 0xA0000000 then mkTag 2 0 1 else 0
/-- The 16-bit tag of a region (R366): what was written last, or what boot wrote. -/
def State.tag (s : State) (region : Nat) : Half := (kget s.mem.tags region).getD (bootTag region)
/-- A word of 32 bytes in a range is marked poisoned (R362, R364). -/
def State.rangePoisoned (s : State) (a n : Nat) : Bool :=
  s.mem.poisoned.any (fun w => decide (w * 32 < a + n ∧ a < w * 32 + 32 ∧ n ≠ 0))
/-- A write clears the poison of the words it touches. -/
def clearPoison (a n : Nat) (s : State) : State :=
  s.onMem (fun m => { m with poisoned := m.poisoned.filter (fun w => decide (¬ (w * 32 < a + n ∧ a < w * 32 + 32 ∧ n ≠ 0))) })
/-- Bytes written to a device address. -/
def putMem (a : Nat) (l : List Byte) (s : State) : State := clearPoison a l.length (s.onDev (fun d => MemOps.writeN d a l))
/-- Bytes at a device address set to zero. -/
def clearMem (a n : Nat) (s : State) : State := clearPoison a n (s.onDev (fun d => MemOps.clear d a n))
/-- The words of a copy's destination that a poisoned word of its source reaches. -/
def poisonAt (src dst n w : Nat) : List Nat :=
  if w * 32 < src + n ∧ src < w * 32 + 32 ∧ n ≠ 0 then
    let lo := (dst + (max (w * 32) src - src)) / 32
    let hi := (dst + (min (w * 32 + 32) (src + n) - src) - 1) / 32
    if lo = hi then [lo] else [lo, hi]
  else []
/-- Bytes copied from one place to another: what is uncorrectable at the source is so at the destination too (R364). -/
def copyMem (src dst n : Nat) (s : State) : State :=
  let bad := (s.mem.poisoned.flatMap (poisonAt src dst n)).eraseDups
  (clearPoison dst n (s.onDev (fun d => MemOps.copy d d src dst n))).onMem (fun m => { m with poisoned := m.poisoned ++ bad })
/-- Bytes written to the carve-out. -/
def carveWrite (a : Nat) (l : List Byte) (s : State) : State :=
  let t := s.onDev (fun d => l.zipIdx.foldl (fun m p => MemOps.write m (s.carveAddr (a + p.2)) p.1) d)
  if s.mem.poisoned.isEmpty then t else (List.range l.length).foldl (fun (t : State) (i : Nat) => clearPoison (s.carveAddr (a + i)) 1 t) t
/-- Regions assigned to a domain: zeroed where another domain held them last (R351), their cached
lines invalidated (R355), then tagged. -/
def assignRegions (lo n : Nat) (tag : Half) (dom : Nat) (s : State) : State :=
  let rs := (List.range n).map (lo + ·)
  let z := rs.filter (fun r => decide ((kget s.mem.lastDom r).getD 0 ≠ dom))
  s.onMem (fun m => { m with
    dev := z.foldl (fun d r => MemOps.clear d (r * regionSize) regionSize) m.dev,
    poisoned := m.poisoned.filter (fun w => !z.contains (w * 32 / regionSize)),
    lines := m.lines.filter (fun l => decide (¬ (lo ≤ l.line * 256 / regionSize ∧ l.line * 256 / regionSize < lo + n))),
    tags := rs.foldl (fun l r => kset l r tag) m.tags,
    lastDom := rs.foldl (fun l r => kset l r dom) m.lastDom })
/-- Regions given up: their tags read 0. -/
def releaseRegions (lo n : Nat) (s : State) : State :=
  s.onMem (fun m => { m with
    lines := m.lines.filter (fun l => decide (¬ (lo ≤ l.line * 256 / regionSize ∧ l.line * 256 / regionSize < lo + n))),
    tags := m.tags.filter (fun t => decide (¬ (lo ≤ t.1 ∧ t.1 < lo + n))) })
/-- A placed object's regions given up. -/
def releaseHeld (owner : Word) (s : State) : State :=
  let mine := s.mem.held.filter (fun h => h.2.2 == owner)
  let s1 := mine.foldl (fun s h => releaseRegions (h.1 / regionSize) h.2.1 s) s
  s1.onMem (fun m => { m with held := m.held.filter (fun h => !(h.2.2 == owner)) })

/-! ## State objects (R215 to R221) -/

/-- State object `i`. -/
def State.obj (s : State) (i : Nat) : Option StateObj := s.ctrl.objs.find? (fun o => o.idx == i && !o.gone)
/-- The state with a state object's record changed. -/
def State.onObj (i : Nat) (f : StateObj → StateObj) (s : State) : State :=
  s.onCtrl (fun k => { k with objs := updAll k.objs (fun o => o.idx == i) f })
/-- Body bytes of a shape (R215). -/
def bodyBytes (heads dk16 dv16 layers : Nat) : Nat := heads * (dk16 * 16) * (dv16 * 16) * 4 * layers
/-- Regions an object takes: header block of 4 KiB and body. -/
def objRegions (heads dk16 dv16 layers : Nat) : Nat := cdiv (4096 + bodyBytes heads dk16 dv16 layers) regionSize
/-- The 64-byte header of an object (R215). -/
def State.objHeader (s : State) (o : StateObj) : List Byte :=
  let h := natLe 2 1 ++ natLe 1 (b2n o.invalid.isSome + 2 * b2n o.decayVec) ++ natLe 1 o.heads ++ natLe 1 o.dk16 ++
    natLe 1 o.dv16 ++ natLe 2 o.layers ++ natLe 4 (s.handleOf 3 o.idx) ++ natLe 4 o.owner.toNat ++
    natLe 4 (s.handleOf 4 o.model) ++ natLe 2 (o.invalid.getD 0).toNat ++ zeros 2 ++ natLe 8 o.step ++ natLe 8 o.seq ++
    natLe 8 (bodyBytes o.heads o.dk16 o.dv16 o.layers) ++ zeros 12
  h ++ natLe 4 (crc32c h).toNat
/-- The header in memory written anew from the record. -/
def syncObj (i : Nat) (s : State) : State :=
  match s.obj i with
  | some o => putMem o.addr (s.objHeader o) s
  | none => s
/-- An object marked invalid; a first status stays (R220). -/
def invalidObj (st : Half) (i : Nat) (s : State) : State :=
  syncObj i (s.onObj i (fun o => { o with invalid := some (o.invalid.getD st) }))
/-- An object destroyed or lost: its handle retires, its regions are freed. -/
def dropObj (i : Nat) (s : State) : State :=
  let h := BitVec.ofNat 32 (s.handleOf 3 i)
  let s1 := (releaseHeld h s).onCtrl (fun k => { k with objs := k.objs.filter (fun o => !(o.idx == i)) })
  if (s1.pool 3).held.contains i then s1.retire 3 i else s1

/-! ## Sessions, channels, models -/

/-- Session `i`. -/
def State.session (s : State) (i : Nat) : Option Session := s.ctrl.sessions.find? (·.idx == i)
/-- The state with a session changed. -/
def State.onSession (i : Nat) (f : Session → Session) (s : State) : State :=
  s.onCtrl (fun k => { k with sessions := updAll k.sessions (·.idx == i) f })
/-- Channel `i`. -/
def State.channel (s : State) (i : Nat) : Option Channel := s.audio.chans.find? (·.idx == i)
/-- The state with a channel changed. -/
def State.onChannel (i : Nat) (f : Channel → Channel) (s : State) : State :=
  s.onAudio (fun a => { a with chans := updAll a.chans (·.idx == i) f })
/-- Model `i`. -/
def State.model (s : State) (i : Nat) : Option Model := s.ctrl.models.find? (·.idx == i)
/-- The state with a model changed. -/
def State.onModel (i : Nat) (f : Model → Model) (s : State) : State :=
  s.onCtrl (fun k => { k with models := updAll k.models (·.idx == i) f })
/-- A frame set changed. -/
def State.onSet (i : Nat) (f : FrameSet → FrameSet) (s : State) : State :=
  s.onPages (fun p => { p with sets := updAll p.sets (·.id == i) f })

/-- The link that the plan uses in place of a link: itself while it is in service, else another one in service to the same module
(R29). -/
def State.linkFor (s : State) (l : Nat) : Option Nat :=
  if s.inSvc ⟨.link, l⟩ then some l
  else (s.svcList .link).find? (fun k =>
    (Config.cable s.links.moduleId.toNat k).isSome && Config.cable s.links.moduleId.toNat k == Config.cable s.links.moduleId.toNat l)
/-- The CXL port that the plan uses in place of a port (R29). -/
def State.portFor (s : State) (p : Nat) : Option Nat := if s.inSvc ⟨.cxl, p⟩ then some p else (s.svcList .cxl).head?
/-- The link that a yarder word names as its endpoint, if it does (R312). -/
def yLink (w : List Byte) : Option Nat :=
  if fld w 1 1 = 0xA ∨ fld w 1 1 = 0xB then some (fld w 0x14 2) else none
/-- A path over the links and ports that are in service; none where no such one is left. -/
def State.pathFor (s : State) : PathId → Option PathId
  | .dwevyTx l => (s.linkFor l).map .dwevyTx | .dwevyRx l => (s.linkFor l).map .dwevyRx
  | .cxlRd p => (s.portFor p).map .cxlRd | .cxlWr p => (s.portFor p).map .cxlWr
  | p => some p
/-- A command of a template can be planned with the links and ports in service (R31, R32, R412). -/
def State.cmdUp (s : State) (t : TCmd) : Bool :=
  t.paths.all (fun p => (s.pathFor p.1).isSome) &&
  (match t.engine, yLink t.word with | .yarder _, some l => (s.linkFor l).isSome | _, _ => true)
/-- A template compiled for the units in service (R34). -/
def State.templUp (s : State) (t : Template) : Bool :=
  t.clusterMask == s.svcMask .cluster && t.nmuMask == s.svcMask .nmu && t.cmds.all s.cmdUp
/-- The template of a kind that a model has for the units in service (R34). -/
def State.template (s : State) (m : Model) (k : TemplKind) : Option Template :=
  m.pkg.templates.find? (fun t => t.kind == k && s.templUp t)
/-- The model has templates for the units in service: one of each kind that it has templates of. -/
def State.modelFits (s : State) (m : Model) : Bool :=
  !m.pkg.templates.isEmpty && m.pkg.templates.all (fun t => (s.template m t.kind).isSome)

/-- State objects that a kind of work of an object writes. -/
def State.workObjs (s : State) (kind : TemplKind) (obj : Word) : List Nat :=
  let pick : Word → List Nat := fun h => if h = 0 then [] else [hIdx h.toNat]
  match kind with
  | .decode | .prefill => match s.session (hIdx obj.toNat) with | some x => pick x.rstate | none => []
  | .encode => match s.ctrl.sessions.find? (fun x => x.inCh == obj) with | some x => pick x.encState | none => []
  | .decoder => match s.ctrl.sessions.find? (fun x => x.outCh == obj) with | some x => pick x.decState | none => []
  | .stopword =>
    match s.ctrl.slots.find? (fun k => k.slot == obj.toNat / 2) with
    | some k => match k.paths[obj.toNat % 2]? with | some q => pick q.state | none => []
    | none => []
  | .load => []
/-- A command word of a Scan Unit. -/
def isScan (t : TCmd) : Bool := match t.engine with | .cluster _ => decide (fld t.word 0 1 = 3) | _ => false
/-- A KVPUT or KVSEAL command word. -/
def isKvWrite (t : TCmd) : Bool :=
  match t.engine with | .att _ => decide (fld t.word 0 1 = 0x13) || decide (fld t.word 0 1 = 0x14) | _ => false
/-- State objects that a planned command writes (R222): those that its row descriptors name, by handles that are current; a
Scan command without row descriptors writes those of its work; the copy of a reuse point's snapshot writes its session's (R299). -/
def State.objsOf (s : State) (p : PCmd) : List Nat :=
  match p.copy with
  | some (.work b) => if b.kind = .reuse then (match s.session b.obj with | some x => [hIdx x.rstate.toNat] | none => []) else []
  | _ =>
  if !isScan p.t then []
  else if p.rows.isEmpty then s.workObjs p.kind p.obj
  else ((p.rows.map (fun d => fld d 0 4)).filter (fun h => decide (hKind h = 3) && decide (s.handleOf 3 (hIdx h) = h))).map hIdx
/-- A row's result of a planned Scan command, as its descriptor holds it (R235, R238). -/
def PCmd.rowStatus (c : PCmd) (i : Nat) : Half := BitVec.ofNat 16 (fld (c.rows.getD i []) 6 2)
/-- The status of what a planned command puts out: its own, or that of the first of its rows that is invalid (R67, R238). -/
def PCmd.outStatus (c : PCmd) : Half :=
  if c.status ≠ stOk ∨ isScan c.t = false then c.status
  else (((List.range c.rows.length).map c.rowStatus).find? (fun st => st != stOk)).getD stOk
/-- A planned command with a row's result. -/
def PCmd.setRow (i : Nat) (st : Half) (c : PCmd) : PCmd := { c with rows := c.rows.modify i (fun d => putBytes d 6 (natLe 2 st.toNat)) }
/-- A planned command is a ZERO of an object, given by its handle. -/
def zeroes (h : Nat) (c : PCmd) : Bool :=
  isScan c.t && decide (bitsOf (fld c.t.word 1 1) 0 2 = 2) && c.rows.any (fun d => decide (fld d 0 4 = h))
/-- Steps by which the rows of a planned command advance an object of so many layers, given by its handle: the steps of the rows
of its last layer. -/
def stepsOf (h layers : Nat) (c : PCmd) : Nat :=
  if isScan c.t ∧ fld c.t.word 6 2 + 1 = layers then
    ((c.rows.filter (fun d => decide (fld d 0 4 = h))).map (fun d => fld d 4 2)).foldl (· + ·) 0
  else 0
/-- The STEP of an object of so many layers after some planned commands, in plan order: a ZERO sets it to 0 (R219, R233). -/
def stepAfter (h layers base : Nat) (l : List PCmd) : Nat :=
  l.foldl (fun n c => if zeroes h c then 0 else n + stepsOf h layers c) base
/-- The open frame set that a KVPUT or KVSEAL of a planned decode step writes. -/
def State.setsOf (s : State) (p : PCmd) : List Nat :=
  if p.kind = .decode ∧ isKvWrite p.t = true then
    match s.session (hIdx p.obj.toNat) with
    | some x => match x.pages[x.positions / 64]? with | some f => [f] | none => []
    | none => []
  else []

end Sys2Proof.Machine
end

