-- ==== Sys2Proof/Machine/Firewall.lean ====
section
/-! DEFINITION. The address map and the firewalls (R345, R366 to R371, R604): which addresses exist, which accesses pass,
what a refusal leaves behind, and the Landing Cache's lines (R354). -/

namespace Sys2Proof.Machine

/-- What a CXL port's training found: its device's capacity, rounded down and capped, RATE and WIDTH (R358, R360). -/
def CxlReg.trained (bytes code : Nat) (c : CxlReg) : CxlReg :=
  { c with
    cap2M := BitVec.ofNat 32 (min (bytes / 2 ^ 21) (2 ^ 21)), rate := BitVec.ofNat 2 (code / 4), width := BitVec.ofNat 2 code }

/-- Where a device address lies (table *Device address map*). -/
inductive Place where
  | hbm (k : Nat) | window (slice : Nat) | cxl (p : Nat) | control | hole
  deriving DecidableEq, Repr

/-- Bytes of the Landing Cache window. -/
def State.winBytes (s : State) : Nat := s.mem.winWays.toNat * 2 ^ 25
/-- The place of an address, whether or not anything is there. -/
def placeOf (a : Nat) : Place :=
  if a < 0x20000000000 then .hbm (a / 0x2000000000)
  else if 0x080000000000 ≤ a ∧ a < 0x080028000000 then .window ((a - 0x080000000000) / 4096 % 16)
  else if 0x0C0000000000 ≤ a ∧ a < 0x0C0100000000 then .control
  else if 0x100000000000 ≤ a ∧ a < 0x200000000000 then .cxl ((a - 0x100000000000) / 2 ^ 42)
  else .hole
/-- Memory is present at the address: a stack's 80 GiB while the stack has not left service, the window's ways, a CXL
device's capacity while its port is up (R345, R360). -/
def State.present (s : State) (a : Nat) : Bool :=
  match placeOf a with
  | .hbm k => decide (a % 0x2000000000 < 0x1400000000) && s.svc ⟨.nmu, k⟩ != .fenced
  | .window _ => decide (a - 0x080000000000 < s.winBytes)
  | .cxl p => (s.mem.cxl.getD p .down).up && decide (a - cxlBase p < s.portRegions p * regionSize)
  | .control => false
  | .hole => false
/-- The firewall point that checks an address (table *Firewall points*); a hole outside every window and the control
region are refused at the register decode. -/
def pointOf (a : Nat) : Nat :=
  match placeOf a with
  | .hbm k => k
  | .window i => 0x10 + i
  | .cxl p => 0x38 + p
  | .control => 0x3C
  | .hole => 0x3C
/-- The score area of a stack, which attention engines, scrub and return tests alone reach (R348). -/
def inScore (a : Nat) : Bool := decide (a < 0x20000000000) && decide (a % 0x2000000000 < 0x4000000)
/-- A tag lets a domain read or write (R367). -/
def tagPasses (tag : Half) (dom : Nat) (write : Bool) : Bool :=
  let t := tag.toNat
  decide (dom = 0) || (decide (bitsOf t 0 6 = dom) &&
    (if write then decide (bitsOf t 14 2 = 2) else decide (1 ≤ bitsOf t 14 2 ∧ bitsOf t 14 2 ≤ 2)))
/-- An access of a domain passes the firewall at an address, by the tag of its region (R367, R368). -/
def State.passes (s : State) (dom : Nat) (write : Bool) (a : Nat) : Bool :=
  s.present a && !inScore a && tagPasses (s.tag (a / regionSize)) dom write
/-- The tag that decides a read through the cache ways: on a hit the copy that the line took at its fill (R354, R368). -/
def State.tagAt (s : State) (a : Nat) : Half :=
  match s.mem.lines.find? (fun l => l.line == a / 256) with
  | some l => l.tag
  | none => s.tag (a / regionSize)
/-- A domain's read of a range through the Compute Die paths passes, line by line (R354, R367, R368). -/
def State.readPasses (s : State) (dom a n : Nat) : Bool :=
  n == 0 || (List.range ((a + n - 1) / 256 + 1 - a / 256)).all (fun i =>
    let x := max a ((a / 256 + i) * 256)
    s.present x && !inScore x && tagPasses (s.tagAt x) dom false)
/-- The starts of the regions that a range touches, its first address among them. -/
def touched (a n : Nat) : List Nat :=
  if n = 0 then []
  else a :: ((List.range (cdiv n regionSize + 1)).map (fun i => (a / regionSize + 1 + i) * regionSize)).filter (fun x => decide (x < a + n))
/-- Every address of a range passes. -/
def State.rangePasses (s : State) (dom : Nat) (write : Bool) (a n : Nat) : Bool :=
  (touched a n).all (s.passes dom write) && (n == 0 || s.passes dom write (a + n - 1))

/-! ## A refusal (R370, R371) -/

/-- FW_VIOL_INFO (R376). -/
def MemSt.violInfo (m : MemSt) : Nat :=
  b2n m.violValid * 2 ^ 63 + m.violCount.toNat * 2 ^ 48 + m.violDom.toNat * 2 ^ 42 + m.violKind.toNat * 2 ^ 40 +
    b2n m.violWrite * 2 ^ 39 + b2n m.violCfgErr * 2 ^ 38 + m.violPoint.toNat * 2 ^ 30
/-- The global address of an access: this module's ID before a device address (R346). -/
def State.globalAddr (s : State) (a : Nat) : Nat := if a < 2 ^ 48 then s.links.moduleId.toNat * 2 ^ 48 + a else a
/-- The state after a refusal: COUNT, the capture, the domain's count of the beat, and the point's record of the beat. -/
def refuse (point dom kind : Nat) (write : Bool) (addr : Nat) (s : State) : State :=
  let first := !s.mem.refusals.any (fun r => r.2.1 == point)
  let ga := s.globalAddr addr
  let s1 := s.onMem (fun m => { m with
    violCount := satInc m.violCount, violValid := true,
    violDom := if m.violValid then m.violDom else BitVec.ofNat 6 dom,
    violKind := if m.violValid then m.violKind else BitVec.ofNat 2 kind,
    violWrite := if m.violValid then m.violWrite else write,
    violPoint := if m.violValid then m.violPoint else BitVec.ofNat 8 point,
    violAddr := if m.violValid then m.violAddr else BitVec.ofNat 60 ga,
    refusals :=
      if m.refusals.any (fun r => r.1 == dom && r.2.1 == point) then
        updFirst m.refusals (fun r => r.1 == dom && r.2.1 == point) (fun r => (r.1, r.2.1, r.2.2.1 + 1, r.2.2.2))
      else m.refusals ++ [(dom, point, 1, ga)] })
  if first then bbAdd 0x40 1 0 0 stDomainFault (natLe 8 s1.mem.violInfo ++ natLe 8 s1.mem.violAddr.toNat) s1 else s1
/-- An engine's transfer that is refused. -/
def refuseEngine (dom : Nat) (write : Bool) (a : Nat) (s : State) : State := refuse (pointOf a) dom 0 write a s

/-! ## Uncorrectable words -/

/-- A reader meets an uncorrectable word: the counts of its stack or slice, UE_SEEN, and the record (R363, R376). -/
def countUe (a : Nat) (s : State) : State :=
  let i : Option Nat := match placeOf a with
    | .hbm k => some k
    | .window j => some (16 + j)
    | _ => none
  match i with
  | some i => bbAdd 0x30 2 0 0 stIntegrityFail (natLe 8 a) (s.onMem (fun m => { m with
      ecc := m.ecc.modify i (fun e => { e with ue := satInc e.ue, ueSeen := true }) }))
  | none => bbAdd 0x30 2 0 0 stIntegrityFail (natLe 8 a) s

/-- What becomes of a word with so many of its symbols in error: the code corrects one and detects two or three (R362). An operand of more
is not well-formed: no rule says what the code makes of it. -/
def eccOf (sym : Nat) : EccOut := if sym = 0 then .clean else if sym = 1 then .corrected else .uncorrectable
/-- The read is uncorrectable. -/
def eccLost (sym : Nat) : Bool := eccOf sym == .uncorrectable
/-- A corrected word counted (R363), and of a stack remembered for R365. -/
def countFixed (a : Nat) (s : State) : State :=
  let i : Option Nat := match placeOf a with
    | .hbm k => some k
    | .window j => some (16 + j)
    | _ => none
  match i with
  | some i => s.onMem (fun m => { m with
      ecc := m.ecc.modify i (fun e => { e with ce := satAdd e.ce 1 }),
      ceLog := if i < 16 then m.ceLog ++ [(a / regionSize, a / 32, s.beat.number.toNat)] else m.ceLog })
  | none => s
/-- A read that the code had to correct. -/
def eccNote (a sym : Nat) (s : State) : State := if eccOf sym = .corrected then countFixed a s else s

/-! ## The Landing Cache's lines (R354, R355) -/

/-- Ways of a set that hold lines. -/
def State.cacheWays (s : State) : Nat := 20 - s.mem.winWays.toNat
/-- A read of a line of a cacheable region: a hit makes it the most recent, a miss allocates it and replaces the least
recently used line of its set. -/
def lcTouch (line : Nat) (s : State) : State :=
  let tag := s.tag (line * 256 / regionSize)
  if s.cacheWays = 0 ∨ tag.toNat.testBit 13 = false then s
  else s.onMem (fun m =>
    match m.lines.find? (fun l => l.line == line) with
    | some l => { m with lines := m.lines.filter (fun x => !(x.line == line)) ++ [l] }
    | none =>
      let mine := m.lines.filter (fun x => Config.lcSet x.line == Config.lcSet line)
      let keep := if 20 - m.winWays.toNat ≤ mine.length then
          (match mine.head? with | some v => m.lines.filter (fun x => !(x.line == v.line)) | none => m.lines)
        else m.lines
      { m with lines := keep ++ [{ line := line, tag := tag }] })
/-- Every line of a region invalidated (R355). -/
def lcInvalidate (region : Nat) (s : State) : State :=
  s.onMem (fun m => { m with lines := m.lines.filter (fun l => decide (l.line * 256 / regionSize ≠ region)) })

end Sys2Proof.Machine
end

