-- ==== Sys2Proof/Machine/PageOps.lean ====
section
/-! DEFINITION. Frames, pools and frame sets (R271 to R283): sizes, free levels, assignment, trailers, release. -/

namespace Sys2Proof.Machine

/-- Where the trailer starts: T of R272. -/
def trailerOff (g : AttGeom) : Nat := g.heads * g.d * 256
/-- The frame size F (R272). -/
def frameSize (g : AttGeom) : Nat := 4096 * cdiv (trailerOff g + 128) 4096
/-- The attention geometry of a model, if it has attention layers. -/
def State.geom (s : State) (m : Nat) : Option AttGeom := (s.model m).bind (·.pkg.attention)
/-- Pool `k`. -/
def State.ppool (s : State) (k : Nat) : PoolSt := s.pages.pools.getD k .unset
/-- The state with a pool changed. -/
def State.onPool (k : Nat) (f : PoolSt → PoolSt) (s : State) : State :=
  s.onPages (fun p => { p with pools := p.pools.modify k f })
/-- Frame set `i`. -/
def State.fset (s : State) (i : Nat) : Option FrameSet := s.pages.sets.find? (·.id == i)
/-- Stack-local offsets of the frames in a stack. -/
def State.usedOffs (s : State) (k : Nat) : List Nat :=
  s.pages.sets.flatMap (fun x => (x.locs.filter (fun l => l.tier == 1 && l.stack == k)).map (·.off))
/-- The stack-local byte offset of a region. -/
def localOff (k region : Nat) : Nat := region * regionSize - stackBase k
/-- Frames of a region that are in use. -/
def usedIn (used : List Nat) (k region : Nat) : Nat :=
  used.countP (fun o => decide (localOff k region ≤ o ∧ o < localOff k region + regionSize))
/-- The frame size of a model, 0 where it has none. -/
def State.modelF (s : State) (m : Nat) : Nat := match s.geom m with | some g => frameSize g | none => 0
/-- The free level φ_s of pool `k` in ‰ (R277); a pool of size 0 has 0 (R275). -/
def State.phi (s : State) (k : Nat) : Nat :=
  let p := s.ppool k
  if p.size2M = 0 then 0
  else
    let used := s.usedOffs k
    let free := p.regions.foldl (fun acc r =>
      let f := s.modelF r.2.1
      acc + (if f = 0 then 0 else (regionSize / f - usedIn used k r.1) * f)) 0
    ((p.size2M - p.regions.length) * regionSize + free) * 1000 / (p.size2M * regionSize)
/-- A free slot of `f` bytes in a region. -/
def freeSlot (used : List Nat) (k region f : Nat) : Option Nat :=
  ((List.range (regionSize / f)).map (fun j => localOff k region + j * f)).find? (fun o => !used.contains o)
/-- A frame for a model and domain in stack `k` (R276): in a region already theirs, else in the lowest unassigned one. -/
def State.takeFrame (s : State) (k model dom : Nat) : Option (Nat × State) :=
  let f := s.modelF model
  if f = 0 then none
  else
    let p := s.ppool k
    let used := s.usedOffs k
    match (p.regions.filter (fun r => r.2.1 == model && r.2.2 == dom)).findSome? (fun r => freeSlot used k r.1 f) with
    | some o => some (o, s)
    | none =>
      let rs := p.runs.flatMap (fun r => (List.range r.2).map (r.1 + ·))
      match rs.find? (fun r => !p.regions.any (·.1 == r) && !s.power.cfg.retired.contains r) with
      | some r => some (localOff k r,
          assignRegions r 1 (mkTag 2 0 dom) dom
            (s.onPool k (fun p => { p with regions := insertBy (·.1) (r, model, dom) p.regions })))
      | none => none
/-- The stack of page `p`, layer `a` over the stacks in service (R282). -/
def State.pageStack (s : State) (dom : Nat) (g : AttGeom) (p a : Nat) : Nat :=
  let stk := s.stksFor dom (s.svcList .nmu)
  stk.getD ((p + g.layerStep * a) % stk.length) 0
/-- Assignment of the frames of a set that are still missing (R284); the Bool: all are assigned now. -/
def assignSet (i : Nat) (s : State) : State × Bool :=
  match s.fset i with
  | none => (s, true)
  | some x =>
    match s.geom x.model with
    | none => (s, true)
    | some g =>
      (List.range g.layers).foldl (fun (acc : State × Bool) a =>
        match (acc.1.fset i).bind (·.locs[a]?) with
        | some l =>
          if l.tier ≠ 0 then acc
          else
            let k := acc.1.pageStack x.dom g x.page a
            match acc.1.takeFrame k x.model x.dom with
            | some (o, s1) =>
              (s1.onSet i (fun y => { y with locs := y.locs.set a { tier := 1, stack := k, off := o, inv := none, sealed := false } }), acc.2)
            | none => (acc.1, false)
        | none => acc) (s, true)
/-- A new frame set of `layers` unassigned frames. -/
def newSet (model dom page layers : Nat) (s : State) : State × Nat :=
  let i := s.pages.nextId
  (s.onPages (fun p => { p with
    nextId := i + 1,
    sets := p.sets ++ [{
      id := i, model := model, dom := dom, page := page,
      locs := List.replicate layers { tier := 0, stack := 0, off := 0, inv := none, sealed := false }, fill := 0, invalid := none,
      refs := 1, tree := false, key := 0, moving := false }] }), i)
/-- The device address of a frame. -/
def frameAddr (l : FrameLoc) : Nat := if l.tier = 2 then 0x100000000000 + l.off else stackBase l.stack + l.off
/-- SHARED of a frame set (R279). -/
def FrameSet.shared (x : FrameSet) : Bool := decide (1 < x.refs) || x.tree
/-- The status that marks a page of a set invalid, if one does (R281). -/
def pageInv (x : FrameSet) (l : FrameLoc) : Option Half := if x.invalid.isSome then x.invalid else l.inv
/-- The DCP's trailer write of every assigned frame of a set (R272, R273); SCALE is +0 for an open page and stays for a sealed one. -/
def writeTrailers (i : Nat) (owner : Nat) (s : State) : State :=
  match s.fset i with
  | none => s
  | some x =>
    match s.geom x.model with
    | none => s
    | some g =>
      x.locs.zipIdx.foldl (fun (m : State) (q : FrameLoc × Nat) =>
        if q.1.tier = 0 then m
        else
          let at_ := frameAddr q.1 + trailerOff g
          let head := natLe 4 (if x.tree then 0 else owner) ++ natLe 1 q.2 ++ natLe 1 x.fill ++
            natLe 1 (b2n q.1.sealed + 2 * b2n (pageInv x q.1).isSome + 4 * b2n x.shared) ++ zeros 1 ++ natLe 4 (64 * x.page) ++
            natLe 2 ((pageInv x q.1).getD 0).toNat ++ zeros 2 ++ natLe 8 x.key.toNat ++ zeros 36
          let scale := if q.1.sealed then MemOps.readN m.mem.dev (at_ + 0x40) 64 else zeros 64
          putMem at_ (head ++ natLe 4 (crc32c (head ++ scale)).toNat ++ scale) m) s
/-- The session whose page table names a frame set, as the OWNER of its trailers; 0 for a set that none names. -/
def State.setOwner (s : State) (i : Nat) : Nat :=
  match s.ctrl.sessions.find? (fun x => x.pages.contains i) with
  | some x => s.handleOf 2 x.idx
  | none => 0
/-- A frame set's pages marked invalid; a first status stays (R281); the trailers are written (R273). -/
def invalidSet (st : Half) (i : Nat) (s : State) : State :=
  writeTrailers i (s.setOwner i) (s.onSet i (fun x => { x with invalid := some (x.invalid.getD st) }))
/-- The page in a frame of a stack marked invalid; a first status stays. -/
def invalidPage (st : Half) (k off : Nat) (s : State) : State :=
  match s.pages.sets.find? (fun x => x.locs.any (fun l => l.tier == 1 && l.stack == k && l.off == off)) with
  | some x => writeTrailers x.id (s.setOwner x.id) (s.onSet x.id (fun y => { y with
      locs := updAll y.locs (fun l => l.tier == 1 && l.stack == k && l.off == off)
        (fun l => { l with inv := some (l.inv.getD st) }) }))
  | none => s
/-- The status of the page in a frame of a stack: OK, or what marked it invalid. -/
def State.pageStatus (s : State) (k off : Nat) : Half :=
  match s.pages.sets.findSome? (fun x => (x.locs.find? (fun l => l.tier == 1 && l.stack == k && l.off == off)).bind (pageInv x)) with
  | some st => st
  | none => stOk
/-- Regions of a pool whose frames are all free return to it (R276). -/
def returnRegions (k : Nat) (s : State) : State :=
  let used := s.usedOffs k
  let gone := (s.ppool k).regions.filter (fun r => usedIn used k r.1 == 0)
  let s1 := gone.foldl (fun s r => releaseRegions r.1 1 s) s
  s1.onPool k (fun p => { p with regions := p.regions.filter (fun r => usedIn used k r.1 != 0) })
/-- The owner word of the regions that a frame set holds in the CXL tier. -/
def setWord (i : Nat) : Word := BitVec.ofNat 32 (0xD0000000 + i % 2 ^ 28)
/-- A frame set freed. -/
def freeSet (i : Nat) (s : State) : State :=
  let s1 := (releaseHeld (setWord i) s).onPages (fun p => { p with sets := p.sets.filter (fun x => !(x.id == i)) })
  (List.range 16).foldl (fun s k => returnRegions k s) s1
/-- A page table gives up a frame set: the last reference frees it (R279). -/
def unrefSet (i : Nat) (s : State) : State :=
  match s.fset i with
  | none => s
  | some x =>
    if x.refs ≤ 1 ∧ x.tree = false then freeSet i s else s.onSet i (fun y => { y with refs := y.refs - 1 })
/-- A page-table entry of 64 bits (R279) in the table of a session whose page holds `fill` positions. -/
def pageEntry (x : FrameSet) (l : FrameLoc) (fill : Nat) : Nat :=
  l.tier * 2 ^ 62 + (if l.tier = 1 then l.stack else 0) * 2 ^ 58 + b2n x.shared * 2 ^ 57 + b2n l.sealed * 2 ^ 56 +
    b2n (pageInv x l).isSome * 2 ^ 55 + fill * 2 ^ 48 + l.off / 4096
/-- The frame sets in ascending session index and page number (R607); sets that no page table names come last. -/
def State.setOrder (s : State) : List FrameSet :=
  sortBy (fun x => ((s.ctrl.sessions.find? (fun y => y.pages.contains x.id)).map (·.idx)).getD (2 ^ 20) * 2 ^ 20 + x.page) s.pages.sets
/-- Runs of ascending regions. -/
def toRuns : List Nat → List (Nat × Nat)
  | [] => []
  | a :: r => match toRuns r with
    | (b, n) :: t => if b = a + 1 then (a, n + 1) :: t else (a, 1) :: (b, n) :: t
    | [] => [(a, 1)]
/-- A pool of `n` regions in stack `k` (R275): it keeps its assigned regions and what else it has, lowest first, and
grows into the lowest free regions of the general area. None where these do not suffice, or the assigned ones exceed
`n`. -/
def State.poolRuns (s : State) (k n : Nat) : Option (List (Nat × Nat)) :=
  let p := s.ppool k
  let have_ := p.runs.flatMap (fun r => (List.range r.2).map (r.1 + ·))
  let kept := have_.filter (fun r => p.regions.any (·.1 == r))
  if n < kept.length then none
  else if n ≤ have_.length then
    let other := (have_.filter (fun r => !p.regions.any (·.1 == r))).take (n - kept.length)
    some (toRuns (have_.filter (fun r => kept.contains r || other.contains r)))
  else (firstRegions (n - have_.length) (s.stackGaps k)).map (fun l => sortBy (·.1) (p.runs ++ l))
/-- Regions that a pool of stack `k` can have beside its own. -/
def State.poolRoom (s : State) (k : Nat) : Nat := (s.stackGaps k).foldl (fun n r => n + r.2) 0
/-- Every frame in HBM re-laid over the stacks in service (R282, R283): each finds its place in the pool of its stack, or its page is
lost. The result names the frame sets that lost a frame. Regions that all frames have left return to their pools (R276). -/
def relaySets (s : State) : State × List Nat :=
  let q := s.setOrder.foldl (fun (acc : State × List Nat) x =>
    match acc.1.geom x.model with
      | none => acc
      | some g =>
        let r := (List.range x.locs.length).foldl (fun (b : State × Bool) a =>
          match x.locs[a]? with
          | some l =>
            let kk := b.1.pageStack x.dom g x.page a
            if l.tier = 1 ∧ l.stack ≠ kk then
              match b.1.takeFrame kk x.model x.dom with
              | some (o, s1) =>
                let l' : FrameLoc := { l with stack := kk, off := o }
                let f := frameSize g
                ((copyMem (frameAddr l) (frameAddr l') f s1).onSet x.id
                  (fun y => { y with locs := y.locs.set a l' }), b.2)
              | none => (b.1, false)
            else b
          | none => b) (acc.1, true)
        if r.2 then (r.1, acc.2) else (r.1, acc.2 ++ [x.id])) (s, [])
  ((List.range 16).foldl (fun (s : State) (k : Nat) => returnRegions k s) q.1, q.2)

/-- Whether a model's pages are FP8 (R114). -/
def State.fp8 (s : State) (model : Nat) : Bool := match s.model model with | some m => m.kvFp8 | none => false
/-- The page in a frame of a stack is sealed already, or is one of a model whose pages are BF16, so that a write that is to leave
it open, or to seal it, breaks R121 or R114. -/
def State.frameSealed (s : State) (k off : Nat) : Bool :=
  s.pages.sets.any (fun x => x.locs.any (fun l => l.tier == 1 && l.stack == k && l.off == off && l.sealed))
def State.frameBf16 (s : State) (k off : Nat) : Bool :=
  s.pages.sets.any (fun x => x.locs.any (fun l => l.tier == 1 && l.stack == k && l.off == off) && !s.fp8 x.model)

end Sys2Proof.Machine
end

