-- ==== Sys2Proof/Machine/Reset.lean ====
section
/-! DEFINITION. The black box's commits and snapshots (R575 to R578), and what each reset kind keeps (R566 to R570). -/

namespace Sys2Proof.Machine

/-! ## The black box -/

/-- The 64 bytes of a record at journal sequence `seq` (table *Black-box record*). -/
def bbBytes (r : BbRec) (seq : Nat) : List Byte :=
  let h := natLe 2 r.type.toNat ++ [r.severity, r.unit] ++ natLe 2 r.status.toNat ++ [r.index, 0] ++ natLe 8 seq ++
    natLe 8 r.beat.toNat ++ natLe 8 r.time.toNat ++ natLe 4 r.bootCount.toNat ++ fit 24 r.data
  h ++ natLe 4 (crc32c h).toNat

/-- The first `n` records of a severity left out: what stays, and how many are still to leave out. -/
def dropSev (sev : Nat) : Nat → List BbRec → List BbRec × Nat
  | n, [] => ([], n)
  | 0, l => (l, 0)
  | n + 1, r :: l =>
    if r.severity.toNat = sev then dropSev sev n l
    else let q := dropSev sev (n + 1) l; (r :: q.1, q.2)
termination_by structural _ l => l

/-- At most 64 records of a window: severity 0 leaves first, then severity 1, and the last place counts the records
dropped (R576). -/
def bbTrim (l : List BbRec) : List BbRec :=
  if l.length ≤ 64 then l
  else
    let a := dropSev 0 (l.length - 63) l
    let b := dropSev 1 a.2 a.1
    let kept := b.1.take 63
    let lastRec := l.getLastD { type := 0, severity := 0, unit := 0, status := 0, index := 0, beat := 0, time := 0, bootCount := 0, data := [] }
    kept ++ [{ lastRec with
      type := 0xFFFE, severity := 1, unit := 0, status := 0, index := 0, data := fit 24 (natLe 4 (l.length - 63)) }]

/-- One record into the journal ring, and into the fault ring if its severity is 2 or 3 (R576). -/
def bbWrite (b : BbSt) (r : BbRec) : BbSt :=
  let bytes := bbBytes r b.journalSeq.toNat
  let m1 := MemOps.writeN b.mram (0x210000 + b.journalSeq.toNat % 194560 * 64) bytes
  let hard := decide (2 ≤ r.severity.toNat)
  { b with
    mram := if hard then MemOps.writeN m1 (0x10000 + b.faultSeq.toNat % 32768 * 64) bytes else m1,
    journalSeq := b.journalSeq + 1, faultSeq := if hard then b.faultSeq + 1 else b.faultSeq }

/-- The anchor (R577). -/
def anchorBytes (b : BbSt) (boot : Nat) : List Byte :=
  let h := natLe 2 1 ++ zeros 2 ++ natLe 4 boot ++ natLe 8 b.commitSeq.toNat ++ natLe 8 b.journalSeq.toNat ++
    natLe 8 b.faultSeq.toNat ++ [b.snapSlot] ++ zeros 7 ++ natLe 8 b.snapSeq.toNat ++ zeros 12
  h ++ natLe 4 (crc32c h).toNat

/-- The commit at a window's end: the records, then the older anchor copy (R576); SNAP_SLOT changes at the commit that
follows a snapshot's last byte (R578). A window without records and without a snapshot commits nothing. -/
def bbCommitAll (s : State) : State :=
  s.onBb (fun b =>
    if b.window.isEmpty && b.snapDone.isNone then b
    else
      let b1 := (bbTrim b.window).foldl bbWrite { b with window := [] }
      let c := b1.commitSeq + 1
      let b2 := { b1 with
        commitSeq := c, snapSlot := b1.snapDone.getD b1.snapSlot,
        snapSeq := if b1.snapDone.isSome then c else b1.snapSeq, snapDone := none }
      { b2 with mram := MemOps.writeN b2.mram (b1.commitSeq.toNat % 2 * 0x1000) (anchorBytes b2 s.rot.bootCount.toNat) })

/-- A summary of a session in a snapshot: handle, positions, STATE, last status. -/
def snapSession (s : State) (x : Session) : List Byte :=
  fit 32 (natLe 4 (s.handleOf 2 x.idx) ++ natLe 4 x.positions ++ natLe 1 x.state ++ zeros 1 ++ natLe 2 x.lastStatus.toNat)
/-- A planned command in a snapshot: its tag and status. -/
def snapCmd (p : PCmd) : List Byte := natLe 4 (fld p.t.word 0x1C 4) ++ natLe 2 p.status.toNat ++ zeros 2
/-- `n` free bytes: contents whose layout the spec does not give (log entry 11). -/
def freeBytes (c n : Nat) : List Byte := (List.range n).map (fun i => BitVec.ofNat 8 (Config.freeWord (c + i)).toNat)

/-- The last `n` records of the journal ring, the oldest first. -/
def journalTail (b : BbSt) (n : Nat) : List Byte :=
  let k := min n b.journalSeq.toNat
  let i := (b.journalSeq.toNat - k) % 194560
  let m := min k (194560 - i)
  MemOps.readN b.mram (0x210000 + i * 64) (64 * m) ++ MemOps.readN b.mram 0x210000 (64 * (k - m))

/-- The 1 MiB of a snapshot (R578): header, journal tail, registers, sessions, plans, input history. -/
def snapshotBytes (s : State) (cause kind : Nat) : List Byte :=
  let secs : List (Nat × Nat × List Byte) := [
    (0x1000, 0x40000, fit 0x40000 (journalTail s.bb 4096)),
    (0x41000, 0x10000, freeBytes s.freeCtr 0x10000),
    (0x51000, 0x20000, fit 0x20000 (s.ctrl.sessions.flatMap (snapSession s))),
    (0x71000, 0x80000, fit 0x80000 ((s.plan.cur ++ (match s.plan.next with | some n => n.2.1 | none => [])).flatMap snapCmd)),
    (0xF1000, 0x3000, freeBytes (s.freeCtr + 0x10000) 0x3000)]
  let head := natLe 2 1 ++ natLe 1 cause ++ natLe 1 kind ++ natLe 8 s.beat.number.toNat ++
    natLe 4 s.rot.bootCount.toNat ++ natLe 4 (b2n (cause == 4)) ++
    secs.zipIdx.flatMap (fun p => freeBytes (s.freeCtr + 0x13000 + 4 * p.2) 4 ++ natLe 4 p.1.1 ++ natLe 4 p.1.2.1 ++
      natLe 4 (crc32c p.1.2.2).toNat)
  fit 0x100000 (fit 0x1000 head ++ secs.flatMap (·.2.2))

/-- A snapshot into the slot that does not hold the newest valid one (R578). -/
def writeSnapshot (cause kind : Nat) (s : State) : State :=
  let slot : Nat := if s.bb.snapSlot = 0 then 1 else 0
  let bytes := snapshotBytes s cause kind
  { s with freeCtr := s.freeCtr + 0x14000 }.onBb (fun b => { b with
    mram := MemOps.writeN b.mram (0xE00000 + slot * 0x100000) bytes, snapDone := some (BitVec.ofNat 8 slot) })

/-! ## Resets of the whole module -/

/-- The image in the slot that is not active: where a trial boots from. -/
def ImgType.trialSlot (i : ImgType) : Option Image := if i.active then i.slotA else i.slotB
/-- The image in the active slot. -/
def ImgType.activeSlot (i : ImgType) : Option Image := if i.active then i.slotB else i.slotA
/-- SVN of an image's header. -/
def imgSvn (i : Option Image) : Nat := match i with | some b => fld b 4 1 | none => 0
/-- What a reset that loads images makes of an image type's trial (R538, R539): an uncommitted trial reverts, a pending
image boots as trial at a module or warm reset. The Bool: a revert happened. -/
def imgReset (kind : Nat) (i : ImgType) : ImgType × Bool :=
  let base := { i with running := false, measured := 0, runSvn := 0, runKey := 0 }
  if i.trial then ({ base with trial := false, pending := false }, true)
  else if i.pending && kind ≠ 0 then ({ base with trial := true, pending := false }, false)
  else (base, false)

/-- The state right after a power-on (0), module (1) or warm (2) reset of a cause (R566, R570): what is kept is kept,
everything else is at its reset value, and boot has not run yet. -/
def fullReset (kind cause : Nat) (s : State) : State :=
  let imgs := s.rot.imgs.map (imgReset kind)
  let cfg := s.power.nor.stored
  let r : State := {
    State.reset with
    freeCtr := s.freeCtr, pending := s.pending, bb := s.bb,
    rot := { State.reset.rot with
      rootPub := s.rot.rootPub, uds := s.rot.uds, revoked := s.rot.revoked, cust := s.rot.cust,
      imgs := imgs.map (·.1), certs := s.rot.certs, siliconRev := s.rot.siliconRev, drbg := s.rot.drbg,
      unlockedFor := if kind = 2 then (match s.rot.debugPending with | some d => some d | none => s.rot.unlockedFor) else none,
      bootCount := s.rot.bootCount + 1, released := true, dcpReady := false },
    safe := { State.reset.safe with
      safetyDomain := cfg.safetyDomain, outFail := if kind = 2 then s.safe.outFail else false },
    mem := { State.reset.mem with memMode := cfg.memMode },
    links := { State.reset.links with moduleId := cfg.moduleId },
    power := { (if kind = 0 then State.reset.power else { s.power with wanted := none, failing := false, highBeats := 0 }) with
      cfg := cfg, nor := s.power.nor, mode := .active,
      capW := BitVec.ofNat 16 cfg.capW,
      effective := BitVec.ofNat 16 (min cfg.capW (if kind = 0 then 2400 else s.power.thermalCap)),
      rstCause := BitVec.ofNat 8 cause, rstKind := BitVec.ofNat 2 kind,
      computeResets := if kind = 0 then 0 else s.power.computeResets, vin := s.power.vin,
      timeUs := if kind = 0 then 0 else s.power.timeUs },
    pins := { State.reset.pins with gpioIn := s.pins.gpioIn, refclkHold := s.pins.refclkHold } }
  let r0 := windowParts r
  let r1 := (imgs.zip s.rot.imgs).zipIdx.foldl (fun (r : State) (p : ((ImgType × Bool) × ImgType) × Nat) =>
    if p.1.1.2 then bbAdd 0x61 1 0 0 stOk (natLe 1 (p.2 + 1) ++ natLe 1 (imgSvn p.1.2.trialSlot) ++ natLe 1 2) r else r) r0
  bbAdd 0x01 1 0 0 stOk (natLe 8 (cause * 256 + kind)) r1

/-- The record of a reset (table *Record types*). -/
def resetRecord (kind cause : Nat) (s : State) : State :=
  bbAdd 0x02 2 0 0 stOk (natLe 1 kind ++ natLe 1 cause) s

/-- The cause of a hold that a reset or a DCP fault asserts (R513). -/
def holdReset (s : State) : State := assertHold 0x0C 0 0 0xFF s

/-- A reset of a kind comes while a reset of the whole module that is as broad runs, and is part of it (R567): it runs until the DCP is
ready, or the module is in recovery. -/
def State.absorbs (s : State) (kind : Nat) : Bool :=
  s.rot.released && !s.rot.dcpReady && !s.rot.recovery && decide (s.power.rstKind.toNat ≤ kind)
/-- A module reset: the journal is committed first, no snapshot. Ignored during a power-fail sequence (R567). -/
def moduleResetTo (cause : Nat) (s : State) : State :=
  if s.power.failing || s.absorbs 1 then s else fullReset 1 cause (bbCommitAll (resetRecord 1 cause s))
/-- A warm device reset runs: the hold, the record and the snapshot, then the reset (R513, R566, R568). -/
def warmRun (cause : Nat) (s : State) : State :=
  fullReset 2 cause (bbCommitAll (writeSnapshot cause 2 (bbCommitAll (resetRecord 2 cause (holdReset s)))))
/-- A cause of a warm device reset (R567). -/
def warmResetTo (cause : Nat) (s : State) : State := if s.power.failing || s.absorbs 2 then s else warmRun cause s
/-- A fault in the DCP under R30: a warm device reset. R30 names no CAUSE for a malformed command word found at run time: 0x04, the
DCP's own, is taken (DESIGN CHOICE, log entry 29). -/
def dcpFault (s : State) : State := warmResetTo 0x04 s

/-! ## Faulted sessions, zeroed channels (R442, R514, R569) -/

/-- A fault zeroing of an output channel (R442): a stop that replaces any pending change, whose requests complete with
the status of the fault. A close, which is a stop too, ends with it (R491). -/
def faultZero (st : Half) (ch : Nat) (s : State) : State :=
  match s.channel ch with
  | none => s
  | some c =>
    let s1 := match c.pendingCh with
      | some g => g.clients.foldl (fun (s : State) (q : Nat × Nat) => complete q.1 q.2 st [] s) s
      | none => s
    s1.onChannel ch (fun c => { c with
      faultStatus := some (c.faultStatus.getD st),
      pendingCh := some {
        gain := none, run := some false, mute := none, beat := s.beat.number.toNat + 2, s0 := none,
        closing := (c.pendingCh.map (·.closing)).getD false, clients := [] } })

/-- A session faulted in this beat (R514): no step after the plan of the next beat, an EVENT, its output channel zeroed. Its
reservation is released after that step's record. -/
def faultSession (st : Half) (i : Nat) (s : State) : State :=
  match s.session i with
  | none => s
  | some x =>
    if x.faulted.isSome then s
    else
      let s1 := s.onSession i (fun y => { y with faulted := some (s.beat.number.toNat, st), state := 3, lastStatus := st })
      let s3 := eventRec x.client (BitVec.ofNat 32 (s.handleOf 2 i)) st s1
      if x.outCh = 0 then s3 else faultZero st (hIdx x.outCh.toNat) s3

/-! ## Class B work that ends early -/

/-- The owner word of regions that a STATE_COPY holds until its object has a handle. -/
def copyOwner (client mbox : Nat) : Word := BitVec.ofNat 32 (0xE0000000 + client % 256 * 16 + mbox % 16)
/-- A STATE_COPY that ends without its object gives up its regions, and its source has one copy less in progress. -/
def endCopy (b : BWork) (s : State) : State :=
  match b.kind with
  | .stateCopy => (releaseHeld (copyOwner b.client b.mbox) s).onObj b.obj (fun o => { o with copies := o.copies - 1 })
  | _ => s
/-- Class B work that a test names ends: its messages complete with a status and the work leaves the planner. -/
def endWork (p : BWork → Bool) (st : Half) (s : State) : State :=
  let mine := s.plan.bwork.filter p
  let s1 := s.onPlan (fun k => { k with bwork := k.bwork.filter (fun b => !p b) })
  mine.foldl (fun (s : State) (b : BWork) =>
    let s2 := endCopy b s
    if ((s2.box b.client b.mbox).map (·.own)).getD false then complete b.client b.mbox st [] s2 else s2) s1

/-- The owner word of regions that a swap has taken at its destination. -/
def swapOwner (i : Nat) : Word := BitVec.ofNat 32 (0xF0000000 + i)
/-- All class B work ends: its requests complete with a status, swaps and page moves with it. -/
def endBackground (st : Half) (s : State) : State :=
  let s1 := endWork (fun _ => true) st s
  let s2 := (s1.ctrl.objs.filter (fun o => o.swap.isSome)).foldl (fun (s : State) (o : StateObj) =>
    match o.swap with
    | some w =>
      let t := (releaseHeld (swapOwner o.idx) s).onObj o.idx (fun o => { o with swap := none })
      if ((t.box w.client w.mbox).map (·.own)).getD false then complete w.client w.mbox st [] t else t
    | none => s) s1
  (s2.onCtrl (fun k => { k with sessions := k.sessions.map (fun x => { x with prefill := none }) })).onPages (fun k => { k with
    sets := k.sets.map (fun x => { x with moving := false }) })

/-! ## The compute reset (R566, R569, R570) -/

/-- The cluster after a reset of its unit: registers and stores at their reset values, the programs and the sets the DCP
restores from its records kept (R569, R570). -/
def clusterAfter (k : ClusterSt) : ClusterSt :=
  { ClusterSt.reset with
    ve := { VeSt.reset with imem := k.ve.imem },
    sfu := { SfuSt.reset with bankA := k.sfu.bankA, bankB := k.sfu.bankB } }
/-- The NMU after a reset of its unit: NMU_SHARE restored from the DCP's records. -/
def nmuAfter (k : NmuSt) : NmuSt :=
  { NmuSt.reset with ifPm := k.ifPm, attPm := k.attPm, gemvPm := k.gemvPm, expTables := k.expTables }
/-- A link after a compute reset: keys, counters, epochs and buffers gone (R570); ENABLE and the streams' entries
restored. A link that is not fenced trains. -/
def linkAfter (fenced : Bool) (k : LinkSt) : LinkSt :=
  { LinkSt.reset with enable := k.enable, training := k.enable && !fenced, streams := k.streams }
/-- The links, each changed by what it is and by whether it is fenced. -/
def State.mapLinks (s : State) (f : Bool → LinkSt → LinkSt) : List LinkSt :=
  s.links.links.zipIdx.map (fun p => f (s.svc ⟨.link, p.2⟩ == .fenced) p.1)

/-- A link that is fenced or retrains: keys, numbers, buffers and DLK_DELAY gone, its flags and error counts kept (R389,
R405, R570). -/
def linkDown (k : LinkSt) : LinkSt :=
  { LinkSt.reset with
    enable := k.enable, streams := k.streams, orphan := k.orphan, peerFail := k.peerFail,
    laneFail := k.laneFail, corrupt := k.corrupt, authFail := k.authFail, replay := k.replay, naks := k.naks,
    authFails := k.authFails, corruptBlocks := k.corruptBlocks, fecUncorr := k.fecUncorr, naksBeat := k.naksBeat,
    wire := k.wire }

/-- The Compute Die, the Cache Die, the Link Dies and the NMUs at their reset values, with what the DCP restores; the
stacks keep their contents (R566, R570). Their checkers start their diagnostic test intervals anew, and their
blaze frames run again (R507). -/
def enginesReset (s : State) : State :=
  { s with
    clusters := s.clusters.map clusterAfter, nmus := s.nmus.map nmuAfter, merges := [],
    yard := { YardSt.reset with
      yards := s.yard.yards.map (fun y => { YarderSt.reset with outB := y.outB, outI := y.outI, outD := y.outD }),
      remotePm := s.yard.remotePm, writePm := s.yard.writePm, readPm := s.yard.readPm },
    mem := { s.mem with
      lines := [],
      dev := s.mem.dev.filter (fun c => decide (¬ (0x080000000000 ≤ c.1 ∧ c.1 < 0x100000000000))) },
    links := { s.links with links := s.mapLinks linkAfter, reads := [], dones := [] },
    safe := { s.safe with lastPass := [], failedTests := [], blazed := [], blazeBoot := 0 } }

/-- Ticks stop; a reference or an announced tick does not outlast it, the number does (R569 5). -/
def BeatSt.halt (b : BeatSt) : BeatSt :=
  { b with ticked := false, nextTick := none, nextNumber := none, refTime := none, qualified := false, markerSeen := false }
/-- Stop-word slots end with their reservations (R569 2, R570): a start that waits completes with INTEGRITY_FAIL, a stop
with OK. -/
def endSlots (s : State) : State :=
  let own := fun (t : State) (c m : Nat) => ((t.box c m).map (·.own)).getD false
  let s1 := s.ctrl.slots.foldl (fun (s : State) (w : SwSlot) =>
    let s1 := if !w.started && own s w.client w.mbox then complete w.client w.mbox stIntegrityFail [] s else s
    match w.stopMsg with
    | some p => if own s1 p.1 p.2 then complete p.1 p.2 stOk [] s1 else s1
    | none => s1) s
  (s1.onCtrl (fun k => { k with slots := [] })).onSafe (fun k => { k with swRun := 0 })
/-- The end of a compute reset: the engines at their reset values, no plan, no tick; what the DCP and the Control Die hold stays
(R569 4 and 5, R570). -/
def computeEnd (cause : Nat) (s : State) : State :=
  { enginesReset s with
    plan := { PlanSt.reset with seq := s.plan.seq, suspendedModels := s.plan.suspendedModels },
    power := { s.power with
      computeResets := satInc s.power.computeResets, rstCause := BitVec.ofNat 8 cause, rstKind := 3 },
    rot := { s.rot with challenge := none },
    beat := s.beat.halt }
/-- A compute reset whose cause arises in this beat. -/
def computeResetTo (cause : Nat) (s : State) : State :=
  if s.power.failing || s.absorbs 3 then s
  else
    let s0 := writeSnapshot cause 3 (bbCommitAll (resetRecord 3 cause (holdReset s)))
    -- what commands that have not completed write becomes invalid (R569 1)
    let open_ := s0.plan.cur.filter (fun p => p.run != .done)
    let s1 := open_.foldl (fun (s : State) (p : PCmd) =>
      (s.setsOf p).foldl (fun s i => invalidSet stIntegrityFail i s)
        ((s.objsOf p).foldl (fun s i => invalidObj stIntegrityFail i s) s)) s0
    -- decoding sessions are faulted, output channels zeroed (R569 2)
    let s2 := (s1.ctrl.sessions.filter (fun x => x.state == 2)).foldl (fun s x => faultSession stIntegrityFail x.idx s) s1
    let s3 := (s2.audio.chans.filter (fun c => fld c.record 0 1 == 2)).foldl (fun s c =>
      (faultZero stIntegrityFail c.idx s).onChannel c.idx (fun c => { c with zeroed := true })) s2
    -- class B requests complete with INTEGRITY_FAIL (R569 3)
    computeEnd cause (endSlots (endBackground stIntegrityFail s3))

end Sys2Proof.Machine
end

