-- ==== Sys2Proof/Machine/Placement.lean ====
section
/-! DEFINITION. Code tensors in memory (R97 to R103): shapes, stripes, the contiguous and the interleaved layout, and a
model's place in the stacks. -/

namespace Sys2Proof.Machine

/-! ## Shapes -/

/-- FORM of a tensor header. -/
def tnForm (h : List Byte) : Nat := fld h 2 1
/-- STRIPED of a tensor header. -/
def tnStriped (h : List Byte) : Bool := (fld h 3 1).testBit 0
/-- Byte-columns of N outputs (section "Code tensors in memory"). -/
def tnNb (form n : Nat) : Nat := if form = 1 then cdiv n 2 else n
/-- Slices of K inputs. -/
def tnSlices (k : Nat) : Nat := cdiv k 512
/-- Bytes of a codebook record (table *Codebook forms*). -/
def tnRecord (form : Nat) : Nat := if form = 1 then 32 else if form = 4 then 512 else 64
/-- C of a stripe in the contiguous layout. -/
def tnCols (striped : Bool) (nb : Nat) : Nat := if striped then 64 * cdiv nb 1024 else 64 * cdiv nb 64
/-- Scales of a stripe with C byte-columns (R102). -/
def tnScales (form c : Nat) : Nat := if form = 1 ∨ form = 2 then 2 * c else c
/-- SCALE_OFFSET (R100). -/
def tnScaleOff (form k : Nat) : Nat := 0x40 + 8 * tnSlices k * tnRecord form
/-- CODE_OFFSET (R100). -/
def tnCodeOff (form k c : Nat) : Nat := 4096 * cdiv (tnScaleOff form k + 4 * tnScales form c) 4096
/-- CODE_BYTES (R100). -/
def tnCodeBytes (k c : Nat) : Nat := c / 64 * tnSlices k * 32768
/-- Bytes of a stripe region. -/
def tnRegion (form k c : Nat) : Nat := tnCodeOff form k c + tnCodeBytes k c

/-! ## The interleaved layout (R99) -/

/-- Bytes `[off, off + n)` of a region. -/
def cut (l : List Byte) (off n : Nat) : List Byte := (l.drop off).take n
/-- The code bytes of group `b` of 64 byte-columns, from the stripes of a package. -/
def groupCodes (form k c : Nat) (stripes : List (List Byte)) (b : Nat) : List Byte :=
  cut (stripes.getD (b / (c / 64)) []) (tnCodeOff form k c + b % (c / 64) * tnSlices k * 32768) (tnSlices k * 32768)
/-- The scale bytes of group `b`, one part for each matrix. -/
def groupScales (form k c : Nat) (stripes : List (List Byte)) (b : Nat) : List Byte × List Byte :=
  let st := stripes.getD (b / (c / 64)) []
  let base := tnScaleOff form k
  let jb := b % (c / 64)
  if form = 1 then (cut st (base + jb * 512) 512, [])
  else if form = 2 then (cut st (base + jb * 256) 256, cut st (base + 4 * c + jb * 256) 256)
  else (cut st (base + jb * 256) 256, [])
/-- One stripe region from its parts, offsets and both CRCs computed for its C. -/
def buildStripe (h : List Byte) (c idx : Nat) (inter : Bool) (cb scales codes : List Byte) : List Byte :=
  let form := tnForm h
  let k := fld h 0x08 4
  let head := h.take 2 ++ natLe 1 form ++ natLe 1 (b2n (tnStriped h) + 2 * b2n inter) ++ natLe 4 (fld h 4 4) ++
    natLe 4 k ++ natLe 2 idx ++ zeros 2 ++ natLe 4 c ++ natLe 4 0x40 ++ natLe 4 (tnScaleOff form k) ++
    natLe 4 (tnCodeOff form k c) ++ natLe 8 (tnCodeBytes k c) ++ natLe 4 (crc32c (cb ++ scales)).toNat ++ zeros 16
  fit (tnCodeOff form k c) (head ++ natLe 4 (crc32c head).toNat ++ cb ++ scales) ++ codes
/-- The stripes of a striped tensor over `n` stacks (R98, R99); `x` is the tensor's index in its package. -/
def layoutStripes (stripes : List (List Byte)) (x n : Nat) : List (List Byte) :=
  if n = 16 then stripes
  else
    let h := (stripes.getD 0 []).take 64
    let form := tnForm h
    let k := fld h 0x08 4
    let nb := tnNb form (fld h 4 4)
    let c := tnCols true nb
    let cb := cut (stripes.getD 0 []) 0x40 (8 * tnSlices k * tnRecord form)
    (List.range n).map (fun i =>
      let groups := (List.range (cdiv nb 64)).filter (fun b => (b % n + x) % n == i)
      let sc := groups.map (groupScales form k c stripes)
      buildStripe h (64 * groups.length) i true cb (sc.flatMap (·.1) ++ sc.flatMap (·.2))
        (groups.flatMap (groupCodes form k c stripes)))

/-! ## A model in the stacks -/

/-- The handle of a model as the owner of regions. -/
def State.modelHandle (s : State) (i : Nat) : Word := BitVec.ofNat 32 (s.handleOf 4 i)
/-- One stripe written into a free run of a stack, or of any tier for a stripe that may lie anywhere. -/
def placeStripe (owner : Word) (dom : Nat) (stack : Option Nat) (bytes : List Byte) (s : State) :
    Option ((Nat × Nat × Nat) × State) :=
  let n := cdiv bytes.length regionSize
  let run := match stack with
    | some k => (s.stackRun k n).map (fun r => (k, r))
    | none => match s.anyStackRun dom n with
      | some q => some q
      | none => (s.anyPortRun dom n).map (fun (q : Nat × Nat) => (16 + q.1, q.2))
  run.map (fun (q : Nat × Nat) =>
    let a := q.2 * regionSize
    ((q.1, a, bytes.length),
     (putMem a bytes (assignRegions q.2 n (mkTag 1 1 dom) dom s)).onMem (fun m => { m with held := m.held ++ [(a, n, owner)] })))
/-- The stripes of one tensor placed: a striped tensor over the stacks listed, one stripe in each. -/
def placeTensor (owner : Word) (dom : Nat) (stks : List Nat) (tensor : List (List Byte)) (x : Nat) (s : State) :
    Option (List (Nat × Nat × Nat) × State) :=
  if tnStriped ((tensor.getD 0 []).take 64) then
    ((layoutStripes tensor x stks.length).zip stks).foldl
      (fun (acc : Option (List (Nat × Nat × Nat) × State)) (p : List Byte × Nat) =>
        acc.bind (fun q => (placeStripe owner dom (some p.2) p.1 q.2).map (fun r => (q.1 ++ [r.1], r.2))))
      (some ([], s))
  else (placeStripe owner dom none (tensor.getD 0 []) s).map (fun r => ([r.1], r.2))
/-- Regions of some placed stripes given up. -/
def releaseStripes (l : List (Nat × Nat × Nat)) (s : State) : State :=
  l.foldl (fun (s : State) (p : Nat × Nat × Nat) =>
    (releaseRegions (p.2.1 / regionSize) (cdiv p.2.2 regionSize) s).onMem (fun m => { m with
      held := m.held.filter (fun h => decide (h.1 ≠ p.2.1)) })) s
/-- Every tensor of a package placed. -/
def placeModel (owner : Word) (dom : Nat) (stks : List Nat) (pkg : Package) (s : State) :
    Option (List (List (Nat × Nat × Nat)) × State) :=
  pkg.tensors.zipIdx.foldl
    (fun (acc : Option (List (List (Nat × Nat × Nat)) × State)) (p : List (List Byte) × Nat) =>
      acc.bind (fun q => (placeTensor owner dom stks p.1 p.2 q.2).map (fun r => (q.1 ++ [r.1], r.2))))
    (some ([], s))
/-- A loaded model re-laid for a list of stacks, one tensor at a time: the new stripes first, then the old regions given
up (R99). The tensors that `touch` names move. -/
def relayModel (i : Nat) (stks : List Nat) (touch : List (Nat × Nat × Nat) → Bool) (s : State) : Option State :=
  match s.model i with
  | none => some s
  | some m =>
    (m.pkg.tensors.zip m.stripes).zipIdx.foldl
      (fun (acc : Option State) (p : (List (List Byte) × List (Nat × Nat × Nat)) × Nat) =>
        acc.bind (fun t =>
          if !(tnStriped ((p.1.1.getD 0 []).take 64) || touch p.1.2) then some t
          else (placeTensor (s.modelHandle i) m.dom (s.stripeStks m.dom stks) p.1.1 p.2 t).map (fun r =>
            (releaseStripes p.1.2 r.2).onModel i (fun x => { x with stripes := x.stripes.set p.2 r.1 }))))
      (some s)
/-- The tensors of a loaded model that have a piece at a place moved elsewhere, one at a time, over the units in service; none where one
finds no room. -/
def moveTensors (i place : Nat) (s : State) : Option State :=
  match s.model i with
  | none => some s
  | some m =>
    (m.pkg.tensors.zip m.stripes).zipIdx.foldl
      (fun (acc : Option State) (p : (List (List Byte) × List (Nat × Nat × Nat)) × Nat) =>
        acc.bind (fun t =>
          if !p.1.2.any (fun q => q.1 == place) then some t
          else (placeTensor (s.modelHandle i) m.dom (s.stripeStks m.dom (s.svcList .nmu)) p.1.1 p.2 t).map (fun r =>
            (releaseStripes p.1.2 r.2).onModel i (fun x => { x with stripes := x.stripes.set p.2 r.1 }))))
      (some s)

end Sys2Proof.Machine
end

