-- ==== Sys2Proof/Machine/Skid.lean ====
section
/-! DEFINITION. Skid queues (R327 to R334) and what a stream that stops leaves in them (R332). -/

namespace Sys2Proof.Machine

/-- Entries a queue holds (R306). -/
def skidCap : Nat := 64
/-- Skid queue `q`; a number past the last names none and reads as an empty one. -/
def State.skid (s : State) (q : Nat) : SkidQ := s.yard.skids.getD q .empty
/-- The state with a skid queue changed; a number that names none changes nothing. -/
def State.onSkid (q : Nat) (f : SkidQ → SkidQ) (s : State) : State :=
  s.onYard (fun k => { k with skids := k.skids.modify q f })
/-- The queue takes one more entry. -/
def SkidQ.room (q : SkidQ) : Bool := decide (q.entries.length < skidCap)
/-- A push: the entry takes the queue's count as its SEQ (R327). A full queue takes none. -/
def SkidQ.push (addr len : Nat) (st : Half) (q : SkidQ) : SkidQ :=
  if q.room then
    { q with
      entries := q.entries ++ [{ addr := addr % 2 ^ 60, len := len % 2 ^ 32, status := st, seq := q.pushSeq }],
      pushSeq := q.pushSeq + 1 }
  else q
/-- Waiting placeholders join a queue as far as it has room; they take their SEQ as they join it. -/
def SkidQ.takeLate : Nat → SkidQ → SkidQ
  | 0, q => q
  | n + 1, q =>
    match q.late with
    | e :: r => if q.room then SkidQ.takeLate n ({ q with late := r }.push e.addr e.len e.status) else q
    | [] => q
/-- `n` entries popped (R330). -/
def SkidQ.pop (n : Nat) (q : SkidQ) : SkidQ :=
  SkidQ.takeLate q.late.length
    { q with entries := q.entries.drop n, popSeq := q.popSeq + BitVec.ofNat 16 (min n q.entries.length) }
/-- A placeholder pushed: one that meets a full queue waits for room, so that its consumer does not wait for ever (R332, R333; log
entry 42). -/
def SkidQ.place (addr : Nat) (st : Half) (q : SkidQ) : SkidQ :=
  if q.room && q.late.isEmpty then q.push addr 0 st
  else { q with late := q.late ++ [{ addr := addr, len := 0, status := st, seq := 0 }] }
/-- The device address a global address names in the local map. -/
def devAddr (ga : Nat) : Nat := ga % 2 ^ 48
/-- The ADDR field of descriptor `k` of a list in memory. -/
def State.descAddr (s : State) (base k : Nat) : Nat := leNat (MemOps.readN s.mem.dev (base + 32 * k) 8) % 2 ^ 60
/-- SKID_OUT of a yarder command word, if it has one. -/
def skidOut (w : List Byte) : Option Nat := if fld w 0x22 2 = 0xFFFF then none else some (fld w 0x22 2)
/-- The list whose descriptors a yarder command pushes for, and how many they are: a COPY's destination list. -/
def pushList (w : List Byte) : Nat × Nat :=
  if fld w 0 1 = 0x21 then (fld w 0x18 8, fld w 0x12 2) else (fld w 8 8, fld w 0x10 2)
/-- One placeholder for each descriptor from `done` on that a stopped stream still owes (R332). -/
def placeholders (w : List Byte) (done : Nat) (st : Half) (s : State) : State :=
  match skidOut w with
  | none => s
  | some q =>
    let l := pushList w
    ((List.range l.2).drop done).foldl (fun (s : State) (k : Nat) =>
      s.onSkid q (SkidQ.place (s.descAddr l.1 k) st)) s
/-- Every context of a stream number at a yarder. -/
def State.ctx (s : State) (y num : Nat) : Option StreamCtx := (s.yarder y).ctxs.find? (·.num == num)
/-- A stream stops where it stands (R332, R314): its context is free, its outstanding transfers are dropped. -/
def stopStream (y num : Nat) (st : Half) (s : State) : State :=
  match s.ctx y num with
  | none => s
  | some c =>
    placeholders c.word c.pushed st
      (s.onYarder y (fun k => { k with ctxs := k.ctxs.filter (fun x => !(x.num == num)) }))
/-- A yarder command of the beat ends before its list does: a running stream stops, one that never started gets its
placeholders all the same (R332). -/
def dropStream (c : PCmd) (st : Half) (s : State) : State :=
  match c.t.engine with
  | .yarder y => if (s.ctx y c.stream).isSome then stopStream y c.stream st s else placeholders c.t.word 0 st s
  | _ => s

end Sys2Proof.Machine
end

