-- ==== Sys2Proof/Machine/React.lean ====
section
/-! DEFINITION. What follows when work is invalid, a unit leaves service or its data is lost (R29 to R35, R62, R281, R350,
R389, R513, R522, R607). -/

namespace Sys2Proof.Machine

/-! ## Work, sessions, models -/

/-- A session's decode reservation released. -/
def releaseDecode (i : Nat) (s : State) : State :=
  let h := BitVec.ofNat 32 (s.handleOf 2 i)
  s.onPlan (fun p => { p with resvs := p.resvs.filter (fun r => !(r.kind == .decode && r.obj == h)) })

/-- A session stops (R286): its pending work completes with the status, its class I and B work is released, it keeps its
pages and stays open. -/
def stopSession (st : Half) (i : Nat) (s : State) : State :=
  match s.session i with
  | none => s
  | some x =>
    let s1 := releaseDecode i s
    let s2 := endWork (fun b => (b.kind == .prefill || b.kind == .pageBack || b.kind == .reuse) && b.obj == i) st s1
    let s3 := s2.onSession i (fun y => { y with state := 3, lastStatus := st, left := 0, prefill := none })
    eventRec x.client (BitVec.ofNat 32 (s.handleOf 2 i)) st s3

/-- A model is suspended (R34, R364): its pending work completes with the status, its sessions keep their state and pages,
its reservations stay suspended. -/
def suspendModel (st : Half) (i : Nat) (s : State) : State :=
  match s.model i with
  | none => s
  | some m =>
    let mine := fun (b : BWork) => s.ctrl.sessions.any (fun x => decide (x.idx = b.obj ∧ x.model = i))
    let s0 := endWork (fun b => (b.kind == .prefill || b.kind == .pageBack || b.kind == .reuse) && mine b) st s
    let s1 := s0.onCtrl (fun k => { k with sessions := k.sessions.map (fun x =>
      if x.model = i then { x with prefill := none } else x) })
    let s2 := s1.onPlan (fun p => { p with resvs := updAll p.resvs (fun r => r.model == i) (fun r => { r with suspended := true }) })
    let hit := s2.ctrl.sessions.filter (fun x => x.model == i && x.state == 2)
    let s3 := hit.foldl (fun (s : State) (x : Session) =>
      eventRec x.client (BitVec.ofNat 32 (s.handleOf 2 x.idx)) st
        (s.onSession x.idx (fun y => { y with state := 4, lastStatus := st }))) s2
    eventRec m.client (s.modelHandle i) st s3

/-- A model resumes (R34): its reservations and sessions run again. -/
def resumeModel (i : Nat) (s : State) : State :=
  match s.model i with
  | none => s
  | some m =>
    let s2 := s.onPlan (fun p => { p with resvs := updAll p.resvs (fun r => r.model == i) (fun r => { r with suspended := false }) })
    let hit := s2.ctrl.sessions.filter (fun x => x.model == i && x.state == 4)
    let s3 := hit.foldl (fun (s : State) (x : Session) =>
      eventRec x.client (BitVec.ofNat 32 (s.handleOf 2 x.idx)) stOk (s.onSession x.idx (fun y => { y with state := 2 }))) s2
    eventRec m.client (s.modelHandle i) stOk s3

/-- Models without templates for the units in service are suspended, models that have them again resume (R34). -/
def reviewModels (s : State) : State :=
  (s.ctrl.models.filter (·.loaded)).foldl (fun (s : State) (m : Model) =>
    let listed := s.plan.suspendedModels.contains m.idx
    if !s.modelFits m && !listed then
      (suspendModel stFenced m.idx s).onPlan (fun p => { p with suspendedModels := p.suspendedModels ++ [m.idx] })
    else if s.modelFits m && listed then
      let s1 := s.onPlan (fun p => { p with suspendedModels := p.suspendedModels.filter (fun j => decide (j ≠ m.idx)) })
      if m.suspended.isNone then resumeModel m.idx s1 else s1
    else s) s

/-! ## Invalid outputs (R67, R513) -/

/-- The output channel a planned command feeds. -/
def State.outChan (s : State) (p : PCmd) : Option Nat :=
  match p.kind with
  | .decoder => some (hIdx p.obj.toNat)
  | .decode => match s.session (hIdx p.obj.toNat) with
    | some x => if x.outCh = 0 then none else some (hIdx x.outCh.toNat)
    | none => none
  | _ => none

/-- The hold cause of an invalid output by its status (table *SAFE_CAUSE*): overrun, uncorrectable error, stale handle;
0 where the table *Fail-safe reactions* names no cause. -/
def causeOf (st : Half) : Nat :=
  if st = stBeatOverrun then 0x09 else if st = stIntegrityFail then 0x08
  else if st = stStateGone ∨ st = stBadHandle then 0x0A else 0

/-- The session that owns class D work on a channel: the one that names it as its input or its output. -/
def State.ownSession (s : State) (p : PCmd) : Option Nat :=
  match p.kind with
  | .encode => (s.ctrl.sessions.find? (fun x => x.inCh == p.obj)).map (·.idx)
  | .decoder => (s.ctrl.sessions.find? (fun x => x.outCh == p.obj)).map (·.idx)
  | _ => none

/-- A planned command's outputs are invalid (R513): its session is faulted, its output buffers zero at once, or with a
fault zeroing for a stale handle, which faults the owning session of class D work too; the hold is asserted if it is
safety-domain work with a cause of the table. -/
def affectOut (st : Half) (cause : Nat) (p : PCmd) (s : State) : State :=
  let s2 := if p.kind = .decode then faultSession st (hIdx p.obj.toNat) s else s
  let s3 := if cause = 0x0A then
      (match s2.ownSession p with | some i => faultSession st i s2 | none => s2) else s2
  let s4 := if p.kind = .decoder then
      (if cause = 0x0A then faultZero st (hIdx p.obj.toNat) s3
       else s3.onChannel (hIdx p.obj.toNat) (fun c => { c with zeroed := true })) else s3
  let u := engineUnit p.t.engine
  if cause ≠ 0 ∧ s.safe.safetyDomain ≠ 0xFF ∧ p.dom = s.safe.safetyDomain.toNat then
    assertHold cause ((u.map (fun u => unitCode u.kind)).getD 0) ((u.map (·.index)).getD 0) 0xFF s4
  else s4

/-- A planned command did not run to its end (R65, R67, R569): what it writes is marked invalid, and its outputs are. -/
def affectWork (st : Half) (cause : Nat) (p : PCmd) (s : State) : State :=
  let s1 := (s.objsOf p).foldl (fun (s : State) (i : Nat) => invalidObj st i s) s
  let s2 := (s1.setsOf p).foldl (fun (s : State) (i : Nat) => invalidSet st i s) s1
  affectOut st cause p s2

/-- The running command of an engine completes with a status (R67); the boundary at which its time is known is
COMMAND_START. -/
def planDone (e : Engine) (st : Half) (s : State) : State :=
  match s.plan.cur.find? (fun c => c.t.engine == e && c.run == .running) with
  | none => s
  | some c =>
    let st' := if c.status = stOk then st else c.status
    let s1 := s.onPlan (fun p => { p with
      cur := updFirst p.cur (fun x => x.t.engine == e && x.run == .running)
        (fun x => { x with run := .done, status := st' }) })
    if st' = stOk then s1 else affectOut st' (causeOf st') c s1

/-- The commands of the current beat that a test names and that have not completed end with a status; yarder commands
leave placeholders (R332). -/
def abandonCmds (p : PCmd → Bool) (st : Half) (cause : Nat) (s : State) : State :=
  let hit := s.plan.cur.filter (fun c => p c && (c.run == .queued || c.run == .running))
  let s1 := s.onPlan (fun k => { k with
    cur := updAll k.cur (fun c => p c && (c.run == .queued || c.run == .running))
      (fun c => { c with run := .abandoned, status := if c.status = stOk then st else c.status }) })
  hit.foldl (fun (s : State) (c : PCmd) =>
    affectWork (if c.status = stOk then st else c.status) cause c (dropStream c st s)) s1

/-! ## Ports -/

/-- The fenceable port a channel is bound to (R422). -/
def chanPort (c : Channel) : Option UnitId :=
  match fld c.record 1 1 with
  | 2 => some ⟨.sap, fld c.record 2 1⟩
  | 3 => some ⟨.pdm, fld c.record 2 1 / 2⟩
  | _ => none

/-- The stop-word slots that watch a channel. -/
def State.slotsOf (s : State) (ch : Nat) : List Nat :=
  (s.ctrl.slots.filter (fun k => k.running && k.paths.any (fun q => hIdx q.channel.toNat == ch))).map (·.slot)

/-- A channel of a stop-word slot is fenced, closed or faulted: its path is lost and the hold asserted (R524). -/
def loseChannel (unit idx ch : Nat) (s : State) : State :=
  (s.slotsOf ch).foldl (fun (s : State) (k : Nat) =>
    assertHold 0x05 unit idx k (s.onCtrl (fun c => { c with
      slots := updAll c.slots (fun w => w.slot == k) (fun w => { w with
        paths := updAll w.paths (fun q => hIdx q.channel.toNat == ch) (fun q => { q with lost := true }) }) }))) s

/-- A port leaves service (R29): its channels' pending work completes with FENCED, the close of an output too, and its outputs go to
digital zero. -/
def fencePort (u : UnitId) (s : State) : State :=
  let hit := s.audio.chans.filter (fun c => chanPort c == some u)
  let s1 := hit.foldl (fun (s : State) (c : Channel) =>
    let s0 := faultZero stFenced c.idx s
    let s1 := match (if fld c.record 0 1 = 1 then none else c.closing) with
      | some w => (completeOwned w.1 w.2 stFenced [] s0).onChannel c.idx (fun c => { c with closing := none })
      | none => s0
    let s2 := s1.onChannel c.idx (fun c => { c with
      pendingCh := none, running := false, applied := 0, zeroed := true, faultStatus := some (c.faultStatus.getD stFenced) })
    loseChannel (unitCode u.kind) u.index c.idx s2) s
  match u.kind with
  | .sap => s1.onAudio (fun a => { a with saps := a.saps.modify u.index (fun p => { p with
      running := false, rearmed := false, rx := [], tx := [] }) })
  | _ => s1

/-! ## Lost data (R29) -/

/-- Some frame sets are lost: sessions with such pages stop with PAGES_EXHAUSTED, and the frames are given up. Tree nodes on them leave
the tree at the next tick with what hangs below (R300); until then none of them matches. -/
def loseIds (gone : List Nat) (s : State) : State :=
  let s1 := (s.ctrl.sessions.filter (fun x => x.pages.any gone.contains)).foldl
    (fun (s : State) (x : Session) => stopSession stPagesExhausted x.idx s) s
  gone.foldl (fun (s : State) (f : Nat) => freeSet f s) s1

/-- The frame sets with a frame that a test names are lost. -/
def loseSets (p : FrameLoc → Bool) (s : State) : State := loseIds ((s.pages.sets.filter (fun x => x.locs.any p)).map (·.id)) s

/-- A state object is lost (R29, R227): an EVENT with STATE_GONE, the messages that wait on it complete so. -/
def loseObj (i : Nat) (s : State) : State :=
  match s.obj i with
  | none => s
  | some o =>
    let s1 := endWork (fun b => b.kind == .stateCopy && b.obj == i) stStateGone s
    let s2 := match o.swap with
      | some w => if ((s1.box w.client w.mbox).map (·.own)).getD false then complete w.client w.mbox stStateGone [] s1 else s1
      | none => s1
    let s3 := match o.destroying with
      | some w => if ((s2.box w.1 w.2).map (·.own)).getD false then complete w.1 w.2 stStateGone [] s2 else s2
      | none => s2
    dropObj i (eventRec o.client (BitVec.ofNat 32 (s.handleOf 3 i)) stStateGone (releaseHeld (swapOwner i) s3))

/-- Swaps whose destination a test names are abandoned (R227): the source stays, the destination region is freed, the request
completes with FENCED. -/
def abandonSwaps (p : SwapSt → Bool) (s : State) : State :=
  (s.ctrl.objs.filter (fun o => match o.swap with | some w => p w | none => false)).foldl (fun (s : State) (o : StateObj) =>
    match o.swap with
    | none => s
    | some w =>
      let t := (releaseHeld (swapOwner o.idx) s).onObj o.idx (fun o => { o with swap := none })
      if ((t.box w.client w.mbox).map (·.own)).getD false then complete w.client w.mbox stFenced [] t else t) s
/-- A swap's destination lies in a unit: a region of a stack or behind a port, or a module that a link alone leads to. -/
def State.swapUses (s : State) (u : UnitId) (w : SwapSt) : Bool :=
  match u.kind with
  | .nmu => decide (w.dest = 1) && decide (stackOfAddr w.target = some u.index)
  | .cxl => decide (w.dest = 2) && decide (portOfAddr w.target = some u.index)
  | .link => decide (w.dest = 3) && decide (((kget s.links.routes w.modul).getD 0).toNat = 2 ^ u.index)
  | _ => false

/-- A model with codes that are lost is suspended with FENCED until it is reloaded (R29). -/
def loseModel (i : Nat) (s : State) : State :=
  suspendModel stFenced i (s.onModel i (fun m => { m with suspended := some (m.suspended.getD stFenced) }))

/-- Models with codes at a place. -/
def State.modelsAt (s : State) (place : Nat) : List Nat :=
  (s.ctrl.models.filter (fun m => m.stripes.any (fun t => t.any (fun p => p.1 == place)))).map (·.idx)
/-- State objects whose region starts at an address that a test names, ascending. -/
def State.objsAt (s : State) (p : Nat → Bool) : List Nat :=
  sortBy id ((s.ctrl.objs.filter (fun o => !o.gone && p o.addr)).map (·.idx))
/-- An address in stack `k`. -/
def inStack (k a : Nat) : Bool := stackOfAddr a == some k
/-- An address behind port `p`. -/
def inPort (p a : Nat) : Bool := portOfAddr a == some p

/-- The client buffers of MEM_ALLOC in a place that a test names are given up: their regions are free (R29; DESIGN CHOICE, log entry 45). -/
def loseRuns (p : Nat → Bool) (s : State) : State :=
  ((s.mem.runs.filter (fun r => p r.1)).foldl (fun (s : State) (r : Nat × Nat × Nat) => releaseRegions (r.1 / regionSize) r.2.1 s) s).onMem (fun m => { m with
    runs := m.runs.filter (fun r => !p r.1) })
/-- A client buffer moved to the lowest free run of its length in another stack, or behind another port, that its domain may use, with
its tag (R29, R365). -/
def moveRun (r : Nat × Nat × Nat) (s : State) : Option State :=
  let dom := s.domainOf r.2.2
  let tag := (kget s.mem.tags (r.1 / regionSize)).getD 0
  (if (portOfAddr r.1).isSome then s.anyPortRun dom r.2.1 else s.anyStackRun dom r.2.1).map (fun (q : Nat × Nat) =>
    let a := q.2 * regionSize
    (releaseRegions (r.1 / regionSize) r.2.1 (copyMem r.1 a (r.2.1 * regionSize) (assignRegions q.2 r.2.1 tag dom s))).onMem (fun m => { m with
      runs := updAll m.runs (· == r) (fun e => (a, e.2.1, e.2.2)) }))
/-- The client buffers in a place that a test names moved, after the objects that R607 lists; what finds no room is given up. The Bool:
something was (DESIGN CHOICE, log entry 45). -/
def moveRuns (p : Nat → Bool) (s : State) : State × Bool :=
  (s.mem.runs.filter (fun r => p r.1)).foldl (fun (acc : State × Bool) (r : Nat × Nat × Nat) =>
    match moveRun r acc.1 with
    | some t => (t, acc.2)
    | none => (loseRuns (· == r.1) acc.1, true)) (s, false)
/-- What a stack or a CXL port holds is lost (R29), its client buffers too (DESIGN CHOICE, log entry 45). `place` numbers stacks from 0 and
ports from 16. -/
def loseData (place : Nat) (s : State) : State :=
  let at_ : Nat → Bool := fun a => if place < 16 then inStack place a else inPort (place - 16) a
  let tsets := (s.ctrl.tsets.filter (fun t => s.mem.held.any (fun e => e.2.2 == BitVec.ofNat 32 (s.handleOf 8 t.idx) && at_ e.1))).map (·.idx)
  let s1 := (s.modelsAt place ++ (s.ctrl.models.filter (fun m => tsets.contains m.tset)).map (·.idx)).eraseDups.foldl
    (fun (s : State) (i : Nat) => loseModel i s) s
  let s2 := (s1.objsAt at_).foldl (fun (s : State) (i : Nat) => loseObj i s) s1
  let s3 := loseRuns at_ (loseSets (fun l => (l.tier == 1 || l.tier == 2) && at_ (frameAddr l)) s2)
  if place < 16 then s3.onPool place (fun p => { p with regions := [], runs := [] }) else s3

/-! ## Moved data (R283, R607) -/

/-- A state object moved into another stack in service, if one has room. -/
def moveObj (i : Nat) (s : State) : Option State :=
  match s.obj i with
  | none => some s
  | some o =>
    let n := objRegions o.heads o.dk16 o.dv16 o.layers
    let h := BitVec.ofNat 32 (s.handleOf 3 i)
    let dom := s.domainOf o.client
    (if (portOfAddr o.addr).isSome then s.anyPortRun dom n else s.anyStackRun dom n).map (fun (q : Nat × Nat) =>
      let a := q.2 * regionSize
      let s1 := (copyMem o.addr a (n * regionSize) (assignRegions q.2 n (mkTag 2 (b2n (portOfAddr a).isSome) dom) dom s)).onMem (fun m => { m with
        held := m.held ++ [(a, n, h)] })
      let s2 := (releaseRegions (o.addr / regionSize) n s1).onMem (fun m => { m with
        held := m.held.filter (fun x => decide (x.1 ≠ o.addr)) })
      s2.onObj i (fun o => { o with addr := a }))

/-- The rotary records of the loaded models in a stack that returns: written anew where they have a region there, placed where they
have none. -/
def rotaryBack (k : Nat) (s : State) : State :=
  (s.ctrl.models.filter (fun m => m.loaded && !m.pkg.rotary.isEmpty && (s.stripeStks m.dom [k]).contains k)).foldl (fun (s : State) (m : Model) =>
    match m.rotaryAt.find? (inStack k) with
    | some a => putMem a (bytesOfWords m.pkg.rotary) s
    | none => match placeStripe (s.modelHandle m.idx) m.dom (some k) (bytesOfWords m.pkg.rotary) s with
      | some r => r.2.onModel m.idx (fun x => { x with rotaryAt := x.rotaryAt ++ [r.1.2.1] })
      | none => s) s
/-- The table sets in regions that a test names moved elsewhere; the models that name one that finds no room are lost. The Bool: one
was. -/
def moveTsets (p : Nat → Bool) (s : State) : State × Bool :=
  (s.ctrl.tsets).foldl (fun (acc : State × Bool) (t : Tset) =>
    let h := BitVec.ofNat 32 (s.handleOf 8 t.idx)
    match acc.1.mem.held.find? (fun e => e.2.2 == h && p e.1) with
    | none => acc
    | some e =>
      let drop := fun (s : State) => (releaseRegions (e.1 / regionSize) e.2.1 s).onMem (fun m => { m with held := m.held.filter (fun x => decide (x.1 ≠ e.1)) })
      match placeStripe h (s.domainOf t.client) none t.image acc.1 with
      | some q => (drop q.2, acc.2)
      | none => (((s.ctrl.models.filter (fun m => m.tset == t.idx)).map (·.idx)).foldl (fun (s : State) (i : Nat) => loseModel i s) (drop acc.1), true)) (s, false)
/-- What a stack holds is moved in the order of R607, then its client buffers (DESIGN CHOICE, log entry 45); what finds no room is lost on
its own. The Bool: something was. -/
def moveStack (k : Nat) (s : State) : State × Bool :=
  let r1 := (sortBy id (s.modelsAt k)).foldl (fun (acc : State × Bool) (i : Nat) =>
    match relayModel i (acc.1.svcList .nmu) (fun l => l.any (fun p => p.1 == k)) acc.1 with
    | some t => (t, acc.2)
    | none => (loseModel i acc.1, true)) (moveTsets (inStack k) s)
  let r2 := (r1.1.objsAt (inStack k)).foldl (fun (acc : State × Bool) (i : Nat) =>
    match moveObj i acc.1 with
    | some t => (t, acc.2)
    | none => (loseObj i acc.1, true)) r1
  let q := relaySets r2.1
  let r4 := moveRuns (inStack k) (loseIds q.2 q.1)
  (r4.1.onPool k (fun p => { p with regions := [], runs := [] }), r2.2 || !q.2.isEmpty || r4.2)

/-- The regions of a frame set behind a port moved behind another port that has room for them (R607). -/
def moveSetPort (p i : Nat) (s : State) : Option State :=
  match s.fset i with
  | none => some s
  | some x =>
    (s.mem.held.filter (fun h => h.2.2 == setWord i && inPort p h.1)).foldl (fun (acc : Option State) (h : Nat × Nat × Word) =>
      acc.bind (fun t => (t.anyPortRun x.dom h.2.1).map (fun q =>
        let a := q.2 * regionSize
        let n := h.2.1 * regionSize
        let s1 := (copyMem h.1 a n (assignRegions q.2 h.2.1 (mkTag 2 0 x.dom) x.dom t)).onMem (fun m => { m with
          held := m.held.map (fun e => if e == h then (a, h.2.1, h.2.2) else e) })
        (releaseRegions (h.1 / regionSize) h.2.1 s1).onSet i (fun y => { y with
          locs := y.locs.map (fun l => if l.tier = 2 ∧ h.1 ≤ frameAddr l ∧ frameAddr l < h.1 + n
            then { l with off := frameAddr l - h.1 + a - 0x100000000000 } else l) })))) (some s)
/-- What a CXL port holds is moved, models first, then state objects, then frame sets (R607), then client buffers (DESIGN CHOICE, log entry
45); what finds no room is lost on its own. The Bool: something was. -/
def movePort (p : Nat) (s : State) : State × Bool :=
  let r1 := (sortBy id (s.modelsAt (16 + p))).foldl (fun (acc : State × Bool) (i : Nat) =>
    match moveTensors i (16 + p) acc.1 with
    | some t => (t, acc.2)
    | none => (loseModel i acc.1, true)) (moveTsets (inPort p) s)
  let r2 := (r1.1.objsAt (inPort p)).foldl (fun (acc : State × Bool) (i : Nat) =>
    match moveObj i acc.1 with
    | some t => (t, acc.2)
    | none => (loseObj i acc.1, true)) r1
  let behind := fun (l : FrameLoc) => l.tier == 2 && inPort p (frameAddr l)
  let r3 := (r2.1.setOrder.filter (fun x => x.locs.any behind)).foldl (fun (acc : State × List Nat) (x : FrameSet) =>
    match moveSetPort p x.id acc.1 with
    | some t => (t, acc.2)
    | none => (acc.1, acc.2 ++ [x.id])) (r2.1, [])
  let r4 := moveRuns (inPort p) (loseIds r3.2 r3.1)
  (r4.1, r2.2 || !r3.2.isEmpty || r4.2)

/-! ## The carve-out slice (R350) -/

/-- The slices that lie in stack `k`: its own, and those that fences of other stacks have moved into it. -/
def State.slicesIn (s : State) (k : Nat) : List Nat := (List.range 16).filter (fun i => inStack k (s.slice i))
/-- A word of a slice is uncorrectable. -/
def State.sliceBad (s : State) (i : Nat) : Bool := s.rangePoisoned (s.slice i) (1024 * regionSize)
/-- The lowest stack in service with 2 GiB free for a slice. -/
def State.sliceDest (s : State) (k : Nat) : Option Nat :=
  ((s.svcList .nmu).filter (fun j => decide (j ≠ k))).findSome? (fun j => s.stackRun j 1024)
/-- A slice copied to its new place, its tags domain 1's. -/
def moveSlice (i dest : Nat) (s : State) : State :=
  let src := s.slice i
  (copyMem src (dest * regionSize) (1024 * regionSize) (assignRegions dest 1024 (mkTag 2 0 1) 1 s)).onMem (fun m => { m with
    carve := kset m.carve i (dest * regionSize) })

/-- Every slice in a stack moved; none where one finds no 2 GiB. -/
def moveSlices (k : Nat) (s : State) : Option State :=
  (s.slicesIn k).foldl (fun (acc : Option State) (i : Nat) =>
    acc.bind (fun t => (t.sliceDest k).map (fun d => moveSlice i d t))) (some s)

/-! ## The fence takes effect -/

/-- A cluster leaves every multicast group, which goes on without it (R149, R326). -/
def leaveGroups (c : Nat) (s : State) : State :=
  s.onYard (fun k => { k with yards := k.yards.map (fun y => { y with ctxs := y.ctxs.map (fun x =>
    if x.mask.testBit c ∧ x.mask ≠ 2 ^ c then { x with mask := x.mask - 2 ^ c } else x) }) })

/-- With fewer than two clusters in service every running stop-word slot stops and the hold is asserted (R522). -/
def splitCheck (s : State) : State :=
  if (s.svcList .cluster).length < 2 ∧ s.ctrl.slots.any (fun k => k.running && k.stopAt.isNone) then
    let hit := s.ctrl.slots.filter (fun k => k.running && k.stopAt.isNone)
    let s1 := assertHold 0x10 0 0 0xFF s
    let n := s.beat.number.toNat
    hit.foldl (fun (s : State) (k : SwSlot) =>
      let s2 := s.onCtrl (fun c => { c with
        slots := updAll c.slots (fun w => w.slot == k.slot) (fun w => { w with stopAt := some (n + 1) }) })
      let s3 := s2.onPlan (fun p => { p with
        resvs := p.resvs.filter (fun r => !(r.kind == .stopword && r.obj.toNat / 2 == k.slot)) })
      let s4 := if k.started then s3 else
        (if ((s3.box k.client k.mbox).map (·.own)).getD false then complete k.client k.mbox stFenced [] s3 else s3)
      k.paths.foldl (fun (s : State) (q : SwPath) => eventRec k.client q.channel stFenced s) s4) s1
  else s

/-- The registers and stores of a unit that leaves service: at their reset values (R32, R570). -/
def unitAfter (u : UnitId) (s0 : State) : State :=
  let s := abandonSwaps (s0.swapUses u) s0
  match u.kind with
  | .cluster => leaveGroups u.index (s.onCluster u.index clusterAfter)
  | .nmu => s.onNmu u.index nmuAfter
  | .link => s.onLink u.index (fun k => { linkDown k with
      ingress := k.ingress.map (fun g => { g with status := stFenced, pend := [] }) })
  | .cxl => s.onMem (fun m => { m with cxl := m.cxl.modify u.index (fun c => { c with up := false }) })
  | .sap => fencePort u s
  | .pdm => fencePort u s

/-- Commands that a unit's loss touches: those on its engines, or those whose bytes cross it. -/
def usesUnit (u : UnitId) (c : PCmd) : Bool :=
  match u.kind with
  | .link => c.t.paths.any (fun p => p.1 == .dwevyTx u.index || p.1 == .dwevyRx u.index) ||
      (match c.t.engine with
       | .yarder _ => (decide (fld c.t.word 1 1 = 0xA) || decide (fld c.t.word 1 1 = 0xB)) && decide (fld c.t.word 0x14 2 = u.index)
       | _ => false)
  | .cxl => c.t.paths.any (fun p => p.1 == .cxlRd u.index || p.1 == .cxlWr u.index)
  | .cluster => engineUnit c.t.engine == some u ||
      c.t.paths.any (fun p => p.1 == .clusterIn u.index || p.1 == .clusterOut u.index)
  | _ => engineUnit c.t.engine == some u

/-- FENCE messages that wait for a unit complete (R481). -/
def completeFences (u : UnitId) (lost : Bool) (s : State) : State :=
  (s.ctrl.pend.filter (fun p => p.opcode == 0x0106 && p.arg == unitCode u.kind * 256 + u.index)).foldl
    (fun (s : State) (p : PendMsg) => complete p.client p.mbox stOk ([BitVec.ofNat 8 (b2n lost)] ++ zeros 7) s) s
/-- UNFENCE messages that wait for a unit complete with a status. -/
def completeUnfences (u : UnitId) (st : Half) (s : State) : State :=
  (s.ctrl.pend.filter (fun p => p.opcode == 0x0107 && p.arg == unitCode u.kind * 256 + u.index)).foldl
    (fun (s : State) (p : PendMsg) => complete p.client p.mbox st (if st = stOk then zeros 8 else []) s) s

/-- The fence is in effect: service, record, registers, the messages that waited, the stop-word rule. `lost` is what the
message answers, `anyLost` what the black-box record says (R607). -/
def fenceInEffect (u : UnitId) (lost anyLost : Bool) (s : State) : State :=
  let s1 := bbAdd 0x10 2 (unitCode u.kind) u.index stFenced (natLe 1 (b2n anyLost)) s
  let s2 := (s1.setSvc u .fenced).onUnits (fun k => { k with
    fences := k.fences.filter (fun f => decide (f.1 ≠ u)), returns := k.returns.filter (fun f => decide (f.1 ≠ u)) })
  splitCheck (completeFences u lost (unitAfter u s2))

/-- The end of a fence that needed its data moved, or its data declared lost (R29, R35, R350): the slice first, then the
data, then the fence. A slice without a destination or without a good copy ends in a warm device reset. -/
def finishFence (u : UnitId) (lost sliceSaved : Bool) (s : State) : State :=
  match u.kind with
  | .nmu =>
    let s0 := s.setSvc u .moving
    let after := fun (t : State) =>
      if lost then fenceInEffect u true true (loseData u.index t)
      else let r := moveStack u.index t; fenceInEffect u false r.2 r.1
    if (s0.slicesIn u.index).isEmpty then after s0
    else match moveSlices u.index s0 with
      | none => warmResetTo 0x0A s0
      | some t => if sliceSaved && !(s0.slicesIn u.index).any s0.sliceBad then after t else warmResetTo 0x0A s0
  | .cxl =>
    let s0 := s.setSvc u .moving
    if lost then fenceInEffect u true true (loseData (16 + u.index) s0)
    else let r := movePort u.index s0; fenceInEffect u false r.2 r.1
  | _ => fenceInEffect u false false s

/-- A fence that a fault causes (R32): it takes effect at once; the commands of the beat that the unit has not completed
end with FENCED, the next beat's are dropped at its tick. A fence whose data is to be moved keeps the data's place until
the move completes. -/
def faultFenceUnit (u : UnitId) (lost sliceSaved : Bool) (s : State) : State :=
  if unitCount u.kind ≤ u.index then s
  else if s.svc u = .fenced ∨ s.svc u = .returning then s
  else
    let s1 := abandonCmds (usesUnit u) stFenced 0x09 s
    let s2 := s1.onPlan (fun p => { p with droppedUnits := p.droppedUnits ++ [u] })
    if (u.kind = .nmu ∨ u.kind = .cxl) ∧ lost = false then
      (unitAfter u (s2.setSvc u .fenced)).onUnits (fun k => { k with
        fences := k.fences.filter (fun f => decide (f.1 ≠ u)) ++ [(u, s.beat.number.toNat, false)] })
    else finishFence u lost sliceSaved s2

/-- A fence that a detected fault of the unit causes, its data moved where it can be (R607). -/
def fenceByFault (u : UnitId) (s : State) : State := faultFenceUnit u false true s

end Sys2Proof.Machine
end

