-- ==== Sys2Proof/Machine/Sfu.lean ====
section
/-! DEFINITION. The Special Function Unit: the hardwired functions (R188) and the tables of a set (R189, R193, R200). -/

namespace Sys2Proof.Machine

/-! ## TANH and LOGISTIC -/

/-- The working precision of the exponential: 2^400. -/
def expOne : Nat := 2 ^ 400

/-- The Taylor sum of e^y in fixed point, `n` more terms. -/
def expTaylor (y : Nat) : Nat → Nat → Nat → Nat → Nat
  | 0, _, _, acc => acc
  | n + 1, k, term, acc =>
    let t := term * y / expOne / k
    expTaylor y n (k + 1) t (acc + t)

/-- A value squared `n` times in fixed point. -/
def sqTimes : Nat → Nat → Nat
  | 0, v => v
  | n + 1, v => sqTimes n (v * v / expOne)

/-- e^y in fixed point for y = m × 2^e, 0 ≤ y ≤ 128: y is halved 16 times, summed, and squared back. -/
def expFix (m : Nat) (e : Int) : Nat :=
  let k : Int := e + 400 - 16
  let y := if k ≥ 0 then m * 2 ^ k.toNat else m / 2 ^ (-k).toNat
  sqTimes 16 (expTaylor y 48 1 expOne expOne)

/-- A value a hair's breadth below `v` in magnitude: no rounding boundary of a format lies between. -/
def justBelow (v : Fv) : Fv :=
  match v with
  | .fin s m e => if m = 0 then v else .fin s (m * 2 ^ 200 - 1) (e - 200)
  | x => x

/-- The hyperbolic tangent rounded once to a format (R188). -/
def tanhRnd (f : Fmt) (x : Fv) : Fv :=
  match x with
  | .nan => .nan
  | .inf s => .fin s 1 0
  | .fin s m e =>
    if m = 0 then x
    else if fvExp x < -40 then rnd f (justBelow x)
    else if fvExp x ≥ 6 then rnd f (justBelow (.fin s 1 0))
    else
      let y := expFix m (e + 1)
      rndQ false f s (y - expOne) (y + expOne)

/-- The logistic curve rounded once to a format (R188). -/
def logisticRnd (f : Fmt) (x : Fv) : Fv :=
  match x with
  | .nan => .nan
  | .inf s => if s then fvZero else fvInt 1
  | .fin s m e =>
    if m = 0 then rndQ false f false 1 2
    else if fvExp x ≥ 7 then (if s then fvZero else rnd f (justBelow (fvInt 1)))
    else
      let y := expFix m e
      if s then rndQ false f false expOne (expOne + y) else rndQ false f false y (expOne + y)

/-! ## Tables -/

/-- floor of a finite value. -/
def fvFloor : Fv → Int
  | .fin s m e =>
    if e ≥ 0 then (if s then -((m * 2 ^ e.toNat : Nat) : Int) else ((m * 2 ^ e.toNat : Nat) : Int))
    else
      let d := 2 ^ (-e).toNat
      if s then -((cdiv m d : Nat) : Int) else ((m / d : Nat) : Int)
  | _ => 0

/-- A value ≥ 0 truncated to `k` fraction bits. -/
def fvTrunc (k : Nat) (v : Fv) : Fv := .fin false (fvFloor (fvScale v k)).toNat (-(k : Int))

/-- A 32-bit field of a set image. -/
def imgF (img : List Byte) (off : Nat) : Fv := dec32 (BitVec.ofNat 32 (fld img off 4))

/-- The set is a compatibility set. -/
def tsCompat (img : List Byte) : Bool := decide (fld img 2 1 = 2)
/-- EXP_SLOT. -/
def tsExpSlot (img : List Byte) : Nat := fld img 3 1
/-- Slot `i` holds a table. -/
def tsHas (img : List Byte) (i : Nat) : Bool := (fld img 4 2).testBit i

/-- Evaluation of table `slot` of a set at an FP32 input (R193; R200 for a compatibility set): an FP32 value. -/
def tableEval (img : List Byte) (slot : Nat) (x0 : Fv) : Fv :=
  let d := 0x40 + 48 * slot
  let compat := tsCompat img
  let mode := fld img d 1
  let sym := fld img (d + 1) 1
  let shift : Int := sInt 8 (fld img (d + 2) 1)
  let belowId := (fld img (d + 3) 1).testBit 0
  let aboveId := (fld img (d + 3) 1).testBit 1
  let xlo := imgF img (d + 4)
  let ylow := imgF img (d + 8)
  let yhigh := imgF img (d + 0xC)
  let ymin := imgF img (d + 0x10)
  let ymax := imgF img (d + 0x14)
  let yzero := imgF img (d + 0x18)
  let chilo := fvAdd (imgF img (d + 0x1C)) (imgF img (d + 0x20))
  let reg := 0x400 + 0x1000 * slot
  let segs : Nat := if compat then 128 else 256
  let isNeg : Bool := match x0 with | .fin true m _ => m ≠ 0 | .inf true => true | _ => false
  let signBit : Bool := match x0 with | .fin true _ _ => true | .inf true => true | _ => false
  let flip := sym = 1 ∧ signBit = true
  let x := if flip then fvNeg x0 else if sym = 2 then fvAbs x0 else x0
  let neg := isNeg && !(decide flip) && !(decide (sym = 2))
  let sg : Fv → Fv := fun y => if flip then fvNeg y else y
  -- the polynomial or, in a compatibility set, the line of a segment, clamped
  let poly : Nat → Fv → Fv := fun i g =>
    let p := if compat then
        let c0 := imgF img (reg + 8 * i)
        let c1 := imgF img (reg + 8 * i + 4)
        rndE true fmt32 (fvAdd c0 (rndE true fmt32 (fvMul c1 g)))
      else
        let c0 := imgF img (reg + 16 * i)
        let c1 := imgF img (reg + 16 * i + 4)
        let c2 := imgF img (reg + 16 * i + 8)
        let c3 := imgF img (reg + 16 * i + 12)
        let p := rnd fmt32 (fvAdd (fvMul c3 g) c2)
        let p := rnd fmt32 (fvAdd (fvMul p g) c1)
        rnd fmt32 (fvAdd (fvMul p g) c0)
    fvMin (fvMax p ymin) ymax
  let gbits : Nat := if compat then 12 else 24
  if fvIsNan x then .nan
  else if mode = 0 then
    let dd := fvScale (fvSub x xlo) (-shift)
    let below : Bool := fvLt dd fvZero
    let above : Bool := !fvLt dd (fvInt segs)
    if below then sg (if belowId then x else ylow)
    else if above then sg (if aboveId then x else yhigh)
    else
      let i := fvFloor dd
      sg (poly i.toNat (fvTrunc gbits (fvSub dd (fvInt i))))
  else if mode = 1 then
    if fvIsZero x then sg yzero
    else if neg then ylow
    else match x with
      | .inf _ => sg (if aboveId then x else yhigh)
      | _ =>
        let e := fvExp x
        let elo := fvExp xlo
        if e < elo then sg (if belowId then x else ylow)
        else if e ≥ elo + ((segs / 2 ^ shift.toNat : Nat) : Int) then sg (if aboveId then x else yhigh)
        else
          let dd := fvScale (fvSub (fvScale x (-e)) (fvInt 1)) shift
          let fl := fvFloor dd
          sg (poly ((e - elo) * (2 ^ shift.toNat : Nat) + fl).toNat (fvTrunc gbits (fvSub dd (fvInt fl))))
  else if mode = 2 then
    let u := fvMul x chilo
    match u with
    | .nan => .nan
    | .inf s => if s then ylow else yhigh
    | _ =>
      if fvLt u (fvInt (-150)) then ylow
      else if !fvLt u (fvInt 128) then yhigh
      else
        let n := fvFloor u
        let f := fvTrunc 24 (fvSub u (fvInt n))
        let i := fvFloor (fvScale f 8)
        rnd fmt32 (fvScale (poly i.toNat (fvSub (fvScale f 8) (fvInt i))) n)
  else
    if fvIsZero x then yzero
    else if neg then ylow
    else match x with
      | .inf _ => yhigh
      | _ =>
        let e := fvExp x
        let m1 := fvSub (fvScale x (-e)) (fvInt 1)
        if mode = 4 then
          let o := e % 2
          let i := fvFloor (fvScale m1 7)
          let y := poly (128 * o + i).toNat (fvSub (fvScale m1 7) (fvInt i))
          rnd fmt32 (fvScale y (-((e - o) / 2)))
        else
          let i := fvFloor (fvScale m1 8)
          let y := poly i.toNat (fvSub (fvScale m1 8) (fvInt i))
          if mode = 3 then rnd fmt32 (fvAdd (fvMul (fvInt e) chilo) y)
          else sg (rnd fmt32 (fvScale y (-e)))

/-- The active bank (R194, R204). -/
def SfuSt.bank (k : SfuSt) : SfuBank := if k.active then k.bankB else k.bankA

/-- The bank that the command of cluster `c` reads: the active one, and an empty one where it does not hold the set of the
model of the planned command that runs there (R194, R197). -/
def State.sfuBank (s : State) (c : Nat) : SfuBank :=
  let b := (s.cluster c).sfu.bank
  match (s.runningCmd (.cluster c)).bind (fun x => s.setHandle x.model) with
  | some h => if b.set = h then b else .empty
  | none => b

/-- exp() of the soft maximum: the table in EXP_SLOT of a set (R177, R201). -/
def expTable (img : List Byte) (x : Fv) : Fv := tableEval img (tsExpSlot img) x

/-- The exponential of a bank; a set without EXP_SLOT gives a free value for its image and the input (R20), an empty bank free values
from place `fr` on (R197; DESIGN CHOICE, log entry 9). -/
def SfuBank.exp (b : SfuBank) (fr : Nat) (x : Fv) : Fv :=
  if b.valid then (if tsExpSlot b.image < 16 then expTable b.image x else dec32 (Config.freeExp b.image (enc32 x)))
  else dec32 (BitVec.ofNat 32 (Config.freeWord (fr + (enc32 x).toNat)).toNat)
/-- The exponential of a bank is defined. -/
def SfuBank.hasExp (b : SfuBank) : Bool := b.valid && decide (tsExpSlot b.image < 16)

end Sys2Proof.Machine
end

