-- ==== Sys2Proof/Machine/Ru.lean ====
section
/-! DEFINITION. The fixed-order reductions: the lane tree (R167 to R169), the Reduction Unit's passes and finish values
(R170 to R176) and the running soft maximum (R201). -/

namespace Sys2Proof.Machine

/-! ## The lane tree -/

/-- One stage of a tree: neighbours joined, the left one first; an odd last value stands alone. -/
def treeStage {α : Type} (op : α → α → α) : List α → List α
  | a :: b :: r => op a b :: treeStage op r
  | l => l

/-- `n` stages. -/
def treeRun {α : Type} (op : α → α → α) : Nat → List α → List α
  | 0, l => l
  | n + 1, l => treeRun op n (treeStage op l)

/-- The value a tree of `n` stages leaves. -/
def treeVal {α : Type} (op : α → α → α) (n : Nat) (d : α) (l : List α) : α := (treeRun op n l).headD d

/-- MAX on FP32 words (R84). -/
def max32 (a b : Word) : Word := enc32 (fvMax (dec32 a) (dec32 b))
/-- MIN on FP32 words. -/
def min32 (a b : Word) : Word := enc32 (fvMin (dec32 a) (dec32 b))

/-- RSUM over the enabled lanes: a disabled lane enters as +0 (R167, R168). -/
def laneSum (en : Nat → Bool) (v : List Word) : Word :=
  treeVal add32 10 0 (v.zipIdx.map (fun p => if en p.2 then enc32 (dec32 p.1) else 0))
/-- RMAX: a disabled lane enters as −∞. -/
def laneMax (en : Nat → Bool) (v : List Word) : Word :=
  treeVal max32 10 negInf32 (v.zipIdx.map (fun p => if en p.2 then enc32 (dec32 p.1) else negInf32))
/-- RMIN: a disabled lane enters as +∞. -/
def laneMin (en : Nat → Bool) (v : List Word) : Word :=
  treeVal min32 10 posInf32 (v.zipIdx.map (fun p => if en p.2 then enc32 (dec32 p.1) else posInf32))

/-- The better of two candidates of RAMAX, the lower lane first: NaN above every number, the lower lane on ties
(R169). -/
def amaxPick (a b : Option (Fv × Nat)) : Option (Fv × Nat) :=
  match a, b with
  | none, y => y
  | x, none => x
  | some (x, i), some (y, j) =>
    if fvIsNan x then some (x, i) else if fvIsNan y then some (y, j) else if fvLt x y then some (y, j) else some (x, i)

/-- RAMAX: the lowest lane with the largest value; 0xFFFF_FFFF with every lane disabled (R168). -/
def laneArgMax (en : Nat → Bool) (v : List Word) : Word :=
  match treeVal amaxPick 10 none (v.zipIdx.map (fun p => if en p.2 then some (dec32 p.1, p.2) else none)) with
  | some (_, i) => BitVec.ofNat 32 i
  | none => 0xFFFFFFFF

/-! ## Segments (R172, R173) -/

/-- The pairwise tree over 256 leaves; leaves past the segment are +0. -/
def segTree (l : List Word) : Word := treeVal add32 8 0 (l ++ List.replicate (256 - l.length) 0)

/-- The fold of a segment value into a row's stack, the top first (R172). -/
def foldSeg (v : Word) : Nat → List (Nat × Word) → List (Nat × Word)
  | lvl, [] => [(lvl, v)]
  | lvl, (l, t) :: r => if l = lvl then foldSeg (add32 t v) (lvl + 1) r else (lvl, v) :: (l, t) :: r
termination_by structural _ st => st

/-- What RUFIN makes of a stack: the top added down, the older operand on the left; nothing pushed is +0. -/
def foldEnd : List (Nat × Word) → Word
  | [] => 0
  | (_, v) :: r => r.foldl (fun acc t => add32 t.2 acc) v

/-- The larger element of a segment, −0 below +0, from −∞ on. -/
def segMax (l : List Word) : Word := l.foldl max32 negInf32

/-- The running soft maximum over one segment (R201). -/
def smaxSeg (exp : Fv → Fv) (m s : Word) (seg : List Word) : Word × Word :=
  if seg = [] then (m, s)
  else if seg.any (fun v => match dec32 v with | .nan => true | .inf false => true | _ => false) then (nan32, nan32)
  else if fvIsNan (dec32 m) then (nan32, nan32)
  else
    let mb := segMax seg
    let up := fvLt (dec32 m) (dec32 mb)
    let s1 := if up then (if m = negInf32 then 0 else to32 (fvMul (dec32 s) (exp (rnd fmt32 (fvSub (dec32 m) (dec32 mb)))))) else s
    let m1 := if up then mb else m
    let t := if m1 = negInf32 then 0
      else segTree (seg.map (fun v => enc32 (exp (rnd fmt32 (fvSub (dec32 v) (dec32 m1))))))
    (m1, add32 s1 t)

/-! ## Passes (R170, R171, R175) -/

/-- The elements of one row in a pass, widened to FP32 with subnormals read as zero. -/
def passRow (tile : Mem) (p : RuPass) (row : Nat) : List Word :=
  (List.range p.w).map (fun i =>
    if p.bf16 then enc32 (decB16 (BitVec.ofNat 16 (leNat (MemOps.readN tile (row * 512 + 2 * (p.c0 + i)) 2))))
    else enc32 (dec32 (BitVec.ofNat 32 (leNat (MemOps.readN tile (row * 512 + 4 * (p.c0 + i)) 4)))))

/-- A row with the accumulators and marks of the named groups cleared (R170 CLR, R175). -/
def RuRow.clr (st : BitVec 4) (r : RuRow) : RuRow :=
  { sum := if st.getLsbD 0 then [] else r.sum, sumsq := if st.getLsbD 1 then [] else r.sumsq,
    d2 := if st.getLsbD 2 then [] else r.d2, minV := if st.getLsbD 0 then posInf32 else r.minV,
    maxV := if st.getLsbD 0 then negInf32 else r.maxV, smM := if st.getLsbD 3 then negInf32 else r.smM,
    smS := if st.getLsbD 3 then 0 else r.smS, markSum := !st.getLsbD 0 && r.markSum,
    markSq := !st.getLsbD 1 && r.markSq, markD2 := !st.getLsbD 2 && r.markD2, markSm := !st.getLsbD 3 && r.markSm }

/-- One row through one pass (R172, R173, R175, R201); `mean` is the row's MEAN of the last RUFIN. -/
def RuRow.pass (exp : Fv → Fv) (st : BitVec 4) (mean : Word) (seg : List Word) (r : RuRow) : RuRow :=
  let bad := seg.any (fun v => !fvFinite (dec32 v))
  let sm := if st.getLsbD 3 then smaxSeg exp r.smM r.smS seg else (r.smM, r.smS)
  { sum := if st.getLsbD 0 then foldSeg (segTree seg) 0 r.sum else r.sum,
    sumsq := if st.getLsbD 1 then foldSeg (segTree (seg.map (fun v => mul32 v v))) 0 r.sumsq else r.sumsq,
    d2 := if st.getLsbD 2 then
        foldSeg (segTree (seg.map (fun v => let d := sub32 v mean; mul32 d d))) 0 r.d2 else r.d2,
    minV := if st.getLsbD 0 then seg.foldl min32 r.minV else r.minV,
    maxV := if st.getLsbD 0 then seg.foldl max32 r.maxV else r.maxV,
    smM := sm.1, smS := sm.2,
    markSum := r.markSum || (st.getLsbD 0 && bad), markSq := r.markSq || (st.getLsbD 1 && bad),
    markD2 := r.markD2 || (st.getLsbD 2 && bad), markSm := r.markSm || (st.getLsbD 3 && bad) }

/-- The statistics of a group mask named by some pass of the command. -/
def RuSt.named (st : BitVec 4) (k : RuSt) : RuSt :=
  { k with
    accSum := k.accSum || st.getLsbD 0, accSq := k.accSq || st.getLsbD 1, accD2 := k.accD2 || st.getLsbD 2,
    accSm := k.accSm || st.getLsbD 3 }
/-- The Reduction Unit after one pass; a pass of width 0 leaves every accumulator, count and mark (R170), and accumulates
the empty segment, so that the statistics it names are those of n = 0 (R176, log entry 136). The Bool: some element was NaN
or infinite. -/
def RuSt.runPass (exp : Fv → Fv) (tile : Mem) (p : RuPass) (k : RuSt) : RuSt × Bool :=
  if p.w = 0 then (k.named p.stats, false)
  else
    let st := p.stats
    let rows0 := if p.clr then k.rows.map (RuRow.clr st) else k.rows
    let segs := (List.range 512).map (passRow tile p)
    let means := match k.fin with | some f => f.map (·.mean) | none => List.replicate 512 nan32
    let rows := (rows0.zip (segs.zip means)).map (fun x => RuRow.pass exp st x.2.2 x.2.1 x.1)
    let n := fun (g : Nat) (old : Nat) => if st.getLsbD g then (if p.clr then 0 else old) + p.w else old
    ({ k.named st with
        rows := rows, nSum := n 0 k.nSum, nSq := n 1 k.nSq, nD2 := n 2 k.nD2, nSm := n 3 k.nSm },
      st != 0 && segs.any (fun seg => seg.any (fun v => !fvFinite (dec32 v))))

/-! ## RUFIN (R174, R176) -/

/-- The quotient by a count, rounded once; a count of 0 gives the canonical NaN (R176). -/
def divCount (v : Word) (n : Nat) : Word := if n = 0 then nan32 else enc32 (fvDivRnd fmt32 (dec32 v) (fvInt n))

/-- The finish values of one row (table *Finish values*). MIN = MAX compares encodings, and a NaN of D2 outlasts it (DESIGN CHOICE, log entry
183). -/
def RuSt.finRow (k : RuSt) (r : RuRow) : RuFin :=
  let sum := if k.accSum then foldEnd r.sum else nan32
  let lo := if k.accSum then r.minV else nan32
  let hi := if k.accSum then r.maxV else nan32
  let const := k.accSum && decide (lo = hi) && !fvIsNan (dec32 lo)
  let mean0 := if !k.accSum || k.nSum = 0 then nan32
    else if const then lo
    else min32 (max32 (divCount sum k.nSum) lo) hi
  let mean := if r.markSum then nan32 else mean0
  let msq0 := if k.accSq then divCount (foldEnd r.sumsq) k.nSq else nan32
  let msq := if r.markSq then nan32 else msq0
  let v1 := sub32 msq (mul32 mean mean)
  let clamp := fvLt (dec32 v1) fvZero
  let v2a := if k.accD2 then divCount (foldEnd r.d2) k.nD2 else nan32
  let v2b := if const && !fvIsNan (dec32 v2a) then 0 else v2a
  let mism := decide (k.nD2 ≠ k.nSum)
  let v2 := if mism || r.markSum || r.markD2 then nan32 else v2b
  { sum := sum, mean := mean, msq := msq, var1 := if clamp then 0 else v1, var2 := v2, maxV := hi, minV := lo,
    smM := if k.accSm then r.smM else nan32, smS := if k.accSm then r.smS else nan32,
    flags := BitVec.ofNat 32 (b2n clamp + 2 * b2n mism +
      4 * b2n (r.markSum || r.markSq || r.markD2 || r.markSm)) }

/-- RUFIN: the finish values of every row; each row's stack stays for later passes (DESIGN CHOICE, log entry 182). -/
def RuSt.finish (k : RuSt) : RuSt := { k with fin := some (k.rows.map k.finRow) }

/-- Statistic `i` of a row's finish values (table *Finish values*). -/
def RuFin.get (f : RuFin) (i : Nat) : Word :=
  match i with
  | 0 => f.sum | 1 => f.mean | 2 => f.msq | 3 => f.var1 | 4 => f.var2 | 5 => f.maxV | 6 => f.minV | 7 => f.smM
  | 8 => f.smS | _ => f.flags

/-- Statistic `i` as it reads while the row has its marks: one that depends on a marked group is the canonical NaN (R175). -/
def RuRow.live (r : RuRow) (i : Nat) (v : Word) : Word :=
  let hit := match i with
    | 1 => r.markSum
    | 2 => r.markSq
    | 3 => r.markSum || r.markSq
    | 4 => r.markSum || r.markD2
    | _ => false
  if hit then nan32 else v
/-- A pass that is queued or running names a tile (R179). -/
def RuSt.names (k : RuSt) (tile : Nat) : Bool :=
  k.queue.any (·.tile == tile) || (match k.running with | some p => p.tile == tile | none => false)

/-- No pass is queued or running. -/
def RuSt.idle (k : RuSt) : Bool := k.queue.isEmpty && k.running.isNone

end Sys2Proof.Machine
end

