-- ==== Sys2Proof/Machine/Operands.lean ====
section
/-! DEFINITION. The operand forms of the Vector Engine: which fields each operation uses (R161, R162, R182), registers,
elements and masks (R157, R158, R165), and the quotient codes of the link formats (R110, R111). -/

namespace Sys2Proof.Machine

/-- What an operation uses of its word: accepted FMT values (none: FMT must be 0), register fields, IMM bits, write
mask; and its issue and latency in cluster cycles (table *VE opcodes*). -/
structure VeUse where
  fmts : List Nat
  vd : Bool
  va : Bool
  vb : Bool
  vc : Bool
  imm : Nat
  msk : Bool
  issue : Nat
  lat : Nat
  deriving DecidableEq, Repr

/-- The table *VE opcodes*; none for a reserved OP. DESIGN CHOICE (log entry 137): the operations that read a source B as
numbers lane by lane count as the arithmetic of IMM[28] = SB: the arithmetic, the comparisons, SEL and the I32 operations,
and LQS8 and LDQ, whose rows name SB or a scalar; not LQU8, PACK, PERM or SHUF. -/
def veUse (op : Nat) : Option VeUse :=
  let sb : Nat := 0x10000000
  match op with
  | 0x00 => some ⟨[], false, false, false, false, 0, false, 1, 0⟩
  | 0x01 => some ⟨[0, 1], true, true, true, false, sb, true, 1, 4⟩
  | 0x02 => some ⟨[0, 1], true, true, true, false, sb, true, 1, 4⟩
  | 0x03 => some ⟨[0, 1], true, true, true, false, sb, true, 1, 4⟩
  | 0x04 => some ⟨[0, 1], true, true, true, true, sb, true, 1, 5⟩
  | 0x05 => some ⟨[0, 1, 3], true, true, true, false, sb, true, 1, 2⟩
  | 0x06 => some ⟨[0, 1, 3], true, true, true, false, sb, true, 1, 2⟩
  | 0x07 => some ⟨[0, 1], true, true, false, false, 0, true, 1, 2⟩
  | 0x08 => some ⟨[0, 1], true, true, false, false, 0, true, 1, 2⟩
  | 0x10 => some ⟨[0, 1, 3], true, true, true, false, sb, true, 1, 2⟩
  | 0x11 => some ⟨[0, 1, 3], true, true, true, false, sb, true, 1, 2⟩
  | 0x12 => some ⟨[0, 1, 3], true, true, true, false, sb, true, 1, 2⟩
  | 0x13 => some ⟨[0, 1, 3], true, true, true, false, sb, true, 1, 2⟩
  | 0x14 => some ⟨[0, 1, 3], true, true, true, false, sb + 7, true, 1, 2⟩
  | 0x20 => some ⟨[0, 3], true, true, false, false, 1, true, 1, 4⟩
  | 0x21 => some ⟨[1, 2], true, true, true, false, 0, true, 1, 3⟩
  | 0x22 => some ⟨[1, 2], true, true, false, false, 1, true, 1, 3⟩
  | 0x23 => some ⟨[0], true, true, true, true, 7, true, 2, 6⟩
  | 0x24 => some ⟨[0], true, true, true, false, sb, true, 2, 6⟩
  | 0x25 => some ⟨[0, 1], true, true, true, true, sb + 3, true, 2, 6⟩
  | 0x30 => some ⟨[0, 1, 3], true, true, true, false, 0, true, 2, 6⟩
  | 0x31 => some ⟨[0, 1, 3], true, true, true, false, 0xFFFF, true, 1, 4⟩
  | 0x40 => some ⟨[3], true, true, true, false, sb, true, 1, 2⟩
  | 0x41 => some ⟨[3], true, true, true, false, sb, true, 1, 2⟩
  | 0x42 => some ⟨[3], true, true, true, false, sb, true, 1, 2⟩
  | 0x43 => some ⟨[3], true, true, true, false, sb, true, 1, 2⟩
  | 0x44 => some ⟨[3], true, true, true, false, sb, true, 1, 2⟩
  | 0x45 => some ⟨[3], true, true, true, false, sb, true, 1, 2⟩
  | 0x46 => some ⟨[3], true, false, false, false, 0, true, 1, 2⟩
  | 0x50 => some ⟨[], true, true, true, false, 0, true, 1, 1⟩
  | 0x51 => some ⟨[], true, true, true, false, 0, true, 1, 1⟩
  | 0x52 => some ⟨[], true, true, true, false, 0, true, 1, 1⟩
  | 0x53 => some ⟨[], true, true, false, false, 0, true, 1, 1⟩
  | 0x60 => some ⟨[0, 1, 2, 3, 4, 5], true, false, false, false, 0x1FFFF800, true, 1, 3⟩
  | 0x61 => some ⟨[0, 1, 2, 3, 4, 5], true, false, false, false, 0x1FFFF800, true, 1, 3⟩
  | 0x70 => some ⟨[0], true, true, false, false, 0, true, 1, 14⟩
  | 0x71 => some ⟨[0], true, true, false, false, 0, true, 1, 14⟩
  | 0x72 => some ⟨[0], true, true, false, false, 0, true, 1, 14⟩
  | 0x73 => some ⟨[0], true, true, false, false, 0, true, 1, 14⟩
  | 0x78 => some ⟨[0, 1], false, false, false, false, 0x1FFFFFE0, false, 1, 0⟩
  | 0x79 => some ⟨[], false, false, false, false, 0, false, 1, 0⟩
  | 0x7A => some ⟨[0, 3], true, false, false, false, 0xF, true, 1, 3⟩
  | 0x7B => some ⟨[], false, false, false, false, 0, false, 64, 0⟩
  | 0x7C => some ⟨[0, 1], true, true, false, false, 0x3F, true, 4, 12⟩
  | 0x80 => some ⟨[], true, false, false, false, 0x1FFFFFFF, false, 1, 1⟩
  | 0x81 => some ⟨[], true, true, true, false, 0, false, 1, 1⟩
  | 0x82 => some ⟨[], true, true, false, false, 0x3FF, false, 1, 3⟩
  | 0x90 => some ⟨[], false, false, false, false, 3, false, 1, 0⟩
  | 0x91 => some ⟨[], false, false, false, false, 3, false, 1, 0⟩
  | 0xF0 => some ⟨[], false, false, false, false, 0x1FFF, false, 1, 0⟩
  | 0xF1 => some ⟨[], false, false, false, false, 0, false, 1, 0⟩
  | 0xF2 => some ⟨[], false, false, false, false, 0x7FF, false, 1, 0⟩
  | 0xF3 => some ⟨[], false, false, false, false, 0x7FF, false, 1, 0⟩
  | 0xFF => some ⟨[], false, false, false, false, 0, false, 1, 0⟩
  | _ => none

/-- A register field: at most 15 where used, 0 where not (R161). -/
def regOk (used : Bool) (r : BitVec 5) : Bool := if used then decide (r.toNat ≤ 15) else decide (r = 0)

/-- Rules of single operations beside the fields: SHUF's patterns, RUGO's columns, RURD's statistics, SFN's functions,
LQS8's scalar scale, and LDQ's unused zero point and half. -/
def veExtra (op : Nat) (f : VEWord) : Bool :=
  let imm := f.imm.toNat
  match op with
  | 0x24 => imm.testBit 28
  | 0x25 => (imm.testBit 0 || !imm.testBit 28) && (!imm.testBit 0 || decide (f.vc = 0)) &&
      (decide (f.fmt = 1) || !imm.testBit 1)
  | 0x31 => decide (bitsOf imm 0 4 ≤ 5) && (decide (bitsOf imm 0 4 = 2) || decide (f.vb = 0)) &&
      (decide (bitsOf imm 0 4 = 0) || decide (bitsOf imm 0 4 = 5) || decide (bitsOf imm 4 12 = 0))
  | 0x70 | 0x71 | 0x72 | 0x73 => !f.zm
  | 0x78 => decide (bitsOf imm 15 8 + bitsOf imm 6 9 ≤ if f.fmt = 1 then 256 else 128)
  | 0x7A => decide (bitsOf imm 0 4 ≤ 9)
  | 0x7C => (decide (bitsOf imm 0 5 ≤ 1) || decide (16 ≤ bitsOf imm 0 5)) && (decide (f.fmt = 1) || !imm.testBit 5)
  | _ => true

/-- The word passes the checks of R182 that concern one instruction. -/
def veWordOk (op : Nat) (f : VEWord) : Bool :=
  match veUse op with
  | none => false
  | some u =>
    (if u.fmts = [] then decide (f.fmt = 0) else u.fmts.contains f.fmt.toNat) &&
    regOk u.vd f.vd && regOk u.va f.va && regOk u.vb f.vb && regOk u.vc f.vc &&
    decide (f.imm.toNat &&& u.imm = f.imm.toNat) && (u.msk || (!f.zm && decide (f.msk = 0))) && veExtra op f

/-- OP of an instruction word (R161). -/
def veOp (w : Dword) : Nat := bitsOf w.toNat 56 8
/-- The other fields of an instruction word. -/
def veFields (w : Dword) : VEWord :=
  let n := w.toNat
  { fmt := BitVec.ofNat 3 (n / 2 ^ 53), zm := n.testBit 52, msk := BitVec.ofNat 3 (n / 2 ^ 49),
    vd := BitVec.ofNat 5 (n / 2 ^ 44), va := BitVec.ofNat 5 (n / 2 ^ 39), vb := BitVec.ofNat 5 (n / 2 ^ 34),
    vc := BitVec.ofNat 5 (n / 2 ^ 29), imm := BitVec.ofNat 29 n }

/-! ## Registers, elements, masks -/

/-- Vector register `i`. -/
def VeSt.vr (k : VeSt) (i : Nat) : List Word := k.v.getD i (List.replicate 1024 0)
/-- Mask register `i`; M0 reads all ones (R156). -/
def VeSt.mr (k : VeSt) (i : Nat) : BitVec 2048 := if i = 0 then maskOnes else k.m.getD i 0
/-- Scalar register `i`. -/
def VeSt.sr (k : VeSt) (i : Nat) : Word := k.s.getD i 0
/-- A mask register written; writes to M0 are discarded (R156). -/
def VeSt.setM (k : VeSt) (i : Nat) (v : BitVec 2048) : VeSt := if i = 0 then k else { k with m := k.m.set i v }
/-- A scalar register written. -/
def VeSt.setS (k : VeSt) (i : Nat) (v : Word) : VeSt := { k with s := k.s.set i v }

/-- The low half of a lane. -/
def loHalf (w : Word) : Half := w.extractLsb' 0 16
/-- The high half of a lane. -/
def hiHalf (w : Word) : Half := w.extractLsb' 16 16
/-- A lane from its halves. -/
def mkLane (lo hi : Half) : Word := BitVec.ofNat 32 (lo.toNat + 65536 * hi.toNat)
/-- The 2,048 elements of a 16-bit vector (R157). -/
def elems (v : List Word) : List Half := v.map loHalf ++ v.map hiHalf
/-- A vector from 2,048 16-bit elements. -/
def unelems (h : List Half) : List Word := ((h.take 1024).zip (h.drop 1024)).map (fun p => mkLane p.1 p.2)

/-- Under the write mask a disabled element keeps its old value, or becomes zero with ZM (R165). -/
def maskMerge {α : Type} (z : α) (m : BitVec 2048) (zm : Bool) (old new : List α) : List α :=
  ((old.zip new).zipIdx).map (fun p => if m.getLsbD p.2 then p.1.2 else if zm then z else p.1.1)

/-- The write mask of an instruction. -/
def VeSt.wm (k : VeSt) (f : VEWord) : BitVec 2048 := k.mr f.msk.toNat
/-- FP32 or I32 lanes written to VD under the write mask. -/
def VeSt.put32 (k : VeSt) (f : VEWord) (new : List Word) : VeSt :=
  { k with v := k.v.set f.vd.toNat (maskMerge 0 (k.wm f) f.zm (k.vr f.vd.toNat) new) }
/-- 16-bit elements written to VD under the write mask. -/
def VeSt.put16 (k : VeSt) (f : VEWord) (new : List Half) : VeSt :=
  { k with v := k.v.set f.vd.toNat (unelems (maskMerge 0 (k.wm f) f.zm (elems (k.vr f.vd.toNat)) new)) }
/-- The elements of one half written to VD under the write mask, the other half kept (R162 LDQ, R187). -/
def VeSt.putHalf (k : VeSt) (f : VEWord) (half : Nat) (new : List Half) : VeSt :=
  let old := elems (k.vr f.vd.toNat)
  let whole := if half = 0 then new ++ old.drop 1024 else old.take 1024 ++ new
  let keep := maskMerge 0 (k.wm f) f.zm old whole
  let res := if half = 0 then keep.take 1024 ++ old.drop 1024 else old.take 1024 ++ keep.drop 1024
  { k with v := k.v.set f.vd.toNat (unelems res) }
/-- A mask from its first `n` bits; the bits above come from an old mask. -/
def maskOf (n : Nat) (old : BitVec 2048) (b : Nat → Bool) : BitVec 2048 :=
  BitVec.ofNat 2048 ((List.range n).foldl (fun acc i => if b i then acc + 2 ^ i else acc) 0 +
    old.toNat / 2 ^ n * 2 ^ n)
/-- A mask result of `n` bits written to M[VD] under the write mask (R165, R166); bits above stay. -/
def VeSt.putMask (k : VeSt) (f : VEWord) (n : Nat) (b : Nat → Bool) : VeSt :=
  let d := f.vd.toNat % 8
  let old := k.mr d
  k.setM d (maskOf n old (fun i => if (k.wm f).getLsbD i then b i else if f.zm then false else old.getLsbD i))

/-- Source B as lanes: the register, or scalar S[VB[3:0]] in every lane (R161 SB). -/
def VeSt.b32 (k : VeSt) (f : VEWord) : List Word :=
  if f.imm.getLsbD 28 then List.replicate 1024 (k.sr (f.vb.toNat % 16)) else k.vr f.vb.toNat
/-- Source B as BF16 elements: the scalar is rounded once to BF16. -/
def VeSt.b16 (k : VeSt) (f : VEWord) : List Half :=
  if f.imm.getLsbD 28 then List.replicate 2048 (toB16 (dec32 (k.sr (f.vb.toNat % 16)))) else elems (k.vr f.vb.toNat)

/-! ## Link codes (R109 to R112) -/

/-- The code q_c of R110 before its range is checked; none where the input is not finite, the scale is not a positive
finite number, or the quotient has no value. -/
def codeU8 (x s : Fv) (z : Int) : Option Int :=
  match x, s with
  | .fin sx m e, .fin false n g => if n = 0 then none else
      if m = 0 then some z else some (fvDivInt (.fin sx m e) (.fin false n g) + z)
  | _, _ => none

/-- The code of R111: the quotient clamped to −127 to 127; none where there is no quotient. -/
def codeS8 (x s : Fv) : Option Int :=
  match x, s with
  | .fin sx m e, .fin t n g => if n = 0 then none else
      some (max (-127) (min 127 (fvDivInt (.fin sx m e) (.fin t n g))))
  | _, _ => none

/-- The link operand times its scale, exactly; a zero operand is +0 (R112). -/
def linkDecode (s : Fv) (q : Int) : Fv := if q = 0 then fvZero else fvMul s (fvInt q)

/-- A lane with its low byte replaced. -/
def setLowByte (w : Word) (b : Nat) : Word := BitVec.ofNat 32 (w.toNat / 256 * 256 + b % 256)

/-- The low byte of an integer in two's complement. -/
def intByte (i : Int) : Nat := (i % 256).toNat

end Sys2Proof.Machine
end

