-- ==== Sys2Proof/Machine/VectorCalc.lean ====
section
/-! DEFINITION. What each instruction of the Vector Engine does to its cluster (R157 to R179, R187): one definition per
operation, and the way a program steps. -/

namespace Sys2Proof.Machine

/-- How an instruction ends: the VE goes on, waits at this instruction, has ended its program, or met a word that
breaks the checks of R182. -/
inductive VeRes where
  | go (s : State)
  | stall (s : State)
  | fin (s : State)
  | bad (s : State)

/-- The state with cluster `c`'s Vector Engine changed. -/
def State.onVe (c : Nat) (g : VeSt → VeSt) (s : State) : State := s.onCluster c (fun k => { k with ve := g k.ve })

/-- An instruction that changes the VE's registers and moves on to the next one. -/
def veSet (c : Nat) (g : VeSt → VeSt) (s : State) : VeRes :=
  .go (s.onVe c (fun k => let k' := g k; { k' with pc := k.pc + 1 }))

/-- A stall counted (R147, R179): STALLED is set, and VE_STALL grows by a count the spec's timing alone fixes (log entry 6). -/
def stallVe (c : Nat) (s : State) : State :=
  let r := s.free
  r.2.onCluster c (fun k => { k with veRegs := { k.veRegs with stalled := true, stall := k.veRegs.stall + r.1 } })
/-- An instruction that waits. -/
def veStall (c : Nat) (s : State) : VeRes := .stall (stallVe c s)

/-! ## Arithmetic -/

/-- BF16 on encodings. -/
def bf2 (op : Fv → Fv → Fv) (a b : Half) : Half := toB16 (op (decB16 a) (decB16 b))
/-- FP32 on encodings. -/
def fp2 (op : Fv → Fv → Fv) (a b : Word) : Word := to32 (op (dec32 a) (dec32 b))

/-- A lane-wise operation of two sources, by FMT. -/
def veBin (c : Nat) (f : VEWord) (op : Fv → Fv → Fv) (iop : Word → Word → Word) (s : State) : VeRes :=
  veSet c (fun k =>
    if f.fmt = 1 then k.put16 f (List.zipWith (bf2 op) (elems (k.vr f.va.toNat)) (k.b16 f))
    else if f.fmt = 3 then k.put32 f (List.zipWith iop (k.vr f.va.toNat) (k.b32 f))
    else k.put32 f (List.zipWith (fp2 op) (k.vr f.va.toNat) (k.b32 f))) s

/-- ADD. -/
def veAdd (c : Nat) (f : VEWord) (s : State) : VeRes := veBin c f fvAdd (· + ·) s
/-- SUB. -/
def veSub (c : Nat) (f : VEWord) (s : State) : VeRes := veBin c f fvSub (· - ·) s
/-- MUL. -/
def veMul (c : Nat) (f : VEWord) (s : State) : VeRes := veBin c f fvMul (· * ·) s
/-- FMA: one rounding. -/
def veFma (c : Nat) (f : VEWord) (s : State) : VeRes :=
  veSet c (fun k =>
    if f.fmt = 1 then
      k.put16 f (List.zipWith (fun (p : Half × Half) (z : Half) =>
        toB16 (fvAdd (fvMul (decB16 p.1) (decB16 p.2)) (decB16 z)))
        ((elems (k.vr f.va.toNat)).zip (k.b16 f)) (elems (k.vr f.vc.toNat)))
    else
      k.put32 f (List.zipWith (fun (p : Word × Word) (z : Word) => fma32 p.1 p.2 z)
        ((k.vr f.va.toNat).zip (k.b32 f)) (k.vr f.vc.toNat))) s
/-- MAX: I32 compares two's complement. -/
def veMax (c : Nat) (f : VEWord) (s : State) : VeRes := veBin c f fvMax (fun a b => if a.toInt < b.toInt then b else a) s
/-- MIN. -/
def veMin (c : Nat) (f : VEWord) (s : State) : VeRes := veBin c f fvMin (fun a b => if b.toInt < a.toInt then b else a) s

/-- A lane-wise operation of one floating-point source. -/
def veUn (c : Nat) (f : VEWord) (op : Fv → Fv) (s : State) : VeRes :=
  veSet c (fun k =>
    if f.fmt = 1 then k.put16 f ((elems (k.vr f.va.toNat)).map (fun a => toB16 (op (decB16 a))))
    else k.put32 f ((k.vr f.va.toNat).map (fun a => to32 (op (dec32 a))))) s
/-- ABS. -/
def veAbs (c : Nat) (f : VEWord) (s : State) : VeRes := veUn c f fvAbs s
/-- NEG. -/
def veNeg (c : Nat) (f : VEWord) (s : State) : VeRes := veUn c f fvNeg s

/-! ## Comparison and selection -/

/-- A comparison into M[VD], by FMT. -/
def veCmp (c : Nat) (f : VEWord) (op : Fv → Fv → Bool) (iop : Word → Word → Bool) (s : State) : VeRes :=
  veSet c (fun k =>
    if f.fmt = 1 then
      let r := List.zipWith (fun a b => op (decB16 a) (decB16 b)) (elems (k.vr f.va.toNat)) (k.b16 f)
      k.putMask f 2048 (fun i => r.getD i false)
    else
      let r := List.zipWith (fun a b => if f.fmt = 3 then iop a b else op (dec32 a) (dec32 b)) (k.vr f.va.toNat) (k.b32 f)
      k.putMask f 1024 (fun i => r.getD i false)) s
/-- CEQ. -/
def veCeq (c : Nat) (f : VEWord) (s : State) : VeRes := veCmp c f fvEq (fun a b => a == b) s
/-- CLT. -/
def veClt (c : Nat) (f : VEWord) (s : State) : VeRes := veCmp c f fvLt (fun a b => decide (a.toInt < b.toInt)) s
/-- CLE. -/
def veCle (c : Nat) (f : VEWord) (s : State) : VeRes :=
  veCmp c f (fun a b => fvLt a b || fvEq a b) (fun a b => decide (a.toInt ≤ b.toInt)) s
/-- CUN: unordered; integers never are. -/
def veCun (c : Nat) (f : VEWord) (s : State) : VeRes :=
  veCmp c f (fun a b => fvIsNan a || fvIsNan b) (fun _ _ => false) s

/-- SEL. -/
def veSel (c : Nat) (f : VEWord) (s : State) : VeRes :=
  veSet c (fun k =>
    let m := k.mr (f.imm.toNat % 8)
    if f.fmt = 1 then
      k.put16 f (((elems (k.vr f.va.toNat)).zip (k.b16 f)).zipIdx.map (fun p => if m.getLsbD p.2 then p.1.1 else p.1.2))
    else
      k.put32 f (((k.vr f.va.toNat).zip (k.b32 f)).zipIdx.map (fun p => if m.getLsbD p.2 then p.1.1 else p.1.2))) s

/-! ## Conversions -/

/-- FP32 to I32: to nearest with ties away, saturated, NaN to 0. -/
def toI32 (w : Word) : Word :=
  match dec32 w with
  | .nan => 0
  | .inf s => if s then 0x80000000 else 0x7FFFFFFF
  | v =>
    let i := fvToInt v
    if i > 0x7FFFFFFF then 0x7FFFFFFF else if i < -0x80000000 then 0x80000000 else BitVec.ofInt 32 i
/-- CVT. -/
def veCvt (c : Nat) (f : VEWord) (s : State) : VeRes :=
  veSet c (fun k => k.put32 f ((k.vr f.va.toNat).map (fun a =>
    if f.imm.getLsbD 0 then to32 (fvInt a.toInt) else toI32 a))) s
/-- PACK. -/
def vePack (c : Nat) (f : VEWord) (s : State) : VeRes :=
  veSet c (fun k => k.put16 f ((k.vr f.va.toNat ++ k.vr f.vb.toNat).map (fun a =>
    if f.fmt = 1 then toB16 (dec32 a) else toF16 (dec32 a)))) s
/-- UNPK. -/
def veUnpk (c : Nat) (f : VEWord) (s : State) : VeRes :=
  veSet c (fun k => k.put32 f ((k.vr f.va.toNat).map (fun a =>
    let h := if f.imm.getLsbD 0 then hiHalf a else loHalf a
    enc32 (if f.fmt = 1 then decB16 h else decF16 h)))) s

/-- LQU8: low bytes of VD from U8 codes; M[IMM[2:0]] marks the lanes whose code lies outside 0 to 255 or whose input is
not finite. Where there is no code in 0 to 255 the byte is a free value of the lane's operands (log entry 7, R20). The zero
point is the whole I32 of the lane. -/
def veLqu8 (c : Nat) (f : VEWord) (s : State) : VeRes :=
  veSet c (fun k =>
    let src := ((k.vr f.va.toNat).zip (k.vr f.vb.toNat)).zip (k.vr f.vc.toNat)
    let q := (((k.vr f.va.toNat).zip (k.vr f.vb.toNat)).zip (k.vr f.vc.toNat)).map
      (fun p => codeU8 (dec32 p.1.1) (dec32 p.1.2) p.2.toInt)
    let out : Option Int → Bool := fun o => match o with | none => true | some i => decide (i < 0 ∨ 255 < i)
    let new := ((k.vr f.vd.toNat).zip (q.zip src)).map (fun p =>
      let free := (Config.freeLane 0x23 [p.2.2.1.1, p.2.2.1.2, p.2.2.2] 0).toNat
      match p.2.1 with
      | some i => if out (some i) then setLowByte p.1 free else setLowByte p.1 (intByte i)
      | none => setLowByte p.1 free)
    let k1 := k.put32 f new
    let d := f.imm.toNat % 8
    k1.setM d (maskOf 1024 (k1.mr d) (fun i => if (k.wm f).getLsbD i then out (q.getD i none)
      else if f.zm then false else (k1.mr d).getLsbD i))) s
/-- LQS8: low bytes of VD from S8 codes with the scalar scale; a byte without a code is a free value of the lane's operands
(log entry 7, R20). -/
def veLqs8 (c : Nat) (f : VEWord) (s : State) : VeRes :=
  veSet c (fun k =>
    let sw := k.sr (f.vb.toNat % 16)
    k.put32 f (((k.vr f.vd.toNat).zip (k.vr f.va.toNat)).map (fun p =>
      match codeS8 (dec32 p.2) (dec32 sw) with
      | some i => setLowByte p.1 (intByte i)
      | none => setLowByte p.1 (Config.freeLane 0x24 [p.2, sw] 0).toNat))) s
/-- LDQ: decoding under R89 and R112. DESIGN CHOICE (log entry 134): a U8 zero point is a code, 0 to 255, so the low byte of
lane VC is taken. -/
def veLdq (c : Nat) (f : VEWord) (s : State) : VeRes :=
  veSet c (fun k =>
    let z := k.vr f.vc.toNat
    let val := (((k.vr f.va.toNat).zip (k.b32 f)).zip z).map (fun p =>
      let q := p.1.1.toNat % 256
      if f.imm.getLsbD 0 then linkDecode (dec32 p.1.2) (sInt 8 q)
      else linkDecode (dec32 p.1.2) ((q : Int) - (p.2.toNat % 256 : Nat)))
    if f.fmt = 1 then k.putHalf f (if f.imm.getLsbD 1 then 1 else 0) (val.map toB16)
    else k.put32 f (val.map to32)) s

/-! ## Permutation -/

/-- PERM. -/
def vePerm (c : Nat) (f : VEWord) (s : State) : VeRes :=
  veSet c (fun k =>
    if f.fmt = 1 then
      let a := elems (k.vr f.va.toNat)
      k.put16 f ((elems (k.vr f.vb.toNat)).map (fun i => a.getD (i.toNat % 2048) 0))
    else
      let a := k.vr f.va.toNat
      k.put32 f ((k.vr f.vb.toNat).map (fun i => a.getD (i.toNat % 1024) 0))) s

/-- The element a fixed pattern takes for place `i` of `e`: (from VB, index), or none where the spec states none.
DESIGN CHOICE (log entry 135): "rotate down" moves every element to a lower place, element i taking that of i + amount. -/
def shufPick (pat amt e i : Nat) : Option (Bool × Nat) :=
  match pat with
  | 0 => some (false, (i + amt) % e)
  | 1 => some (false, e - 1 - i)
  | 2 => some (i % 2 == 1, i / 2)
  | 3 => if 2 * i < e then some (false, 2 * i) else none
  | 4 => if 2 * i + 1 < e then some (false, 2 * i + 1) else none
  | _ => if amt < e then some (false, amt) else none
/-- SHUF; a place for which the pattern names no element takes a free value of the sources (log entry 8, R20). -/
def veShuf (c : Nat) (f : VEWord) (s : State) : VeRes :=
  let pat := bitsOf f.imm.toNat 0 4
  let amt := bitsOf f.imm.toNat 4 12
  let key := 0x31 + 256 * f.imm.toNat
  veSet c (fun k =>
    if f.fmt = 1 then
      let a := elems (k.vr f.va.toNat)
      let b := elems (k.vr f.vb.toNat)
      k.put16 f ((List.range 2048).map (fun i => match shufPick pat amt 2048 i with
        | some (fromB, j) => if fromB then b.getD j 0 else a.getD j 0
        | none => BitVec.ofNat 16 (Config.freeLane key (k.vr f.va.toNat) i).toNat))
    else
      let a := k.vr f.va.toNat
      let b := k.vr f.vb.toNat
      k.put32 f ((List.range 1024).map (fun i => match shufPick pat amt 1024 i with
        | some (fromB, j) => if fromB then b.getD j 0 else a.getD j 0
        | none => BitVec.ofNat 32 (Config.freeLane key a i).toNat))) s

/-! ## Integers and masks -/

/-- An I32 operation. -/
def veInt (c : Nat) (f : VEWord) (op : Word → Word → Word) (s : State) : VeRes :=
  veSet c (fun k => k.put32 f (List.zipWith op (k.vr f.va.toNat) (k.b32 f))) s
/-- IADD. -/
def veIadd (c : Nat) (f : VEWord) (s : State) : VeRes := veInt c f (· + ·) s
/-- IAND. -/
def veIand (c : Nat) (f : VEWord) (s : State) : VeRes := veInt c f (· &&& ·) s
/-- IOR. -/
def veIor (c : Nat) (f : VEWord) (s : State) : VeRes := veInt c f (· ||| ·) s
/-- IXOR. -/
def veIxor (c : Nat) (f : VEWord) (s : State) : VeRes := veInt c f (· ^^^ ·) s
/-- ISHL: the amount mod 32. -/
def veIshl (c : Nat) (f : VEWord) (s : State) : VeRes := veInt c f (fun a b => a <<< (b.toNat % 32)) s
/-- ISHR: logical. -/
def veIshr (c : Nat) (f : VEWord) (s : State) : VeRes := veInt c f (fun a b => a >>> (b.toNat % 32)) s
/-- IOTA. -/
def veIota (c : Nat) (f : VEWord) (s : State) : VeRes :=
  veSet c (fun k => k.put32 f ((List.range 1024).map (fun i => BitVec.ofNat 32 i))) s

/-- A mask operation into M[VD[2:0]]. -/
def veMaskOp (c : Nat) (f : VEWord) (op : Bool → Bool → Bool) (s : State) : VeRes :=
  veSet c (fun k =>
    let a := k.mr (f.va.toNat % 8)
    let b := k.mr (f.vb.toNat % 8)
    k.putMask f 2048 (fun i => op (a.getLsbD i) (b.getLsbD i))) s
/-- MAND. -/
def veMand (c : Nat) (f : VEWord) (s : State) : VeRes := veMaskOp c f (· && ·) s
/-- MOR. -/
def veMor (c : Nat) (f : VEWord) (s : State) : VeRes := veMaskOp c f (· || ·) s
/-- MXOR. -/
def veMxor (c : Nat) (f : VEWord) (s : State) : VeRes := veMaskOp c f (· != ·) s
/-- MNOT. -/
def veMnot (c : Nat) (f : VEWord) (s : State) : VeRes := veMaskOp c f (fun a _ => !a) s

/-! ## Tiles (R162 LD and ST, R164, R179) -/

/-- Size of a tile buffer. -/
def tileSize : Nat := 2 ^ 18
/-- `n` bytes of a tile from an address on, modulo its size (R164). -/
def tileRead (m : Mem) (a n : Nat) : List Byte := (List.range n).map (fun i => MemOps.read m ((a + i) % tileSize))
/-- Bytes written to a tile, modulo its size; none at a place leaves it unchanged. -/
def tileWrite (m : Mem) (a : Nat) (l : List (Option Byte)) : Mem :=
  (l.zipIdx.foldl (fun acc p => match p.1 with | some b => MemOps.write acc ((a + p.2) % tileSize) b | none => acc) m)
/-- Tile `i`. -/
def VeSt.tile (k : VeSt) (i : Nat) : TileSt := k.tiles.getD i .empty
/-- The state with a tile changed. -/
def VeSt.onTile (k : VeSt) (i : Nat) (g : TileSt → TileSt) : VeSt := { k with tiles := k.tiles.modify i g }
/-- The tile of an LD or ST. -/
def ldTile (f : VEWord) : Nat := bitsOf f.imm.toNat 27 2
/-- The byte address of an LD or ST. -/
def VeSt.ldAddr (k : VeSt) (f : VEWord) : Nat :=
  (bitsOf f.imm.toNat 11 12 + (k.sr (bitsOf f.imm.toNat 23 4)).toNat) * 64 % tileSize

/-- LD: waits while the output stream drains the tile. -/
def veLd (c : Nat) (f : VEWord) (s : State) : VeRes :=
  let k := (s.cluster c).ve
  let t := ldTile f
  if (k.tile t).draining then veStall c s
  else
    let a := k.ldAddr f
    let m := (k.tile t).mem
    if f.fmt = 1 ∨ f.fmt = 2 then veSet c (fun k => k.put16 f (halvesOf (tileRead m a 4096))) s
    else if f.fmt = 4 then veSet c (fun k => k.put32 f ((tileRead m a 1024).map (fun b => BitVec.ofNat 32 b.toNat))) s
    else if f.fmt = 5 then veSet c (fun k => k.put32 f ((tileRead m a 1024).map (fun b => BitVec.ofInt 32 b.toInt))) s
    else veSet c (fun k => k.put32 f (wordsOf (tileRead m a 4096))) s

/-- A pass is reading tile `t` (R179): the pass that runs, or the first in the queue where none runs and its tile has
arrived, for such a pass starts at once. -/
def VeSt.passReads (k : VeSt) (t : Nat) : Bool :=
  match k.ru.running, k.ru.queue with
  | some p, _ => p.tile == t
  | none, p :: _ => p.tile == t && (bitsOf k.tileMap (2 * p.tile) 2 != 1 || (k.tile p.tile).held)
  | none, [] => false

/-- ST: waits while a pass reads the tile or the output stream drains it; a disabled element leaves memory unchanged. -/
def veSt (c : Nat) (f : VEWord) (s : State) : VeRes :=
  let k := (s.cluster c).ve
  let t := ldTile f
  if (k.tile t).draining || k.passReads t then veStall c s
  else
    let a := k.ldAddr f
    let m := k.wm f
    let v := k.vr f.vd.toNat
    let bytes : List (Option Byte) :=
      if f.fmt = 1 ∨ f.fmt = 2 then
        (elems v).zipIdx.flatMap (fun p => (natLe 2 p.1.toNat).map (fun b => if m.getLsbD p.2 then some b else none))
      else if f.fmt = 4 ∨ f.fmt = 5 then
        v.zipIdx.map (fun p => if m.getLsbD p.2 then some (BitVec.ofNat 8 p.1.toNat) else none)
      else
        v.zipIdx.flatMap (fun p => (natLe 4 p.1.toNat).map (fun b => if m.getLsbD p.2 then some b else none))
    veSet c (fun k => k.onTile t (fun x => { x with mem := tileWrite x.mem a bytes })) s

/-! ## The lane tree and the Reduction Unit -/

/-- A lane-tree result into S[VD[3:0]] (R167). -/
def veTree (c : Nat) (f : VEWord) (op : (Nat → Bool) → List Word → Word) (s : State) : VeRes :=
  veSet c (fun k => k.setS (f.vd.toNat % 16) (op (fun i => (k.wm f).getLsbD i) (k.vr f.va.toNat))) s
/-- RSUM. -/
def veRsum (c : Nat) (f : VEWord) (s : State) : VeRes := veTree c f laneSum s
/-- RMAX. -/
def veRmax (c : Nat) (f : VEWord) (s : State) : VeRes := veTree c f laneMax s
/-- RMIN. -/
def veRmin (c : Nat) (f : VEWord) (s : State) : VeRes := veTree c f laneMin s
/-- RAMAX. -/
def veRamax (c : Nat) (f : VEWord) (s : State) : VeRes := veTree c f laneArgMax s

/-- The pass a RUGO queues (table *RUGO parameters*). -/
def rugoPass (f : VEWord) : RuPass :=
  let n := f.imm.toNat
  { tile := bitsOf n 27 2, stats := BitVec.ofNat 4 (bitsOf n 23 4), c0 := bitsOf n 15 8, w := bitsOf n 6 9,
    clr := n.testBit 5, bf16 := decide (f.fmt = 1) }
/-- RUGO: stalls while 4 passes are queued. -/
def veRugo (c : Nat) (f : VEWord) (s : State) : VeRes :=
  if 4 ≤ (s.cluster c).ve.ru.queue.length then veStall c s
  else veSet c (fun k => { k with ru := { k.ru with queue := k.ru.queue ++ [rugoPass f] } }) s
/-- RUWAIT. -/
def veRuwait (c : Nat) (_f : VEWord) (s : State) : VeRes :=
  if (s.cluster c).ve.ru.idle then veSet c id s else veStall c s
/-- RUFIN: waits for the passes; VAR1_CLAMP is set if a row was clamped. -/
def veRufin (c : Nat) (_f : VEWord) (s : State) : VeRes :=
  if (s.cluster c).ve.ru.idle then
    let fin := (s.cluster c).ve.ru.finish
    let clamp := (fin.fin.getD []).any (fun r => r.flags.getLsbD 0)
    veSet c (fun k => { k with ru := fin })
      (s.onCluster c (fun k => { k with veRegs := { k.veRegs with var1Clamp := k.veRegs.var1Clamp || clamp } }))
  else veStall c s
/-- FLAGS of a row as RURD reads it: bits 0 and 1 as the last RUFIN left them, free values before one (log entry 138), bit 2
while any mark of the row is set (R175), bits 31 to 3 zero. -/
def ruFlags (k : RuSt) (r : Nat) : Word :=
  let low := match k.fin with
    | some l => (l.getD r ⟨0, 0, 0, 0, 0, 0, 0, 0, 0, 0⟩).flags.toNat % 4
    | none => (Config.freeLane 0x7A [] r).toNat % 4
  let row := k.rows.getD r .clear
  BitVec.ofNat 32 (low + 4 * b2n (row.markSum || row.markSq || row.markD2 || row.markSm))
/-- RURD: waits for the passes; before any RUFIN a statistic reads as the canonical NaN, and one that a mark of its row concerns reads so
while the mark is set (R175). -/
def veRurd (c : Nat) (f : VEWord) (s : State) : VeRes :=
  if (s.cluster c).ve.ru.idle then
    let i := bitsOf f.imm.toNat 0 4
    veSet c (fun k =>
      let rows : List Word := if i = 9 then (List.range 512).map (ruFlags k.ru) else match k.ru.fin with
        | some l => (l.zip k.ru.rows).map (fun (p : RuFin × RuRow) => p.2.live i (p.1.get i))
        | none => List.replicate 512 nan32
      k.put32 f ((List.range 1024).map (fun r => rows.getD r 0))) s
  else veStall c s

/-- The Reduction Unit runs the first queued pass; the Bool: a pass ran. A pass whose tile has not arrived stalls (R179). -/
def ruStep (c : Nat) (s : State) : State × Bool :=
  let k := (s.cluster c).ve
  match k.ru.running, k.ru.queue with
  | some p, _ => go p k.ru.queue s
  | none, p :: r => if bitsOf k.tileMap (2 * p.tile) 2 = 1 ∧ !(k.tile p.tile).held then (stallVe c s, false) else go p r s
  | none, [] => (s, false)
where
  /-- One pass, run to its end. -/
  go (p : RuPass) (rest : List RuPass) (s : State) : State × Bool :=
    let k := s.cluster c
    let bank := s.sfuBank c
    let lost := p.stats.getLsbD 3 && !bank.hasExp
    let r := RuSt.runPass (bank.exp s.freeCtr) (k.ve.tile p.tile).mem p k.ve.ru
    ({ s with freeCtr := if lost then s.freeCtr + 2 ^ 32 else s.freeCtr }.onCluster c (fun k => { k with
      ve := { k.ve with
        ru := { r.1 with queue := rest, running := none },
        status := if lost && k.ve.status == stOk then stIntegrityFail else k.ve.status },
      veRegs := { k.veRegs with nonfinite := k.veRegs.nonfinite || r.2 } }), true)

/-! ## Special functions (R187) -/

/-- The value of FUNC at an FP32 input, rounded once to FMT; a compatibility set's BF16 output ties to even (R200). -/
def sfnVal (img : List Byte) (func : Nat) (bf : Bool) (x : Fv) : Fv :=
  let fm := if bf then fmtB16 else fmt32
  if func = 0 then tanhRnd fm x
  else if func = 1 then logisticRnd fm x
  else rndE (tsCompat img && bf) fm (tableEval img (func - 16) x)
/-- SFN: a table slot read from an empty bank gives free values, and the command's outputs are invalid with
INTEGRITY_FAIL (R197, log entry 9). -/
def veSfn (c : Nat) (f : VEWord) (s : State) : VeRes :=
  let func := bitsOf f.imm.toNat 0 5
  let half := bitsOf f.imm.toNat 5 1
  let bank := s.sfuBank c
  let fr := s.freeCtr
  let lost : Bool := decide (16 ≤ func) && (!bank.valid || !tsHas bank.image (func - 16))
  let s1 := if lost then
      { s with freeCtr := fr + 1024 }.onVe c (fun k => { k with status := if k.status = stOk then stIntegrityFail else k.status })
    else s
  veSet c (fun k =>
    if f.fmt = 1 then
      let a := (k.vr f.va.toNat).map (fun w => if half = 1 then hiHalf w else loHalf w)
      k.putHalf f half (a.zipIdx.map (fun p =>
        if lost then BitVec.ofNat 16 (Config.freeWord (fr + p.2)).toNat
        else encB16 (sfnVal bank.image func true (decB16 p.1))))
    else
      k.put32 f ((k.vr f.va.toNat).zipIdx.map (fun p =>
        if lost then BitVec.ofNat 32 (Config.freeWord (fr + p.2)).toNat
        else enc32 (sfnVal bank.image func false (dec32 p.1))))) s1

/-! ## Scalars, tiles of the streams, control -/

/-- NOP. -/
def veNop (c : Nat) (_f : VEWord) (s : State) : VeRes := veSet c id s
/-- SMOV. -/
def veSmov (c : Nat) (f : VEWord) (s : State) : VeRes :=
  veSet c (fun k => k.setS (f.vd.toNat % 16) (BitVec.ofInt 32 (sInt 29 f.imm.toNat))) s
/-- SADD. -/
def veSadd (c : Nat) (f : VEWord) (s : State) : VeRes :=
  veSet c (fun k => k.setS (f.vd.toNat % 16) (k.sr (f.va.toNat % 16) + k.sr (f.vb.toNat % 16))) s
/-- SGET. -/
def veSget (c : Nat) (f : VEWord) (s : State) : VeRes :=
  veSet c (fun k => k.setS (f.vd.toNat % 16) ((k.vr f.va.toNat).getD (bitsOf f.imm.toNat 0 10) 0)) s

/-- Flaws after the first `n` bytes have been consumed. -/
def dropFlaws (n : Nat) (l : List (Nat × Nat × Half)) : List (Nat × Nat × Half) :=
  (l.filter (fun f => decide (n < f.1 + f.2.1))).map (fun f => (f.1 - n, f.1 + f.2.1 - max n f.1, f.2.2))
/-- The input tile after `i` in ascending order and rotation (R324). -/
def nextInput (map i : Nat) : Nat :=
  ((List.range 4).map (fun d => (i + 1 + d) % 4)).find? (fun t => bitsOf map (2 * t) 2 = 1) |>.getD i
/-- Delivered tiles of the input stream fill the free input tiles in rotation (R324). -/
def veRefill (c : Nat) : Nat → State → State
  | 0, s => s
  | n + 1, s =>
    let k := s.cluster c
    match k.inb.find? (fun b => b.num == k.ve.inStream) with
    | none => s
    | some b =>
      let t := k.ve.nextIn
      match b.tiles with
      | [] => s
      | u :: rest =>
        if (k.ve.tile t).arrived || (k.ve.tile t).held || bitsOf k.ve.tileMap (2 * t) 2 ≠ 1 then s
        else veRefill c n (s.onCluster c (fun k => { k with
          inb := updFirst k.inb (fun x => x.num == b.num) (fun x => { x with tiles := rest, flaws := dropFlaws u.length x.flaws }),
          ve := { (k.ve.onTile t (fun x => { x with mem := MemOps.writeN x.mem 0 (u.take tileSize), arrived := true })) with
            nextIn := nextInput k.ve.tileMap t,
            status := if k.ve.status = stOk then b.status else k.ve.status },
          veRegs := { k.veRegs with
            domFault := k.veRegs.domFault || b.status == stDomainFault || b.flaws.any (fun f => f.2.2 == stDomainFault) } }))
/-- The stream of a buffer has come to its end. -/
def bufEnded (l : List StreamBuf) (num : Nat) : Bool := l.any (fun b => b.num == num && b.ended)
/-- TIN: releases the tile's former unit for refill, which waits for passes that name it, then waits for the next unit
(R162, R179, R324); a stream that has ended brings none (R314). -/
def veTin (c : Nat) (f : VEWord) (s : State) : VeRes :=
  let t := bitsOf f.imm.toNat 0 2
  let k := (s.cluster c).ve
  if (k.tile t).held && k.ru.names t then veStall c s
  else
    let s1 := veRefill c 4 (s.onVe c (fun k => k.onTile t (fun x => { x with held := false })))
    if (((s1.cluster c).ve).tile t).arrived then
      veSet c (fun k => k.onTile t (fun x => { x with arrived := false, held := true })) s1
    else if bufEnded (s1.cluster c).inb (s1.cluster c).ve.inStream then .bad s1
    else veStall c s1
/-- The bytes that a buffer holds. -/
def StreamBuf.size (b : StreamBuf) : Nat := (b.tiles.map List.length).foldl (· + ·) 0
/-- The flaws of some pieces that start at a byte. -/
def flawsOf : Nat → List (List Byte × Half) → List (Nat × Nat × Half)
  | _, [] => []
  | n, p :: r => (if p.2 = stOk then [] else [(n, p.1.length, p.2)]) ++ flawsOf (n + p.1.length) r
/-- The first status that is not OK. -/
def firstBad : List Half → Half
  | [] => stOk
  | st :: r => if st = stOk then firstBad r else st
/-- A unit of some pieces, each with its status, added to a stream's buffer at an endpoint. -/
def outPieces (ep num : Nat) (l : List (List Byte × Half)) (bufs : List StreamBuf) : List StreamBuf :=
  let tile := l.flatMap (·.1)
  let st := firstBad (l.map (·.2))
  if bufs.any (·.num == num) then
    updFirst bufs (·.num == num) (fun b => { b with
      tiles := b.tiles ++ [tile], status := if b.status = stOk then st else b.status,
      flaws := b.flaws ++ flawsOf b.size l })
  else bufs ++ [{ num := num, ep := ep, tiles := [tile], status := st, ended := false, flaws := flawsOf 0 l }]
/-- Bytes handed over to a write stream by its endpoint, with the status of what was handed before. -/
def outPut (num : Nat) (tile : List Byte) (st : Half) (l : List StreamBuf) : List StreamBuf := outPieces 6 num [(tile, st)] l
/-- TOUT: hands an output tile to the output stream; waits for passes that name it, and for the tile's own drain (DESIGN CHOICE, log entry
184). -/
def veTout (c : Nat) (f : VEWord) (s : State) : VeRes :=
  let t := bitsOf f.imm.toNat 0 2
  let k := (s.cluster c).ve
  if k.ru.names t || (k.tile t).draining then veStall c s
  else veSet c (fun k => { (k.onTile t (fun x => { x with draining := true })) with
      drains := k.drains ++ [t] })
    (s.onCluster c (fun q => { q with
      outUnit := kset q.outUnit k.outStream 2,
      outb := outPut k.outStream (MemOps.readN (k.tile t).mem 0 tileSize) k.status q.outb }))

/-- Instruction `i` of the cluster's instruction memory. -/
def VeSt.instr (k : VeSt) (i : Nat) : Dword := (kget k.imem i).getD 0
/-- The place after the ENDL that closes a body begun before `pc`. -/
def afterEndl (k : VeSt) : Nat → Nat → Nat → Option Nat
  | 0, _, _ => none
  | n + 1, pc, depth =>
    let op := veOp (k.instr pc)
    if op = 0xF1 then (if depth = 0 then some (pc + 1) else afterEndl k n (pc + 1) (depth - 1))
    else afterEndl k n (pc + 1) (if op = 0xF0 then depth + 1 else depth)
/-- LOOP: 0 skips the body; nesting past 4 levels or a body without its ENDL breaks R182. -/
def veLoop (c : Nat) (f : VEWord) (s : State) : VeRes :=
  let n := bitsOf f.imm.toNat 0 13
  let k := (s.cluster c).ve
  if n = 0 then
    match afterEndl k 8192 (k.pc + 1) 0 with
    | some p => .go (s.onVe c (fun k => { k with pc := p }))
    | none => .bad s
  else if 4 ≤ k.loops.length then .bad s
  else .go (s.onVe c (fun k => { k with pc := k.pc + 1, loops := (k.pc + 1, n) :: k.loops }))
/-- ENDL: back to the body while iterations are left. -/
def veEndl (c : Nat) (_f : VEWord) (s : State) : VeRes :=
  match (s.cluster c).ve.loops with
  | [] => .bad s
  | (p, n) :: r =>
    if n ≤ 1 then .go (s.onVe c (fun k => { k with pc := k.pc + 1, loops := r }))
    else .go (s.onVe c (fun k => { k with pc := p, loops := (p, n - 1) :: r }))
/-- SKA and SKN: skip where any, or none, of a mask's bits are set. -/
def veSkip (any : Bool) (c : Nat) (f : VEWord) (s : State) : VeRes :=
  let n := f.imm.toNat
  .go (s.onVe c (fun k =>
    { k with pc := if decide (k.mr (bitsOf n 8 3) ≠ 0) = any then k.pc + 1 + bitsOf n 0 8 else k.pc + 1 }))
/-- SKA. -/
def veSka (c : Nat) (f : VEWord) (s : State) : VeRes := veSkip true c f s
/-- SKN. -/
def veSkn (c : Nat) (f : VEWord) (s : State) : VeRes := veSkip false c f s
/-- END: the command completes with its status (R162, R185). Passes still queued stay until RU_PASS runs them or the next command discards
them (DESIGN CHOICE, log entry 184). -/
def veEnd (c : Nat) (_f : VEWord) (s : State) : VeRes :=
  .fin (s.onCluster c (fun k => { k with
    veRegs := { k.veRegs with
      lastStatus := k.ve.status, lastTag := k.ve.tag, count := k.veRegs.count + 1, busy := false },
    inb := k.inb.filter (fun b => !(b.num == k.ve.inStream && b.tiles.isEmpty)),
    outb := if k.ve.status = stOk then k.outb else updAll k.outb (fun b => b.num == k.ve.outStream)
      (fun b => { b with
        status := if b.status = stOk then k.ve.status else b.status,
        flaws := if b.status = stOk then [(0, b.size, k.ve.status)] else b.flaws }) }))

/-- The instruction of an opcode (table *VE opcodes*). -/
def veInstr (op c : Nat) (f : VEWord) (s : State) : VeRes :=
  match op with
  | 0x00 => veNop c f s | 0x01 => veAdd c f s | 0x02 => veSub c f s | 0x03 => veMul c f s | 0x04 => veFma c f s
  | 0x05 => veMax c f s | 0x06 => veMin c f s | 0x07 => veAbs c f s | 0x08 => veNeg c f s
  | 0x10 => veCeq c f s | 0x11 => veClt c f s | 0x12 => veCle c f s | 0x13 => veCun c f s | 0x14 => veSel c f s
  | 0x20 => veCvt c f s | 0x21 => vePack c f s | 0x22 => veUnpk c f s | 0x23 => veLqu8 c f s | 0x24 => veLqs8 c f s
  | 0x25 => veLdq c f s | 0x30 => vePerm c f s | 0x31 => veShuf c f s
  | 0x40 => veIadd c f s | 0x41 => veIand c f s | 0x42 => veIor c f s | 0x43 => veIxor c f s | 0x44 => veIshl c f s
  | 0x45 => veIshr c f s | 0x46 => veIota c f s
  | 0x50 => veMand c f s | 0x51 => veMor c f s | 0x52 => veMxor c f s | 0x53 => veMnot c f s
  | 0x60 => veLd c f s | 0x61 => veSt c f s
  | 0x70 => veRsum c f s | 0x71 => veRmax c f s | 0x72 => veRmin c f s | 0x73 => veRamax c f s
  | 0x78 => veRugo c f s | 0x79 => veRuwait c f s | 0x7A => veRurd c f s | 0x7B => veRufin c f s | 0x7C => veSfn c f s
  | 0x80 => veSmov c f s | 0x81 => veSadd c f s | 0x82 => veSget c f s
  | 0x90 => veTin c f s | 0x91 => veTout c f s
  | 0xF0 => veLoop c f s | 0xF1 => veEndl c f s | 0xF2 => veSka c f s | 0xF3 => veSkn c f s | 0xFF => veEnd c f s
  | _ => .bad s

/-- One instruction, checked first (R183). -/
def veChecked (op c : Nat) (f : VEWord) (s : State) : VeRes := if veWordOk op f then veInstr op c f s else .bad s

/-- The program from its PC on: to END, to a word that breaks R182, or to a wait that no queued pass can end. Passes run when the program
waits for one, in their order (DESIGN CHOICE, log entry 184). -/
def veRun (c : Nat) : Nat → State → VeRes
  | 0, s => .stall s
  | n + 1, s =>
    let k := (s.cluster c).ve
    if 8192 ≤ k.pc then .bad s
    else
      let w := k.instr k.pc
      match veChecked (veOp w) c (veFields w) s with
      | .go s' => veRun c n s'
      | .stall s' => let r := ruStep c s'; if r.2 then veRun c n r.1 else .stall s'
      | .fin s' => .fin s'
      | .bad s' => .bad s'

/-- The registers of R159 at the start of a command, and the command word's fields (R180). -/
def veStart (c : Nat) (w : List Byte) (s : State) : State :=
  s.onCluster c (fun k => { k with
    veRegs := { k.veRegs with busy := true },
    ve := { VeSt.reset with
      s := List.replicate 14 0 ++ [BitVec.ofNat 32 (fld w 0x10 4), BitVec.ofNat 32 (fld w 0x14 4)],
      pc := fld w 4 2, imem := k.ve.imem, tiles := k.ve.tiles.map (fun t => { t with arrived := false, held := false }), tileMap := fld w 1 1, dom := bitsOf (fld w 2 1) 0 6,
      inStream := fld w 8 2, outStream := fld w 0xA 2, nextIn := nextInput (fld w 1 1) 3,
      drains := k.ve.drains, tag := BitVec.ofNat 32 (fld w 0x1C 4) } })

/-- The checks of R182 on a VE command word, in offset order; `lim` instructions can be an ENTRY. -/
def veCmdFail (lim : Nat) (w : List Byte) : Option Half :=
  let map := fld w 1 1
  let role := fun i => bitsOf map (2 * i) 2
  firstFail [
    (decide (fld w 0 1 = 2), stBadFormat),
    ((List.range 4).all (fun i => decide (role i ≠ 3)), stBadFormat),
    (decide (fld w 2 1 < 64), stBadFormat),
    (decide (fld w 3 1 = 0), stBadFormat),
    (decide (fld w 4 2 < lim), stBadLength),
    (decide (fld w 6 2 = 0), stBadFormat),
    (!(List.range 4).any (fun i => role i == 1) || decide (fld w 8 2 ≠ 0xFFFF), stBadFormat),
    (!(List.range 4).any (fun i => role i == 2) || decide (fld w 0xA 2 ≠ 0xFFFF), stBadFormat),
    (decide (fld w 0xC 4 = 0), stBadFormat),
    (decide (fld w 0x18 4 ≠ 0), stBadLength),
    (decide (fld w 0x18 4 ≤ 108000), stBadFormat)]

end Sys2Proof.Machine
end

