-- ==== Sys2Proof/Machine/ArrayExec.lean ====
section
/-! DEFINITION. The array commands on their clusters (R142 to R155): streams, statuses, registers. -/

namespace Sys2Proof.Machine

/-- The cluster exists, is powered and takes commands (R29, R557). -/
def State.clusterUp (s : State) (c : Nat) : Bool :=
  decide (c < 8) && s.rot.dcpReady && s.power.mode == .active && (s.svc ⟨.cluster, c⟩ == .inService || s.svc ⟨.cluster, c⟩ == .moving)
/-- The bytes an endpoint holds from a stream. -/
def bufBytes (l : List StreamBuf) (num : Nat) : List Byte := (l.filter (fun b => b.num == num)).flatMap (fun b => b.tiles.flatten)
/-- The status an endpoint holds for a stream. -/
def bufStatus (l : List StreamBuf) (num : Nat) : Half := ((l.find? (fun b => b.num == num)).map (·.status)).getD stOk
/-- The flaws of a stream's buffer. -/
def bufFlaws (l : List StreamBuf) (num : Nat) : List (Nat × Nat × Half) := ((l.find? (fun b => b.num == num)).map (·.flaws)).getD []
/-- Some bytes of a stream's buffer were refused. -/
def bufRefused (l : List StreamBuf) (num : Nat) : Bool := bufStatus l num == stDomainFault || (bufFlaws l num).any (fun f => f.2.2 == stDomainFault)
/-- The first `n` bytes of a stream consumed; the rest stays as one unit. -/
def bufTake (l : List StreamBuf) (num n : Nat) : List StreamBuf :=
  let rest := (bufBytes l num).drop n
  let l' := l.filter (fun b => !(b.num == num))
  if rest.isEmpty then l'
  else l' ++ [{ num := num, ep := ((l.find? (fun b => b.num == num)).map (·.ep)).getD 0, tiles := [rest], status := bufStatus l num, ended := bufEnded l num, flaws := dropFlaws n (bufFlaws l num) }]
/-- What is left of a stream's banks dropped: its command has ended (R146). -/
def bufFree (l : List StreamBuf) (num : Nat) : List StreamBuf := l.filter (fun b => !(b.num == num))
/-- The leading units of a buffer that lie within its first `n` bytes, as bytes, and the others. -/
def wholeTiles : Nat → List (List Byte) → List Byte × List (List Byte)
  | _, [] => ([], [])
  | n, t :: r => if t.length ≤ n then let q := wholeTiles (n - t.length) r; (t ++ q.1, q.2) else ([], t :: r)
/-- The banks of a stream that lie within its first `n` bytes released; the stream's status stays. -/
def bufRelease (num n : Nat) (l : List StreamBuf) : List StreamBuf :=
  updFirst l (·.num == num) (fun b =>
    let q := wholeTiles n b.tiles
    { b with tiles := q.2, flaws := dropFlaws q.1.length b.flaws })
/-- The bytes of those banks. -/
def bufReleased (num n : Nat) (l : List StreamBuf) : List Byte :=
  match l.find? (·.num == num) with | some b => (wholeTiles n b.tiles).1 | none => []

/-- The registers after an array command completes. -/
def arrFinish (w : List Byte) (st : Half) (poison : Bool) (r : ArrRegs) : ArrRegs :=
  { r with
    lastStatus := st, poison := r.poison || poison, eccUe := r.eccUe || st == stIntegrityFail,
    domFault := r.domFault || st == stDomainFault, busy := false,
    lastTag := BitVec.ofNat 32 (fld w 0x1C 4), count := r.count + 1 }

/-- The code lines that the array has read, when so many bytes of both streams have come: the lines of the start phase, then
for each slice whose activations are there its codebook line and its code lines (R144 to R147). -/
def arrRead (w : List Byte) (codes acts : Nat) : Nat :=
  min (min (codes / 512) (arrHeadLines w + acts / (arrTokens w * 1024) * (1 + arrBcols w))) (arrCodeBytes w / 512)
/-- The bytes of the activation slices whose fill the array has begun, and so ended, when it has read so many lines (R146). -/
def arrFilled (w : List Byte) (lines : Nat) : Nat := cdiv (lines - arrHeadLines w) (1 + arrBcols w) * arrTokens w * 1024
/-- The array goes on as far as its banks let it (R144 to R154): a stream that ends short of the bytes the command needs is a
fault in the DCP (R314); with a line or row that has not come the array waits, and the banks it has read are released (R146); otherwise the
command consumes its streams, drains its outputs and completes with the first invalid input's status, or INTEGRITY_FAIL for
an error of its own stores. -/
def arrGo (c : Nat) (s : State) : State :=
  let k := s.cluster c
  match k.arrRun with
  | none => s
  | some r =>
    let w := r.word
    let code := fld w 0x10 2
    let act := fld w 0x12 2
    let out := fld w 0x14 2
    let codes := r.codes ++ bufBytes k.inb code
    let acts := r.acts ++ bufBytes k.inb act
    if (codes.length < arrCodeBytes w && bufEnded k.inb code) || (acts.length < arrActBytes w && bufEnded k.inb act) then
      dcpFault (planDone (.cluster c) stBadFormat (s.onCluster c (fun k => { k with
        arr := arrFinish w stBadFormat false k.arr, arrRun := none, inb := bufFree (bufFree k.inb code) act, outb := outPut out [] stBadFormat k.outb })))
    else if codes.length < arrCodeBytes w ∨ acts.length < arrActBytes w then
      let n := arrRead w codes.length acts.length
      let nc := 512 * n - r.codes.length
      let na := arrFilled w n - r.acts.length
      s.onCluster c (fun k => { k with
        arr := { k.arr with
          busy := true, curMode := BitVec.ofNat 2 (arrMode w), domFault := k.arr.domFault || bufRefused k.inb code || bufRefused k.inb act },
        arrRun := some { r with codes := r.codes ++ bufReleased code nc k.inb, acts := r.acts ++ bufReleased act na k.inb },
        inb := bufRelease act na (bufRelease code nc k.inb) })
    else
      let st := firstBad [bufStatus k.inb code, bufStatus k.inb act, if r.ecc then stIntegrityFail else stOk]
      planDone (.cluster c) st (s.onCluster c (fun k => { k with
        arr := { arrFinish w st (arrAnyPoison w acts) k.arr with
          curMode := BitVec.ofNat 2 (arrMode w), eccUe := k.arr.eccUe || r.ecc,
          domFault := k.arr.domFault || bufRefused k.inb code || bufRefused k.inb act },
        arrRun := none, outUnit := kset k.outUnit out 1,
        inb := bufFree (bufFree k.inb code) act,
        outb := outPut out (arrDrain w codes acts) st k.outb }))

/-- MATMUL (R137 to R155): a malformed word completes with BAD_FORMAT and is a fault in the DCP; an empty command
completes with OK and writes nothing; any other command begins, and goes on as far as its banks let it. A command that waits
goes on from where it stands. A cluster that runs another unit's command takes no array command (R160, R231). DESIGN CHOICE
(log entry 141): CUR_MODE keeps the mode of the last command when none runs. -/
def execMatmul (c : Nat) (w0 : List Byte) (ecc : Bool) (s : State) : Host.Outcome State Fault Refusal :=
  let w := fit 32 w0
  let k := s.cluster c
  let out := fld w 0x14 2
  if !s.clusterUp c || k.veRegs.busy || k.scan.busy then .next s
  else if k.arrRun.isSome then .next (arrGo c s)
  else if (arrWordFail w).isSome then
    .next (dcpFault (planDone (.cluster c) stBadFormat (s.onCluster c (fun k => { k with
      arr := arrFinish w stBadFormat false k.arr, outb := outPut out [] stBadFormat k.outb }))))
  else if arrEmpty w then
    .next (planDone (.cluster c) stOk (s.onCluster c (fun k => { k with arr := arrFinish w stOk false k.arr })))
  else .next (arrGo c (s.onCluster c (fun k => { k with arrRun := some { word := w, ecc := ecc, codes := [], acts := [] } })))

/-- ARRAY_STALL (R147): the cycles are counted, STALLED is set, no result changes. -/
def execArrayStall (c : Nat) (cycles : Nat) (s : State) : Host.Outcome State Fault Refusal :=
  if s.clusterUp c then
    .next (s.onCluster c (fun k => { k with
      arr := { k.arr with stalled := true, stall := k.arr.stall + BitVec.ofNat 64 cycles } }))
  else .next s

end Sys2Proof.Machine
end

