-- ==== Sys2Proof/Machine/NmuCalc.lean ====
section
/-! DEFINITION. What the near-memory commands compute (R241 to R256): command words and their checks, the code GEMV,
rotary positions, scores, values, page sealing, and the merge's folds. -/

namespace Sys2Proof.Machine

/-! ## Rotary positions (R249) -/

/-- The unit of the fixed-point trigonometry: 2^400. -/
def trigOne : Nat := 2 ^ 400
/-- arctan(1 / q) in fixed point, `n` more terms. -/
def atanInv (q : Nat) : Nat → Nat → Nat → Nat
  | 0, _, _ => 0
  | n + 1, k, pw => pw / (2 * k + 1) - atanInv q n (k + 1) (pw / (q * q))
/-- π in fixed point, by Machin's formula. -/
def piFix : Nat := 16 * atanInv 5 100 0 (trigOne / 5) - 4 * atanInv 239 40 0 (trigOne / 239)
/-- The alternating Taylor sum of cos (k = 0) or sin (k = 1) from a term on. -/
def trigTaylor (y2 : Nat) : Nat → Nat → Nat → Nat
  | 0, _, _ => 0
  | n + 1, k, term => term - trigTaylor y2 n (k + 2) (term * y2 / trigOne / ((k + 1) * (k + 2)))
/-- Cosine and sine of 2π × phi / 2^32, each rounded once to FP32. -/
def cosSin (phi : Nat) : Fv × Fv :=
  let q := phi / 2 ^ 30 % 4
  let r := phi % 2 ^ 30
  let y := 2 * piFix * r / 2 ^ 32
  let y2 := y * y / trigOne
  let c : Fv := if r = 0 then fvInt 1 else rndQ false fmt32 false (trigTaylor y2 90 0 trigOne) trigOne
  let n : Fv := if r = 0 then fvZero else rndQ false fmt32 false (trigTaylor y2 90 1 y) trigOne
  let z := fun (v : Fv) => if fvIsZero v then v else fvNeg v
  if q = 0 then (c, n) else if q = 1 then (z n, c) else if q = 2 then (z c, z n) else (n, z c)
/-- A pair rotated at a position, each half rounded once to BF16. -/
def rotPair (pos inc : Nat) (a b : Fv) : Fv × Fv :=
  let t := cosSin (pos * inc % 2 ^ 32)
  (rnd fmtB16 (fvSub (fvMul a t.1) (fvMul b t.2)), rnd fmtB16 (fvAdd (fvMul a t.2) (fvMul b t.1)))
/-- A head vector rotated: ROPE_PAIR 1 interleaved, 2 split, 0 none. -/
def rotate (pair pos : Nat) (rope : List Nat) (x : List Fv) : List Fv :=
  let d := x.length
  if pair = 1 then
    (List.range (d / 2)).flatMap (fun i =>
      let r := rotPair pos (rope.getD i 0) (x.getD (2 * i) fvZero) (x.getD (2 * i + 1) fvZero)
      [r.1, r.2])
  else if pair = 2 then
    let l := (List.range (d / 2)).map (fun i => rotPair pos (rope.getD i 0) (x.getD i fvZero) (x.getD (i + d / 2) fvZero))
    l.map (·.1) ++ l.map (·.2)
  else x

/-! ## Trees of exact leaves (R172, R250, R252) -/

/-- An addition rounded once to FP32. -/
def addR (a b : Fv) : Fv := rnd fmt32 (fvAdd a b)
/-- The pairwise tree of exact leaves, every addition rounded once. -/
def leafTree (l : List Fv) : Fv := rnd fmt32 (treeVal addR 8 fvZero l)

/-! ## The GEMV command (R242 to R246, R260) -/

/-- TOKENS. -/
def gvTokens (w : List Byte) : Nat := fld w 3 1
/-- COL_FIRST. -/
def gvCol (w : List Byte) : Nat := fld w 4 2
/-- BCOLS. -/
def gvBcols (w : List Byte) : Nat := fld w 6 2
/-- NVALID. -/
def gvNvalid (w : List Byte) : Nat := fld w 0x1C 2
/-- OUT_FP32. -/
def gvOut32 (w : List Byte) : Bool := (fld w 1 1).testBit 0
/-- TSCALE. -/
def gvTscale (w : List Byte) : Bool := (fld w 1 1).testBit 1
/-- The command is empty (R264). -/
def gvEmpty (w : List Byte) : Bool := decide (gvTokens w = 0 ∨ gvBcols w = 0 ∨ gvNvalid w = 0)
/-- r_g of a share in ‰ (R267). -/
def rateG (pm : Nat) : Nat := min 1024 (1185 * pm / 1000)
/-- r_a of a share in ‰ (R267). -/
def rateA (pm : Nat) : Nat := 1185 * pm / 1000
/-- Outputs per token: O_w. -/
def gvOw (form : Nat) (w : List Byte) : Nat := if form = 2 then 2 * gvNvalid w else gvNvalid w
/-- C_gemv (R268) at a rate. -/
def gvCycles (form k : Nat) (w : List Byte) (rg : Nat) : Nat :=
  let u := if form = 4 then 8 * tnSlices k else tnSlices k
  let f := if form = 1 then 32 else 64
  let z := cdiv (gvBcols w * (if form = 4 then 64 else 512)) rg
  32 + cdiv (4 * gvOw form w) rg + f + (u - 1) * max f z + z + 24 +
    cdiv (gvOw form w * gvTokens w * (if gvOut32 w then 4 else 2)) 1024
/-- The header of a stripe names a code tensor of a stack (R97, R100). -/
def stripeHere (stack : Nat) (h : List Byte) : Bool :=
  decide (fld h 0 2 = 1) && decide (1 ≤ tnForm h ∧ tnForm h ≤ 4) && decide (fld h 8 4 ≠ 0) &&
  (!tnStriped h || (fld h 3 1).testBit 1 || decide (fld h 0xC 2 = stack))
/-- The checks of R263 on a GEMV word, in offset order; the stripe's header where it can be read. -/
def gemvFail (stack : Nat) (w : List Byte) (hdr : Option (List Byte)) : Option Half :=
  let h := hdr.getD []
  let known := hdr.isSome
  let form := tnForm h
  let k := fld h 8 4
  let pm := fld w 0x28 2
  firstFail [
    (decide (fld w 0 1 = 0x10), stBadFormat),
    (decide (fld w 1 1 < 4), stBadFormat),
    (decide (fld w 2 1 < 64), stBadFormat),
    (decide (gvTokens w ≤ 32), stBadLength),
    (decide (gvCol w % 64 = 0), stBadFormat),
    (decide (gvBcols w % 64 = 0), stBadFormat),
    (decide (gvBcols w ≤ if known ∧ form ≤ 2 then 2048 else 4096), stBadLength),
    (!known || decide (gvCol w + gvBcols w ≤ fld h 0x10 4), stBadLength),
    (decide (fld w 8 8 % 4096 = 0), stBadFormat),
    (!known || stripeHere stack h, stBadFormat),
    (decide (fld w 0x10 4 % 64 = 0), stBadFormat),
    (decide (gvTokens w = 0) || !known ||
      decide (fld w 0x10 4 + (gvTokens w - 1) * fld w 0x14 4 + 1024 * tnSlices k ≤ 524288), stBadLength),
    (decide (fld w 0x14 4 % 64 = 0), stBadFormat),
    (!known || decide (1024 * tnSlices k ≤ fld w 0x14 4), stBadLength),
    (gvTscale w || decide (fld w 0x18 4 = 0), stBadFormat),
    (!gvTscale w || decide (fld w 0x18 4 + 4 * gvTokens w ≤ 524288), stBadLength),
    ((!known || gvEmpty w || decide (gvNvalid w ≤ if form = 1 then 2 * gvBcols w else gvBcols w)) && decide (gvOw form w ≤ 4096), stBadLength),
    (decide (fld w 0x20 4 ≠ 0), stBadLength),
    ((!known || decide (gvCycles form k w (rateG pm) ≤ fld w 0x20 4)) && decide (fld w 0x20 4 ≤ 54000), stBadFormat),
    (decide (1 ≤ pm ∧ pm ≤ 1000), stBadLength),
    (allZero w 0x2A 22, stBadFormat)]

/-- What feeds an output of a GEMV command: byte-column of the stripe, table, nibble, place among the scales. -/
def gvOuts (w h : List Byte) : List ArrOut :=
  let c0 := gvCol w
  if tnForm h = 1 then (List.range (gvNvalid w)).map (fun n => ⟨c0 + n / 2, 0, n % 2 == 1, 2 * c0 + n⟩)
  else if tnForm h = 2 then
    (List.range (gvNvalid w)).map (fun n => ⟨c0 + n, 0, false, c0 + n⟩) ++
    (List.range (gvNvalid w)).map (fun n => ⟨c0 + n, 1, true, fld h 0x10 4 + c0 + n⟩)
  else (List.range (gvNvalid w)).map (fun n => ⟨c0 + n, 0, false, c0 + n⟩)
/-- One code GEMV over `rd`, which reads bytes of the stripe region, and `act`, which reads the activation buffer. -/
structure GvIn where
  w : List Byte
  h : List Byte
  rd : Nat → Nat
  act : Nat → Nat
/-- Two bytes of a reader. -/
def rd2 (rd : Nat → Nat) (o : Nat) : Half := BitVec.ofNat 16 (rd o + 256 * rd (o + 1))
/-- Four bytes of a reader. -/
def rd4 (rd : Nat → Nat) (o : Nat) : Word :=
  BitVec.ofNat 32 (rd o + 256 * rd (o + 1) + 65536 * rd (o + 2) + 16777216 * rd (o + 3))
/-- Entry `i` of codebook `tbl` of a group of a slice. -/
def GvIn.cb (g : GvIn) (sl grp tbl i : Nat) : Fv :=
  decB16 (rd2 g.rd (0x40 + (8 * sl + grp) * tnRecord (tnForm g.h) + 32 * tbl + 2 * i))
/-- Activation of a token at an input; inputs at or above K read +0 (R244). -/
def GvIn.x (g : GvIn) (t k : Nat) : Fv :=
  if fld g.h 8 4 ≤ k then fvZero else decB16 (rd2 g.act (fld g.w 0x10 4 + t * fld g.w 0x14 4 + 2 * k))
/-- Code byte of a byte-column at an input (R103). -/
def GvIn.code (g : GvIn) (j k : Nat) : Nat :=
  g.rd (tnCodeOff (tnForm g.h) (fld g.h 8 4) (fld g.h 0x10 4) +
    ((j / 64 * tnSlices (fld g.h 8 4) + k / 512) * 64 + j % 64) * 512 + k % 512)
/-- M_τ over the slice's eight groups (R94, R243). -/
def GvIn.m (g : GvIn) (sl tbl : Nat) : Fv :=
  let form := tnForm g.h
  fvMaxAbs ((List.range 8).map (fun grp =>
    let mx := fun t => fvMaxAbs ((List.range (if form = 4 then 256 else 16)).map (g.cb sl grp t))
    if form = 3 then fvAdd (mx 0) (mx 1) else mx tbl))
/-- X of a token in a slice. -/
def GvIn.xmax (g : GvIn) (sl t : Nat) : Fv := fvMaxAbs ((List.range 512).map (fun i => g.x t (512 * sl + i)))
/-- The token is poisoned (R244). -/
def GvIn.poison (g : GvIn) (t : Nat) : Bool :=
  (List.range (512 * tnSlices (fld g.h 8 4))).any (fun k => !fvFinite (g.x t k))
/-- The exact slice sum of one output (R245). -/
def GvIn.sum (g : GvIn) (sl t : Nat) (o : ArrOut) (xm mm : Fv) : Int :=
  let form := tnForm g.h
  (List.range 512).foldl (fun acc i =>
    let k := 512 * sl + i
    let b := g.code o.j k
    let x := g.x t k
    let grp := i / 64
    if form = 3 then acc + arrEntry x (g.cb sl grp 0 (b / 16)) xm mm + arrEntry x (g.cb sl grp 1 (b % 16)) xm mm
    else if form = 4 then acc + arrEntry x (g.cb sl grp 0 b) xm mm
    else acc + arrEntry x (g.cb sl grp o.tbl (if o.high then b / 16 else b % 16)) xm mm) 0
/-- One output (R245). -/
def GvIn.value (g : GvIn) (t : Nat) (o : ArrOut) : Fv :=
  if g.poison t then .nan
  else
    let acc := (List.range (tnSlices (fld g.h 8 4))).foldl (fun acc sl =>
      let xm := g.xmax sl t
      let mm := g.m sl o.tbl
      addR acc (r32 (fvScale (fvInt (g.sum sl t o xm mm)) (arrB xm mm - 25)))) fvZero
    let y := r32 (fvMul acc (dec32 (rd4 g.rd (tnScaleOff (tnForm g.h) (fld g.h 8 4) + 4 * o.scale))))
    if gvTscale g.w then r32 (fvMul y (dec32 (rd4 g.act (fld g.w 0x18 4 + 4 * t)))) else y
/-- The bytes the outputs leave as, token by token. -/
def GvIn.drain (g : GvIn) : List Byte :=
  (List.range (gvTokens g.w)).flatMap (fun t => (gvOuts g.w g.h).flatMap (fun o =>
    if gvOut32 g.w then natLe 4 (to32 (g.value t o)).toNat else natLe 2 (toB16 (g.value t o)).toNat))
/-- The bytes of the stripe a GEMV command reads: header, codebooks and scales, codes. -/
def gvRanges (w h : List Byte) : List (Nat × Nat) :=
  let form := tnForm h
  let k := fld h 8 4
  let c := fld h 0x10 4
  let o := fld w 8 8
  [(o + 0x40, 8 * tnSlices k * tnRecord form + 4 * tnScales form c),
   (o + tnCodeOff form k c + gvCol w / 64 * tnSlices k * 32768, gvBcols w / 64 * tnSlices k * 32768)]

/-- What a GEMV command reads of the activation buffer: its tokens' rows, and their scales. -/
def gvActs (w h : List Byte) : List (Nat × Nat) :=
  (List.range (gvTokens w)).map (fun t => (fld w 0x10 4 + t * fld w 0x14 4, 1024 * tnSlices (fld h 8 4))) ++
    (if gvTscale w then [(fld w 0x18 4, 4 * gvTokens w)] else [])

/-! ## Attention commands (R247 to R252, R261) -/

/-- QROWS. -/
def atRows (w : List Byte) : Nat := fld w 3 1
/-- HEADS. -/
def atHeads (w : List Byte) : Nat := fld w 5 1
/-- D. -/
def atD (w : List Byte) : Nat := 64 * fld w 6 1
/-- PAGES. -/
def atPages (w : List Byte) : Nat := fld w 0x10 2
/-- MERGE. -/
def atMerge (w : List Byte) : Nat := fld w 0x12 2
/-- SCORE_OFF. -/
def atScoreOff (w : List Byte) : Nat := fld w 0x1C 4
/-- OPEN_MAX. -/
def atOpenMax (w : List Byte) : Nat := fld w 0x26 2
/-- The scores of page `j` lie, for some row, in the DRAM part of the score area (R269). -/
def atSpills (w : List Byte) (j : Nat) : Bool :=
  decide (1 ≤ atRows w ∧ 4194304 ≤ atScoreOff w + ((atRows w - 1) * atPages w + j) * 256)
/-- The cycles of one page (R269). -/
def atPage (w : List Byte) (ra e : Nat) (j : Nat) : Nat :=
  let x := if atSpills w j then cdiv (atRows w * 256) ra else 0
  max (max (cdiv (atRows w * atD w) 128) (if fld w 0 1 = 0x11 then atD w / 16 else 0))
    (max (cdiv (64 * atD w * e) ra + x) (cdiv (atRows w) 4))
/-- The cycles of an attention command; the last OPEN_MAX pages of the list count as open (R269, log entry 12). -/
def atCycles (w : List Byte) (ra : Nat) (fp8 : Bool) : Nat :=
  32 + (List.range (atPages w)).foldl (fun acc j =>
    acc + atPage w ra (if fp8 && decide (j < atPages w - atOpenMax w) then 1 else 2) j) 0 + 24 +
    (if fld w 0 1 = 0x12 then cdiv (atRows w * atD w) 256 else 0)
/-- The checks of R263 on an attention word, in offset order. -/
def attFail (w : List Byte) (fp8 : Bool) : Option Half :=
  let value := fld w 0 1 == 0x12
  let sc := dec32 (BitVec.ofNat 32 (fld w 0x20 4))
  let pm := fld w 0x24 2
  firstFail [
    (decide (fld w 0 1 = 0x11 ∨ fld w 0 1 = 0x12), stBadFormat),
    (decide (fld w 1 1 < 8) && decide (bitsOf (fld w 1 1) 0 2 ≠ 3) && (!value || decide (fld w 1 1 = 0)), stBadFormat),
    (decide (fld w 2 1 < 64), stBadFormat),
    (decide (atRows w ≤ 64), stBadLength),
    (decide (fld w 4 1 < 16) && (decide (atHeads w = 0 ∨ 16 < atHeads w) || decide (fld w 4 1 < atHeads w)), stBadLength),
    (decide (1 ≤ atHeads w ∧ atHeads w ≤ 16), stBadLength),
    (decide (fld w 6 1 = 1 ∨ fld w 6 1 = 2 ∨ fld w 6 1 = 4), stBadFormat),
    (decide (fld w 8 8 % 16 = 0), stBadFormat),
    (decide (atPages w ≤ 4096), stBadLength),
    (decide (atMerge w ≠ 0xFFFF ∨ atRows w = 0), stBadFormat),
    (decide (atMerge w ≤ 1023 ∨ atMerge w = 0xFFFF), stBadLength),
    (!value || decide (fld w 0x14 4 = 0), stBadFormat),
    (value || decide (fld w 0x14 4 + atRows w * atD w * 2 ≤ 524288), stBadLength),
    (!value || decide (fld w 0x18 4 = 0), stBadFormat),
    (value || decide (fld w 0x18 4 + 4 * atRows w ≤ 524288), stBadLength),
    (decide (atScoreOff w % 256 = 0), stBadFormat),
    (decide (atScoreOff w + atRows w * atPages w * 256 ≤ 67108864), stBadLength),
    (if value then decide (fld w 0x20 4 = 0) else fvFinite sc && fvLt fvZero sc, stBadFormat),
    (decide (1 ≤ pm ∧ pm ≤ 1000), stBadLength),
    (decide (atOpenMax w ≤ atPages w), stBadLength),
    ((!value && decide (bitsOf (fld w 1 1) 0 2 ≠ 0)) || decide (fld w 0x28 8 = 0), stBadFormat),
    (decide (fld w 0x30 4 ≠ 0), stBadLength),
    (decide (atCycles w (rateA pm) fp8 ≤ fld w 0x30 4) && decide (fld w 0x30 4 ≤ 54000), stBadFormat),
    (allZero w 0x38 8, stBadFormat)]

/-- A page list entry (R247). -/
structure PageEnt where
  frame : Nat
  first : Nat
  fill : Nat
  flags : Nat
  rsvd : Nat
  deriving DecidableEq, Repr
/-- SEALED of an entry. -/
def PageEnt.sealed (p : PageEnt) : Bool := p.flags.testBit 0
/-- The entry keeps R247 and R248. -/
def PageEnt.ok (fp8 : Bool) (p : PageEnt) : Bool :=
  decide (p.frame % 4096 = 0) && decide (p.first % 64 = 0) && decide (p.fill ≤ 64) && decide (p.flags < 2) &&
    decide (p.rsvd = 0) && (!p.sealed || fp8)
/-- Entry `i` of a list at stack offset `o`. -/
def pageEnt (rd : Nat → Nat) (o i : Nat) : PageEnt :=
  let b := (List.range 16).map (fun j => BitVec.ofNat 8 (rd (o + 16 * i + j)))
  { frame := fld b 0 8, first := fld b 8 4, fill := fld b 0xC 1, flags := fld b 0xD 1, rsvd := fld b 0xE 2 }
/-- Where a head's keys (0) or values (1) start in a page, and their bytes (R115, R248). -/
def pagePart (w : List Byte) (p : PageEnt) (v : Nat) : Nat × Nat :=
  let es := if p.sealed then 1 else 2
  (p.frame + (2 * fld w 4 1 + v) * 64 * atD w * es, 64 * atD w * es)
/-- Element `c` of slot `j` of a head's keys or values, before s_h. -/
def pageElem (w : List Byte) (rd : Nat → Nat) (p : PageEnt) (v j c : Nat) : Fv :=
  let a := (pagePart w p v).1
  if p.sealed then decE4 (BitVec.ofNat 8 (rd (a + j * atD w + c))) else decB16 (rd2 rd (a + 2 * (j * atD w + c)))
/-- s_h of a page (R273). -/
def pageScale (w : List Byte) (rd : Nat → Nat) (p : PageEnt) : Fv :=
  dec32 (rd4 rd (p.frame + atHeads w * atD w * 256 + 0x40 + 4 * fld w 4 1))
/-- The score of a query vector at a slot (R250). -/
def scoreAt (w : List Byte) (rd : Nat → Nat) (p : PageEnt) (rope : List Nat) (q : List Fv) (j : Nat) : Fv :=
  let k := rotate (bitsOf (fld w 1 1) 0 2) (p.first + j) rope ((List.range (atD w)).map (pageElem w rd p 0 j))
  let dot := leafTree (List.zipWith fvMul q k)
  let d := if p.sealed then r32 (fvMul dot (pageScale w rd p)) else dot
  r32 (fvMul d (dec32 (BitVec.ofNat 32 (fld w 0x20 4))))
/-- The 64 scores of a row on a page; an absent slot has −∞. -/
def pageScores (w : List Byte) (rd : Nat → Nat) (p : PageEnt) (rope : List Nat) (q : List Fv) (qpos : Nat) : List Word :=
  (List.range 64).map (fun j =>
    if p.fill ≤ j ∨ ((fld w 1 1).testBit 2 = true ∧ qpos < p.first + j) then negInf32
    else enc32 (scoreAt w rd p rope q j))
/-- The probability of a slot (R252). -/
def probAt (exp : Fv → Fv) (fill j : Nat) (score m r : Word) : Fv :=
  if fill ≤ j ∨ score = negInf32 then fvZero
  else if fvIsNan (dec32 m) then .nan
  else if fvIsZero (dec32 r) then fvZero
  else rnd fmtB16 (r32 (fvMul (exp (r32 (fvSub (dec32 score) (dec32 m)))) (dec32 r)))
/-- One row's partial output (R252); `score page slot` reads back its scores. -/
def rowOut (w : List Byte) (rd : Nat → Nat) (exp : Fv → Fv) (pages : List PageEnt) (score : Nat → Nat → Word)
    (m r : Word) : List Word :=
  let ps := pages.zipIdx.map (fun (x : PageEnt × Nat) =>
    (x.1, (List.range 64).map (fun j => (probAt exp x.1.fill j (score x.2 j) m r,
      decide (x.1.fill ≤ j) || score x.2 j == negInf32))))
  (List.range (atD w)).map (fun c =>
    enc32 (ps.foldl (fun (o : Fv) (x : PageEnt × List (Fv × Bool)) =>
      let t := leafTree (x.2.zipIdx.map (fun (y : (Fv × Bool) × Nat) =>
        if y.1.2 then fvZero else fvMul y.1.1 (pageElem w rd x.1 1 y.2 c)))
      addR o (if x.1.sealed then r32 (fvMul t (pageScale w rd x.1)) else t)) fvZero))

/-! ## Key-value commands (R115 to R120, R254, R262) -/

/-- D of a key-value word. -/
def kvD (w : List Byte) : Nat := 64 * fld w 4 1
/-- H of a key-value word. -/
def kvH (w : List Byte) : Nat := fld w 3 1
/-- The cycles of KVPUT or KVSEAL (R269). -/
def kvCycles (w : List Byte) (ra : Nat) : Nat :=
  32 + cdiv ((if fld w 0 1 = 0x13 then 4 else 384) * kvH w * kvD w) ra + 24
/-- The checks of R263 on a key-value word, in offset order. -/
def kvFail (w : List Byte) : Option Half :=
  let put := fld w 0 1 == 0x13
  let pm := fld w 0x14 2
  firstFail [
    (decide (fld w 0 1 = 0x13 ∨ fld w 0 1 = 0x14), stBadFormat),
    (if put then true else decide (fld w 1 1 = 0), stBadFormat),
    (decide (fld w 1 1 < 64), stBadLength),
    (decide (fld w 2 1 < 64), stBadFormat),
    (decide (1 ≤ kvH w ∧ kvH w ≤ 16), stBadLength),
    (decide (fld w 4 1 = 1 ∨ fld w 4 1 = 2 ∨ fld w 4 1 = 4), stBadFormat),
    (allZero w 5 3, stBadFormat),
    (decide (fld w 8 8 % 4096 = 0), stBadFormat),
    (put || decide (fld w 0x10 4 = 0), stBadFormat),
    (!put || decide (fld w 0x10 4 + kvH w * kvD w * 4 ≤ 524288), stBadLength),
    (decide (1 ≤ pm ∧ pm ≤ 1000), stBadLength),
    (decide (fld w 0x16 2 = 0), stBadFormat),
    (decide (fld w 0x18 4 ≠ 0), stBadLength),
    (decide (kvCycles w (rateA pm) ≤ fld w 0x18 4) && decide (fld w 0x18 4 ≤ 54000), stBadFormat)]
/-- s_h of 2 × 64 × D elements (R117). -/
def sealScale (l : List Fv) : Fv :=
  let m := fvMaxAbs (l.filter fvFinite)
  if fvIsZero m then fvZero else fvDivRnd fmt32 m (fvInt 448)
/-- An element encoded (R118). -/
def sealElem (sh x : Fv) : Byte :=
  match x with
  | .fin _ _ _ =>
    if fvIsZero sh then 0
    else match fvDivRnd fmtE4 x sh with
      | .fin n m e => if fvLt (fvInt 448) (.fin false m e) then encE4fin (.fin n 448 0) else encE4fin (.fin n m e)
      | .inf n => encE4fin (.fin n 448 0)
      | .nan => 0x7F
  | _ => 0x7F
/-- The sealed body of a page of H heads and its scales, from the BF16 body a reader gives. -/
def sealBody (h d : Nat) (rd : Nat → Nat) : List Byte × List Word :=
  let heads := (List.range h).map (fun i =>
    let l := (List.range (128 * d)).map (fun j => decB16 (rd2 rd (2 * (i * 128 * d + j))))
    let sh := sealScale l
    (l.map (sealElem sh), enc32 sh))
  (heads.flatMap (·.1), heads.map (·.2))

/-! ## The merge (R256) -/

/-- The largest m of the contributions: exact, NaN if any is NaN. -/
def mergeMax (l : List (Word × Word)) : Word := l.foldl (fun a p => max32 a p.1) negInf32
/-- The fold of the sums against the largest m, over the contributions whose m is above −∞: −∞ and NaN are not. -/
def mergeSum (exp : Fv → Fv) (m : Word) (l : List (Word × Word)) : Word :=
  l.foldl (fun a p =>
    if p.1 = negInf32 ∨ fvIsNan (dec32 p.1) = true then a
    else add32 a (to32 (fvMul (dec32 p.2) (exp (r32 (fvSub (dec32 p.1) (dec32 m))))))) 0
/-- One row's (m, s) over its contributions in order. -/
def mergePair (exp : Fv → Fv) (l : List (Word × Word)) : Word × Word :=
  let m := mergeMax l
  (m, mergeSum exp m l)
/-- r of a row. -/
def mergeR (p : Word × Word) : Word :=
  if fvIsNan (dec32 p.1) then nan32 else if fvIsZero (dec32 p.2) then 0 else enc32 (fvDivRnd fmt32 (fvInt 1) (dec32 p.2))
/-- One element folded over its contributions in order. -/
def mergeElem (l : List Word) : Word := l.foldl add32 0

end Sys2Proof.Machine
end

