-- ==== Sys2Proof/Machine/AudioCalc.lean ====
section
/-! DEFINITION. The arithmetic of the Audio Front End (R418, R429 to R439): rates, the rate loop, the resampler, sample
formats, and the log-mel features. -/

namespace Sys2Proof.Machine

/-! ## Rates (R418, R429) -/

/-- Hz of a rate code. -/
def rateHz (code : Nat) : Nat :=
  [8000, 11025, 12000, 16000, 22050, 24000, 32000, 44100, 48000, 88200, 96000].getD code 16000
/-- A rate of the 22.5792 MHz family (R445). -/
def rateFamily (code : Nat) : Bool := code == 1 || code == 4 || code == 7 || code == 9
/-- Hz of a PLL base. -/
def pllBase (fam : Bool) : Nat := if fam then 22579200 else 24576000
/-- Hz of a PDM clock code. -/
def pdmHz (code : Nat) : Nat := [1024000, 2048000, 3072000, 6144000].getD code 3072000
/-- The rate-loop range (R418). -/
def adjLimit : Int := 2147484
/-- The limit of a PLL's steering: 300 ppm (R432). -/
def pllLimit : Int := 1288490
/-- A value limited to ± a bound. -/
def clampTo (b v : Int) : Int := max (-b) (min b v)
/-- Channel samples of one beat's nominal input: ceil(N16 × fs / 16,000) (R423). -/
def nominalOf (n16 rate : Nat) : Nat := cdiv (n16 * rateHz rate) 16000
/-- NOM, 32.32 fixed point, to the nearest with ties away from zero (R429). -/
def nomStep (input : Bool) (rate : Nat) : Nat :=
  let fs := rateHz rate
  if input then (2 * fs * 2 ^ 32 + 16000) / 32000 else (2 * 16000 * 2 ^ 32 + fs) / (2 * fs)
/-- step of R429. -/
def stepOf (nom : Nat) (adj : Int) : Nat := ((nom : Int) + (nom : Int) * adj / 2 ^ 32).toNat

/-! ## The resampler (R430) -/

/-- T of a filter: at most 192 taps. -/
def tapsOf (nom : Nat) : Nat := min 192 (Config.resampleTaps nom)
/-- One output sample at phase φ over the samples `x` by position. -/
def resampleAt (nom : Nat) (x : Int → Word) (φ : Nat) : Word :=
  (List.range (tapsOf nom)).foldl
    (fun (acc : Word) (j : Nat) => fma32 (Config.resampleTap nom (φ / 2 ^ 22 % 1024) j) (x ((φ / 2 ^ 32 : Nat) - (j : Int))) acc) 0

/-! ## Sample formats (R424, R433, R439) -/

/-- Bytes of a sample of a network ring. -/
def sfmtBytes (sfmt : Nat) : Nat := if sfmt = 1 then 2 else 4
/-- An integer sample of `bits` bits as FP32. -/
def intTo32 (bits : Nat) (v : Nat) : Word := to32 (fvScale (fvInt (sInt bits v)) (-((bits : Int) - 1)))
/-- A ring's sample as FP32, and whether R433 replaced it. -/
def sfmtTo32 (sfmt v : Nat) : Word × Bool :=
  match sfmt with
  | 1 => (intTo32 16 v, false)
  | 2 => (intTo32 24 v, false)
  | 3 => (intTo32 32 v, false)
  | _ => let w := BitVec.ofNat 32 v; if fvFinite (dec32 w) then (w, false) else (0, true)
/-- An FP32 sample for a sink of `bits` bits, as two's complement in 32 bits: rounded with ties away from zero,
saturated, NaN as 0 (R439). -/
def toSink (bits : Nat) (w : Word) : Word :=
  let top : Int := 2 ^ (bits - 1)
  match dec32 w with
  | .fin neg m e =>
    let v := fvScale (.fin neg m e) ((bits : Int) - 1)
    let i := if fvLt (fvInt top) (fvAbs v) then (if neg then -top else top) else fvToInt v
    BitVec.ofInt 32 (max (-top) (min (top - 1) i))
  | .inf neg => BitVec.ofInt 32 (if neg then -top else top - 1)
  | .nan => 0
/-- A ring's bytes for an output sample. -/
def sinkBytes (sfmt : Nat) (w : Word) : List Byte :=
  match sfmt with
  | 1 => natLe 2 (toSink 16 w).toNat
  | 2 => natLe 4 (toSink 24 w).toNat
  | 3 => natLe 4 (toSink 32 w).toNat
  | _ => natLe 4 w.toNat

/-! ## ln, cos and sin, rounded once (R434, R435), in the fixed point of `trigOne` -/

/-- The sum of z^(2i+1)/(2i+1) from a term on, `n` terms. -/
def atanhSum (z2 : Nat) : Nat → Nat → Nat → Nat
  | 0, _, _ => 0
  | n + 1, p, k => p / k + atanhSum z2 n (p * z2 / trigOne) (k + 2)
/-- ln of num/den between 1 and 2. -/
def lnFix (num den : Nat) : Nat :=
  let z := (num - den) * trigOne / (num + den)
  2 * atanhSum (z * z / trigOne) 130 z 1
/-- ln of an FP32 value, correctly rounded (R188, R434). -/
def ln32 (w : Word) : Word :=
  match dec32 w with
  | .fin neg m e =>
    if m = 0 then negInf32
    else if neg then nan32
    else
      let l := Nat.log2 m
      let f : Int := (lnFix m (2 ^ l) : Nat) + ((l : Int) + e) * (lnFix 2 1 : Nat)
      to32 (.fin (decide (f < 0)) f.natAbs (-400))
  | .inf neg => if neg then nan32 else posInf32
  | .nan => nan32
/-- The sum of the alternating series whose next term is `t`, terms numbered from `k`. -/
def trigSum (x2 : Nat) : Nat → Nat → Nat → Int
  | 0, _, _ => 0
  | n + 1, t, k => (t : Int) - trigSum x2 n (t * x2 / trigOne / ((k + 1) * (k + 2))) (k + 2)
/-- cos and sin of 2π·num/den. -/
def cosFix (num den : Nat) : Int :=
  let x := (2 * piFix * num) / den
  trigSum (x * x / trigOne) 80 trigOne 0
def sinFix (num den : Nat) : Int :=
  let x := (2 * piFix * num) / den
  trigSum (x * x / trigOne) 80 x 1
/-- A fixed-point value rounded once to FP32. -/
def fix32 (v : Int) : Word := to32 (.fin (decide (v < 0)) v.natAbs (-400))
/-- Re and Im of e^(−2πik/512). -/
def twiddle (k : Nat) : Word × Word :=
  if k = 0 then (0x3F800000, 0) else if k = 128 then (0, 0xBF800000)
  else (fix32 (cosFix k 512), fix32 (-(sinFix k 512)))
/-- win[i] of the periodic Hann window of length `w` (R434). -/
def hann (w i : Nat) : Word := to32 (.fin false (((trigOne : Int) - cosFix i w).natAbs) (-401))

/-! ## fft512 (R435) -/

/-- The number of 9 bits with the bits of `i` reversed. -/
def rev9 (i : Nat) : Nat := (List.range 9).foldl (fun a b => 2 * a + i / 2 ^ b % 2) 0
/-- The negative of an FP32 value. -/
def neg32 (w : Word) : Word := w ^^^ 0x80000000
/-- w × b of a butterfly. -/
def twMul (w b : Word × Word) : Word × Word :=
  (fma32 w.1 b.1 (neg32 (mul32 w.2 b.2)), fma32 w.1 b.2 (mul32 w.2 b.1))
/-- One radix-2 stage over groups of `m` values. -/
def fftStage (tw : Array (Word × Word)) (m : Nat) (x : Array (Word × Word)) : Array (Word × Word) :=
  ((List.range 512).map (fun i =>
    let k := i % m
    let h := m / 2
    if k < h then
      let a := x.getD i (0, 0)
      let t := twMul (tw.getD (k * (512 / m)) (0, 0)) (x.getD (i + h) (0, 0))
      (add32 a.1 t.1, add32 a.2 t.2)
    else
      let a := x.getD (i - h) (0, 0)
      let t := twMul (tw.getD ((k - h) * (512 / m)) (0, 0)) (x.getD i (0, 0))
      (sub32 a.1 t.1, sub32 a.2 t.2))).toArray
/-- The transform of 512 real values. -/
def fft512 (z : List Word) : Array (Word × Word) :=
  let za := z.toArray
  let tw := ((List.range 256).map twiddle).toArray
  let x0 := ((List.range 512).map (fun i => (za.getD (rev9 i) 0, (0 : Word)))).toArray
  (List.range 9).foldl (fun x st => fftStage tw (2 ^ (st + 1)) x) x0

/-! ## Features (R434) -/

/-- The log-mel features of one frame: its W samples, the sample before them, and the floor. -/
def logMel (preemph : Bool) (w bins : Nat) (floor before : Word) (x : List Word) : List Word :=
  let xa := x.toArray
  let u := fun (i : Nat) =>
    let v := xa.getD i 0
    if preemph then fma32 0xBF7851EC (if i = 0 then before else xa.getD (i - 1) 0) v else v
  let z := (List.range w).map (fun i => mul32 (u i) (hann w i))
  let X := fft512 (z ++ List.replicate (512 - w) 0)
  let p := ((List.range 257).map (fun k =>
    let c := X.getD k (0, 0)
    fma32 c.1 c.1 (mul32 c.2 c.2))).toArray
  (List.range bins).map (fun b =>
    let e := (List.range 257).foldl (fun (acc : Word) (k : Nat) => fma32 (Config.melTap bins b k) (p.getD k 0) acc) 0
    ln32 (enc32 (fvMax (dec32 e) (dec32 floor))))

end Sys2Proof.Machine
end

