-- ==== Sys2Proof/Machine/Block.lean ====
section
/-! DEFINITION. Compression blocks (R393 to R399): the canonical code, the decoder with its checks, and a compressor. -/

namespace Sys2Proof.Machine

/-! ## The canonical code (R396 to R398) -/

/-- Symbols of the alphabet. -/
def nSym : Nat := 268
/-- The length of a symbol in a length table of 134 bytes. -/
def tblLen (t : List Byte) (sym : Nat) : Nat :=
  let b := (t.getD (sym / 2) 0).toNat
  if sym % 2 = 0 then b % 16 else b / 16
/-- The first codeword of each length 1 to 15, from the counts, `n` lengths from `l` on. -/
def firstCodes (cnt : Nat → Nat) : Nat → Nat → Nat → List (Nat × Nat)
  | 0, _, _ => []
  | n + 1, l, code =>
    let c := (code + (if l = 1 then 0 else cnt (l - 1))) * 2
    (l, c) :: firstCodes cnt n (l + 1) c
/-- The codewords of a table, (length, code, symbol), in symbol order. -/
def codeBook (len : Nat → Nat) : List (Nat × Nat × Nat) :=
  let syms := (List.range nSym).filter (fun i => len i ≠ 0)
  let cnt := fun l => syms.countP (fun i => len i == l)
  let first := firstCodes cnt 15 1 0
  (syms.foldl (fun (a : List (Nat × Nat) × List (Nat × Nat × Nat)) i =>
    let l := len i
    let c := (kget a.1 l).getD 0
    (kset a.1 l (c + 1), a.2 ++ [(l, c, i)])) (first, [])).2
/-- A length table is valid (R398). -/
def tableOk (len : Nat → Nat) : Bool :=
  let syms := (List.range nSym).filter (fun i => len i ≠ 0)
  decide (syms.foldl (fun a i => a + 2 ^ (15 - len i)) 0 = 2 ^ 15) ||
    decide (syms.length = 1 ∧ syms.all (fun i => len i == 1) = true)

/-! ## The decoder (R399) -/

/-- The bits of bytes, bit 7 first. -/
def bitsOfBytes (l : List Byte) : List Bool := l.flatMap (fun b => (List.range 8).map (fun i => b.getLsbD (7 - i)))
/-- The next symbol of a bit stream: `n` more bits at most. -/
def readSym (book : List (Nat × Nat × Nat)) : Nat → Nat → Nat → List Bool → Option (Nat × List Bool)
  | 0, _, _, _ => none
  | _, _, _, [] => none
  | n + 1, l, code, b :: rest =>
    let c := 2 * code + b2n b
    match book.find? (fun e => e.1 == l + 1 && e.2.1 == c) with
    | some e => some (e.2.2, rest)
    | none => readSym book n (l + 1) c rest
/-- The number that `n` bits spell, the most significant first. -/
def readBits : Nat → Nat → List Bool → Option (Nat × List Bool)
  | 0, v, l => some (v, l)
  | _ + 1, _, [] => none
  | n + 1, v, b :: rest => readBits n (2 * v + b2n b) rest
/-- The output of a bit stream up to `raw` bytes, newest first, and the bits left; none where a check fails. -/
def decodeBits (book : List (Nat × Nat × Nat)) (raw : Nat) : Nat → List Bool → List Byte → Option (List Byte × List Bool)
  | 0, bits, out => if out.length = raw then some (out, bits) else none
  | n + 1, bits, out =>
    if out.length = raw then some (out, bits)
    else
      match readSym book 15 0 0 bits with
      | none => none
      | some (sym, rest) =>
        if sym < 256 then decodeBits book raw n rest (BitVec.ofNat 8 sym :: out)
        else if sym = 267 then
          if raw < out.length + 4096 then none else decodeBits book raw n rest (zeros 4096 ++ out)
        else
          match readBits (sym - 255) 0 rest with
          | none => none
          | some (e, rest2) =>
            let run := 2 ^ (sym - 255) + e
            if raw < out.length + run then none else decodeBits book raw n rest2 (zeros run ++ out)
/-- A block header that breaks checks 1 to 3 of R399. -/
def blockHeadBad (h : List Byte) : Bool :=
  let raw := fld h 0 2
  let coded := fld h 2 2
  let form := fld h 4 1
  decide (2 ≤ form) || !allZero h 5 3 || !allZero h 0xC 4 || decide (raw = 0 ∨ 4096 < raw) ||
    (if form = 0 then decide (coded ≠ raw) else decide (coded < 135 ∨ raw ≤ coded))
/-- The raw bytes of a block, its header and its coded bytes given; none is BLOCK_CORRUPT. -/
def decodeBlock (h body : List Byte) : Option (List Byte) :=
  let raw := fld h 0 2
  let out : Option (List Byte) :=
    if fld h 4 1 = 0 then some body
    else
      let len := tblLen (body.take 134)
      if !tableOk len then none
      else
        match decodeBits (codeBook len) raw raw (bitsOfBytes (body.drop 134)) [] with
        | none => none
        | some (o, rest) => if 8 ≤ rest.length ∨ rest.any id = true then none else some o.reverse
  if blockHeadBad h then none
  else out.bind (fun o => if (crc32c o).toNat = fld h 8 4 then some o else none)
/-- Blocks decoded from the front of coded bytes: what they give, what is left, and whether one was corrupt. -/
def decodeBlocks : Nat → List Byte → List Byte × List Byte × Bool
  | 0, l => ([], l, false)
  | n + 1, l =>
    if l.length < 16 then ([], l, false)
    else
      let h := l.take 16
      let coded := fld h 2 2
      if blockHeadBad h then ([], l, true)
      else if l.length < 16 + coded then ([], l, false)
      else
        match decodeBlock h ((l.drop 16).take coded) with
        | none => ([], l, true)
        | some o => let r := decodeBlocks n (l.drop (16 + coded)); (o ++ r.1, r.2.1, r.2.2)

/-! ## A compressor (R395, R398): the coded bytes on the wire are its own choice (log entry 13) -/

/-- Tokens of raw bytes: (symbol, extra bits, their number); `z` zero bytes are pending. -/
def zeroTokens (z : Nat) : List (Nat × Nat × Nat) :=
  if z = 0 then []
  else if z = 1 then [(0, 0, 0)]
  else if z = 4096 then [(267, 0, 0)]
  else let j := Nat.log2 z - 1; [(256 + j, j + 1, z - 2 ^ (j + 1))]
/-- The token list of a block of at most 4,096 bytes. -/
def tokens : Nat → List Byte → List (Nat × Nat × Nat)
  | z, [] => zeroTokens z
  | z, b :: r => if b = 0 then tokens (z + 1) r else zeroTokens z ++ (b.toNat, 0, 0) :: tokens 0 r
/-- A code tree. -/
inductive CodeTree where
  | leaf (sym : Nat) | node (a b : CodeTree)
/-- A tree into a list kept in ascending order of weight. -/
def addTree (x : Nat × CodeTree) : List (Nat × CodeTree) → List (Nat × CodeTree)
  | [] => [x]
  | a :: r => if x.1 < a.1 then x :: a :: r else a :: addTree x r
/-- The two lightest trees joined, `n` times. -/
def joinTrees : Nat → List (Nat × CodeTree) → List (Nat × CodeTree)
  | n + 1, a :: b :: r => joinTrees n (addTree (a.1 + b.1, .node a.2 b.2) r)
  | _, l => l
/-- The depths of a tree's leaves. -/
def treeLens : CodeTree → Nat → List (Nat × Nat)
  | .leaf s, d => [(s, d)]
  | .node a b, d => treeLens a (d + 1) ++ treeLens b (d + 1)
/-- Code lengths for weights, the weights flattened until none passes 15. -/
def codeLens : Nat → List (Nat × Nat) → List (Nat × Nat)
  | n, w =>
    let t := joinTrees w.length ((w.map (fun p => (p.2, CodeTree.leaf p.1))).foldl (fun l x => addTree x l) [])
    let l := match t with | [x] => treeLens x.2 0 | _ => []
    let l := match l with | [(s, _)] => [(s, 1)] | _ => l
    match n with
    | 0 => l
    | m + 1 => if l.all (fun p => decide (p.2 ≤ 15)) then l else codeLens m (w.map (fun p => (p.1, p.2 / 2 + 1)))
/-- Bits of a number, the most significant first. -/
def numBits (n v : Nat) : List Bool := (List.range n).map (fun i => v.testBit (n - 1 - i))
/-- Bytes of bits, bit 7 first, the last byte filled with zeros. -/
def bytesOfBits : Nat → List Bool → List Byte
  | 0, _ => []
  | n + 1, l =>
    if l.isEmpty then []
    else BitVec.ofNat 8 ((List.range 8).foldl (fun a i => 2 * a + b2n (l.getD i false)) 0) :: bytesOfBits n (l.drop 8)
/-- The coded form of a block: length table and bit stream. -/
def codedForm (raw : List Byte) : List Byte :=
  let tk := tokens 0 raw
  let syms := (List.range nSym).filterMap (fun i => let c := tk.countP (fun t => t.1 == i); if c = 0 then none else some (i, c))
  let lens := codeLens 16 syms
  let len := fun i => (kget lens i).getD 0
  let book := codeBook len
  let bits := tk.flatMap (fun t =>
    (match book.find? (fun e => e.2.2 == t.1) with | some e => numBits e.1 e.2.1 | none => []) ++ numBits t.2.1 t.2.2)
  (List.range 134).map (fun i => BitVec.ofNat 8 (len (2 * i) + 16 * len (2 * i + 1))) ++ bytesOfBits bits.length bits
/-- One block: CODED where that is shorter, else RAW (R395). -/
def codeBlock (raw : List Byte) : List Byte :=
  let c := codedForm raw
  let form := decide (c.length < raw.length)
  let body := if form then c else raw
  natLe 2 raw.length ++ natLe 2 body.length ++ natLe 1 (b2n form) ++ zeros 3 ++ natLe 4 (crc32c raw).toNat ++ zeros 4 ++ body
/-- Raw bytes cut into blocks of 4,096 and coded (R393). -/
def codeBlocks : Nat → List Byte → List Byte
  | 0, _ => []
  | n + 1, l => if l.isEmpty then [] else codeBlock (l.take 4096) ++ codeBlocks n (l.drop 4096)

end Sys2Proof.Machine
end

