-- ==== Sys2Proof/Machine/LinkOps.lean ====
section
/-! DEFINITION. Dwevy frames, keys, routes and egress (R380 to R410): what a link sends and how an addressed transfer to
another module leaves. -/

namespace Sys2Proof.Machine

/-! ## Frames (R380, R381) -/

/-- CLASS of a frame. -/
def frClass (f : Frame) : Nat := f.ctl.toNat % 16
/-- COMP of a frame. -/
def frComp (f : Frame) : Bool := f.ctl.getLsbD 4
/-- SPACE of a frame: 0 data, 1 control. -/
def frSpace (f : Frame) : Nat := b2n (f.ctl.getLsbD 5)
/-- URG of a frame. -/
def frUrg (f : Frame) : Bool := f.ctl.getLsbD 6
/-- The 12 header bytes. -/
def frHeader (f : Frame) : List Byte :=
  [f.ctl, f.domain] ++ natLe 2 f.len.toNat ++ natLe 2 f.dest.toNat ++ natLe 2 f.dstream.toNat ++ natLe 4 f.seq.toNat
/-- The CRC-32C a frame must carry. -/
def frCrc (f : Frame) : Word := crc32c (frHeader f ++ f.body ++ f.tag)
/-- The bytes a frame takes on the wire. -/
def frSize (f : Frame) : Nat := 32 + f.body.length
/-- A frame before it is numbered and encrypted. -/
def mkFrame (cls : Nat) (comp urg : Bool) (dom dest dstream : Nat) (body : List Byte) : Frame :=
  { ctl := BitVec.ofNat 8 (cls + 16 * b2n comp + 32 * b2n (decide (8 ≤ cls)) + 64 * b2n urg),
    domain := BitVec.ofNat 8 (dom % 64), len := BitVec.ofNat 16 body.length, dest := BitVec.ofNat 16 (dest % 4096),
    dstream := BitVec.ofNat 16 dstream, seq := 0, body := body, tag := [], crc := 0 }
/-- A control body. -/
def ctlBody (type seq t1 t2 t3 : Nat) : List Byte :=
  natLe 1 type ++ zeros 3 ++ natLe 4 seq ++ natLe 8 t1 ++ natLe 8 t2 ++ natLe 8 t3
/-- An address header. -/
def addrHeader (addr n flags tag : Nat) : List Byte :=
  natLe 8 (addr % 2 ^ 60) ++ natLe 2 n ++ natLe 1 flags ++ zeros 1 ++ natLe 4 tag
/-- A reply header. -/
def replyHeader (tag : Nat) (st : Half) : List Byte := natLe 4 tag ++ natLe 2 st.toNat ++ zeros 2

/-! ## Keys (R403, R404) -/

/-- Key and SALT for a direction, a space and an epoch: 36 bytes. -/
def linkKey (prk : List Byte) (a b l σ n : Nat) : List Byte :=
  hkdfExpand prk ([0x44, 0x57, 0x45, 0x56, 0x59] ++ natLe 2 a ++ natLe 2 b ++ natLe 1 l ++ natLe 1 σ ++ natLe 4 n) 36
/-- A frame's body under the keys of a direction; the same for both ways. -/
def frCrypt (okm : List Byte) (n : Nat) (f : Frame) : List Byte :=
  gcmCrypt (okm.take 32) (okm.drop 32 ++ natLe 4 n ++ natLe 4 f.seq.toNat) f.body
/-- The tag of a frame whose body is ciphertext. -/
def frTag (okm : List Byte) (n : Nat) (f : Frame) : List Byte :=
  gcmTag (okm.take 32) (okm.drop 32 ++ natLe 4 n ++ natLe 4 f.seq.toNat) (frHeader f) f.body
/-- The keys of what this module sends on a link. -/
def State.txKey (s : State) (l σ n : Nat) : List Byte :=
  linkKey (s.link l).prk s.links.moduleId.toNat (s.link l).peerId.toNat l σ n
/-- The keys of what this module receives on a link. -/
def State.rxKey (s : State) (l σ n : Nat) : List Byte :=
  linkKey (s.link l).prk (s.link l).peerId.toNat s.links.moduleId.toNat (Config.peerLink l) σ n

/-! ## Egress (R384 to R390) -/

/-- The link carries frames. -/
def State.linkUp (s : State) (l : Nat) : Bool :=
  decide (l < 24) && (s.link l).up && (s.svc ⟨.link, l⟩ == .inService || s.svc ⟨.link, l⟩ == .moving) && s.power.mode == .active
/-- A frame numbered, encrypted, tagged and closed by its CRC. -/
def sealFrame (l : Nat) (f : Frame) (s : State) : Frame × Nat :=
  let σ := frSpace f
  let n := (s.link l).txEpoch.getD σ 0
  let f1 : Frame := { f with seq := (s.link l).txSeq.getD σ 0 }
  let okm := s.txKey l σ n
  let f2 : Frame := { f1 with body := frCrypt okm n f1 }
  let f3 : Frame := { f2 with tag := frTag okm n f2 }
  ({ f3 with crc := frCrc f3 }, n)
/-- The space moves to the key of the next epoch, once its number has wrapped to 0 (R404). -/
def rollover (σ : Nat) (k : LinkSt) : LinkSt :=
  if k.txWrap.getD σ false then { k with txEpoch := k.txEpoch.modify σ (· + 1), txWrap := k.txWrap.set σ false } else k
/-- The next number of a space; at the wrap the next frame needs the key of the next epoch (R404). -/
def bumpSeq (σ : Nat) (k : LinkSt) : LinkSt :=
  let q := k.txSeq.getD σ 0
  { k with txSeq := k.txSeq.set σ (q + 1), txWrap := if q = 0xFFFFFFFF then k.txWrap.set σ true else k.txWrap }
/-- A new frame sent now: a data-space frame stays in the replay buffer. -/
def sendFrame (l : Nat) (f : Frame) (s : State) : State :=
  let s0 := s.onLink l (rollover (frSpace f))
  let r := sealFrame l f s0
  s0.onLink l (fun k =>
    let k1 := bumpSeq (frSpace f) k
    { k1 with wire := k1.wire ++ [r.1], sent := if frSpace f = 0 then k1.sent ++ [{ fr := r.1, epoch := r.2 }] else k1.sent })
/-- A frame into a link's egress queue: priority 1 markers and delay frames, 2 other control, 3 replays, 4 urgent data,
5 other data (R385). -/
def queueFrame (l prio : Nat) (f : Frame) (s : State) : State :=
  s.onLink l (fun k => { k with egress := k.egress ++ [{ prio := prio, fr := f, replayed := false, src := none }] })
/-- A control frame queued. -/
def queueCtl (l prio type seq t1 t2 t3 : Nat) (s : State) : State :=
  queueFrame l prio (mkFrame 8 false false 0 (s.link l).peerId.toNat 0xFFFF (ctlBody type seq t1 t2 t3)) s
/-- Bytes the replay buffer holds. -/
def LinkSt.replayBytes (k : LinkSt) : Nat := k.sent.foldl (fun a e => a + frSize e.fr) 0

/-! ## Routes (R346, R409) -/

/-- This module serves a global address. -/
def State.isLocal (s : State) (ga : Nat) : Bool := decide (bitsOf ga 48 12 = s.links.moduleId.toNat)
/-- The device address of a global address. -/
def devOf (ga : Nat) : Nat := ga % 2 ^ 48
/-- The set links of a destination's route mask. -/
def State.routeLinks (s : State) (dest : Nat) : List Nat :=
  let m := ((kget s.links.routes dest).getD 0).toNat
  (List.range 24).filter (fun l => m.testBit l)
/-- The link a transfer for a destination leaves on, chosen by a selector (R409). -/
def State.routeOf (s : State) (dest sel : Nat) : Option Nat :=
  let l := s.routeLinks dest
  if l.isEmpty then none else l[sel % l.length]?
/-- A domain may send on a link (R368). -/
def State.linkDomOk (s : State) (l dom : Nat) : Bool := ((s.mem.linkDom.getD l 1).toNat).testBit dom
/-- An addressed transfer of a stream to another module queued at the egress of its route; none, with the refusal recorded, where no
route leads there or the egress firewall refuses the domain. -/
def sendAddressed (cls dom ga : Nat) (src : Option Nat) (urg : Bool) (body : Nat → List Byte) (s : State) : Option Nat × State :=
  match s.routeOf (bitsOf ga 48 12) (ga / 4096) with
  | none => (none, refuse 0x3C dom 0 (cls == 2) ga s)
  | some l =>
    if !s.linkDomOk l dom then (none, refuse (0x20 + l) dom 0 (cls == 2) ga s)
    else
      let n := s.links.sentReqs % 2 ^ 20
      let tag := s.links.moduleId.toNat * 2 ^ 20 + n
      (some n, (s.onLinks (fun k => { k with sentReqs := k.sentReqs + 1 })).onLink l (fun k => { k with egress := k.egress ++ [{
        prio := if urg then 4 else 5, fr := mkFrame cls false urg dom (bitsOf ga 48 12) 0xFFFF (body tag), replayed := false, src := src }] }))
/-- A read of another module's memory asked for. -/
def sendRead (dom ga n num : Nat) (urg : Bool) (s : State) : Option Nat × State :=
  sendAddressed 3 dom ga (some num) urg (fun tag => addrHeader ga n 0 tag) s
/-- A write to another module's memory sent, its completion asked for. -/
def sendWrite (dom ga : Nat) (data : List Byte) (num : Nat) (acc urg : Bool) (s : State) : Option Nat × State :=
  sendAddressed 2 dom ga (some num) urg (fun tag => addrHeader ga data.length (b2n acc + 2) tag ++ data) s

end Sys2Proof.Machine
end

