-- ==== Sys2Proof/Machine/BackExec.lean ====
section
/-! DEFINITION. Fences and returning units (R29 to R36, R528, R607), background work on memory and its calibration
(R72, R73, R362 to R365). -/

namespace Sys2Proof.Machine

/-- The device runs its beats: background work has its budget (R46, R557). -/
def State.beating (s : State) : Bool := s.rot.dcpReady && s.power.mode == .active

/-- A background task is due and its budget runs (R46, R72). -/
def State.bgRuns (s : State) (t : BgTask) : Bool :=
  s.beating && s.beat.ticked && s.beat.part == .background && s.plan.bgDue.contains t
/-- A background task has run. -/
def bgDone (t : BgTask) (s : State) : State := s.onPlan (fun p => { p with bgDue := p.bgDue.filter (fun x => decide (x ≠ t)) })

/-! ## Fences -/

/-- FAULT_FENCE (R32): `lost` says that the unit's data cannot be moved, `sliceSaved` that a carve-out slice in it was
copied whole. -/
def execFaultFence (u : UnitId) (lost sliceSaved : Bool) (s : State) : Host.Outcome State Fault Refusal :=
  .next (if s.beating then faultFenceUnit u lost sliceSaved s else s)
/-- FENCE_DATA_MOVE_COMPLETE (R29, R35, R350): the move that a fence waits for ends, by a fault, or with its data moved while a plan's part of
the move runs. -/
def execFenceDataMoveComplete (u : UnitId) (fault sliceSaved : Bool) (s : State) : Host.Outcome State Fault Refusal :=
  .next (match s.units.fences.find? (fun f => f.1 == u) with
    | some f => if !fault && !f.2.2 && !s.copyRuns (· == .move u) then s else finishFence u (fault || f.2.2) sliceSaved (s.onPlan (fun p => { p with
        bwork := p.bwork.filter (fun b => !(b.kind == .dataMove && b.obj == unitCode u.kind * 256 + u.index)) }))
    | none => s)
/-- The stacks that a re-lay lays over: those in service and those about to return. -/
def State.relayStks (s : State) : List Nat :=
  (List.range 16).filter (fun i => s.svc ⟨.nmu, i⟩ == .inService || s.svc ⟨.nmu, i⟩ == .returning)
/-- Every striped tensor laid anew (R98, R99); a model without room keeps its layout. -/
def relayAll (s : State) : State :=
  (sortBy id (s.ctrl.models.map (·.idx))).foldl (fun (s : State) (i : Nat) =>
    (relayModel i s.relayStks (fun _ => false) s).getD s) s
/-- RELAY_COMPLETE, while a plan's part of the re-lay runs (R99). -/
def execRelayComplete (s : State) : Host.Outcome State Fault Refusal :=
  .next (if !s.units.relayDue || !s.beating || !s.copyRuns (· == .relay) then s
    else (relayAll s).onUnits (fun k => { k with
      relayDue := false, returns := k.returns.map (fun r => (r.1, r.2.1, true)) }))
/-- The pool of a returning stack formed again with its kept configuration, smaller where it no longer fits (R275). -/
def formPool (k : Nat) (s : State) : State :=
  let n := min (s.ppool k).size2M (s.poolRoom k)
  match s.poolRuns k n with
  | some r => s.onPool k (fun p => { p with size2M := n, runs := r })
  | none => s
/-- What returns with a unit beside its service. -/
def unitBack (u : UnitId) (s : State) : State :=
  match u.kind with
  | .nmu => rotaryBack u.index (formPool u.index s)
  | .cxl => s.onMem (fun m => { m with cxl := m.cxl.modify u.index (fun c => { c with up := true }) })
  | _ => s
/-- The place of a unit in the blaze rotation, if it has one (R502). -/
def rotationOf (u : UnitId) : List Nat :=
  match u.kind with
  | .cluster => [u.index]
  | .nmu => [8 + u.index]
  | _ => []
/-- A unit whose return test has passed has passed its blaze frames (R507, R528). -/
def blazeBack (u : UnitId) (s : State) : State :=
  s.onSafe (fun k => { k with blazed := k.blazed.filter (fun r => !(rotationOf u).contains r) ++ rotationOf u })
/-- UNIT_RETURN (R36): once the catch-up calibration and, for an NMU, the re-lay have completed, the pass is recorded. -/
def execUnitReturn (u : UnitId) (s : State) : Host.Outcome State Fault Refusal :=
  .next (match s.units.returns.find? (fun r => r.1 == u) with
    | some r =>
      if !s.beating || s.svc u != .returning || !r.2.1 || !r.2.2 then s
      else
        let s1 := (s.setSvc u .inService).onUnits (fun k => { k with returns := k.returns.filter (fun x => decide (x.1 ≠ u)) })
        let s2 := bbAdd 0x11 1 (unitCode u.kind) u.index stOk (natLe 1 0) (blazeBack u (unitBack u s1))
        reviewModels (completeUnfences u stOk s2)
    | none => s)
/-- CATCH_UP_CALIBRATION (R73): the first calibration of a returning stack, link or port, in the background budget. -/
def execCatchUpCalibration (u : UnitId) (s : State) : Host.Outcome State Fault Refusal :=
  .next (if s.beating && s.beat.part == .background && s.svc u == .returning then s.onUnits (fun k => { k with
      returns := updAll k.returns (fun r => r.1 == u) (fun r => (r.1, true, r.2.2)) }) else s)

/-! ## Calibration in rotation (R72) -/

/-- STACK_CALIBRATION, after that stack's scrub. -/
def execStackCalibration (i : Nat) (s : State) : Host.Outcome State Fault Refusal :=
  .next (if s.bgRuns (.stackCal i) && !s.plan.bgDue.contains (.scrub i) then bgDone (.stackCal i) s else s)
/-- LINK_CALIBRATION. -/
def execLinkCalibration (l : Nat) (s : State) : Host.Outcome State Fault Refusal :=
  .next (if s.bgRuns (.linkCal l) then bgDone (.linkCal l) s else s)
/-- CXL_CALIBRATION. -/
def execCxlCalibration (p : Nat) (s : State) : Host.Outcome State Fault Refusal :=
  .next (if s.bgRuns (.cxlCal p) then bgDone (.cxlCal p) s else s)
/-- TELEMETRY_SAMPLING: input voltage in mV, current in 10 mA, power in W, die temperatures in °C. -/
def execTelemetrySampling (vin iin pin : Nat) (temps : List Nat) (s : State) : Host.Outcome State Fault Refusal :=
  .next (if !s.bgRuns .telemetry then s else (bgDone .telemetry s).onPower (fun p => { p with
    vin := BitVec.ofNat 16 vin, iin := BitVec.ofNat 16 iin, pinW := BitVec.ofNat 16 pin,
    tempMax := BitVec.ofNat 8 (temps.foldl max 0) }))

/-! ## Patrol scrub (R362 to R364) -/

/-- A place in the scrub's pass; 0 before its first step. -/
def State.scrubAt (s : State) (i : Nat) : Nat := s.mem.scrubPos.getD i 0
/-- The pass of a stack or slice moved on. -/
def scrubStep (i step size : Nat) (s : State) : State :=
  s.onMem (fun m => { m with
    scrubPos := ((m.scrubPos ++ List.replicate 32 0).take 32).set i ((m.scrubPos.getD i 0 + step) % size) })
/-- Corrected words of a stack counted (R363), and remembered for R365. -/
def countCe (i : Nat) (addrs : List Nat) (keep : Bool) (s : State) : State :=
  s.onMem (fun m => { m with
    ecc := m.ecc.modify i (fun e => { e with ce := satAdd e.ce addrs.length }),
    ceLog := if keep then m.ceLog ++ addrs.map (fun a => (a / regionSize, a / 32, s.beat.number.toNat)) else m.ceLog })
/-- A MEM_UE record to each client that a test names (R499). -/
def tellUe (p : Nat → Bool) (a : Nat) (s : State) : State :=
  ((s.ctrl.blocks.filter (fun b => b.2.bound && p b.1)).map (·.1)).foldl
    (fun (s : State) (c : Nat) => telemEvent c 6 (natLe 8 a) s) s
/-- The application-core address of a device address in the carve-out. -/
def State.coreAddr (s : State) (a : Nat) : Option Nat :=
  (List.range 16).findSome? (fun i =>
    let b := s.slice i
    if b ≤ a ∧ a < b + 0x80000000 then some ((a - b) / 4096 * 65536 + i * 4096 + (a - b) % 4096) else none)
/-- An object's regions hold the word: what becomes of the object, by the kind of its handle. -/
def ueOwner (h : Word) (s : State) : State :=
  let i := hIdx h.toNat
  let drop := fun (m : Nat) (s : State) =>
    suspendModel stIntegrityFail m (s.onModel m (fun x => { x with suspended := some (x.suspended.getD stIntegrityFail) }))
  match hKind h.toNat with
  | 4 => drop i s
  | 8 => ((s.ctrl.models.filter (fun m => m.tset == i)).map (·.idx)).foldl (fun (s : State) (m : Nat) => drop m s) s
  | 3 => invalidObj stIntegrityFail i s
  | _ => s
/-- The reaction to an uncorrectable word of a stack, by the area that holds it (table *Uncorrectable word found by
scrub*). -/
def ueArea (a : Nat) (s : State) : State :=
  let k := a / 0x2000000000
  let o := a % 0x2000000000
  let r := a / regionSize
  if o < 0x4000000 then s
  else if o < 0x20000000 then dcpFault s
  else
    match s.coreAddr a with
    | some c => s.onCtrl (fun q => { q with irqs := q.irqs ++ [{ addr := c, data := 0, kind := 1 }] })
    | none =>
      match s.mem.held.find? (fun h => decide (h.1 ≤ a ∧ a < h.1 + h.2.1 * regionSize)) with
      | some h => ueOwner h.2.2 s
      | none =>
        match s.mem.runs.find? (fun h => decide (h.1 ≤ a ∧ a < h.1 + h.2.1 * regionSize)) with
        | some h => tellUe (fun c => c == h.2.2) a s
        | none =>
          let mine := s.pages.sets.findSome? (fun x =>
            x.locs.find? (fun l => l.tier == 1 && l.stack == k && decide (l.off ≤ o) && decide (o < l.off + s.modelF x.model)))
          match mine with
          | some l => invalidPage stIntegrityFail k l.off s
          | none =>
            let f := match (s.ppool k).regions.find? (fun q => decide (q.1 = r)) with | some q => s.modelF q.2.1 | none => 0
            if f = 0 then clearMem (r * regionSize) regionSize s
            else
              let j := a % regionSize / f
              let lo := r * regionSize + j * f
              clearMem lo (min f ((r + 1) * regionSize - lo)) s
/-- One uncorrectable word found by scrub in a stack: marked poisoned, counted, reacted to. -/
def scrubUe (a : Nat) (s : State) : State :=
  ueArea a (countUe a (s.onMem (fun m => { m with
    poisoned := m.poisoned.filter (fun w => decide (w ≠ a / 32)) ++ [a / 32] })))
/-- PATROL_SCRUB of a stack: `corrected` and `uncorrectable` are stack-local byte offsets in the 16 MiB that this beat's
step reads. -/
def execPatrolScrub (k : Nat) (corrected uncorrectable : List Nat) (s : State) : Host.Outcome State Fault Refusal :=
  let at_ := s.scrubAt k
  let here := fun (o : Nat) => decide (at_ ≤ o ∧ o < at_ + 0x1000000)
  .next (if !s.bgRuns (.scrub k) then s
    else
      let s1 := countCe k ((corrected.filter here).map (stackBase k + ·)) true
        (scrubStep k 0x1000000 0x1400000000 (bgDone (.scrub k) s))
      (uncorrectable.filter here).foldl (fun (s : State) (o : Nat) => scrubUe (stackBase k + o) s) s1)
/-- The window address of a slice-local offset (R353). -/
def windowAddr (i o : Nat) : Nat := 0x080000000000 + o / 4096 * 65536 + i * 4096 + o % 4096
/-- One uncorrectable word of a slice: a window word stays poisoned and is told to the client that owns its region; a
cache line is invalidated. -/
def lcUe (i o : Nat) (s : State) : State :=
  if o < s.mem.winWays.toNat * 0x200000 then
    let a := windowAddr i o
    let d := bitsOf (s.tag (a / regionSize)).toNat 0 6
    let s1 := countUe a (s.onMem (fun m => { m with
      poisoned := m.poisoned.filter (fun w => decide (w ≠ a / 32)) ++ [a / 32] }))
    if 2 ≤ d then tellUe (fun c => decide (s.domainOf c = d)) a s1 else s1
  else
    let s1 := s.onMem (fun m => { m with
      lines := m.lines.eraseIdx (Config.lcWayLine i o % (m.lines.length + 1)),
      ecc := m.ecc.modify (16 + i) (fun e => { e with ue := satInc e.ue, ueSeen := true }) })
    bbAdd 0x30 2 0 0 stIntegrityFail (natLe 8 0) s1
/-- LC_PATROL_SCRUB of a slice: offsets are slice-local, in the 4 MiB that this beat's step reads. -/
def execLcPatrolScrub (i : Nat) (corrected uncorrectable : List Nat) (s : State) : Host.Outcome State Fault Refusal :=
  let at_ := s.scrubAt (16 + i)
  let here := fun (o : Nat) => decide (at_ ≤ o ∧ o < at_ + 0x400000)
  .next (if !s.bgRuns (.lcScrub i) then s
    else
      let s1 := countCe (16 + i) (corrected.filter here) false
        (scrubStep (16 + i) 0x400000 0x2800000 (bgDone (.lcScrub i) s))
      (uncorrectable.filter here).foldl (fun (s : State) (o : Nat) => lcUe i o s) s1)

/-! ## Retired regions (R365) -/

/-- Different words of a region corrected within the last 10,000 beats. -/
def State.ceWords (s : State) (r : Nat) : Nat :=
  let l := (s.mem.ceLog.filter (fun e => decide (e.1 = r) && decide (s.beat.number.toNat ≤ e.2.2 + 10000))).map (·.2.1)
  (l.foldl (fun (a : List Nat) (w : Nat) => if a.contains w then a else w :: a) []).length
/-- The frames of one region moved to other places of the same stack; a set that finds none is lost. -/
def moveFrames (k r : Nat) (s : State) : State :=
  let inside := fun (l : FrameLoc) => l.tier == 1 && l.stack == k && decide (localOff k r ≤ l.off ∧ l.off < localOff k r + regionSize)
  let s0 := s.onPool k (fun p => { p with regions := p.regions.filter (fun q => decide (q.1 ≠ r)) })
  let s1 := s0.setOrder.foldl (fun (s : State) (x : FrameSet) =>
    (List.range x.locs.length).foldl (fun (s : State) (a : Nat) =>
      match x.locs[a]? with
      | some l =>
        if inside l then
          match s.takeFrame k x.model x.dom with
          | some (o, t) =>
            let l' : FrameLoc := { l with off := o }
            (copyMem (frameAddr l) (frameAddr l') (s.modelF x.model) t).onSet x.id
              (fun y => { y with locs := y.locs.set a l' })
          | none => s
        else s
      | none => s) s) s0
  loseSets inside s1
/-- A rotary record of a model written to another region of its stack, where one is free. -/
def moveRotary (i a : Nat) (s : State) : State :=
  match s.model i with
  | none => s
  | some m => m.rotaryAt.foldl (fun (s : State) (b : Nat) =>
      if b / regionSize * regionSize ≠ a then s
      else match placeStripe (s.modelHandle i) m.dom (stackOfAddr b) (bytesOfWords m.pkg.rotary) s with
        | some r => ((releaseRegions (a / regionSize) 1 r.2).onMem (fun k => { k with held := k.held.filter (fun h => decide (h.1 ≠ a)) })).onModel i
            (fun x => { x with rotaryAt := x.rotaryAt.map (fun c => if c = b then r.1.2.1 else c) })
        | none => s) s
/-- A carve-out slice with a retired region moved to a free 2 GiB of its stack, else of another, where one has it. -/
def moveSliceOf (k i : Nat) (s : State) : State :=
  match (s.stackRun k 1024).or (s.sliceDest k) with
  | some d => moveSlice i d s
  | none => s
/-- What a region holds moved elsewhere: a model's stripes and rotary record, a state object, a table set, a client's buffer, page
frames, a slice of the carve-out. What finds no room stays, or is lost as by a fence (log entry 45). -/
def moveRegion (r : Nat) (s : State) : State :=
  let a := r * regionSize
  let k := a / 0x2000000000
  let hits := fun (b n : Nat) => decide (b < a + regionSize ∧ a < b + n * regionSize)
  match s.mem.held.find? (fun h => hits h.1 h.2.1) with
  | some h =>
    let i := hIdx h.2.2.toNat
    match hKind h.2.2.toNat with
    | 4 => moveRotary i a
        ((relayModel i (s.svcList .nmu) (fun l => l.any (fun p => decide (p.2.1 < a + regionSize ∧ a < p.2.1 + p.2.2))) s).getD (loseModel i s))
    | 3 => (moveObj i s).getD (loseObj i s)
    | 8 => (moveTsets (fun b => decide (b = h.1)) s).1
    | _ => s
  | none =>
    match s.mem.runs.find? (fun q => hits q.1 q.2.1), (s.slicesIn k).find? (fun i => hits (s.slice i) 1024) with
    | some q, _ => (moveRun q s).getD s
    | none, some i => moveSliceOf k i s
    | none, none => if (s.ppool k).regions.any (fun q => q.1 == r) then moveFrames k r s else s
/-- REGION_RETIRE of an HBM region by its number: 16 different words corrected within 10,000 beats. -/
def execRegionRetire (r : Nat) (s : State) : Host.Outcome State Fault Refusal :=
  let a := r * regionSize
  match stackOfAddr a with
  | none => .next s
  | some k =>
    .next (if !s.beating || s.power.cfg.retired.contains r || decide (s.ceWords r < 16) then s
      else
        let s1 := s.onPower (fun p => saveCfg { p with cfg := { p.cfg with retired := p.cfg.retired ++ [r] } })
        let s3 := moveRegion r (bbAdd 0x31 2 0 0 stOk (natLe 8 a) s1)
        if 64 < (s3.power.cfg.retired.filter (fun q => stackOfAddr (q * regionSize) == some k)).length then
          fenceByFault ⟨.nmu, k⟩ s3 else s3)

end Sys2Proof.Machine
end

