-- ==== Sys2Proof/Machine/Narrow.lean ====
section
/-! DEFINITION. Narrow rows (R107 to R113): what a link transfer of activations carries for a row of elements, and what its receiver reads
back. -/

namespace Sys2Proof.Machine

/-- The link scale table and the row of a link transfer: s_c and z_c by channel, the channels, elements of FP32 or BF16. -/
structure RowFmt where
  table : List (Word × Byte)
  channels : Nat
  fp32 : Bool
/-- Bytes of an element. -/
def RowFmt.elem (f : RowFmt) : Nat := if f.fp32 then 4 else 2
/-- Bytes of a row of elements. -/
def RowFmt.plain (f : RowFmt) : Nat := f.channels * f.elem
/-- Bytes of a narrow row: 8, the codes, zeros to a multiple of 8 (table *Narrow row*). -/
def RowFmt.coded (f : RowFmt) : Nat := 8 + cdiv f.channels 8 * 8
/-- The elements of a row; a subnormal counts as zero (R82, R109). -/
def RowFmt.values (f : RowFmt) (b : List Byte) : List Fv :=
  (List.range f.channels).map (fun i =>
    if f.fp32 then dec32 (BitVec.ofNat 32 (fld b (4 * i) 4)) else decB16 (BitVec.ofNat 16 (fld b (2 * i) 2)))
/-- A narrow row. -/
def narrowRow (fmt n : Nat) (scale : Word) (codes : List Byte) : List Byte :=
  natLe 1 fmt ++ zeros 1 ++ natLe 2 n ++ natLe 4 scale.toNat ++ codes ++ zeros (cdiv n 8 * 8 - n)
/-- 2^−126, the smallest normal. -/
def minNormal : Fv := .fin false 1 (-126)
/-- s_t of a row (R111). -/
def tokenScale (xs : List Fv) : Fv :=
  let q := fvDivRnd fmt32 (fvMaxAbs xs) (fvInt 127)
  if fvLt q minNormal then minNormal else q
/-- The codes q_c of R110, where every one of them lies in 0 to 255. -/
def u8Codes (f : RowFmt) (xs : List Fv) : Option (List Byte) :=
  (xs.zip f.table).foldr (fun (p : Fv × Word × Byte) (acc : Option (List Byte)) =>
    match codeU8 p.1 (dec32 p.2.1) (p.2.2.toNat : Int), acc with
    | some q, some l => if 0 ≤ q ∧ q ≤ 255 then some (BitVec.ofNat 8 q.toNat :: l) else none
    | _, _ => none) (some [])
/-- The row that a sender forms: a NaN row, a U8 row, or an S8 row for its token (R109 to R111). -/
def rowForm (f : RowFmt) (b : List Byte) : List Byte :=
  let xs := f.values b
  if xs.any (fun x => !fvFinite x) then narrowRow 3 f.channels 0 (zeros f.channels)
  else match u8Codes f xs with
    | some codes => narrowRow 1 f.channels 0 codes
    | none =>
      let st := tokenScale xs
      narrowRow 2 f.channels (enc32 st) (xs.map (fun x => BitVec.ofNat 8 (intByte ((codeS8 x st).getD 0))))
/-- One element written in the destination format. -/
def RowFmt.put (f : RowFmt) (v : Fv) : List Byte := if f.fp32 then natLe 4 (to32 v).toNat else natLe 2 (toB16 v).toNat
/-- What a receiver reads of a row, and its status: ROW_FMT is checked before CHANNELS (R112, R113). -/
def rowRead (f : RowFmt) (b : List Byte) : List Byte × Half :=
  let nans := (List.range f.channels).flatMap (fun _ => f.put .nan)
  let code := fun (i : Nat) => fld b (8 + i) 1
  let fmt := fld b 0 1
  if fmt = 0 ∨ 3 < fmt then (nans, stBadFormat)
  else if fld b 2 2 = 0 ∨ fld b 2 2 ≠ f.channels then (nans, stBadLength)
  else if fmt = 3 then (nans, stOk)
  else if fmt = 2 then
    ((List.range f.channels).flatMap (fun i => f.put (linkDecode (dec32 (BitVec.ofNat 32 (fld b 4 4))) (sInt 8 (code i)))), stOk)
  else
    (((List.range f.channels).zip f.table).flatMap (fun (p : Nat × Word × Byte) =>
      f.put (linkDecode (dec32 p.2.1) ((code p.1 : Int) - (p.2.2.toNat : Int)))), stOk)
/-- A list of bytes in whole pieces of `n` bytes, at most `k`, and what is left. -/
def pieces (n : Nat) : Nat → List Byte → List (List Byte) × List Byte
  | 0, b => ([], b)
  | k + 1, b => if n = 0 ∨ b.length < n then ([], b) else let r := pieces n k (b.drop n); (b.take n :: r.1, r.2)
/-- The row that the planned command of a stream names (R107): a stream of the VE's own rows names none (log entry 157). -/
def State.rowFor (s : State) (num : Nat) : Option RowFmt :=
  let mine := s.plan.cur.find? (fun c => (match c.t.engine with | .yarder _ => true | _ => false) && c.stream == num && c.t.row.isSome)
  mine.bind (fun c => c.t.row.bind (fun r => (s.model c.model).bind (fun m =>
    (m.pkg.linkTables[r.table]?).map (fun t => { table := t, channels := r.channels, fp32 := r.fp32 }))))

end Sys2Proof.Machine
end

