-- ==== Sys2Proof/Machine/SafetyExec.lean ====
section
/-! DEFINITION. The Safety Monitor's verdicts, hold, test pulses and clocks, blaze frames and checker tests (R502 to R525,
R590, R592, R593). -/

namespace Sys2Proof.Machine

/-! ## Verdicts (R523 to R525) -/

/-- Slot `i` of the Safety Monitor, if a message has started it. -/
def State.swSlot (s : State) (i : Nat) : Option SwSlot := s.ctrl.slots.find? (·.slot == i)
/-- The state with a path of a stop-word slot changed. -/
def State.onSwPath (slot path : Nat) (f : SwPath → SwPath) (s : State) : State :=
  s.onCtrl (fun c => { c with
    slots := updAll c.slots (·.slot == slot) (fun w => { w with paths := w.paths.modify path f }) })
/-- The state with a stop-word slot changed. -/
def State.onSwSlot (slot : Nat) (f : SwSlot → SwSlot) (s : State) : State :=
  s.onCtrl (fun c => { c with slots := updAll c.slots (·.slot == slot) f })
/-- The FRAME of a verdict is the path's expected one (R525), and the one the DCP loaded, if it loaded one (R524). -/
def frameOk (q : SwPath) (frame : Nat) : Bool :=
  decide (frame = q.frame % 2 ^ 32) &&
    (match q.expect with | some e => decide ((frame + 2 ^ 32 - e.1 % 2 ^ 32) % 2 ^ 32 < e.2) | none => true)
/-- A verdict record is intact and in sequence for a path (R524). -/
def verdictOk (q : SwPath) (path : Nat) (r : List Byte) : Bool :=
  (decide (fld r 4 2 = 0x5AA5) || decide (fld r 4 2 = 0xA55A)) && decide (fld r 7 1 = 0) &&
    decide (fld r 12 4 = (crc32c (r.take 12)).toNat) && decide (fld r 0 4 = q.channel.toNat) &&
    decide (fld r 6 1 = path) && frameOk q (fld r 8 4)
/-- A valid clear verdict noted; the first of both paths completes the start and sets the SW_RUN bit (R520). -/
def clearVerdict (slot path : Nat) (s : State) : State :=
  let s1 := s.onSwPath slot path (fun q => { q with
    clearSeen := true, clearSinceHold := true, lastClear := s.beat.number.toNat })
  match s1.swSlot slot with
  | none => s1
  | some k =>
    if k.started || !k.paths.all (·.clearSeen) || k.stopAt.isSome then s1
    else
      let s2 := (s1.onSwSlot slot (fun w => { w with started := true })).onSafe (fun m => { m with
        swRun := m.swRun ||| BitVec.ofNat 8 (2 ^ slot) })
      complete k.client k.mbox stOk [] s2
/-- A verdict record written to a slot (R523, R524): a foreign domain is counted and ignored; a slot that no message has
started takes none; every other failing check asserts the hold. -/
def verdictTake (dom slot path : Nat) (r0 : List Byte) (status : Half) (s : State) : State :=
  let r := fit 16 r0
  if 8 ≤ slot ∨ 2 ≤ path then s
  else if s.safe.safetyDomain = 0xFF ∨ dom ≠ s.safe.safetyDomain.toNat then
    s.onSafe (fun k => { k with foreign := satInc k.foreign })
  else
    match (s.swSlot slot).bind (fun k => k.paths[path]?) with
    | none => s
    | some q =>
      let s1 := s.onSwPath slot path (fun q => { q with got := q.got + 1 })
      if !verdictOk q path r then assertHold 0x03 0 0 slot s1
      else
        let s2 := s1.onSwPath slot path (fun q => { q with frame := q.frame + 1 })
        if status ≠ stOk then assertHold 0x04 0 0 slot s2
        else if fld r 4 2 = 0xA55A then assertHold 0x01 0 0 slot s2
        else clearVerdict slot path s2

/-- VERDICT_WRITE. -/
def execVerdictWrite (dom slot path : Nat) (r : List Byte) (status : Half) (s : State) : Host.Outcome State Fault Refusal :=
  .next (verdictTake dom slot path r status s)
/-- VERDICT_DEADLINE (R524): the time of the beat reaches the deadline loaded for a path; an expected verdict that has not arrived
asserts the hold. -/
def execVerdictDeadline (slot path : Nat) (s : State) : Host.Outcome State Fault Refusal :=
  .next (match (s.swSlot slot).bind (fun k => k.paths[path]?) with
    | some q => match q.expect with
      | some e =>
        let s1 := s.onBeat (fun b => { b with clock := max b.clock q.deadline })
        if q.got < e.2 then assertHold 0x02 0 0 slot s1 else s1
      | none => s
    | none => s)
/-- Beats a path may go without a valid clear verdict (R524). -/
def State.starveLimit (s : State) : Nat := cdiv 80 s.beat.cur.period.toNat + 1
/-- VERDICT_STARVATION (R524): more beats than the limit without a valid clear verdict assert the hold. -/
def execVerdictStarvation (slot path : Nat) (s : State) : Host.Outcome State Fault Refusal :=
  .next (match (s.swSlot slot).bind (fun k => k.paths[path]?) with
    | some q => if q.lastClear + s.starveLimit < s.beat.number.toNat then assertHold 0x02 0 0 slot s else s
    | none => s)

/-! ## The hold outputs (R515 to R518, R590, R592) -/

/-- The hold released: both outputs high, a record (R516). -/
def releaseHold (s : State) : State :=
  bbAdd 0x23 3 0 0 stOk (natLe 8 s.safe.causeWord) (s.onSafe (fun k => { k with
    hold := false, aLvl := true, bLvl := true }))
/-- Every running channel has delivered a clear verdict on both paths since the hold was asserted (R516). -/
def State.allClear (s : State) : Bool :=
  (s.ctrl.slots.filter (·.started)).all (fun k => k.paths.all (·.clearSinceHold))
/-- SAFE_ACK_EDGE: `lowMs` before the rising edge and `highMs` after it; the edge counts from 20 ms of each (R592), and
releases the hold if nothing of R516 is missing. -/
def execSafeAckEdge (lowMs highMs : Nat) (s : State) : Host.Outcome State Fault Refusal :=
  .next (if lowMs < 20 ∨ highMs < 20 then s
    else if s.safe.hold && !s.causePresent && s.allClear then releaseHold s else s)
/-- A readback mismatch (R518, R513): OUT_FAIL until a module reset, and the hold. -/
def outMismatch (s : State) : State :=
  assertHold 0x0E 0 0 0xFF (s.onSafe (fun k => { k with outFail := true }))
/-- TEST_PULSE: output A in beats with n mod 1,024 = 0, output B in those with 512, and only while the hold is released
(R518). `readLow` and `readHigh` are the levels read back during the pulse and after it. -/
def execTestPulse (channelB : Bool) (readLow readHigh : Bool) (s : State) : Host.Outcome State Fault Refusal :=
  .next (if s.safe.hold || s.beat.number.toNat % 1024 != (if channelB then 512 else 0) then s
    else if readLow || !readHigh then outMismatch s
    else s.onSafe (fun k => { k with pulse := false, aLvl := true, bLvl := true }))
/-- TICK_LOSS: no tick for 2 × P (R513). -/
def execTickLoss (s : State) : Host.Outcome State Fault Refusal :=
  .next (assertHold 0x0B 0 0 0xFF (s.onSafe (fun k => { k with tickLost := true })))
/-- REFCLK_LOSS (R590): the hold, SAFE_HB stops, and a module reset that lasts until REFCLK is good again. -/
def execRefclkLoss (s : State) : Host.Outcome State Fault Refusal :=
  let s1 := assertHold 0x0B 0 0 0xFF (s.onSafe (fun k => { k with refclkOk := false, hb := false }))
  .next (if s.power.failing then s1
    else ((moduleResetTo 0x02 s1).onPins (fun p => { p with refclkHold := true })).onSafe (fun k => { k with
      refclkOk := false, resetActive := true }))

/-! ## Blaze frames (R502 to R508) -/

/-- What of the current beat used a unit is affected (R513): its commands' outputs, and what they write, are invalid with
the status, decode steps fault their sessions, decoder work zeroes its channels. -/
def affectUnit (u : UnitId) (st : Half) (s : State) : State :=
  (s.plan.cur.filter (fun c => engineUnit c.t.engine == some u)).foldl (fun (s : State) (c : PCmd) =>
    let s1 := (s.objsOf c).foldl (fun (s : State) (i : Nat) => invalidObj st i s) s
    let s2 := (s1.setsOf c).foldl (fun (s : State) (i : Nat) => invalidSet st i s) s1
    match c.kind with
    | .decode => faultSession st (hIdx c.obj.toNat) s2
    | .decoder => faultZero st (hIdx c.obj.toNat) s2
    | _ => s2)
    (s.onPlan (fun k => { k with
      cur := updAll k.cur (fun c => engineUnit c.t.engine == some u && c.status == stOk) (fun c => { c with status := st }) }))
/-- The first command of a frame whose signature differs, counted from 0. -/
def firstDiff : List Word → List Word → Nat → Nat
  | a :: r, b :: t, i => if a = b then firstDiff r t (i + 1) else i
  | _, _, i => i
/-- A failed frame (R506): the record, the reactions of R513, the fence. -/
def blazeFail (u : UnitId) (sigs expected : List Word) (set : Nat) (s : State) : State :=
  let i := firstDiff sigs expected 0
  let s1 := bbAdd 0x20 3 (unitCode u.kind) u.index stIntegrityFail
    (natLe 1 set ++ natLe 1 i ++ natLe 4 (sigs.getD i 0).toNat) s
  let s2 := affectUnit u stIntegrityFail s1
  let s3 := if s.safe.servedSafety.contains u then assertHold 0x06 (unitCode u.kind) u.index 0xFF s2 else s2
  fenceByFault u s3
/-- BLAZE_FRAME: the frame of the power-on sequence, or of the rotation's unit in the current beat; `invalid` says that one of its
commands was invalid. The slot of a fenced unit stays empty (R508). In a beat it is work of the execution window (R46). -/
def execBlazeFrame (sigs expected : List Word) (invalid : Bool) (s : State) : Host.Outcome State Fault Refusal :=
  let r := s.blazeSlot.1
  let u := blazeUnitOf r
  .next (if !s.serves u || s.power.mode != .active || !s.rot.dcpReady || (s.beat.ticked && s.beat.part != .window) then s
    else
      let s1 := s.onSafe (fun k => { k with blazeUnit := BitVec.ofNat 8 r, blazeBoot := s.bootNext })
      let others := s.safe.blazed.filter (fun x => decide (x ≠ r))
      if sigs = expected ∧ invalid = false then
        s1.onSafe (fun k => { k with
          blazePasses := k.blazePasses + 1, blazed := others ++ [r], servedSafety := k.servedSafety.filter (fun x => decide (x ≠ u)) })
      else
        blazeFail u sigs expected s.blazeSlot.2 (s1.onSafe (fun k => { k with
          blazeFails := satInc k.blazeFails, blazeMismatch := k.blazeMismatch || decide (sigs ≠ expected),
          blazeLate := k.blazeLate || invalid, blazed := others })))

/-! ## Checker tests (R509 to R512) -/

/-- The length of a test in µs (table *Checker tests*). -/
def checkerLen : Checker → Nat
  | .clusterEcc _ => 20 | .clusterSfu _ => 10 | .clusterWd _ => 10
  | .nmuWd _ => 10 | .nmuEcc _ => 15 | .nmuFw _ => 5
  | .yarderWd _ => 10 | .sliceFw _ => 5 | .sliceEcc _ => 15
  | .cxlFw _ => 5 | .cxlPoison _ => 10 | .linkFw _ => 5 | .linkFrame _ => 20
  | .comparator => 1 | .afe => 20 | .monitor => 5 | .lockstep => 2
/-- The row of the table *Checker tests* that a test is of, from 1. -/
def checkerRow : Checker → Nat
  | .clusterEcc _ => 1 | .clusterSfu _ => 2 | .clusterWd _ => 3
  | .nmuWd _ => 3 | .nmuEcc _ => 4 | .nmuFw _ => 5
  | .yarderWd _ => 3 | .sliceFw _ => 5 | .sliceEcc _ => 6
  | .cxlFw _ => 5 | .cxlPoison _ => 8 | .linkFw _ => 5 | .linkFrame _ => 7
  | .comparator => 9 | .afe => 10 | .monitor => 11 | .lockstep => 12
/-- The fenceable unit a test is of. -/
def checkerUnit : Checker → Option UnitId
  | .clusterEcc c | .clusterSfu c | .clusterWd c => some ⟨.cluster, c⟩
  | .nmuWd k | .nmuEcc k | .nmuFw k => some ⟨.nmu, k⟩
  | .cxlFw p | .cxlPoison p => some ⟨.cxl, p⟩
  | .linkFw l | .linkFrame l => some ⟨.link, l⟩
  | _ => none
/-- A test of a unit that the module has. -/
def checkerReal : Checker → Bool
  | .clusterEcc c | .clusterSfu c | .clusterWd c => decide (c < 8)
  | .nmuWd k | .nmuEcc k | .nmuFw k => decide (k < 16)
  | .yarderWd y => decide (y < 32)
  | .sliceFw i | .sliceEcc i => decide (i < 16)
  | .cxlFw p | .cxlPoison p => decide (p < 4)
  | .linkFw l | .linkFrame l => decide (l < 24)
  | _ => true
/-- Every test, in the table's order. -/
def allCheckers : List Checker :=
  let cs : List Checker := (List.range 8).flatMap (fun c => [Checker.clusterEcc c, Checker.clusterSfu c, Checker.clusterWd c])
  let ns : List Checker := (List.range 16).flatMap (fun k => [Checker.nmuWd k, Checker.nmuEcc k, Checker.nmuFw k])
  let ys : List Checker := (List.range 32).map Checker.yarderWd
  let ss : List Checker := (List.range 16).flatMap (fun i => [Checker.sliceFw i, Checker.sliceEcc i])
  let ps : List Checker := (List.range 4).flatMap (fun p => [Checker.cxlFw p, Checker.cxlPoison p])
  let ls : List Checker := (List.range 24).flatMap (fun l => [Checker.linkFw l, Checker.linkFrame l])
  List.flatten [cs, ns, ys, ss, ps, ls, [Checker.comparator, Checker.afe, Checker.monitor, Checker.lockstep]]
/-- The unit of a test is in service (R509). -/
def State.checkerIn (s : State) (c : Checker) : Bool :=
  match checkerUnit c with | some u => s.serves u | none => true
/-- The tests of a list that fit a slice of 50 µs (R509). -/
def sliceFit : Nat → List (Checker × Bool) → List (Checker × Bool)
  | _, [] => []
  | room, t :: r => if checkerLen t.1 ≤ room then t :: sliceFit (room - checkerLen t.1) r else sliceFit room r
/-- The result of one test at a time: a pass is dated, a failure sets TEST_FAIL. -/
def checkerResult (t : Nat) (c : Checker) (pass : Bool) (s : State) : State :=
  if !checkerReal c || !s.checkerIn c then s
  else if pass then s.onSafe (fun k => { k with lastPass := kset k.lastPass c t })
  else s.onSafe (fun k => { k with
    testFail := true, failedTests := k.failedTests.filter (fun x => decide (x ≠ c)) ++ [c] })
/-- One period in units of 1/16 ns (R37: steps of 62.5 µs). -/
def BeatCfg.period16 (c : BeatCfg) : Nat := c.period.toNat * 1000000
/-- An engine has a command of the beat that runs. -/
def State.engineBusy (s : State) (e : Engine) : Bool := s.plan.cur.any (fun c => c.t.engine == e && c.run == .running)
/-- SELF_TEST_SLICE on an engine, or on a unit without one, with its planned start and the tests with their results
(R511): it does not run while its unit is fenced; a busy engine or the coming tick defers it. -/
def execSelfTestSlice (e : Option Engine) (start : Nat) (tests : List (Checker × Bool)) (s : State) :
    Host.Outcome State Fault Refusal :=
  let fits := sliceFit 50 tests
  let len := (fits.map (fun t => checkerLen t.1)).foldl (· + ·) 0
  let busy := match e with | some x => s.engineBusy x | none => false
  let fenced := match e.bind engineUnit with | some u => !s.serves u | none => false
  .next (if !s.rot.dcpReady || fenced || !s.beat.ticked || s.beat.part != .kerf then s
    else if busy || decide (s.beat.tickTime + s.beat.cur.period16 < start + len * 16000) then
      s.onSafe (fun k => { k with deferrals := satInc k.deferrals })
    else fits.foldl (fun (s : State) (t : Checker × Bool) => checkerResult start t.1 t.2 s) s)
/-- LOCKSTEP_TEST (R509): the DCP's comparator, outside the beat; its result is dated at the last tick. -/
def execLockstepTest (pass : Bool) (s : State) : Host.Outcome State Fault Refusal :=
  .next (if !s.rot.dcpReady then s else checkerResult s.beat.tickTime .lockstep pass s)

/-- 100 ms in units of 1/16 ns (R510). -/
def diagInterval : Nat := 1600000000
/-- A checker is latent-unverified at a time (R512); one with no pass on record starts its interval now. -/
def State.latentAt (s : State) (now : Nat) (c : Checker) : Bool :=
  s.safe.failedTests.contains c ||
    (match kget s.safe.lastPass c with | some t => decide (t + diagInterval < now) | none => false)
/-- Commands of the safety domain stood on a unit in the plan of the beat just ended or in the released plan. -/
def State.plannedSafety (s : State) (p : Engine → Bool) : Bool :=
  s.plan.safetyPrev.any p ||
    s.plan.cur.any (fun c => p c.t.engine && s.safe.safetyDomain != 0xFF && decide (c.dom = s.safe.safetyDomain.toNat))
/-- What a declaration does to its unit, short of a reset (R512, R513). -/
def latentReact (c : Checker) (s : State) : State :=
  let s1 := bbAdd 0x21 3 (match checkerUnit c with | some u => unitCode u.kind | none => 0)
    (match checkerUnit c with | some u => u.index | none => 0) stIntegrityFail (natLe 1 (checkerRow c)) s
  match checkerUnit c with
  | some u =>
    let s2 := affectUnit u stIntegrityFail s1
    let s3 := if s.plannedSafety (fun e => engineUnit e == some u) then
        assertHold 0x07 (unitCode u.kind) u.index 0xFF s2 else s2
    fenceByFault u s3
  | none =>
    match c with
    | .yarderWd y => if s.plannedSafety (fun e => e == .yarder y) then assertHold 0x07 0 0 0xFF s1 else s1
    | _ => s1
/-- The warm reset's cause for a checker of a unit that is not fenceable (R30), if its fault is one. -/
def warmCause : Checker → Option Nat
  | .afe => some 0x10 | .monitor => some 0x11 | .lockstep => some 0x04 | _ => none
/-- LATENT_CHECK at a tick (R512). Where units that are not fenceable are concerned, the broadest reset runs once (R567). -/
def execLatentCheck (now : Nat) (s : State) : Host.Outcome State Fault Refusal :=
  if !s.rot.dcpReady then .next s
  else
    let here := allCheckers.filter s.checkerIn
    let bad := here.filter (s.latentAt now)
    let s1 := s.onSafe (fun k => { k with
      lastPass := here.map (fun c => (c, if bad.contains c then now else (kget k.lastPass c).getD now)),
      failedTests := [], latent := satAdd k.latent bad.length, latentSeen := k.latentSeen || !bad.isEmpty })
    let s2 := bad.foldl (fun (s : State) (c : Checker) => latentReact c s) s1
    let hard := bad.filter (fun c => (checkerUnit c).isNone)
    .next (match hard.findSome? warmCause with
      | some w => warmResetTo w s2
      | none => if hard.isEmpty then s2 else computeResetTo 0x08 s2)

end Sys2Proof.Machine
end

