-- ==== Sys2Proof/Machine/ScanExec.lean ====
section
/-! DEFINITION. The Scan Unit (R205 to R240): the row arithmetic, the command word, the rows' outcomes. -/

namespace Sys2Proof.Machine

/-! ## The command word (R232, R233) -/

/-- OP of SMODE: 0 CHUNK, 1 STEP, 2 ZERO. -/
def scOp (w : List Byte) : Nat := bitsOf (fld w 1 1) 0 2
/-- L. -/
def scLen (w : List Byte) : Nat := if scOp w = 0 then 16 * 2 ^ bitsOf (fld w 1 1) 2 2 else 1
/-- DECAY_VEC of the command. -/
def scVec (w : List Byte) : Bool := (fld w 1 1).testBit 4
/-- QKV_FP32. -/
def scFp32 (w : List Byte) : Bool := (fld w 1 1).testBit 5
/-- H. -/
def scHeads (w : List Byte) : Nat := fld w 3 1
/-- DK. -/
def scDk (w : List Byte) : Nat := 16 * fld w 8 1
/-- DV. -/
def scDv (w : List Byte) : Nat := 16 * fld w 9 1
/-- Rows. -/
def scRows (w : List Byte) : Nat := fld w 4 2
/-- Decay values per head. -/
def scK (w : List Byte) : Nat := if scVec w then scDk w else 1
/-- The smallest multiple of 64 at or above a size. -/
def pad64 (n : Nat) : Nat := 64 * cdiv n 64
/-- Bytes of q (and of k) of a row. -/
def scQBytes (w : List Byte) : Nat := scLen w * scHeads w * scDk w * (if scFp32 w then 4 else 2)
/-- Bytes of v of a row. -/
def scVBytes (w : List Byte) : Nat := scLen w * scHeads w * scDv w * (if scFp32 w then 4 else 2)
/-- Bytes of λ of a row. -/
def scLBytes (w : List Byte) : Nat := scLen w * scHeads w * scK w * 4
/-- Bytes of the state of one layer. -/
def scStateBytes (w : List Byte) : Nat := scHeads w * scDk w * scDv w * 4
/-- Bytes a row takes in IN_STREAM (R235); a ZERO row has its descriptor alone. -/
def scRowBytes (w : List Byte) : Nat :=
  if scOp w = 2 then 64 else 64 + 2 * pad64 (scQBytes w) + pad64 (scVBytes w) + pad64 (scLBytes w)
/-- Bytes a row gives OUT_STREAM beside its descriptor. -/
def scOutBytes (w : List Byte) : Nat :=
  if scOp w = 0 then pad64 (scLBytes w) + pad64 (scLen w * scHeads w * scDv w * 4) else pad64 (scHeads w * scDv w * 4)
/-- C_scan of R239 for ROWS full rows. -/
def scCycles (w : List Byte) : Nat :=
  let g := if scOp w = 0 then 2 * scLen w + 1 else 1
  let f := if scOp w = 0 then 2 * scLen w + 1 else 3
  let cIn := 3 * cdiv (if scOp w = 2 then 32 else 32 + 64 + 2 * scQBytes w + scVBytes w + scLBytes w + scStateBytes w) 4096
  let cOut := 3 * cdiv ((if scOp w = 0 then 32 + scLBytes w + scLen w * scHeads w * scDv w * 4
    else if scOp w = 1 then 32 + scHeads w * scDv w * 4 else 0) + scStateBytes w + 64) 2048
  let comp := cdiv (scHeads w * scDk w * scDv w * f) 1024
  let ex := cdiv (scHeads w * scK w * g) 256
  let row := if scOp w = 2 then cOut else max (max comp ex) (max cIn cOut)
  64 + cIn + scRows w * row + cOut + 20
/-- The checks of R236, in offset order; `shape` says that shape and LAYER agree with the model's recurrent layers, a check
that stands behind the limits of their fields (log entry 142). -/
def scanWordFail (shape : Bool) (w : List Byte) : Option Half :=
  let m := fld w 1 1
  firstFail [
    (decide (fld w 0 1 = 3), stBadFormat),
    (decide (scOp w ≠ 3) && decide (m < 64) && (decide (scOp w = 0) || decide (bitsOf m 2 2 = 0)), stBadFormat),
    (decide (fld w 2 1 < 64), stBadFormat),
    (decide (1 ≤ scHeads w ∧ scHeads w ≤ 64), stBadLength),
    (decide (scRows w ≤ 512), stBadLength),
    (decide (fld w 6 2 ≤ 255), stBadLength),
    (decide (1 ≤ fld w 8 1 ∧ fld w 8 1 ≤ 8), stBadLength),
    (decide (1 ≤ fld w 9 1 ∧ fld w 9 1 ≤ 8), stBadLength),
    (shape, stBadFormat),
    (allZero w 0x10 8, stBadFormat),
    (decide (fld w 0x18 4 ≠ 0), stBadLength),
    (decide (scCycles w ≤ fld w 0x18 4) && decide (fld w 0x18 4 ≤ 108000), stBadFormat)]

/-! ## The row arithmetic (R205, R207, R212) -/

/-- Element `i` of an array of q, k or v at offset `off`. -/
def scElem (w row : List Byte) (off i : Nat) : Fv :=
  if scFp32 w then dec32 (BitVec.ofNat 32 (fld row (off + 4 * i) 4)) else decB16 (BitVec.ofNat 16 (fld row (off + 2 * i) 2))
/-- q[j][h][κ] of a row. -/
def scQ (w row : List Byte) (j h κ : Nat) : Fv := scElem w row 64 ((j * scHeads w + h) * scDk w + κ)
/-- k[j][h][κ]. -/
def scKey (w row : List Byte) (j h κ : Nat) : Fv := scElem w row (64 + pad64 (scQBytes w)) ((j * scHeads w + h) * scDk w + κ)
/-- v[j][h][c]. -/
def scV (w row : List Byte) (j h c : Nat) : Fv := scElem w row (64 + 2 * pad64 (scQBytes w)) ((j * scHeads w + h) * scDv w + c)
/-- λ[j][h][κ]: a value above +0 is taken as +0 (R205). -/
def scLam (w row : List Byte) (j h κ : Nat) : Fv :=
  let off := 64 + 2 * pad64 (scQBytes w) + pad64 (scVBytes w)
  let v := dec32 (BitVec.ofNat 32 (fld row (off + 4 * ((j * scHeads w + h) * scK w + (if scVec w then κ else 0))) 4))
  if fvLt fvZero v then fvZero else v
/-- Reset bit of step `j`. -/
def scReset (row : List Byte) (j : Nat) : Bool := (fld row (0x10 + j / 8) 1).testBit (j % 8)
/-- One product, rounded once. -/
def mulR (a b : Fv) : Fv := rnd fmt32 (fvMul a b)
/-- One fused multiply-add, rounded once. -/
def fmaR (a b c : Fv) : Fv := rnd fmt32 (fvAdd (fvMul a b) c)
/-- The cumulative log-decays Λ[0..n) of a head's channel. -/
def scCum (w row : List Byte) (h κ : Nat) : Nat → List Fv
  | 0 => []
  | j + 1 =>
    let l := scCum w row h κ j
    let v := if scReset row j then fvZero
      else if j = 0 then scLam w row 0 h κ
      else rnd fmt32 (fvAdd (l.getD (j - 1) fvZero) (scLam w row j h κ))
    l ++ [v]
/-- The last reset step of the first `n`, or 0; and whether no reset has been met. -/
def scLast (row : List Byte) (n : Nat) : Nat × Bool :=
  (List.range n).foldl (fun (a : Nat × Bool) j => if scReset row j then (j, false) else a) (0, true)
/-- A state element of a layer as read. -/
def scH0 (w st : List Byte) (h κ c : Nat) : Fv := dec32 (BitVec.ofNat 32 (fld st (((h * scDk w + κ) * scDv w + c) * 4) 4))
/-- S[j][c] of a head (R207). -/
def scS (exp : Fv → Fv) (w row st : List Byte) (h j c : Nat) : Fv :=
  if (scLast row (j + 1)).2 then
    (List.range (scDk w)).foldl (fun acc κ =>
      fmaR (mulR (scQ w row j h κ) (exp ((scCum w row h κ (j + 1)).getD j fvZero))) (scH0 w st h κ c) acc) fvZero
  else fvZero
/-- The new state element of a CHUNK row (R207). -/
def scNew (exp : Fv → Fv) (w row st : List Byte) (v h κ c : Nat) : Fv :=
  let cum := scCum w row h κ v
  let lastCum := cum.getD (v - 1) fvZero
  let b := scLast row v
  let h0 := if b.2 then mulR (exp lastCum) (scH0 w st h κ c) else fvZero
  (List.range (v - b.1)).foldl (fun acc d =>
    let i := b.1 + d
    fmaR (mulR (scKey w row i h κ) (exp (rnd fmt32 (fvSub lastCum (cum.getD i fvZero))))) (scV w row i h c) acc) h0
/-- The new state element of a STEP row (R212). -/
def scStepNew (exp : Fv → Fv) (w row st : List Byte) (h κ c : Nat) : Fv :=
  fmaR (scKey w row 0 h κ) (scV w row 0 h c)
    (if scReset row 0 then fvZero else mulR (exp (scLam w row 0 h κ)) (scH0 w st h κ c))
/-- The state bytes of the layer after a row with `v` valid steps. -/
def scState (exp : Fv → Fv) (w row st : List Byte) (v : Nat) : List Byte :=
  (List.range (scHeads w)).flatMap (fun h => (List.range (scDk w)).flatMap (fun κ => (List.range (scDv w)).flatMap (fun c =>
    natLe 4 (enc32 (if scOp w = 0 then scNew exp w row st v h κ c else scStepNew exp w row st h κ c)).toNat)))
/-- The output arrays of a row: Λ and S of a chunk, o of a step; padding steps hold +0 (R210). -/
def scOut (exp : Fv → Fv) (w row st : List Byte) (v : Nat) : List Byte :=
  if scOp w = 0 then
    fit (pad64 (scLBytes w)) ((List.range (scLen w)).flatMap (fun j => (List.range (scHeads w)).flatMap (fun h =>
      (List.range (scK w)).flatMap (fun κ =>
        natLe 4 (enc32 (if j < v then (scCum w row h κ (j + 1)).getD j fvZero else fvZero)).toNat)))) ++
    fit (pad64 (scLen w * scHeads w * scDv w * 4)) ((List.range (scLen w)).flatMap (fun j =>
      (List.range (scHeads w)).flatMap (fun h => (List.range (scDv w)).flatMap (fun c =>
        natLe 4 (enc32 (if j < v then scS exp w row st h j c else fvZero)).toNat))))
  else
    fit (scOutBytes w) ((List.range (scHeads w)).flatMap (fun h => (List.range (scDv w)).flatMap (fun c =>
      natLe 4 (enc32 ((List.range (scDk w)).foldl (fun acc κ =>
        fmaR (scQ w row 0 h κ) (scStepNew exp w row st h κ c) acc) fvZero)).toNat)))

/-! ## Rows and objects (R219 to R221, R229, R237, R238) -/

/-- The object a row names: current, or destroyed by force in this very beat (R229). -/
def State.rowObj (s : State) (h : Nat) : Option StateObj :=
  if hKind h = 3 then
    s.ctrl.objs.find? (fun o => o.idx == hIdx h && decide (s.genOf 3 o.idx = hGen h) &&
      (!o.gone || o.freeAt == some (s.beat.number.toNat + 2)))
  else none
/-- The descriptor of a row with its result. -/
def scDesc (row : List Byte) (st : Half) : List Byte := fit 64 (row.take 6 ++ natLe 2 st.toNat ++ (row.drop 8).take 24)
/-- The row breaks the checks of R237 that it alone decides: V above L, a mask bit at or above V. -/
def rowWordBad (w row : List Byte) : Bool :=
  decide (scLen w < fld row 4 2) || (List.range 128).any (fun j => decide (fld row 4 2 ≤ j) && scReset row j)
/-- The row breaks the checks of R237 against its object: a shape or layer that is not its object's, a FIRST_STEP that is not
its object's STEP. -/
def rowBad (w row hdr : List Byte) (o : StateObj) : Bool :=
  decide (fld hdr 3 1 ≠ scHeads w) || decide (fld hdr 4 1 ≠ fld w 8 1) || decide (fld hdr 5 1 ≠ fld w 9 1) ||
  ((fld hdr 2 1).testBit 1 != scVec w) || decide (o.layers ≤ fld w 6 2) || decide (fld row 8 8 ≠ fld hdr 0x18 8)

/-- What one row answers: the state, its output bytes, its status, whether the command is malformed, and whether the row met
an uncorrectable error or a header mismatch, or a firewall refusal (R240). -/
structure RowRes where
  s : State
  out : List Byte
  st : Half
  bad : Bool
  ue : Bool
  dom : Bool
/-- A row that did nothing to its object. -/
def rowPlain (s : State) (out : List Byte) (st : Half) (bad : Bool) : RowRes := ⟨s, out, st, bad, false, false⟩
/-- The header of an object's record written to memory, for a row may still name an object destroyed in this beat (R229). -/
def writeHeader (i : Nat) (s : State) : State :=
  match s.ctrl.objs.find? (fun o => o.idx == i) with
  | some o => putMem o.addr (s.objHeader o) s
  | none => s

/-- The object's record after a row that wrote it (R219 to R221, R238): a row that is not OK leaves the object INVALID with its
status, which is the object's own where the row read an invalid object. -/
def rowRecord (w row hdr : List Byte) (st : Half) (o : StateObj) : StateObj :=
  let v := fld row 4 2
  { o with
    seq := fld hdr 0x20 8 + 1,
    step := if fld w 6 2 + 1 = o.layers then fld hdr 0x18 8 + v else fld hdr 0x18 8,
    invalid := if st = stOk then none else some st }

/-- One CHUNK or STEP row (table *Row outcomes*). `ue`: the row's state read met an uncorrectable error; `given`: header and layer as
STATE_STREAM has brought them, with their status, where a yarder runs that stream (R235). -/
def scanRow (exp : Fv → Fv) (expOk : Bool) (w row : List Byte) (inSt : Half) (ue : Bool) (given : Option (List Byte × Half)) (s : State) : RowRes :=
  let dom := bitsOf (fld w 2 1) 0 6
  let h := fld row 0 4
  let v := fld row 4 2
  let zeroOut := fun (st : Half) => scDesc row st ++ zeros (scOutBytes w)
  if rowWordBad w row then rowPlain s [] stBadFormat true
  else if v = 0 then rowPlain s (zeroOut stOk) stOk false
  else match s.rowObj h with
  | none => rowPlain s (zeroOut stStateGone) stStateGone false
  | some o =>
    let gst := (given.map (·.2)).getD stOk
    let hdr := match given with | some g => g.1.take 64 | none => MemOps.readN s.mem.dev o.addr 64
    let body := o.addr + 0x1000 + fld w 6 2 * scStateBytes w
    let n := scStateBytes w
    let crcOk := gst == stDomainFault || decide ((crc32c (hdr.take 60)).toNat = fld hdr 0x3C 4)
    let hdr := if crcOk && gst != stDomainFault then hdr else s.objHeader o
    if rowBad w row hdr o then rowPlain s [] stBadFormat true
    else
      let reset0 := scReset row 0
      let canR := match given with
        | some _ => gst != stDomainFault
        | none => s.rangePasses dom false o.addr 64 && (reset0 || s.rangePasses dom false body n)
      let canW := s.rangePasses dom true o.addr 64 && s.rangePasses dom true body n
      let poison := ue || (match given with
        | some _ => gst == stIntegrityFail
        | none => s.rangePoisoned o.addr 64 || (!reset0 && s.rangePoisoned body n))
      let stBytes := if reset0 || !canR then zeros n else match given with
        | some g => fit n (g.1.drop 64)
        | none => MemOps.readN s.mem.dev body n
      let objInv := (fld hdr 2 1).testBit 0 && !reset0
      let rowSt : Half := BitVec.ofNat 16 (fld row 6 2)
      let st := if !crcOk || poison then stIntegrityFail
        else if !canR || !canW || inSt == stDomainFault then stDomainFault
        else if gst ≠ stOk then gst
        else if rowSt ≠ stOk then rowSt
        else if inSt ≠ stOk then inSt
        else if objInv then BitVec.ofNat 16 (fld hdr 0x14 2)
        else if !expOk then stIntegrityFail
        else stOk
      let out := scDesc row st ++ scOut exp w row stBytes v
      let s1 := if canR || given.isSome then s else refuseEngine dom false body s
      let s2 := if canW then s1 else refuseEngine dom true body s1
      let s3 := if poison && given.isNone then countUe body s2 else s2
      let s4 := if canW then
          putMem body (scState exp w row stBytes v) s3
        else s3
      let s5 := if canW then s4.onObj o.idx (rowRecord w row hdr st) else s4.onObj o.idx (fun o =>
        { o with invalid := some st })
      ⟨writeHeader o.idx s5, out, st, false, !crcOk || poison, !canR || !canW || inSt == stDomainFault⟩

/-- One ZERO row (R233): a zeroed body of the layer, STEP 0, INVALID clear. -/
def zeroRow (w row : List Byte) (s : State) : RowRes :=
  let dom := bitsOf (fld w 2 1) 0 6
  match s.rowObj (fld row 0 4) with
  | none => rowPlain s [] stStateGone false
  | some o =>
    let n := scStateBytes w
    let body := o.addr + 0x1000 + fld w 6 2 * n
    if o.heads ≠ scHeads w ∨ o.dk16 ≠ fld w 8 1 ∨ o.dv16 ≠ fld w 9 1 ∨ o.decayVec ≠ scVec w ∨ o.layers ≤ fld w 6 2 then
      rowPlain s [] stBadFormat true
    else if s.rangePasses dom true o.addr 64 && s.rangePasses dom true body n then
      let s1 := clearMem body n s
      rowPlain (writeHeader o.idx (s1.onObj o.idx (fun o => { o with step := 0, seq := o.seq + 1, invalid := none }))) [] stOk false
    else
      ⟨writeHeader o.idx ((refuseEngine dom true body s).onObj o.idx (fun o => { o with invalid := some stDomainFault })),
        [], stDomainFault, false, false, true⟩

/-- The registers after a row (R240). -/
def ScanRegs.row (q : RowRes) (r : ScanRegs) : ScanRegs :=
  { r with
    gone := r.gone || q.st == stStateGone, eccUe := r.eccUe || q.ue, domFault := r.domFault || q.dom,
    invalidRow := r.invalidRow || q.st != stOk, rows := r.rows + 1 }
/-- The registers after a Scan command. -/
def scanFinish (w : List Byte) (st : Half) (r : ScanRegs) : ScanRegs :=
  { r with lastStatus := st, busy := false, lastTag := BitVec.ofNat 32 (fld w 0x1C 4), count := r.count + 1 }
/-- A Scan command that a cluster finds malformed (R237). -/
def scanBad (c : Nat) (w : List Byte) (s : State) : State :=
  dcpFault (planDone (.cluster c) stBadFormat (s.onCluster c (fun k => { k with
    scan := scanFinish w stBadFormat k.scan, scanRun := none, outb := outPut (fld w 0xE 2) [] stBadFormat k.outb })))
/-- A buffer that holds nothing, of an endpoint. -/
def StreamBuf.none (ep num : Nat) : StreamBuf := { num := num, ep := ep, tiles := [], status := stOk, ended := false, flaws := [] }
/-- What a stream has delivered added to the bytes that a command has taken. -/
def StreamBuf.take (b : StreamBuf) (l : List StreamBuf) : StreamBuf :=
  (l.filter (fun x => x.num == b.num && x.ep == b.ep)).foldl (fun b x => { b with
    tiles := b.tiles ++ x.tiles, ended := b.ended || x.ended,
    flaws := b.flaws ++ x.flaws.map (fun f => (b.size + f.1, f.2.1, f.2.2)) }) b
/-- A list of buffers without a stream of an endpoint. -/
def bufsWithout (ep num : Nat) (l : List StreamBuf) : List StreamBuf := l.filter (fun b => !(b.num == num && b.ep == ep))
/-- The status of the first `n` bytes. -/
def StreamBuf.headStatus (b : StreamBuf) (n : Nat) : Half := firstBad ((b.flaws.filter (fun f => decide (f.1 < n ∧ 0 < f.2.1))).map (·.2.2))
/-- The tiles without their first `n` bytes: a tile that has been read whole is gone. -/
def dropUnits : Nat → List (List Byte) → List (List Byte)
  | _, [] => []
  | n, t :: r => if t.length ≤ n then dropUnits (n - t.length) r else t.drop n :: r
/-- The bytes after the first `n`. -/
def StreamBuf.drop (b : StreamBuf) (n : Nat) : StreamBuf := { b with tiles := dropUnits n b.tiles, flaws := dropFlaws n b.flaws }
/-- The status of row `i` of a command's Scan inputs (R67, R238). -/
def State.rowInput (s : State) (p : PCmd) (i : Nat) : Half :=
  (((s.inputsOf p).filter (fun x => isScan x.t)).findSome? (fun x => if x.rowStatus i ≠ stOk then some (x.rowStatus i) else none)).getD stOk
/-- The row as the unit sees it: of a planned command its descriptor is the plan's, with the status of the command's inputs
(R234, log entry 143). -/
def State.rowBytes (s : State) (c i : Nat) (row : List Byte) : List Byte :=
  match s.runningCmd (.cluster c) with
  | some p => match p.rows[i]? with
    | some d =>
      let st := if p.status ≠ stOk then p.status else s.rowInput p i
      fit 64 (d.take 6 ++ natLe 2 st.toNat ++ d.drop 8) ++ row.drop 64
    | none => row
  | none => row
/-- The row that the command on cluster `c` has next. -/
def State.rowNow (s : State) (c : Nat) (r : ScanRun) : List Byte := s.rowBytes c r.row ((r.buf.tiles.flatten).take (scRowBytes r.word))
/-- A yarder runs, or has run, the STATE_STREAM of a command (R312); without one the unit reads the object's place (DESIGN CHOICE, log
entry 39). -/
def State.stateStream (s : State) (c : Nat) (r : ScanRun) : Bool :=
  let num := fld r.word 0xC 2
  r.sbuf.ended || r.sbuf.size != 0 || (List.range 4).any (fun i =>
    (s.yarder (4 * c + i)).ctxs.any (fun x => x.num == num && decide (fld x.word 1 1 = 5)) ||
    s.plan.cur.any (fun p => p.t.engine == .yarder (4 * c + i) && p.stream == num && decide (fld p.t.word 1 1 = 5) && p.run != .abandoned))
/-- The bytes of STATE_STREAM that a row takes: header and layer, where the row reads its object (R235, R238). -/
def State.rowState (s : State) (c : Nat) (r : ScanRun) : Nat :=
  let row := s.rowNow c r
  if scOp r.word = 2 ∨ rowWordBad r.word row = true ∨ fld row 4 2 = 0 ∨ s.rowObj (fld row 0 4) = none ∨ s.stateStream c r = false then 0
  else 64 + scStateBytes r.word
/-- One row of the command that runs on cluster `c`. -/
def scanOne (c : Nat) (r : ScanRun) (s : State) : RowRes :=
  let row := s.rowNow c r
  if scOp r.word = 2 then zeroRow r.word row s
  else
    let bank := s.sfuBank c
    let n := s.rowState c r
    let given := if n = 0 then none else some ((r.sbuf.tiles.flatten).take n, r.sbuf.headStatus n)
    let q := scanRow (bank.exp s.freeCtr) bank.hasExp r.word row (r.buf.headStatus (scRowBytes r.word)) (r.ecc.contains r.row) given s
    if bank.hasExp then q else { q with s := { q.s with freeCtr := q.s.freeCtr + 2 ^ 32 } }
/-- The bytes of a row have not come. -/
def State.rowWaits (s : State) (c : Nat) (r : ScanRun) : Bool :=
  decide (r.buf.size < scRowBytes r.word) || decide (r.sbuf.size < s.rowState c r)
/-- A stream that has come to its end holds fewer bytes than a row needs. -/
def State.rowShort (s : State) (c : Nat) (r : ScanRun) : Bool :=
  (r.buf.ended && decide (r.buf.size < scRowBytes r.word)) ||
  (decide (scRowBytes r.word ≤ r.buf.size) && r.sbuf.ended && decide (r.sbuf.size < s.rowState c r))
/-- A row of a cluster's command has run: its result stands in the plan, and what depends on it hears of it (R67, R238). -/
def rowDone (c i : Nat) (st : Half) (s : State) : State :=
  match s.runningCmd (.cluster c) with
  | some p =>
    let s1 := s.onPlan (fun k => { k with cur := updFirst k.cur (fun x => x.id == p.id) (PCmd.setRow i st) })
    if st = stOk then s1 else affectOut st (causeOf st) p s1
  | none => s
/-- The rows that have come, in ascending order; a malformed row ends the command (R237, R238). -/
def scanRows (c : Nat) : Nat → State → State × Bool
  | 0, s => (s, false)
  | n + 1, s =>
    match (s.cluster c).scanRun with
    | none => (s, false)
    | some r =>
      let w := r.word
      if decide (scRows w ≤ r.row) || s.rowWaits c r then (s, false)
      else
        let q := scanOne c r s
        let out := fld w 0xE 2
        let h := BitVec.ofNat 32 (fld (s.rowNow c r) 0 4)
        if q.bad then (s, true)
        else scanRows c n (rowDone c r.row q.st (q.s.onCluster c (fun k => { k with
          scan := k.scan.row q,
          scanRun := some { r with row := r.row + 1, buf := r.buf.drop (scRowBytes w), sbuf := r.sbuf.drop (s.rowState c r) },
          outUnit := if scOp w = 2 then k.outUnit else kset k.outUnit out 3,
          outRows := if scOp w = 2 then k.outRows
            else kset k.outRows out (64 + scOutBytes w, (if r.row = 0 then [] else ((kget k.outRows out).getD (0, [])).2) ++ [h]),
          outb := if scOp w = 2 then k.outb else outPut out q.out q.st k.outb })))
/-- The streams of a Scan command taken from the cluster's buffers. -/
def scanTake (c : Nat) (r : ScanRun) (s : State) : State :=
  s.onCluster c (fun k => { k with
    scanRun := some { r with buf := r.buf.take k.inb, sbuf := r.sbuf.take k.inb }
    inb := bufsWithout 5 r.sbuf.num (bufsWithout 4 r.buf.num k.inb) })
/-- The Scan Unit goes on as far as its streams let it (R235 to R238): a row whose inputs have not come stalls it; a stream
that ends short is a fault in the DCP (R314). -/
def scanGo (c : Nat) (s : State) : State :=
  match (s.cluster c).scanRun with
  | none => s
  | some r0 =>
    let w := r0.word
    let q := scanRows c (scRows w) (scanTake c r0 s)
    match (q.1.cluster c).scanRun with
    | none => q.1
    | some r =>
      if q.2 || (decide (r.row < scRows w) && q.1.rowShort c r) then scanBad c w q.1
      else if r.row < scRows w then
        let f := q.1.free
        f.2.onCluster c (fun k => { k with scan := { k.scan with stalled := true, busy := true, stall := k.scan.stall + f.1 } })
      else planDone (.cluster c) stOk (q.1.onCluster c (fun k => { k with
        scan := scanFinish w stOk k.scan, scanRun := none,
        inb := k.inb ++ (if r.buf.size = 0 then [] else [r.buf]) ++ (if r.sbuf.size = 0 then [] else [r.sbuf]) }))

/-- A Scan command of operation `op` (R231 to R239). A word of another operation is no command of this row; a command that
waits goes on from where it stands. -/
def scanCommand (op : Nat) (c : Nat) (w0 : List Byte) (ecc : List Nat) (s : State) : State :=
  let w := fit 32 w0
  let k := s.cluster c
  if !s.clusterUp c || k.arr.busy || k.veRegs.busy || decide (scOp w ≠ op ∧ fld w 0 1 = 3 ∧ scOp w ≠ 3) then s
  else if k.scanRun.isSome then scanGo c s
  else if (scanWordFail true w).isSome then scanBad c w s
  else if scRows w = 0 then planDone (.cluster c) stOk (s.onCluster c (fun k => { k with scan := scanFinish w stOk k.scan }))
  else scanGo c (s.onCluster c (fun k => { k with
    scanRun := some { word := w, ecc := ecc, row := 0, buf := .none 4 (fld w 0xA 2), sbuf := .none 5 (fld w 0xC 2) } }))

/-- SCAN_CHUNK. -/
def execScanChunk (c : Nat) (w : List Byte) (ecc : List Nat) (s : State) : Host.Outcome State Fault Refusal :=
  .next (scanCommand 0 c w ecc s)
/-- SCAN_STEP. -/
def execScanStep (c : Nat) (w : List Byte) (ecc : List Nat) (s : State) : Host.Outcome State Fault Refusal :=
  .next (scanCommand 1 c w ecc s)
/-- SCAN_ZERO. -/
def execScanZero (c : Nat) (w : List Byte) (s : State) : Host.Outcome State Fault Refusal :=
  .next (scanCommand 2 c w [] s)

end Sys2Proof.Machine
end

