-- ==== Sys2Proof/Machine/VectorExec.lean ====
section
/-! DEFINITION. VE commands and the single VE instructions as commands (R159 to R185). -/

namespace Sys2Proof.Machine

/-- What a VE command or instruction that breaks the checks of R182 does (R183): it completes at once, its outputs are
invalid with BAD_FORMAT, and the event is a fault in the DCP. -/
def veBad (c : Nat) (s : State) : State :=
  dcpFault (planDone (.cluster c) stBadFormat (s.onCluster c (fun k => { k with
    veRegs := { k.veRegs with lastStatus := stBadFormat, lastTag := k.ve.tag, count := k.veRegs.count + 1, busy := false },
    outb := outPut k.ve.outStream [] stBadFormat k.outb })))

/-- The state after a VE command has run as far as it can. -/
def veResult (c : Nat) : VeRes → State
  | .go s => s
  | .stall s => s
  | .fin s => planDone (.cluster c) (s.cluster c).ve.status s
  | .bad s => veBad c s

/-- An instruction behind the checks of R182. -/
def veGuard (op : Nat) (f : VEWord) (g : Nat → VEWord → State → VeRes) (c : Nat) (s : State) : VeRes :=
  if veWordOk op f then g c f s else .bad s

/-- The Vector Engine of a cluster may run: the cluster takes commands, and no array or Scan command runs there (R160,
R231). -/
def State.veFree (s : State) (c : Nat) : Bool := s.clusterUp c && !(s.cluster c).arr.busy && !(s.cluster c).scan.busy
/-- One instruction on a cluster: a cluster that is out of service, or runs another unit's command, runs none. -/
def veOne (c : Nat) (g : Nat → State → VeRes) (s : State) : Host.Outcome State Fault Refusal :=
  if s.veFree c then .next (veResult c (g c s)) else .next s

/-- The program on cluster `c` goes on with what has been delivered, to END or to a wait. -/
def veGo (c : Nat) (s : State) : State := veResult c (veRun c 108000 (veRefill c 4 s))

/-- VEPROG (R159, R180 to R184): the registers at their start values, then the program from ENTRY to END or to a wait; a
command that waits goes on from where it stands. -/
def execVeprog (c : Nat) (w0 : List Byte) (ecc : Bool) (s : State) : Host.Outcome State Fault Refusal :=
  let w := fit 32 w0
  let k := s.cluster c
  if !s.veFree c then .next s
  else if !k.veRegs.busy && (veCmdFail 8192 w).isSome then
    .next (veBad c (s.onVe c (fun v => { v with outStream := fld w 0xA 2, tag := BitVec.ofNat 32 (fld w 0x1C 4) })))
  else
    let s1 := if k.veRegs.busy then s else veStart c w s
    let s2 := if ecc then s1.onCluster c (fun k => { k with
        veRegs := { k.veRegs with eccUe := true },
        ve := { k.ve with status := if k.ve.status = stOk then stIntegrityFail else k.ve.status } }) else s1
    .next (veGo c s2)

/-- RU_PASS (R171 to R177): the Reduction Unit runs its next queued pass, once the pass's tile has arrived. -/
def execRuPass (c : Nat) (s : State) : Host.Outcome State Fault Refusal :=
  if s.veFree c then .next (ruStep c s).1 else .next s

/-- NOP (table *VE opcodes*). -/
def execNop (c : Nat) (f : VEWord) (s : State) : Host.Outcome State Fault Refusal :=
  veOne c (veGuard 0x00 f veNop) s
/-- ADD (table *VE opcodes*). -/
def execAdd (c : Nat) (f : VEWord) (s : State) : Host.Outcome State Fault Refusal :=
  veOne c (veGuard 0x01 f veAdd) s
/-- SUB (table *VE opcodes*). -/
def execSub (c : Nat) (f : VEWord) (s : State) : Host.Outcome State Fault Refusal :=
  veOne c (veGuard 0x02 f veSub) s
/-- MUL (table *VE opcodes*). -/
def execMul (c : Nat) (f : VEWord) (s : State) : Host.Outcome State Fault Refusal :=
  veOne c (veGuard 0x03 f veMul) s
/-- FMA (table *VE opcodes*). -/
def execFma (c : Nat) (f : VEWord) (s : State) : Host.Outcome State Fault Refusal :=
  veOne c (veGuard 0x04 f veFma) s
/-- MAX (table *VE opcodes*). -/
def execMax (c : Nat) (f : VEWord) (s : State) : Host.Outcome State Fault Refusal :=
  veOne c (veGuard 0x05 f veMax) s
/-- MIN (table *VE opcodes*). -/
def execMin (c : Nat) (f : VEWord) (s : State) : Host.Outcome State Fault Refusal :=
  veOne c (veGuard 0x06 f veMin) s
/-- ABS (table *VE opcodes*). -/
def execAbs (c : Nat) (f : VEWord) (s : State) : Host.Outcome State Fault Refusal :=
  veOne c (veGuard 0x07 f veAbs) s
/-- NEG (table *VE opcodes*). -/
def execNeg (c : Nat) (f : VEWord) (s : State) : Host.Outcome State Fault Refusal :=
  veOne c (veGuard 0x08 f veNeg) s
/-- CEQ (table *VE opcodes*). -/
def execCeq (c : Nat) (f : VEWord) (s : State) : Host.Outcome State Fault Refusal :=
  veOne c (veGuard 0x10 f veCeq) s
/-- CLT (table *VE opcodes*). -/
def execClt (c : Nat) (f : VEWord) (s : State) : Host.Outcome State Fault Refusal :=
  veOne c (veGuard 0x11 f veClt) s
/-- CLE (table *VE opcodes*). -/
def execCle (c : Nat) (f : VEWord) (s : State) : Host.Outcome State Fault Refusal :=
  veOne c (veGuard 0x12 f veCle) s
/-- CUN (table *VE opcodes*). -/
def execCun (c : Nat) (f : VEWord) (s : State) : Host.Outcome State Fault Refusal :=
  veOne c (veGuard 0x13 f veCun) s
/-- SEL (table *VE opcodes*). -/
def execSel (c : Nat) (f : VEWord) (s : State) : Host.Outcome State Fault Refusal :=
  veOne c (veGuard 0x14 f veSel) s
/-- CVT (table *VE opcodes*). -/
def execCvt (c : Nat) (f : VEWord) (s : State) : Host.Outcome State Fault Refusal :=
  veOne c (veGuard 0x20 f veCvt) s
/-- PACK (table *VE opcodes*). -/
def execPack (c : Nat) (f : VEWord) (s : State) : Host.Outcome State Fault Refusal :=
  veOne c (veGuard 0x21 f vePack) s
/-- UNPK (table *VE opcodes*). -/
def execUnpk (c : Nat) (f : VEWord) (s : State) : Host.Outcome State Fault Refusal :=
  veOne c (veGuard 0x22 f veUnpk) s
/-- LQU8 (table *VE opcodes*). -/
def execLqu8 (c : Nat) (f : VEWord) (s : State) : Host.Outcome State Fault Refusal :=
  veOne c (veGuard 0x23 f veLqu8) s
/-- LQS8 (table *VE opcodes*). -/
def execLqs8 (c : Nat) (f : VEWord) (s : State) : Host.Outcome State Fault Refusal :=
  veOne c (veGuard 0x24 f veLqs8) s
/-- LDQ (table *VE opcodes*). -/
def execLdq (c : Nat) (f : VEWord) (s : State) : Host.Outcome State Fault Refusal :=
  veOne c (veGuard 0x25 f veLdq) s
/-- PERM (table *VE opcodes*). -/
def execPerm (c : Nat) (f : VEWord) (s : State) : Host.Outcome State Fault Refusal :=
  veOne c (veGuard 0x30 f vePerm) s
/-- SHUF (table *VE opcodes*). -/
def execShuf (c : Nat) (f : VEWord) (s : State) : Host.Outcome State Fault Refusal :=
  veOne c (veGuard 0x31 f veShuf) s
/-- IADD (table *VE opcodes*). -/
def execIadd (c : Nat) (f : VEWord) (s : State) : Host.Outcome State Fault Refusal :=
  veOne c (veGuard 0x40 f veIadd) s
/-- IAND (table *VE opcodes*). -/
def execIand (c : Nat) (f : VEWord) (s : State) : Host.Outcome State Fault Refusal :=
  veOne c (veGuard 0x41 f veIand) s
/-- IOR (table *VE opcodes*). -/
def execIor (c : Nat) (f : VEWord) (s : State) : Host.Outcome State Fault Refusal :=
  veOne c (veGuard 0x42 f veIor) s
/-- IXOR (table *VE opcodes*). -/
def execIxor (c : Nat) (f : VEWord) (s : State) : Host.Outcome State Fault Refusal :=
  veOne c (veGuard 0x43 f veIxor) s
/-- ISHL (table *VE opcodes*). -/
def execIshl (c : Nat) (f : VEWord) (s : State) : Host.Outcome State Fault Refusal :=
  veOne c (veGuard 0x44 f veIshl) s
/-- ISHR (table *VE opcodes*). -/
def execIshr (c : Nat) (f : VEWord) (s : State) : Host.Outcome State Fault Refusal :=
  veOne c (veGuard 0x45 f veIshr) s
/-- IOTA (table *VE opcodes*). -/
def execIota (c : Nat) (f : VEWord) (s : State) : Host.Outcome State Fault Refusal :=
  veOne c (veGuard 0x46 f veIota) s
/-- MAND (table *VE opcodes*). -/
def execMand (c : Nat) (f : VEWord) (s : State) : Host.Outcome State Fault Refusal :=
  veOne c (veGuard 0x50 f veMand) s
/-- MOR (table *VE opcodes*). -/
def execMor (c : Nat) (f : VEWord) (s : State) : Host.Outcome State Fault Refusal :=
  veOne c (veGuard 0x51 f veMor) s
/-- MXOR (table *VE opcodes*). -/
def execMxor (c : Nat) (f : VEWord) (s : State) : Host.Outcome State Fault Refusal :=
  veOne c (veGuard 0x52 f veMxor) s
/-- MNOT (table *VE opcodes*). -/
def execMnot (c : Nat) (f : VEWord) (s : State) : Host.Outcome State Fault Refusal :=
  veOne c (veGuard 0x53 f veMnot) s
/-- LD (table *VE opcodes*). -/
def execLd (c : Nat) (f : VEWord) (s : State) : Host.Outcome State Fault Refusal :=
  veOne c (veGuard 0x60 f veLd) s
/-- ST (table *VE opcodes*). -/
def execSt (c : Nat) (f : VEWord) (s : State) : Host.Outcome State Fault Refusal :=
  veOne c (veGuard 0x61 f veSt) s
/-- RSUM (table *VE opcodes*). -/
def execRsum (c : Nat) (f : VEWord) (s : State) : Host.Outcome State Fault Refusal :=
  veOne c (veGuard 0x70 f veRsum) s
/-- RMAX (table *VE opcodes*). -/
def execRmax (c : Nat) (f : VEWord) (s : State) : Host.Outcome State Fault Refusal :=
  veOne c (veGuard 0x71 f veRmax) s
/-- RMIN (table *VE opcodes*). -/
def execRmin (c : Nat) (f : VEWord) (s : State) : Host.Outcome State Fault Refusal :=
  veOne c (veGuard 0x72 f veRmin) s
/-- RAMAX (table *VE opcodes*). -/
def execRamax (c : Nat) (f : VEWord) (s : State) : Host.Outcome State Fault Refusal :=
  veOne c (veGuard 0x73 f veRamax) s
/-- RUGO (table *VE opcodes*). -/
def execRugo (c : Nat) (f : VEWord) (s : State) : Host.Outcome State Fault Refusal :=
  veOne c (veGuard 0x78 f veRugo) s
/-- RUWAIT (table *VE opcodes*). -/
def execRuwait (c : Nat) (f : VEWord) (s : State) : Host.Outcome State Fault Refusal :=
  veOne c (veGuard 0x79 f veRuwait) s
/-- RURD (table *VE opcodes*). -/
def execRurd (c : Nat) (f : VEWord) (s : State) : Host.Outcome State Fault Refusal :=
  veOne c (veGuard 0x7A f veRurd) s
/-- RUFIN (table *VE opcodes*). -/
def execRufin (c : Nat) (f : VEWord) (s : State) : Host.Outcome State Fault Refusal :=
  veOne c (veGuard 0x7B f veRufin) s
/-- SFN (table *VE opcodes*). -/
def execSfn (c : Nat) (f : VEWord) (s : State) : Host.Outcome State Fault Refusal :=
  veOne c (veGuard 0x7C f veSfn) s
/-- SMOV (table *VE opcodes*). -/
def execSmov (c : Nat) (f : VEWord) (s : State) : Host.Outcome State Fault Refusal :=
  veOne c (veGuard 0x80 f veSmov) s
/-- SADD (table *VE opcodes*). -/
def execSadd (c : Nat) (f : VEWord) (s : State) : Host.Outcome State Fault Refusal :=
  veOne c (veGuard 0x81 f veSadd) s
/-- SGET (table *VE opcodes*). -/
def execSget (c : Nat) (f : VEWord) (s : State) : Host.Outcome State Fault Refusal :=
  veOne c (veGuard 0x82 f veSget) s
/-- TIN (table *VE opcodes*). -/
def execTin (c : Nat) (f : VEWord) (s : State) : Host.Outcome State Fault Refusal :=
  veOne c (veGuard 0x90 f veTin) s
/-- TOUT (table *VE opcodes*). -/
def execTout (c : Nat) (f : VEWord) (s : State) : Host.Outcome State Fault Refusal :=
  veOne c (veGuard 0x91 f veTout) s
/-- LOOP (table *VE opcodes*). -/
def execLoop (c : Nat) (f : VEWord) (s : State) : Host.Outcome State Fault Refusal :=
  veOne c (veGuard 0xF0 f veLoop) s
/-- ENDL (table *VE opcodes*). -/
def execEndl (c : Nat) (f : VEWord) (s : State) : Host.Outcome State Fault Refusal :=
  veOne c (veGuard 0xF1 f veEndl) s
/-- SKA (table *VE opcodes*). -/
def execSka (c : Nat) (f : VEWord) (s : State) : Host.Outcome State Fault Refusal :=
  veOne c (veGuard 0xF2 f veSka) s
/-- SKN (table *VE opcodes*). -/
def execSkn (c : Nat) (f : VEWord) (s : State) : Host.Outcome State Fault Refusal :=
  veOne c (veGuard 0xF3 f veSkn) s
/-- END (table *VE opcodes*). -/
def execEndP (c : Nat) (f : VEWord) (s : State) : Host.Outcome State Fault Refusal :=
  veOne c (veGuard 0xFF f veEnd) s

/-- The bank that is not active (R195). -/
def SfuSt.idle (k : SfuSt) : SfuBank := if k.active then k.bankA else k.bankB
/-- The bank of a cluster that is not active holds a set that a planned command still needs: one that does not wait for a load of it
(R196). -/
def State.bankNeeded (s : State) (c : Nat) : Bool :=
  let b := (s.cluster c).sfu.idle
  b.valid && s.plan.cur.any (fun p => p.t.engine == .cluster c && !(p.run == .done || p.run == .abandoned) && s.setNeed s.beat.number.toNat p == some b.set &&
    s.plan.curRegs.loads.all (fun l => l.done || !l.after.contains p.id))
/-- The load of a set into a cluster that the plan places and that can run: it is the cluster's next, and the commands that need what the
bank holds have ended (R196). -/
def State.loadDue (s : State) (c : Nat) (tset : Word) : Option BankLoad :=
  match s.plan.curRegs.loads.find? (fun b => decide (b.cluster = c) && !b.done) with
  | some b => if b.set = tset ∧ s.bankNeeded c = false ∧
      (s.plan.cur.all (fun p => !b.before.contains p.id || p.run == .done || p.run == .abandoned)) = true then some b else none
  | none => none
/-- SFU_BANK_LOAD (R195 to R197): the bytes of a set's descriptors and coefficients arrive in the bank that is not active
and are checked against the set's DATA_CRC; a failed check leaves the bank empty and sets LOAD_ERR. The bytes are those that the
yarder's stream has delivered to the SFU, and the operand's where no stream has (log entry 140). -/
def execSfuBankLoad (c : Nat) (tset : Word) (image : List Byte) (s : State) : Host.Outcome State Fault Refusal :=
  if !s.clusterUp c || (s.loadDue c tset).isNone then .next s
  else
    let img := (s.ctrl.tsets.find? (fun t => s.handleOf 8 t.idx == tset.toNat)).map (·.image)
    let data := fit 66496 (if (s.cluster c).sfu.arrived.isEmpty then image else (s.cluster c).sfu.arrived)
    let ok : Bool := match img with
      | some i => decide ((crc32c data).toNat = fld i 0x38 4)
      | none => false
    let bank : SfuBank := match img with
      | some i => if ok then { set := tset, valid := true, compat := tsCompat i, image := i.take 64 ++ data } else .empty
      | none => .empty
    let s1 := s.onPlan (fun p => { p with curRegs := { p.curRegs with
      loads := updFirst p.curRegs.loads (fun b => some b == s.loadDue c tset) (fun b => { b with done := true, failed := !ok }) } })
    .next (s1.onCluster c (fun k => { k with
      sfu := { k.sfu with
        bankA := if k.sfu.active then bank else k.sfu.bankA, bankB := if k.sfu.active then k.sfu.bankB else bank,
        loadErr := k.sfu.loadErr || !ok, loads := k.sfu.loads + 1, loading := false, arrived := [] } }))

end Sys2Proof.Machine
end

