-- ==== Sys2Proof/Machine/YardExec.lean ====
section
/-! DEFINITION. Yarders: command words, block lists, transfers, tiles, hand-over (R306 to R344). -/

namespace Sys2Proof.Machine

/-! ## The command word (R311 to R313) -/

/-- OPCODE 0x21. -/
def yIsCopy (w : List Byte) : Bool := decide (fld w 0 1 = 0x21)
/-- ENDPT. -/
def yEndpt (w : List Byte) : Nat := fld w 1 1
/-- DOMAIN. -/
def yDom (w : List Byte) : Nat := bitsOf (fld w 2 1) 0 6
/-- ARB. -/
def yArb (w : List Byte) : Bool := (fld w 3 1).testBit 0
/-- STREAM. -/
def yNum (w : List Byte) : Nat := fld w 4 2
/-- Bytes of a tile. -/
def yTile (w : List Byte) : Nat := 4096 * 2 ^ fld w 6 1
/-- LEAD. -/
def yLead (w : List Byte) : Nat := fld w 7 1
/-- ENDPT_ARG. -/
def yArg (w : List Byte) : Nat := fld w 0x14 2
/-- SKID_IN, if it has one. -/
def skidIn (w : List Byte) : Option Nat := if fld w 0x20 2 = 0xFFFF then none else some (fld w 0x20 2)
/-- The endpoint gives up bytes (table *Stream endpoints*). -/
def yWrites (w : List Byte) : Bool := decide (yEndpt w = 6) || decide (yEndpt w = 9) || decide (yEndpt w = 0xB)
/-- ENDPT_ARG lies in its endpoint's range; a multicast mask names the serving cluster and another (R313). -/
def yArgOk (y : Nat) (w : List Byte) : Bool :=
  let a := yArg w
  match yEndpt w with
  | 1 => decide (a = 0) || (decide (a < 256) && a.testBit (y / 4) && decide (a ≠ 2 ^ (y / 4)))
  | 8 => decide (a < 16)
  | 9 => decide (a < 16)
  | 0xA => decide (a < 24)
  | 0xB => decide (a < 24)
  | _ => decide (a = 0)
/-- The first failing check of R313 on a yarder command word, in offset order. -/
def yardWordFail (y : Nat) (w : List Byte) : Option Half :=
  let bank := decide (yEndpt w = 1) || decide (yEndpt w = 2)
  firstFail [
    (decide (fld w 0 1 = 0x20) || decide (fld w 0 1 = 0x21), stBadFormat),
    (decide (yEndpt w ≤ 0xB) && (yIsCopy w == decide (yEndpt w = 0)), stBadFormat),
    (decide (fld w 2 1 < 64), stBadFormat),
    (decide (fld w 3 1 < 2), stBadFormat),
    (decide (yNum w ≤ 4095), stBadFormat),
    (decide (fld w 6 1 ≤ 7) && (!bank || decide (fld w 6 1 = 7)), stBadFormat),
    (decide (yLead w ≠ 0), stBadLength),
    (!bank || decide (yLead w = 2), stBadFormat),
    (decide (yLead w ≤ 8), stBadLength),
    (decide (fld w 8 8 % 64 = 0), stBadFormat),
    (yIsCopy w || decide (fld w 0x12 2 = 0), stBadFormat),
    (yArgOk y w, stBadFormat),
    (yArb w || decide (fld w 0x16 2 = 0), stBadFormat),
    (!yArb w || (decide (1 ≤ fld w 0x16 2) && decide (fld w 0x16 2 ≤ 2048)), stBadLength),
    (if yIsCopy w then decide (fld w 0x18 8 % 64 = 0) else decide (fld w 0x18 8 = 0), stBadFormat),
    (decide (fld w 0x20 2 < 256) || decide (fld w 0x20 2 = 0xFFFF), stBadFormat),
    (decide (fld w 0x22 2 < 256) || decide (fld w 0x22 2 = 0xFFFF), stBadFormat),
    (decide (fld w 0x24 4 = 0), stBadFormat),
    (decide (fld w 0x28 4 ≠ 0), stBadLength),
    (decide (fld w 0x28 4 ≤ 72000), stBadFormat),
    (allZero w 0x30 16, stBadFormat)]

/-! ## Block lists (R315 to R318, R320) -/

/-- Where run `r` of a descriptor starts. -/
def runAddr (d : Desc) (r : Nat) : Nat := (((d.addr : Int) + (r : Int) * d.stride) % ((2 ^ 60 : Nat) : Int)).toNat
/-- A run lies in the Landing Cache window (R320). -/
def runInWindow (d : Desc) (r : Nat) : Bool :=
  let a := devAddr (runAddr d r)
  decide (0x080000000000 ≤ a) && decide (a + d.len ≤ 0x080028000000)
/-- ACC is valid: every run in the window, ADDR and LEN multiples of 4 (R320). -/
def accOk (d : Desc) : Bool :=
  decide (d.addr % 4 = 0) && decide (d.len % 4 = 0) &&
    (decide (d.rep = 0) || (runInWindow d 0 && runInWindow d (d.rep - 1)))
/-- A descriptor read from its 32 bytes; none where it breaks the rules of its layout. -/
def parseDesc (write : Bool) (b : List Byte) : Option Desc :=
  let d : Desc := {
    addr := fld b 0 8, len := fld b 8 4, rep := fld b 0xC 2, acc := (fld b 0xE 1).testBit 0,
    stride := sInt 64 (fld b 0x10 8), zero := false, st := stOk }
  if decide (d.addr < 2 ^ 60) && decide (fld b 0xE 1 < 2) && decide (fld b 0xF 1 = 0) && decide (fld b 0x18 8 = 0) &&
      decide (d.stride.natAbs < 2 ^ 48) && (!d.acc || (write && accOk d)) then some d else none
/-- A list before its first burst. -/
def ListSt.fresh (base count : Nat) : ListSt :=
  { base := base, count := count, bursts := 0, descs := [], di := 0, run := 0, off := 0 }
/-- The next burst is to be fetched: the burst before it is in use, and at most two are held (R318). -/
def ListSt.wants (l : ListSt) : Bool := decide (l.bursts * 16 < l.count) && decide (l.bursts ≤ l.di / 16 + 1)
/-- Descriptors that are used up, or move nothing (R317), left behind. -/
def settleDescs : List Desc → Nat → Nat → Nat → List Desc × Nat × Nat × Nat
  | [], di, run, off => ([], di, run, off)
  | d :: r, di, run, off =>
    if d.len = 0 ∨ d.rep ≤ run then settleDescs r (di + 1) 0 0 else (d :: r, di, run, off)
/-- The list with its place on the next byte to move. -/
def ListSt.settle (l : ListSt) : ListSt :=
  let q := settleDescs l.descs l.di l.run l.off
  { l with descs := q.1, di := q.2.1, run := q.2.2.1, off := q.2.2.2 }
/-- Every descriptor of a settled list is used up. -/
def ListSt.atEnd (l : ListSt) : Bool := decide (l.di = l.count)
/-- The next transfer of a settled list: at most 4 KiB, never across a 4 KiB boundary (R319). -/
def ListSt.piece (l : ListSt) (d : Desc) : Nat × Nat :=
  let a := (runAddr d l.run + l.off) % 2 ^ 60
  (a, min (d.len - l.off) (4096 - a % 4096))
/-- The list after a transfer of `n` bytes. -/
def ListSt.step (l : ListSt) (d : Desc) (n : Nat) : ListSt :=
  (if l.off + n = d.len then { l with run := l.run + 1, off := 0 } else { l with off := l.off + n }).settle
/-- Descriptor `i` with what the popped entry says (R330, R331). -/
def poppedDesc (p : Option (List SkidEntry)) (i : Nat) (d : Desc) : Desc :=
  match p.bind (fun l => l[i]?) with
  | none => d
  | some e =>
    let bad := decide (e.len ≠ d.len * d.rep)
    { d with
      addr := e.addr, zero := bad,
      st := if e.status ≠ stOk then e.status else if bad then stBadLength else stOk }

/-! ## Contexts -/

/-- The class of the planned command that runs a stream; bulk where none does. -/
def State.streamCls (s : State) (y num : Nat) : Cls :=
  match s.plan.cur.find? (fun c => c.t.engine == .yarder y && c.stream == num) with
  | some c => c.t.cls
  | none => .B
/-- The clusters that a stream serves: its own, or those of its multicast mask that are in service (R149, R326). -/
def State.streamMask (s : State) (y : Nat) (w : List Byte) : Nat :=
  if yEndpt w = 1 ∧ yArg w ≠ 0 then
    ((List.range 8).filter (fun c => (yArg w).testBit c && (s.svc ⟨.cluster, c⟩ == .inService || s.svc ⟨.cluster, c⟩ == .moving))).foldl
      (fun m c => m + 2 ^ c) 0
  else 2 ^ (y / 4)
/-- A context that has fetched nothing. -/
def newCtx (y : Nat) (w : List Byte) (s : State) : StreamCtx :=
  let l := ListSt.fresh (fld w 8 8) (fld w 0x10 2)
  { num := yNum w, word := w, cls := s.streamCls y (yNum w), dom := yDom w, started := false,
    held := false, discarded := false,
    rd := if yWrites w then none else some l,
    wr := if yIsCopy w then some (ListSt.fresh (fld w 0x18 8) (fld w 0x12 2)) else if yWrites w then some l else none,
    popped := none, xfers := [], nextIdx := 0, rPos := 0, wPos := 0, staged := [], donePos := 0, fetched := 0, owed := [],
    pushed := 0, status := stOk,
    mask := s.streamMask y w }
/-- The state with a stream's context changed. -/
def State.onCtx (y num : Nat) (f : StreamCtx → StreamCtx) (s : State) : State :=
  s.onYarder y (fun k => { k with ctxs := updFirst k.ctxs (·.num == num) f })
/-- A context with the entries that its command pops: what it owes goes to their addresses, with what they say of its data (R330, R331). -/
def StreamCtx.pop (p : Option (List SkidEntry)) (c : StreamCtx) : StreamCtx :=
  { c with
    popped := p
    owed := if yIsCopy c.word then c.owed else c.owed.map (fun o =>
      match p.bind (fun l => l[o.di]?) with
      | none => o
      | some e => { o with addr := e.addr, status := if e.status ≠ stOk then e.status else if e.len ≠ o.len then stBadLength else stOk }) }
/-- Contexts in use (R307): those of streams that have started, and those that a command has whose stream does not move. -/
def State.ctxsUsed (s : State) (y : Nat) : Nat := ((s.yarder y).ctxs.filter (fun c => c.started || c.held)).length
/-- Transfers outstanding of a class queue of a yarder (R319). -/
def State.outstanding (s : State) (y : Nat) (cls : Cls) : Nat :=
  ((s.yarder y).ctxs.filter (fun c => c.cls == cls)).foldl (fun n c => n + (c.xfers.filter (fun x => !x.done)).length) 0
/-- YARD_OUTST of a class. -/
def State.outLimit (s : State) (y : Nat) : Cls → Nat
  | .D => (s.yarder y).outD.toNat
  | .I => (s.yarder y).outI.toNat
  | .B => (s.yarder y).outB.toNat
/-- The yarders are powered and take commands. -/
def State.yardUp (s : State) (y : Nat) : Bool := decide (y < 32) && s.rot.dcpReady && s.power.mode == .active
/-- A planned yarder command completes with a status (R67). -/
def planDoneStream (y num : Nat) (st : Half) (s : State) : State :=
  let hit : PCmd → Bool := fun c => c.t.engine == .yarder y && c.stream == num && c.run == .running
  match s.plan.cur.find? hit with
  | none => s
  | some c =>
    let st' := if c.status = stOk then st else c.status
    let s1 := s.onPlan (fun p => { p with cur := updFirst p.cur hit (fun x => { x with run := .done, status := st' }) })
    if st' = stOk then s1 else affectOut st' (causeOf st') c s1
/-- The registers after a yarder command completes. -/
def yardFinish (w : List Byte) (st : Half) (y : Nat) (s : State) : State :=
  s.onYarder y (fun k => { k with
    lastStatus := st, lastTag := BitVec.ofNat 32 (fld w 0x2C 4), count := k.count + 1 })
/-- Streams that a cluster or NMU command word names (R138, R180, R232, R243): those that it reads, and those that it writes. -/
def wordStreams (e : Engine) (w : List Byte) : List Nat × List Nat :=
  match e with
  | .cluster _ => match fld w 0 1 with
    | 1 => ([fld w 0x10 2, fld w 0x12 2], [fld w 0x14 2])
    | 2 => ([fld w 8 2], [fld w 0xA 2])
    | 3 => ([fld w 0xA 2, fld w 0xC 2], [fld w 0xE 2])
    | _ => ([], [])
  | .gemv _ => ([], [fld w 0x1E 2])
  | _ => ([], [])
/-- The planned cluster or NMU command that is bound to a stream (R308). -/
def State.boundTo (s : State) (num : Nat) : Option PCmd :=
  s.plan.cur.find? (fun p => (wordStreams p.t.engine p.t.word).1.contains num || (wordStreams p.t.engine p.t.word).2.contains num)
/-- A command that waits on a cluster reads a stream. -/
def ClusterSt.waitsFor (k : ClusterSt) (num : Nat) : Bool :=
  (match k.arrRun with | some r => (wordStreams (.cluster 0) r.word).1.contains num | none => false) ||
  (k.veRegs.busy && k.ve.inStream == num) ||
  (match k.scanRun with | some r => (wordStreams (.cluster 0) r.word).1.contains num | none => false)
/-- A stream buffer whose stream has come to its end; one that its command has emptied needs no mark, so that none is left for a later
stream of the number. -/
def endBuf (ep num : Nat) (st : Half) (keep : Bool) (l : List StreamBuf) : List StreamBuf :=
  if l.any (·.num == num) then updFirst l (·.num == num) (fun b => { b with ended := true })
  else if keep then l ++ [{ num := num, ep := ep, tiles := [], status := st, ended := true, flaws := [] }]
  else l
/-- The clusters of a mask. -/
def maskList (m : Nat) : List Nat := (List.range 8).filter (fun c => m.testBit c)
/-- An endpoint of a cluster that reads a stream into a buffer. -/
def bufEndpt (e : Nat) : Bool := decide (1 ≤ e ∧ e ≤ 5)
/-- The endpoint learns that a stream has ended: a read stream's buffer is marked, an output's that is empty is gone. -/
def endEndpoint (y : Nat) (c : StreamCtx) (s : State) : State :=
  let gone := fun (l : List StreamBuf) => l.filter (fun b => !(b.num == c.num && b.tiles.isEmpty))
  if bufEndpt (yEndpt c.word) then
    (maskList c.mask).foldl (fun (s : State) (i : Nat) =>
      s.onCluster i (fun k => { k with inb := endBuf (yEndpt c.word) c.num c.status (c.donePos == 0 || k.waitsFor c.num) k.inb })) s
  else if yEndpt c.word = 6 then s.onCluster (y / 4) (fun k => { k with outb := gone k.outb })
  else if yEndpt c.word = 9 then s.onNmu (yArg c.word % 16) (fun k => { k with outb := gone k.outb })
  else s
/-- The consumer or producer of a stream that meets a run-time fault completes with outputs invalid with BAD_FORMAT (R314). -/
def endBound (num : Nat) (s : State) : State :=
  match s.boundTo num with
  | some p =>
    if p.run = .done ∨ p.run = .abandoned then s
    else
      let st := if p.status = stOk then stBadFormat else p.status
      affectWork st (causeOf st) p (s.onPlan (fun k => { k with
        cur := updFirst k.cur (fun x => x.id == p.id) (fun x => { x with run := .done, status := st }) }))
  | none => s
/-- A run-time fault of a list or a word (R314): the stream stops at once, its command is invalid with BAD_FORMAT, and
the event is a fault in the DCP. -/
def yardFault (y num : Nat) (s : State) : State :=
  dcpFault (endBound num (planDoneStream y num stBadFormat ((stopStream y num stBadFormat s).onYarder y (fun k => { k with
    descErr := true, lastStatus := stBadFormat }))))

/-! ## Descriptor fetches (R310, R318, R321) -/

/-- A poisoned read of a CXL port sets POISON (R361, R376). -/
def cxlPoison (a : Nat) (s : State) : State :=
  match portOfAddr a with
  | some p => s.onMem (fun m => { m with cxl := m.cxl.modify p (fun x => { x with poison := true }) })
  | none => s
/-- An uncorrectable read of a yarder. -/
def yardUe (y a : Nat) (s : State) : State :=
  cxlPoison a (countUe a (s.onYarder y (fun k => { k with eccUe := true })))
/-- A refused transfer of a yarder. -/
def yardRefused (y dom : Nat) (write : Bool) (a : Nat) (s : State) : State :=
  refuseEngine dom write a (s.onYarder y (fun k => { k with domFault := true }))
/-- The lines of the Landing Cache that a read touches (R354). -/
def lcLines (a n : Nat) (s : State) : State :=
  (List.range ((a + n - 1) / 256 + 1 - a / 256)).foldl (fun (s : State) (i : Nat) => lcTouch (a / 256 + i) s) s
/-- The list in which popped entries replace addresses is the DLIST; pushes follow the list of `pushList`. -/
def pushesFor (w : List Byte) (write : Bool) : Bool := !yIsCopy w || write
/-- One burst of a list fetched into its context: domain 0, refused reads give zeros; none where a descriptor is
malformed. `sym`: the symbols in error of the worst word read (R362). A descriptor whose entry has been pushed before a discard owes none again (DESIGN
CHOICE, log entry 42). -/
def fetchBurst (y : Nat) (write : Bool) (l : ListSt) (c : StreamCtx) (sym : Nat) (s : State) : State × Option StreamCtx :=
  let n := min 16 (l.count - 16 * l.bursts)
  let a := l.base + 512 * l.bursts
  let pass := s.readPasses 0 a (32 * n)
  let bad := pass && (eccLost sym || s.rangePoisoned a (32 * n))
  let s1 := if !pass then yardRefused y 0 false a s else lcLines a (32 * n) (if bad then yardUe y a s else eccNote a sym s)
  let raw := if pass then MemOps.readN s.mem.dev a (32 * n) else []
  let ds := (List.range n).map (fun i => parseDesc write (fit 32 ((raw.drop (32 * i)).take 32)))
  let st := if !pass then stDomainFault else if bad then stIntegrityFail else stOk
  if ds.any (·.isNone) then (s1, none)
  else
    let dl := ds.filterMap id
    let l' := { l with descs := l.descs ++ dl, bursts := l.bursts + 1 }.settle
    let ow := dl.zipIdx.foldl (fun (q : List Owed × Nat) (d : Desc × Nat) =>
      let e := poppedDesc (if yIsCopy c.word then none else c.popped) (16 * l.bursts + d.2) d.1
      (q.1 ++ [{ di := 16 * l.bursts + d.2, upto := q.2 + d.1.len * d.1.rep, addr := e.addr, len := d.1.len * d.1.rep,
                 status := e.st, badAt := 0 }], q.2 + d.1.len * d.1.rep)) (([] : List Owed), c.fetched)
    let c1 := if write then { c with wr := some l' } else { c with rd := some l' }
    (s1, some { c1 with
      status := if c.status = stOk then st else c.status,
      fetched := if pushesFor c.word write then ow.2 else c.fetched,
      owed := if pushesFor c.word write && (skidOut c.word).isSome then c.owed ++ ow.1.filter (fun o => decide (c.pushed ≤ o.di)) else c.owed })
/-- The next burst that a context fetches, as whether it is one of the written list: the first burst of each list, then those that a
stream that moves wants (R310, R318). -/
def StreamCtx.nextBurst (c : StreamCtx) : Option (Bool × ListSt) :=
  let lists := (c.rd.map (fun l => (false, l))).toList ++ (c.wr.map (fun l => (true, l))).toList
  match lists.find? (fun l => decide (l.2.bursts = 0) && l.2.wants) with
  | some l => some l
  | none => if c.started then lists.find? (fun l => l.2.wants) else none
/-- The next burst that a context's lists want, if one does. -/
def fetchNext (y num sym : Nat) (s : State) : State :=
  match (s.ctx y num).bind (fun c => c.nextBurst.map (fun q => (c, q))) with
  | none => s
  | some (c, q) =>
    match fetchBurst y q.1 q.2 c sym s with
    | (s1, none) => yardFault y num s1
    | (s1, some c1) => s1.onCtx y num (fun _ => c1)

/-! ## Transfers (R319 to R321, R341) -/

/-- Bytes that a context holds in order. -/
def stagedLen (l : List (List Byte × Half)) : Nat := l.foldl (fun n p => n + p.1.length) 0
/-- The first `n` staged bytes, the first status among them, and what is left. -/
def takeStaged : Nat → List (List Byte × Half) → List Byte × Half × List (List Byte × Half)
  | _, [] => ([], stOk, [])
  | n, p :: r =>
    if n = 0 then ([], stOk, p :: r)
    else if p.1.length ≤ n then
      let q := takeStaged (n - p.1.length) r
      (p.1 ++ q.1, if p.2 = stOk then q.2.1 else p.2, q.2.2)
    else (p.1.take n, p.2, (p.1.drop n, p.2) :: r)
/-- The first `n` staged bytes, in their pieces. -/
def headStaged : Nat → List (List Byte × Half) → List (List Byte × Half)
  | _, [] => []
  | n, p :: r => if n = 0 then [] else if p.1.length ≤ n then p :: headStaged (n - p.1.length) r else [(p.1.take n, p.2)]
/-- A read issued: a transfer to another module leaves as a request (R346). -/
def issueRead (c : StreamCtx) (l : ListSt) (d : Desc) (s : State) : State × StreamCtx :=
  let e := poppedDesc c.popped l.di d
  let p := l.piece e
  let far := !s.isLocal p.1 && !e.zero
  let q := if far then sendRead c.dom p.1 p.2 c.num (yArb c.word) s else (none, s)
  let lost := far && q.1.isNone
  (q.2, { c with
    rd := some (l.step d p.2), rPos := c.rPos + p.2, nextIdx := c.nextIdx + 1,
    xfers := c.xfers ++ [{
      idx := c.nextIdx, write := false, pos := c.rPos, di := l.di, addr := p.1, len := p.2, acc := false,
      zero := e.zero || lost, lost := lost, drop := false, done := false, req := q.1, data := [], status := if lost then stDomainFault else e.st }] })
/-- A write accumulates: as its descriptor says, or as the plan does for a contribution to a cross-module sum (R357). -/
def State.accFor (s : State) (num : Nat) (e : Desc) : Bool :=
  let mine := s.plan.cur.find? (fun p => (match p.t.engine with | .yarder _ => true | _ => false) && p.stream == num && p.run == .running)
  match mine.bind (·.acc) with
  | some b => b && accOk e
  | none => e.acc
/-- A write issued with its bytes. -/
def issueWrite (c : StreamCtx) (l : ListSt) (d : Desc) (s : State) : State × StreamCtx :=
  let e := if yIsCopy c.word then d else poppedDesc c.popped l.di d
  let p := l.piece e
  let t := takeStaged p.2 c.staged
  let far := !s.isLocal p.1 && !e.zero
  let q := if far then sendWrite c.dom p.1 t.1 c.num (s.accFor c.num e) (yArb c.word) s else (none, s)
  let lost := far && q.1.isNone
  (q.2, { c with
    wr := some (l.step d p.2), wPos := c.wPos + p.2, nextIdx := c.nextIdx + 1, staged := t.2.2,
    xfers := c.xfers ++ [{
      idx := c.nextIdx, write := true, pos := c.wPos, di := l.di, addr := p.1, len := p.2, acc := s.accFor c.num e,
      zero := e.zero || lost, lost := lost, drop := false, done := false, req := q.1, data := t.1,
      status := if lost then stDomainFault else if t.2.1 = stOk then e.st else t.2.1 }] })
/-- The next write that the staged bytes allow. -/
def StreamCtx.nextWrite (c : StreamCtx) : Option (ListSt × Desc) :=
  match c.wr with
  | some l => match l.descs with
    | d :: _ =>
      let e := if yIsCopy c.word then d else poppedDesc c.popped l.di d
      if (l.piece e).2 ≤ stagedLen c.staged ∧ (e.acc = false ∨ accOk e = true) then some (l, d) else none
    | [] => none
  | none => none
/-- The next read. -/
def StreamCtx.nextRead (c : StreamCtx) : Option (ListSt × Desc) :=
  match c.rd with
  | some l => match l.descs with
    | d :: _ => some (l, d)
    | [] => none
  | none => none
/-- Reads that have completed join the staged bytes in the order of R316. -/
def drainReads : Nat → StreamCtx → StreamCtx
  | 0, c => c
  | n + 1, c =>
    match c.xfers.find? (fun x => !x.write && !x.drop) with
    | some x =>
      if x.done then drainReads n { c with
          xfers := c.xfers.filter (fun z => decide (z.idx ≠ x.idx)), staged := c.staged ++ [(x.data, x.status)] }
      else c
    | none => c
/-- Every list of the context is used up. -/
def StreamCtx.listsEnd (c : StreamCtx) : Bool :=
  (match c.rd with | some l => l.atEnd | none => true) && (match c.wr with | some l => l.atEnd | none => true)
/-- A COPY whose lists differ in their bytes (R314). -/
def StreamCtx.mismatch (c : StreamCtx) : Bool :=
  match c.rd, c.wr with
  | some l, some m =>
    (m.atEnd && (!c.staged.isEmpty || !c.xfers.all (·.write) || !l.descs.isEmpty)) ||
    (l.atEnd && c.xfers.all (·.write) && !m.descs.isEmpty && (c.nextWrite).isNone)
  | _, _ => false
/-- A descriptor in use whose popped address breaks R320. -/
def StreamCtx.badAcc (c : StreamCtx) : Bool :=
  match c.wr with
  | some l => match l.descs with
    | d :: _ => d.acc && !yIsCopy c.word && !accOk (poppedDesc c.popped l.di d)
    | [] => false
  | none => false
/-- As many transfers issued as the lists, the bytes and YARD_OUTST allow, writes before reads. -/
def issueAll (y num : Nat) : Nat → State → State
  | 0, s => s
  | n + 1, s =>
    match s.ctx y num with
    | none => s
    | some c0 =>
      let c := drainReads 64 c0
      if !c.started || decide (s.outLimit y c.cls ≤ s.outstanding y c.cls) then s.onCtx y num (fun _ => c)
      else
        match c.nextWrite with
        | some q => let r := issueWrite c q.1 q.2 s; issueAll y num n (r.1.onCtx y num (fun _ => r.2))
        | none => match c.nextRead with
          | some q => let r := issueRead c q.1 q.2 s; issueAll y num n (r.1.onCtx y num (fun _ => r.2))
          | none => s.onCtx y num (fun _ => c)
/-- A stream that ends before its endpoint has the bytes that its command needs (R314): an SFU bank's are the descriptors and the
coefficients of a set. The endpoints of a cluster's commands tell as they go on. -/
def State.short (s : State) (_y : Nat) (c : StreamCtx) : Bool :=
  decide (yEndpt c.word = 7) && decide ((s.cluster ((maskList c.mask).headD 0)).sfu.arrived.length < 66496)
/-- A stream that has moved its last byte and pushed its last entry completes (R340). -/
def finishStream (y num : Nat) (s : State) : State :=
  match s.ctx y num with
  | none => s
  | some c =>
    if c.mismatch || c.badAcc || (c.started && c.listsEnd && c.xfers.isEmpty && c.staged.isEmpty && s.short y c) then yardFault y num s
    else if c.started && c.listsEnd && c.xfers.isEmpty && c.staged.isEmpty && c.owed.isEmpty then
      planDoneStream y num c.status (endEndpoint y c (yardFinish c.word c.status y
        (s.onYarder y (fun k => { k with
          ctxs := k.ctxs.filter (fun x => !(x.num == num)),
          spent := if yEndpt c.word = 1 ∨ yEndpt c.word = 2 then k.spent.filter (fun x => !(x.num == num)) ++ [c] else k.spent }))))
    else s
/-- The stream goes on as far as it can. -/
def pump (y num : Nat) (s : State) : State := finishStream y num (issueAll y num 192 s)
/-- A stream that runs fetches the first burst of each of its lists. -/
def fetchFirst (y num : Nat) (s : State) : State :=
  match s.ctx y num with
  | none => s
  | some c => match c.nextBurst with
    | some q => if q.2.bursts = 0 then fetchNext y num 0 s else s
    | none => s

/-! ## Starting a stream (R310, R314, R330) -/

/-- The entries that a command pops when it starts: none wanted, or DCOUNT of them; no value where the queue is short. -/
def popFor (w : List Byte) (s : State) : Option (Option (List SkidEntry) × State) :=
  match skidIn w with
  | none => some (none, s)
  | some q =>
    let n := fld w 0x10 2
    if n ≤ (s.skid q).entries.length then some (some ((s.skid q).entries.take n), s.onSkid q (SkidQ.pop n)) else none
/-- An egress stream without a link stream entry (R408). -/
def egressBad (w : List Byte) (s : State) : Bool :=
  decide (yEndpt w = 0xA) && !(s.link (yArg w)).streams.any (·.stream == yNum w)
/-- What is left of an earlier run of a link stream is gone when the stream starts anew. -/
def freshIngress (w : List Byte) (s : State) : State :=
  if yEndpt w = 0xB then s.onLink (yArg w) (fun k => { k with ingress := k.ingress.filter (fun g => !(g.num == yNum w)) })
  else if yEndpt w = 0xA then s.onLink (yArg w) (fun k => { k with rowBuf := kdel k.rowBuf (yNum w) })
  else s
/-- What is left of an earlier stream of the number is gone from the endpoint when the stream starts anew. -/
def freshBufs (c : StreamCtx) (s : State) : State :=
  if bufEndpt (yEndpt c.word) then
    (maskList c.mask).foldl (fun (s : State) (i : Nat) => s.onCluster i (fun k => { k with inb := k.inb.filter (fun b => !(b.num == c.num)) })) s
  else if yEndpt c.word = 7 then s.onCluster ((maskList c.mask).headD 0) (fun k => { k with sfu := { k.sfu with arrived := [] } })
  else s
/-- The command of a stream may move data: a planned one once it is ready and has started (R310). -/
def State.mayMove (s : State) (y num : Nat) : Bool :=
  match s.plan.cur.find? (fun p => p.t.engine == .yarder y && p.stream == num && p.run != .done && p.run != .abandoned) with
  | some p => p.run == .running
  | none => true
/-- A stream moves from now on, in a context that it has or takes. -/
def runStream (y : Nat) (c : StreamCtx) (s : State) : State :=
  let s2 := (freshBufs c (freshIngress c.word s)).onYarder y (fun k => { k with
    ctxs := k.ctxs.filter (fun x => !(x.num == c.num)) ++ [{ c with started := true, held := false, discarded := false }] })
  pump y c.num (fetchFirst y c.num (fetchFirst y c.num s2))
/-- A yarder command runs (R313, R314, R316): STREAM and COPY. A planned command that has not started moves nothing (R310). -/
def startStream (y : Nat) (w0 : List Byte) (copy : Bool) (s : State) : State :=
  let w := fit 64 w0
  let num := yNum w
  if !s.yardUp y || (yIsCopy w != copy && decide (fld w 0 1 = 0x20 ∨ fld w 0 1 = 0x21)) || !s.mayMove y num then s
  else if (yardWordFail y w).isSome ∨ egressBad w s = true then yardFault y num s
  else if fld w 0x10 2 = 0 then
    planDoneStream y num stOk (endEndpoint y (newCtx y w s) (yardFinish w stOk y
      (s.onYarder y (fun k => { k with ctxs := k.ctxs.filter (fun x => !(x.num == num)) }))))
  else
    let c := (s.ctx y num).getD (newCtx y w s)
    if c.started then pump y num s
    else if c.held then runStream y c s
    else if 16 ≤ s.ctxsUsed y then s
    else
      match popFor w s with
      | none => s
      | some (p, s1) => runStream y (c.pop p) s1

/-- STREAM. -/
def execStream (y : Nat) (w : List Byte) (s : State) : Host.Outcome State Fault Refusal := .next (startStream y w false s)
/-- COPY. -/
def execCopy (y : Nat) (w : List Byte) (s : State) : Host.Outcome State Fault Refusal := .next (startStream y w true s)

/-- DESCRIPTOR_FETCH: the next burst of a running stream, or the first of each list of a planned command that has not started, once its
release time has passed (R310; the time is the latest that a command boundary has shown, log entry 175). -/
def execDescriptorFetch (y : Nat) (r : DescRead) (s : State) : Host.Outcome State Fault Refusal :=
  .next (if !s.yardUp y then s
    else if (s.ctx y r.num).isSome then pump y r.num (fetchNext y r.num r.sym s)
    else
      match s.plan.cur.find? (fun c => c.t.engine == .yarder y && c.stream == r.num && c.run == .queued) with
      | none => s
      | some p =>
        let w := fit 64 p.t.word
        if s.beat.clock < p.t.release then s
        else if (yardWordFail y w).isSome then yardFault y r.num s
        else if fld w 0x10 2 = 0 then s
        else fetchNext y r.num r.sym (s.onYarder y (fun k => { k with ctxs := k.ctxs ++ [newCtx y w s] })))

/-! ## Completing a transfer -/

/-- The path of a verdict slot that a device address starts, if it does (R523). -/
def verdictPlace (a n : Nat) : Option (Nat × Nat) :=
  let o := a - 0x0C00000C1000
  if 0x0C00000C1000 ≤ a ∧ o < 0x200 ∧ n = 16 ∧ (o % 0x40 = 0 ∨ o % 0x40 = 0x10) then some (o / 0x40, o % 0x40 / 0x10) else none
/-- The FP32 values of a write with ACC added word by word (R356). -/
def accWrite (m : Mem) (a : Nat) (l : List Byte) : Mem :=
  (wordsOf l).zipIdx.foldl (fun (m : Mem) (p : Word × Nat) =>
    let at_ := a + 4 * p.2
    MemOps.writeN m at_ (natLe 4 (add32 (BitVec.ofNat 32 (leNat (MemOps.readN m at_ 4))) p.1).toNat)) m
/-- A local read: the bytes and their status. -/
def localRead (y dom a n sym : Nat) (s : State) : List Byte × Half × State :=
  if !s.readPasses dom a n then (zeros n, stDomainFault, yardRefused y dom false a s)
  else
    let bad := eccLost sym || s.rangePoisoned a n
    let s1 := if bad then yardUe y a s else eccNote a sym s
    let s2 := lcLines a n s1
    (MemOps.readN s.mem.dev a n, if bad then stIntegrityFail else stOk, s2)
/-- A local write: its status. -/
def localWrite (y dom a : Nat) (acc : Bool) (l : List Byte) (s : State) : Half × State :=
  if !s.rangePasses dom true a l.length then (stDomainFault, yardRefused y dom true a s)
  else if acc then
    if s.rangePoisoned a l.length then (stIntegrityFail, yardUe y a s)
    else (stOk, s.onDev (fun m => accWrite m a l))
  else (stOk, putMem a l s)
/-- What a descriptor owes after a transfer of it at place `pos`, with a status: the first status that is not OK in the order of its data
(R329). -/
def Owed.note (pos : Nat) (st : Half) (o : Owed) : Owed :=
  if st = stOk ∨ (o.status ≠ stOk ∧ o.badAt ≤ pos) then o else { o with status := st, badAt := pos }
/-- A transfer done: its data, its status, the bytes counted, the push of its descriptor marked. What a discarded stream had asked for is
dropped (R325). -/
def doneXfer (y num idx : Nat) (data : List Byte) (st0 : Half) (s : State) : State :=
  let s1 := s.onCtx y num (fun c =>
    match c.xfers.find? (·.idx == idx) with
    | none => c
    | some x =>
      let st := if x.status = stOk then st0 else x.status
      let mine := pushesFor c.word x.write
      let xs := if x.write || x.drop then c.xfers.filter (fun z => decide (z.idx ≠ idx))
        else updFirst c.xfers (·.idx == idx) (fun z => { z with done := true, data := data, status := st })
      if x.drop then { c with xfers := xs }
      else { c with
        xfers := xs,
        donePos := if x.write then
            (match xs.find? (·.write) with | some z => z.pos | none => c.wPos) else c.donePos,
        status := if c.status = stOk then st else c.status,
        owed := if mine then updAll c.owed (·.di == x.di) (Owed.note x.pos st) else c.owed })
  s1.onYarder y (fun k => { k with bytes := k.bytes + BitVec.ofNat 64 data.length })
/-- An outstanding earlier write of the stream overlaps a write (R319). -/
def StreamCtx.behind (c : StreamCtx) (x : Xfer) : Bool :=
  x.write && c.xfers.any (fun z => z.write && decide (z.pos < x.pos) && decide (z.addr < x.addr + x.len) &&
    decide (x.addr < z.addr + z.len))
/-- A refused write of what a cluster or GEMV command puts out (R153, R184, R238, R341): DOM_FAULT in the registers of its unit, its outputs invalid; of a
Scan command the row that the bytes belong to, and its object. -/
def outRefused (y num pos : Nat) (s : State) : State :=
  match s.ctx y num with
  | none => s
  | some x =>
    let i := y / 4
    let hit : PCmd → Bool := fun p => (p.run == .running || p.run == .done) &&
      (if yEndpt x.word = 9 then p.t.engine == .gemv (yArg x.word % 16) && decide (fld p.t.word 0x1E 2 = num)
       else p.t.engine == .cluster i && (wordStreams p.t.engine p.t.word).2.contains num)
    let s1 := match s.plan.cur.find? hit with
      | some p =>
        let s1 := s.onPlan (fun k => { k with
          cur := updFirst k.cur hit (fun p => { p with status := if p.status = stOk then stDomainFault else p.status }) })
        if p.status = stOk then affectOut stDomainFault (causeOf stDomainFault) p s1 else s1
      | none => s
    if yEndpt x.word = 9 then s1
    else if yEndpt x.word ≠ 6 then s
    else
      match kget (s.cluster i).outUnit num with
      | some 1 => s1.onCluster i (fun k => { k with arr := { k.arr with domFault := true } })
      | some 2 => s1.onCluster i (fun k =>
          let bad := fun (st : Half) => if k.ve.outStream = num ∧ st = stOk then stDomainFault else st
          { k with
            veRegs := { k.veRegs with domFault := true, lastStatus := if k.veRegs.busy then k.veRegs.lastStatus else bad k.veRegs.lastStatus }
            ve := { k.ve with status := bad k.ve.status } })
      | some _ =>
        let s2 := s.onCluster i (fun k => { k with scan := { k.scan with domFault := true, invalidRow := true } })
        match kget (s.cluster i).outRows num with
        | some q =>
          let n := pos / max 1 q.1
          let s3 := match q.2[n]? with | some h => invalidObj stDomainFault (hIdx h.toNat) s2 | none => s2
          (match s.plan.cur.find? hit with
          | some p => if p.rowStatus n ≠ stOk then s3
              else affectOut stDomainFault (causeOf stDomainFault) p (s3.onPlan (fun k => { k with cur := updFirst k.cur hit (PCmd.setRow n stDomainFault) }))
          | none => s3)
        | none => s2
      | none => s1
/-- What a yarder's registers show of a transfer that another module, or the way there, answered (R344). -/
def yardRemote (y : Nat) (write : Bool) (st : Half) (s : State) : State :=
  s.onYarder y (fun k => { k with
    domFault := k.domFault || st == stDomainFault, eccUe := k.eccUe || (!write && st == stIntegrityFail) })
/-- TRANSFER_COMPLETE: `sym` are the symbols in error of the worst word read (R362). A transfer to another module completes with its
reply, whose STATUS is one of the table (R14); a write waits for an earlier one that it overlaps. -/
def execTransferComplete (y num idx sym : Nat) (s : State) : Host.Outcome State Fault Refusal :=
  .next (match (s.ctx y num).bind (fun c => (c.xfers.find? (fun x => x.idx == idx && !x.done)).map (fun x => (c, x))) with
    | none => s
    | some (c, x) =>
      let a := devAddr x.addr
      let out := fun (st : Half) (t : State) => if x.write && st == stDomainFault then outRefused y num x.pos t else t
      if !s.yardUp y || c.behind x then s
      else if x.zero then
        let st := if x.lost then stDomainFault else stOk
        pump y num (doneXfer y num idx (if x.write then [] else zeros x.len) x.status (out st (yardRemote y x.write st s)))
      else if !s.isLocal x.addr then
        match x.req with
        | none => s
        | some n =>
          if x.write then
            match kget s.links.dones n with
            | none => s
            | some st0 =>
              let st := tableStatus st0
              pump y num (doneXfer y num idx x.data st (out st (yardRemote y true st (s.onLinks (fun k => { k with dones := kdel k.dones n })))))
          else
            match kget s.links.reads n with
            | none => s
            | some r =>
              let st := tableStatus r.2
              pump y num (doneXfer y num idx (fit x.len r.1) st (yardRemote y false st (s.onLinks (fun k => { k with reads := kdel k.reads n }))))
      else if x.write then
        match (if yIsCopy c.word then none else verdictPlace a x.len) with
        | some p => pump y num (doneXfer y num idx x.data stOk (verdictTake c.dom p.1 p.2 x.data x.status s))
        | none =>
          let r := localWrite y c.dom a x.acc x.data s
          pump y num (doneXfer y num idx x.data r.1 (out r.1 r.2))
      else
        let r := localRead y c.dom a x.len sym s
        pump y num (doneXfer y num idx r.1 r.2.1 r.2.2))

/-! ## Tiles (R322 to R324, R326) -/

/-- Tiles of a stream that a cluster has not consumed: of VE input tiles those too that stand in the command's tiles until a TIN releases
them (R324). -/
def clusterUnread (num : Nat) (k : ClusterSt) : Nat :=
  ((k.inb.filter (·.num == num)).map (fun b => b.tiles.length)).foldl (· + ·) 0 +
    (if k.veRegs.busy ∧ k.ve.inStream = num then
      (k.ve.tiles.zipIdx.filter (fun t => bitsOf k.ve.tileMap (2 * t.2) 2 == 1 && (t.1.arrived || t.1.held))).length else 0) +
    (match k.scanRun with
     | some r => (if r.buf.num = num then r.buf.tiles.length else 0) + (if r.sbuf.num = num then r.sbuf.tiles.length else 0)
     | none => 0)
/-- Banks of a pair that hold tiles which the array has not released (R140, R146): `ep` is the pair's endpoint. -/
def banksHeld (ep : Nat) (k : ClusterSt) : Nat := ((k.inb.filter (·.ep == ep)).map (fun b => b.tiles.length)).foldl (· + ·) 0
/-- Input tiles of a TILE_MAP. -/
def inputTiles (m : Nat) : Nat := ((List.range 4).filter (fun t => bitsOf m (2 * t) 2 == 1)).length
/-- The stream that an array command word names for a pair of banks. -/
def bankNum (ep : Nat) (w : List Byte) : Nat := if ep = 1 then fld w 0x10 2 else fld w 0x12 2
/-- The array command that runs on a cluster, as its word. -/
def State.arrWord (s : State) (i : Nat) : Option (List Byte) :=
  match (s.cluster i).arrRun with
  | some r => some r.word
  | none => (s.runningCmd (.cluster i)).bind (fun p => if fld p.t.word 0 1 = 1 then some (fit 32 p.t.word) else none)
/-- The command that plan order puts next on a cluster names the stream for a pair of banks. -/
def State.bankNext (s : State) (i ep num : Nat) : Bool :=
  match s.plan.cur.find? (fun p => p.t.engine == .cluster i && p.run == .queued) with
  | some p => decide (fld p.t.word 0 1 = 1 ∧ bankNum ep p.t.word = num)
  | none => false
/-- A stream may fill a bank of a cluster (R146, R150): that of the running command; where it has delivered its last bank, or no array
command runs, that of the command which plan order puts next; one that no planned command names where none runs. -/
def State.bankTurn (s : State) (i ep num : Nat) : Bool :=
  match s.arrWord i with
  | some w => decide (bankNum ep w = num) ||
      (s.bankNext i ep num && (List.range 32).any (fun y => (s.yarder y).spent.any (fun x => x.num == bankNum ep w && x.mask.testBit i)))
  | none => s.bankNext i ep num || !s.plan.cur.any (fun p => p.t.engine == .cluster i && decide (fld p.t.word 0 1 = 1 ∧ bankNum ep p.t.word = num))
/-- TILE_MAP of the VE command that reads a stream, where there is one. -/
def State.veMap (s : State) (i num : Nat) : Option Nat :=
  let k := s.cluster i
  if k.veRegs.busy ∧ k.ve.inStream = num then some k.ve.tileMap
  else (s.plan.cur.find? (fun p => p.t.engine == .cluster i && decide (fld p.t.word 0 1 = 2 ∧ fld p.t.word 8 2 = num) &&
    !(p.run == .done || p.run == .abandoned))).map (fun p => fld p.t.word 1 1)
/-- Bytes of the activation buffer of an NMU (R241). -/
abbrev actSize : Nat := 524288
/-- The endpoint has room for one more tile of a stream, of `n` bytes, with fewer than LEAD of its tiles unconsumed (R322 to R324, R148).
An SFU bank and an activation buffer take what is delivered into their stores at once, so that it is the free space there that holds the
stream (DESIGN CHOICE, log entry 40); a compressor's queue holds 64 KiB of all streams of its link (R401). -/
def State.tileRoom (s : State) (c : StreamCtx) (n : Nat) : Bool :=
  let i := (maskList c.mask).headD 0
  let k := s.cluster i
  match yEndpt c.word with
  | 1 => (maskList c.mask).all (fun i => decide (banksHeld 1 (s.cluster i) < 2) && s.bankTurn i 1 c.num)
  | 2 => decide (banksHeld 2 k < 2) && s.bankTurn i 2 c.num
  | 3 =>
    let most := match s.veMap i c.num with | some m => if inputTiles m = 0 then yLead c.word else min (yLead c.word) (inputTiles m) | none => yLead c.word
    decide (clusterUnread c.num k < most)
  | 4 | 5 => decide (clusterUnread c.num k < yLead c.word)
  | 7 => decide (k.sfu.arrived.length + n ≤ 66496)
  | 8 => decide (c.donePos + n ≤ actSize)
  | 0xA =>
    let k := s.link (yArg c.word)
    let mine : List TxTile := k.txPend.filter (fun t => t.num == c.num)
    let comp := fun (num : Nat) => k.streams.any (fun e => e.stream == num && e.comp)
    decide (mine.length < yLead c.word) && (!comp c.num ||
      decide ((((k.txPend.filter (fun t => comp t.num)).map (fun t => t.bytes.length)).foldl (fun (a b : Nat) => a + b) 0) + n ≤ 65536))
  | _ => true
/-- The command that waits on cluster `c` goes on (R147, R179, R238): an array command, a VE program or a Scan command. -/
def clusterGo (c : Nat) (s : State) : State :=
  let k := s.cluster c
  if !s.clusterUp c then s
  else if k.arrRun.isSome then arrGo c s
  else if k.veRegs.busy then veGo c s
  else if k.scanRun.isSome then scanGo c s
  else s
/-- A tile handed to a cluster's buffers, as pieces with their statuses; what waits for it goes on. -/
def giveCluster (i ep num : Nat) (l : List (List Byte × Half)) (s : State) : State :=
  clusterGo i (s.onCluster i (fun k => { k with inb := outPieces ep num l k.inb }))
/-- The bytes of a stream's tile (R322, R323): for an activation bank one slice of T rows of the command that names the
stream, where there is one. -/
def State.tileBytes (s : State) (c : StreamCtx) : Nat :=
  let names := fun (w : List Byte) => decide (fld w 0 1 = 1 ∧ fld w 0x12 2 = c.num ∧ 0 < arrTokens w)
  let i := (maskList c.mask).headD 0
  let words := (((s.cluster i).arrRun.map (·.word)).toList ++
    (s.plan.cur.filter (fun p => p.t.engine == .cluster i && !(p.run == .done || p.run == .abandoned))).map (·.t.word))
  if yEndpt c.word = 2 then
    match words.find? names with
    | some w => 1024 * arrTokens w
    | none => yTile c.word
  else yTile c.word
/-- A tile handed to its endpoint; `pos` is its place in the stream. A link egress that names a link scale table takes narrow rows of its
elements (R107 to R111). -/
def giveTile (c : StreamCtx) (pos : Nat) (l : List (List Byte × Half)) (s : State) : State :=
  let tile := l.flatMap (·.1)
  match yEndpt c.word with
  | 1 => (maskList c.mask).foldl (fun (s : State) (i : Nat) => giveCluster i 1 c.num l s) s
  | 2 | 3 | 4 | 5 => giveCluster ((maskList c.mask).headD 0) (yEndpt c.word) c.num l s
  | 7 => s.onCluster ((maskList c.mask).headD 0) (fun k => { k with
      sfu := { k.sfu with loading := true, arrived := k.sfu.arrived ++ tile } })
  | 8 => s.onNmu (yArg c.word % 16) (fun k => { k with
      act := MemOps.writeN k.act (Config.actOffset (fld c.word 0x2C 4) + pos) tile
      actDom := MemOps.writeN k.actDom (Config.actOffset (fld c.word 0x2C 4) + pos) (List.replicate tile.length (BitVec.ofNat 8 (c.dom + 1))) })
  | 0xA =>
    match s.rowFor c.num with
    | none => s.onLink (yArg c.word) (fun k => { k with
        txPend := k.txPend ++ [{ num := c.num, dom := c.dom, coded := false, bytes := tile }] })
    | some f => s.onLink (yArg c.word) (fun k =>
        let b := (kget k.rowBuf c.num).getD [] ++ tile
        let q := pieces f.plain b.length b
        { k with
          rowBuf := kset k.rowBuf c.num q.2
          txPend := if q.1.isEmpty then k.txPend
            else k.txPend ++ [{ num := c.num, dom := c.dom, coded := false, bytes := q.1.flatMap (rowForm f) }] })
  | _ => s
/-- Bytes cut where their status changes: `pos` is the place of the first, `fl` the flaws in ascending order. -/
def cutPieces : Nat → List Byte → List (Nat × Nat × Half) → List (List Byte × Half)
  | _, b, [] => if b.isEmpty then [] else [(b, stOk)]
  | pos, b, f :: r =>
    if b.isEmpty then []
    else
      let n := f.1 - pos
      let pre := b.take n
      let bad := (b.drop n).take f.2.1
      (if pre.isEmpty then [] else [(pre, stOk)]) ++ (if bad.isEmpty then [] else [(bad, f.2.2)]) ++
        cutPieces (max pos (f.1 + f.2.1)) (b.drop (n + f.2.1)) r
/-- What a write stream's endpoint has released, up to `n` bytes in pieces with their statuses, and the state without them. -/
def fromBuf (l : List StreamBuf) (num n : Nat) : List (List Byte × Half) × List StreamBuf :=
  match l.find? (·.num == num) with
  | none => ([], l)
  | some b =>
    match b.tiles with
    | [] => ([], l)
    | t :: r =>
      (cutPieces 0 (t.take n) b.flaws, updFirst l (·.num == num) (fun b => { b with
        tiles := if (t.drop n).isEmpty then r else t.drop n :: r, flaws := dropFlaws (min n t.length) b.flaws }))
/-- A VE output tile that has been taken whole is free again (R179). -/
def freeDrain (was now : List StreamBuf) (num : Nat) (k : ClusterSt) : ClusterSt :=
  let n := fun (l : List StreamBuf) => ((l.filter (·.num == num)).map (fun b => b.tiles.length)).foldl (· + ·) 0
  if k.ve.outStream = num ∧ n now < n was then
    match k.ve.drains with
    | t :: r => { k with ve := { k.ve with drains := r, tiles := k.ve.tiles.modify t (fun x => { x with draining := false }) } }
    | [] => k
  else k
/-- A write stream takes up to a tile from its endpoint (R322). -/
def takeTile (y : Nat) (c : StreamCtx) (s : State) : List (List Byte × Half) × State :=
  match yEndpt c.word with
  | 6 =>
    let i := y / 4
    let r := fromBuf (s.cluster i).outb c.num (yTile c.word)
    (r.1, s.onCluster i (fun k => freeDrain k.outb r.2 c.num { k with outb := r.2 }))
  | 9 =>
    let i := yArg c.word % 16
    let r := fromBuf (s.nmu i).outb c.num (yTile c.word)
    (r.1, s.onNmu i (fun k => { k with outb := r.2 }))
  | 0xB =>
    let i := yArg c.word
    match (s.link i).ingress.find? (·.num == c.num) with
    | none => ([], s)
    | some g => (if g.out.isEmpty then [] else [(g.out.take (yTile c.word), g.status)], s.onLink i (fun k => { k with
        ingress := updFirst k.ingress (·.num == c.num) (fun g => { g with out := g.out.drop (yTile c.word) }) }))
  | _ => ([], s)
/-- A stream that waits on its endpoint (R147, R343): the stall's length is free. -/
def yardStall (y : Nat) (s : State) : State :=
  let f := s.free
  f.2.onYarder y (fun k => { k with stalled := true, stall := k.stall + f.1 })
/-- A stream carries the rows of a Scan command out, each of which is a command of its own: a row's status is no other's (R238). -/
def State.rowStream (s : State) (y : Nat) (c : StreamCtx) : Bool :=
  yEndpt c.word == 6 && kget (s.cluster (y / 4)).outUnit c.num == some 3
/-- TILE_DELIVER: a read stream hands a tile over; a write stream takes one. -/
def execTileDeliver (y num : Nat) (s : State) : Host.Outcome State Fault Refusal :=
  .next (match s.ctx y num with
    | none => s
    | some c =>
      if !s.yardUp y || !c.started || yIsCopy c.word then s
      else if yWrites c.word then
        let held := cdiv (stagedLen c.staged + ((c.xfers.filter (·.write)).map (·.len)).foldl (· + ·) 0) (yTile c.word)
        if yLead c.word ≤ held then s
        else
          let t := takeTile y c s
          if t.1.isEmpty then yardStall y s
          else pump y num (t.2.onCtx y num (fun c => { c with
            staged := c.staged ++ t.1,
            status := if c.status = stOk && !s.rowStream y c then firstBad (t.1.map (·.2)) else c.status }))
      else
        let tile := s.tileBytes c
        let n := min tile (stagedLen c.staged)
        let last := c.listsEnd && c.xfers.isEmpty
        if n = 0 ∨ (n < tile ∧ last = false) then s
        else if !s.tileRoom c n then yardStall y s
        else
          let t := takeStaged n c.staged
          pump y num (giveTile c c.donePos (headStaged n c.staged) (s.onCtx y num (fun c => { c with
            staged := t.2.2, donePos := c.donePos + n }))))

/-- SKID_PUSH: the next descriptor that is complete is pushed; a full queue stalls the stream (R329, R333). -/
def execSkidPush (y num : Nat) (s : State) : Host.Outcome State Fault Refusal :=
  .next (match s.ctx y num with
    | none => s
    | some c =>
      match skidOut c.word, c.owed with
      | some q, o :: r =>
        if !s.yardUp y || decide (c.donePos < o.upto) then s
        else if !(s.skid q).room then (yardStall y s).onYarder y (fun k => { k with skidFull := true })
        else pump y num ((s.onSkid q (SkidQ.push o.addr o.len o.status)).onCtx y num (fun c => { c with
          owed := r, pushed := c.pushed + 1 }))
      | _, _ => s)

/-! ## Discarded prefetches (R325), members that leave (R149) -/

/-- A bank stream that serves a cluster and that the commands naming `keep` do not use. -/
def StreamCtx.others (c : Nat) (keep : List Nat) (x : StreamCtx) : Bool :=
  (decide (yEndpt x.word = 1) || decide (yEndpt x.word = 2)) && x.mask.testBit c && !keep.contains x.num
/-- A cluster holds tiles of a stream. -/
def State.holdsTiles (s : State) (c num : Nat) : Bool := (s.cluster c).inb.any (fun b => b.num == num && !b.tiles.isEmpty)
/-- The streams of a cluster's bank endpoints that run for a command that does not start: those that have brought or asked for tiles, and
the multicast ones, whose group the cluster leaves (R149, R150). -/
def prefetched (c : Nat) (keep : List Nat) (s : State) : List (Nat × StreamCtx) :=
  (List.range 32).flatMap (fun y => ((s.yarder y).ctxs.filter (fun x =>
    x.started && x.others c keep && (s.holdsTiles c x.num || decide (x.donePos ≠ 0) || !x.xfers.isEmpty || !x.staged.isEmpty ||
      decide (x.mask ≠ 2 ^ c)))).map (fun x => (y, x)))
/-- Streams that have come to their end, whose tiles are prefetched for a command that does not start. -/
def prefetchedWhole (c : Nat) (keep : List Nat) (s : State) : List (Nat × StreamCtx) :=
  (List.range 32).flatMap (fun y => ((s.yarder y).spent.filter (fun x =>
    x.others c keep && s.holdsTiles c x.num)).map (fun x => (y, x)))
/-- A stream back at descriptor 0, byte 0: its outstanding reads complete and are dropped, popped entries and entries pushed stay
(R325). -/
def StreamCtx.rewind (c : StreamCtx) : StreamCtx :=
  { c with
    started := false, held := true, discarded := true, rd := c.rd.map (fun l => ListSt.fresh l.base l.count),
    xfers := (c.xfers.filter (fun x => !x.done)).map (fun x => { x with drop := true }), staged := [], rPos := 0,
    donePos := 0, fetched := 0, owed := [], status := stOk }
/-- The tiles of a stream dropped from a cluster. -/
def dropTiles (c num : Nat) (s : State) : State :=
  s.onCluster c (fun k => { k with inb := k.inb.filter (fun b => !(b.num == num)) })
/-- A command boundary at which a cluster starts a command that names the streams `keep`: what was prefetched for
another is dropped; a multicast member leaves its group; a stream that had come to its end is taken up again when its command
starts, in a context that is free then (R306). -/
def discardFor (c : Nat) (keep : List Nat) (s : State) : State :=
  let s1 := (prefetched c keep s).foldl (fun (s : State) (p : Nat × StreamCtx) =>
    let s1 := dropTiles c p.2.num s
    if 1 < (maskList p.2.mask).length then s1.onCtx p.1 p.2.num (fun x => { x with mask := x.mask - 2 ^ c })
    else (s1.onCtx p.1 p.2.num StreamCtx.rewind).onYarder p.1 (fun k => { k with discard := true })) s
  (prefetchedWhole c keep s1).foldl (fun (s : State) (p : Nat × StreamCtx) =>
    let s1 := dropTiles c p.2.num s
    if 1 < (maskList p.2.mask).length then
      s1.onYarder p.1 (fun k => { k with spent := updAll k.spent (·.num == p.2.num) (fun x => { x with mask := x.mask - 2 ^ c }) })
    else (s1.onYarder p.1 (fun k => { k with
        discard := true, spent := updAll k.spent (·.num == p.2.num) (fun x => { x.rewind with held := false }) })).onPlan (fun q => { q with
          cur := updAll q.cur (fun x => x.t.engine == .yarder p.1 && x.stream == p.2.num && x.run == .done)
            (fun x => { x with run := .running }) })) s1
/-- A stream that a discard stopped runs again (R325): in the context that it has, or, where it had come to its end, in a free one
(R306). -/
def resumeOne (y num : Nat) (s : State) : State :=
  match (s.ctx y num).bind (fun x => if x.discarded && !x.started then some x else none) with
  | some x => runStream y x s
  | none => match (s.yarder y).spent.find? (fun x => x.num == num && x.discarded) with
    | some x => if s.ctxsUsed y < 16 then
        runStream y x (s.onYarder y (fun k => { k with spent := k.spent.filter (fun z => !(z.num == num)) })) else s
    | none => s
/-- The streams that a starting command names run again where a discard stopped them. -/
def resumeStreams (nums : List Nat) (s : State) : State :=
  (List.range 32).foldl (fun (s : State) (y : Nat) => nums.foldl (fun (s : State) (num : Nat) => resumeOne y num s) s) s
/-- The multicast code stream of a group that names a cluster, where the plan runs or has run it. -/
def State.groupStream (s : State) (c num : Nat) : Option PCmd :=
  s.plan.cur.find? (fun p => (match p.t.engine with | .yarder _ => true | _ => false) && p.stream == num &&
    (p.run == .running || p.run == .done) && decide (yEndpt p.t.word = 1) && (yArg p.t.word).testBit c)
/-- A stream serves a cluster: a context or a stream that has come to its end has it in its mask, or its tiles are there. -/
def State.servedBy (s : State) (c num : Nat) : Bool :=
  s.holdsTiles c num || (List.range 32).any (fun y => (s.yarder y).ctxs.any (fun x => x.num == num && x.mask.testBit c) ||
    (s.yarder y).spent.any (fun x => x.num == num && x.mask.testBit c))
/-- The entries that a group's stream has popped, which its members' unicast streams read by too. -/
def State.groupPopped (s : State) (num : Nat) : Option (List SkidEntry) :=
  (List.range 32).findSome? (fun y => (((s.yarder y).ctxs ++ (s.yarder y).spent).find? (fun x => x.num == num && x.popped.isSome)).bind (·.popped))
/-- The codes of a command whose cluster has left its group come by unicast, on the standby stream that the plan holds for it, or, where
that has no free context, on the first yarder of the cluster that has one and does not run the group's own stream (R149, R326). -/
def unicast (c : Nat) (nums : List Nat) (s : State) : State :=
  nums.foldl (fun (s : State) (num : Nat) =>
    let held := (s.plan.curRegs.standby.filter (fun e => decide (e.1 = num ∧ e.2.1 = c))).map (·.2.2)
    match s.groupStream c num, (held ++ (List.range 4).map (4 * c + ·)).find? (fun y => decide (s.ctxsUsed y < 16) && (s.ctx y num).isNone) with
    | some p, some y =>
      let w := putBytes (fit 64 p.t.word) 0x14 (natLe 2 0)
      if s.servedBy c num || fld w 0x10 2 = 0 then s
      else runStream y ((newCtx y (putBytes w 0x22 (natLe 2 0xFFFF)) s).pop (s.groupPopped num)) s
    | _, _ => s) s

end Sys2Proof.Machine
end

