-- ==== Sys2Proof/Machine/Plan.lean ====
section
/-! DEFINITION. Proving a plan (R51 to R58, R267, R374, R561, R562): the worst-case schedule, what fits, admission. Times
in units of 1/5400 µs from the tick. -/

namespace Sys2Proof.Machine

/-! ## The beat's parts (R37, R45) -/

/-- Units of 1/5400 µs in a microsecond. -/
abbrev tuUs : Nat := 5400
/-- P. -/
def BeatCfg.pTu (c : BeatCfg) : Nat := c.period.toNat * 337500
/-- BG. -/
def BeatCfg.bgTu (c : BeatCfg) : Nat := c.bg.toNat * tuUs
/-- K. -/
def BeatCfg.kTu (c : BeatCfg) : Nat := c.kerf.toNat * tuUs
/-- E = P − BG − K. -/
def BeatCfg.eTu (c : BeatCfg) : Nat := c.pTu - c.bgTu - c.kTu
/-- The settings keep the table *Beat limits* (R37). -/
def BeatCfg.ok (c : BeatCfg) : Bool :=
  decide (8 ≤ c.period.toNat ∧ c.period.toNat ≤ 256) && decide (50 ≤ c.bg.toNat ∧ c.bg.toNat ≤ 1000) &&
    decide (50 ≤ c.kerf.toNat ∧ c.kerf.toNat ≤ 1000) && decide (c.bfloor.toNat ≤ 500) &&
    decide ((c.bg.toNat + c.kerf.toNat) * 8 ≤ c.period.toNat * 125)

/-! ## The time of a hand-over (R338, R339) -/

/-- Fabric cycles of the first-data latency at a device address (table *First-data latency*). -/
def addrLat (a : Nat) : Nat := if 0x100000000000 ≤ a then 1080 else if 0x080000000000 ≤ a then 60 else 216
/-- Fabric cycles until the first byte of a command's output is at hand: by the memory that it writes, and an exchange hop of 1 µs for
each link that it crosses. -/
def outLat (p : TCmd) : Nat :=
  (if p.paths.any (fun q => match q.1 with | .cxlWr _ => true | _ => false) then 1080
   else if p.paths.any (fun q => match q.1 with | .lcWrite _ => true | _ => false) then 60 else 216) +
  (if p.paths.any (fun q => match q.1 with | .dwevyTx _ => true | _ => false) then 1800 * p.hops else 0)
/-- Fabric cycles of a yarder command's first descriptor burst. -/
def descLat (c : TCmd) : Nat :=
  match c.engine with
  | .yarder _ => if fld c.word 0x10 2 = 0 then 0 else addrLat (fld c.word 8 8)
  | _ => 0
/-- Bytes per fabric cycle of a path (table *Internal paths*); a CXL port's fall with its trained rate and width (R358). -/
def pathRate (slow : List Nat) : PathId → Nat
  | .stack _ => 682 | .nmuDram _ => 888 | .lcRead _ => 1536 | .lcWrite _ => 768 | .clusterIn _ => 2048 | .clusterOut _ => 1024
  | .linkDieTx _ => 1024 | .linkDieRx _ => 1024 | .controlTx => 256 | .controlRx => 256 | .dwevyTx _ => 55 | .dwevyRx _ => 55
  | .cxlRd p => 67 / 2 ^ slow.getD p 0 | .cxlWr p => 67 / 2 ^ slow.getD p 0 | .ethTx _ => 1 | .ethRx _ => 1
/-- A path leads to another module or to the CXL tier: its transfers are remote (R337). -/
def pathRemote : PathId → Bool
  | .dwevyTx _ => true | .dwevyRx _ => true | .cxlRd _ => true | .cxlWr _ => true | _ => false
/-- RATE that the deadline streams of a list reserve on a path (R335). -/
def reserved (l : List PCmd) (p : PathId) : Nat :=
  ((l.filter (fun c => (match c.t.engine with | .yarder _ => true | _ => false) && c.t.cls != .B && c.t.paths.any (fun q => q.1 == p))).map (fun c =>
    max 1 (fld c.t.word 0x16 2))).foldl (· + ·) 0
/-- The rate of a command's stream in bytes per fabric cycle: RATE of a deadline stream; for a bulk stream its category's share of what the
deadline streams `dl` leave on its slowest path (R335 to R337). -/
def streamRate (slow : List Nat) (dl : List PCmd) (c : TCmd) : Nat :=
  match c.engine with
  | .yarder _ =>
    if c.cls ≠ .B then max 1 (fld c.word 0x16 2)
    else
      let left := (c.paths.map (fun p => pathRate slow p.1 - reserved dl p.1)).foldl min 682
      max 1 (left * (if c.paths.any (fun p => pathRemote p.1) then 200 else if yWrites c.word then 300 else 500) / 1000)
  | _ => max 1 ((c.paths.map (fun p => pathRate slow p.1)).foldl min 682)
/-- xfer(p, c) of R53 in time units, where `p` ends at a time beside the deadline streams `dl`: first data, the descriptor burst unless it
has been fetched by then, and the bytes that `c` needs before it can start, which is none for a cluster command (R339). An NMU command's
bytes come at the rate of the stream that brings them. -/
def xferOf (slow : List Nat) (dl : List PCmd) (p : TCmd) (finish : Nat) (c : TCmd) : Nat :=
  let b := match c.engine with | .cluster _ => 0 | _ => c.need
  let r := match c.engine, p.engine with
    | .gemv _, .yarder _ => streamRate slow dl p
    | .att _, .yarder _ => streamRate slow dl p
    | _, _ => streamRate slow dl c
  3 * (outLat p + (if c.release + 3 * descLat c ≤ finish then 0 else descLat c) + cdiv b r)

/-! ## The worst-case schedule (R53) -/

/-- A schedule in the making: how slow the CXL ports are, what is placed, what is busy by engine in ascending order, who was placed last. -/
structure Sched where
  slow : List Nat
  placed : List PCmd
  busy : List (Engine × List (Nat × Nat))
  last : List (Engine × PCmd)

/-- The first gap of a length at or after a time. -/
def firstGap (w : Nat) : List (Nat × Nat) → Nat → Nat
  | [], t => t
  | (a, b) :: r, t => if b ≤ t then firstGap w r t else if t + w ≤ a then t else firstGap w r (max t b)
/-- The command placed under an id. -/
def Sched.find (q : Sched) (id : Nat) : Option PCmd := q.placed.find? (·.id == id)
/-- chained(c) of R53. -/
def Sched.chained (q : Sched) (c : PCmd) : Bool :=
  match kget q.last c.t.engine with
  | none => false
  | some p => c.t.inputs.contains p.id && p.t.cls != .B &&
      c.t.inputs.all (fun i => match q.find i with | some x => decide (x.finish ≤ p.finish) | none => true)
/-- The time at which a command is ready in the worst case. -/
def Sched.readyAt (q : Sched) (c : PCmd) : Nat :=
  c.t.inputs.foldl (fun m i => match q.find i with
    | some x => max m (x.finish + xferOf q.slow (q.placed.filter (fun d => decide (d.start ≤ x.finish ∧ x.finish < d.finish))) x.t x.finish c.t)
    | none => m) c.t.release
/-- One command placed. -/
def Sched.put (q : Sched) (c : PCmd) : Sched :=
  let lead := if c.t.cls = .B ∨ q.chained c = true then 0 else 40 * tuUs
  let iv := (kget q.busy c.t.engine).getD []
  let a := firstGap c.t.wcet iv (q.readyAt c + lead)
  let c' := { c with start := a, finish := a + c.t.wcet }
  { slow := q.slow, placed := q.placed ++ [c'], busy := kset q.busy c.t.engine (insertBy (·.1) (a, a + c.t.wcet) iv),
    last := kset q.last c.t.engine c' }
/-- The first command of a list whose inputs are all placed, and the others. -/
def Sched.nextReady (q : Sched) (names : List Nat) : List PCmd → Option (PCmd × List PCmd)
  | [] => none
  | c :: r =>
    if c.t.inputs.all (fun i => (q.find i).isSome || !names.contains i) then some (c, r)
    else (q.nextReady names r).map (fun p => (p.1, c :: p.2))
/-- All commands placed in dependency order, at most `n`; none where they depend on each other in a circle. -/
def Sched.run (names : List Nat) : Nat → Sched → List PCmd → Option Sched
  | 0, q, l => if l.isEmpty then some q else none
  | n + 1, q, l =>
    if l.isEmpty then some q
    else match q.nextReady names l with
      | none => none
      | some p => Sched.run names n (q.put p.1) p.2
/-- The class order of a list: D, then I, then B. -/
def byClass (l : List PCmd) : List PCmd :=
  l.filter (fun c => c.t.cls == .D) ++ l.filter (fun c => c.t.cls == .I) ++ l.filter (fun c => c.t.cls == .B)
/-- The worst-case schedule of a list. -/
def schedule (slow : List Nat) (l : List PCmd) : Option (List PCmd) :=
  (Sched.run (l.map (·.id)) l.length { slow := slow, placed := [], busy := [], last := [] } (byClass l)).map (fun q =>
    l.map (fun c => (q.find c.id).getD c))

/-! ## What fits -/

/-- Bytes of a path in 20 µs (R25, R358, table *Internal paths*). -/
def pathCap (slow : List Nat) : PathId → Nat
  | .stack _ => 24576000 | .nmuDram _ => 32000000 | .lcRead _ => 55296000 | .lcWrite _ => 27648000
  | .clusterIn _ => 73728000 | .clusterOut _ => 36864000 | .linkDieTx _ => 36864000 | .linkDieRx _ => 36864000
  | .controlTx => 9216000 | .controlRx => 9216000 | .dwevyTx _ => 2000000 | .dwevyRx _ => 2000000
  | .cxlRd p => 2420000 / 2 ^ slow.getD p 0 | .cxlWr p => 2420000 / 2 ^ slow.getD p 0 | .ethTx _ => 62500 | .ethRx _ => 62500
/-- pJ of a byte on a path (table *Power model*). -/
def pathPj : PathId → Nat
  | .nmuDram _ => 16 | .stack _ => 24 | .lcRead _ => 4 | .lcWrite _ => 4 | .dwevyTx _ => 6 | .dwevyRx _ => 6
  | .cxlRd _ => 12 | .cxlWr _ => 12 | _ => 0
/-- W while a command runs (table *Power model*). -/
def kindW : PowerKind → Nat
  | .array => 140 | .ve => 70 | .gemv => 22 | .att => 14 | .none => 0
/-- The length of an interval of the proof: 20 µs. -/
abbrev winTu : Nat := 20 * tuUs
/-- The part of [a, b) in interval `k`. -/
def overlap (a b k : Nat) : Nat := min b ((k + 1) * winTu) - max a (k * winTu)
/-- Bytes of a path that a planned command moves in interval `k`, spread evenly over its run, rounded up. -/
def bytesIn (c : PCmd) (p : PathId) (k : Nat) : Nat :=
  let b := ((c.t.paths.filter (fun q => q.1 == p)).map (·.2)).foldl (· + ·) 0
  let o := overlap c.start c.finish k
  if o = 0 then 0 else cdiv (b * o) (c.finish - c.start)
/-- The intervals that some command runs in. -/
def usedWins (l : List PCmd) : List Nat :=
  l.foldl (fun acc c => ((List.range (c.finish / winTu + 1 - c.start / winTu)).map (c.start / winTu + ·)).foldl
    (fun acc k => if acc.contains k then acc else acc ++ [k]) acc) []
/-- A path and the other path that shares its DRAM: a stack's interface and its NMU reach the same layers (R25). -/
def sharedDram (p : PathId) : List PathId :=
  match p with | .stack i => [.stack i, .nmuDram i] | .nmuDram i => [.stack i, .nmuDram i] | _ => []
/-- The earliest start of a command: its own release and those of all that it depends on, `n` deep. -/
def earliest (l : List PCmd) : Nat → PCmd → Nat
  | 0, c => c.t.release
  | n + 1, c => (l.filter (fun x => c.t.inputs.contains x.id)).foldl (fun m x => max m (earliest l n x)) c.t.release
/-- Members of a multicast code stream, the serving one too, on whose cluster a class D or class I command can become ready in the group's
window (R149). -/
def membersAtRisk (l : List PCmd) (c : PCmd) : List Nat :=
  match c.t.engine with
  | .yarder _ =>
    let w := fit 64 c.t.word
    if yEndpt w ≠ 1 ∨ yArg w = 0 then []
    else (maskList (yArg w)).filter (fun i => l.any (fun d =>
      d.t.engine == .cluster i && d.t.cls != .B && decide (c.start < d.finish) && decide (fld d.t.word 0 1 ≠ 1 ∨ fld d.t.word 0x10 2 ≠ c.stream) &&
        decide (earliest l l.length d < c.finish)))
  | _ => []
/-- The yarder of a member's standby stream: of its cluster's four the one with the fewest planned streams, not the group's own. -/
def standbyYard (l : List PCmd) (c : PCmd) (i : Nat) : Nat :=
  let load := fun (y : Nat) => (l.filter (fun d => d.t.engine == .yarder y)).length
  (((List.range 4).map (4 * i + ·)).filter (fun y => c.t.engine != .yarder y)).foldl (fun b y => if load y < load b then y else b)
    (if c.t.engine = .yarder (4 * i) then 4 * i + 1 else 4 * i)
/-- The standby streams of a list: what each member at risk would fetch by unicast (R149, R326), on a yarder of its own cluster. -/
def standbys (l : List PCmd) : List PCmd :=
  l.flatMap (fun c => (membersAtRisk l c).map (fun i => { c with t := { c.t with
    engine := .yarder (standbyYard l c i)
    paths := c.t.paths.filter (fun q => match q.1 with | .clusterIn k => decide (k = i) | _ => true) } }))
/-- No path carries more than its bandwidth in any interval, and no stack's DRAM more than its own. -/
def pathsFit (slow : List Nat) (l : List PCmd) : Bool :=
  (usedWins l).all (fun k =>
    let here := l.filter (fun c => decide (0 < overlap c.start c.finish k))
    let on := fun (p : PathId) => (here.map (fun c => bytesIn c p k)).foldl (· + ·) 0
    (here.flatMap (fun c => c.t.paths.map (·.1))).all (fun p =>
      decide (on p ≤ pathCap slow p) && decide (((sharedDram p).map on).foldl (· + ·) 0 ≤ 32000000)))
/-- The whole-beat terms of the power model, in W. -/
def State.staticW (s : State) : Nat :=
  380 + 9 * (((List.range 24).filter (fun l => (s.link l).up)).length) +
    8 * (((List.range 4).filter (fun p => (s.mem.cxl.getD p .down).up)).length)
/-- Modelled energy of commands beside the static terms, in units of 1/5000 W per time unit. -/
def energyOf (l : List PCmd) : Nat :=
  l.foldl (fun n c => n + 5000 * kindW c.t.power * c.t.wcet +
    27 * (c.t.paths.map (fun q => pathPj q.1 * q.2)).foldl (· + ·) 0) 0
/-- Modelled energy of interval `k`, in the same units. -/
def energyIn (l : List PCmd) (k : Nat) : Nat :=
  l.foldl (fun n c => n + 5000 * kindW c.t.power * overlap c.start c.finish k +
    27 * (c.t.paths.map (fun q => pathPj q.1 * bytesIn c q.1 k)).foldl (· + ·) 0) 0
/-- The floor of the effective cap in W, rounded up: static terms, blaze slots, running stop-word channels (R562). -/
def State.capFloor (s : State) (cfg : BeatCfg) (l : List PCmd) : Nat :=
  s.staticW + cdiv (energyOf (l.filter (fun c => c.blaze || c.kind == .stopword))) (5000 * cfg.pTu)
/-- The cap that CAP_W and the thermal cap give (R562, R564). -/
def State.capW (s : State) : Nat := min s.power.capW.toNat s.power.thermalCap
/-- The power model of a plan fits (R561). -/
def State.powerFits (s : State) (cfg : BeatCfg) (l : List PCmd) : Bool :=
  decide (5000 * s.staticW * cfg.pTu + energyOf l ≤ 5000 * max s.capW (s.capFloor cfg l) * cfg.pTu) &&
  (usedWins l).all (fun k => decide (5000 * s.staticW * winTu + energyIn l k ≤ 5000 * 2800 * winTu))
/-- Class D and I work of an engine. -/
def diLoad (l : List PCmd) (e : Engine) : Nat :=
  ((l.filter (fun c => c.t.engine == e && c.t.cls != .B)).map (·.t.wcet)).foldl (· + ·) 0
/-- SHARE_PM of an NMU command (R260 to R262). -/
def cmdShare (t : TCmd) : Nat :=
  match t.engine with
  | .gemv _ => fld t.word 0x28 2
  | .att _ => if fld t.word 0 1 = 0x13 ∨ fld t.word 0 1 = 0x14 then fld t.word 0x14 2 else fld t.word 0x24 2
  | _ => 0
/-- The largest share that commands of a stack's GEMV engine, or of its attention engine, need (R267). -/
def shareNeed (l : List PCmd) (e : Engine) : Nat :=
  ((l.filter (fun c => c.t.engine == e)).map (fun c => cmdShare c.t)).foldl max 0
/-- The shares of every stack can be met. -/
def sharesFit (l : List PCmd) : Bool :=
  (List.range 16).all (fun i => decide (shareNeed l (.gemv i) + shareNeed l (.att i) ≤ 1000))
/-- The deadline of a planned command: E unless class D sets earlier, and no later than its sub-window (R53, R374). -/
def State.dueBy (s : State) (cfg : BeatCfg) (c : PCmd) : Nat :=
  let d := if c.t.cls = .D ∧ c.t.deadline ≠ 0 then min c.t.deadline cfg.eTu else cfg.eTu
  match s.partOf c.dom, c.t.engine with
  | some k, .cluster _ => min d ((k + 1) * cfg.eTu / s.parts)
  | some k, .yarder _ => min d ((k + 1) * cfg.eTu / s.parts)
  | _, _ => d
/-- The opcode of an attention-engine command; 0 of another command. -/
def attOp (t : TCmd) : Nat := match t.engine with | .att _ => fld t.word 0 1 | _ => 0
/-- No NMU has more than 64 merge slots whose broadcast it waits for at once, between the last score and the value command of a slot
(R241). -/
def pendingFit (l : List PCmd) : Bool :=
  let values := l.filter (fun c => decide (attOp c.t = 0x12))
  let open_ := fun (v : PCmd) => ((l.filter (fun c => decide (attOp c.t = 0x11) && c.obj == v.obj && c.kind == v.kind &&
    decide (atMerge c.t.word = atMerge v.t.word))).map (·.finish)).foldl max 0
  values.all (fun v => decide (((values.filter (fun u => u.t.engine == v.t.engine && decide (open_ u ≤ open_ v ∧ open_ v < u.start))).length) ≤ 64))
/-- The skid queue that a command pushes to. -/
def pushTo (c : PCmd) : Option Nat := match c.t.engine with | .yarder _ => skidOut (fit 64 c.t.word) | _ => none
/-- The skid queue that a command pops from. -/
def popFrom (c : PCmd) : Option Nat := match c.t.engine with | .yarder _ => skidIn (fit 64 c.t.word) | _ => none
/-- Entries that a command pushes. -/
def pushCount (c : PCmd) : Nat := (pushList (fit 64 c.t.word)).2
/-- Entries that a command pops. -/
def popCount (c : PCmd) : Nat := fld (fit 64 c.t.word) 0x10 2
/-- Entries of a queue at the beat's start: what it holds, with what the running plan still pushes and pops. -/
def State.queueStart (s : State) (q : Nat) : Nat :=
  let left := s.plan.cur.filter (fun c => c.run == .queued || c.run == .running)
  (s.skid q).entries.length + ((left.filter (fun c => pushTo c == some q)).map pushCount).foldl (· + ·) 0 -
    ((left.filter (fun c => popFrom c == some q && c.run == .queued)).map popCount).foldl (· + ·) 0
/-- Every push at its command's earliest start, together with every pop at its worst-case start, leaves at most 64 entries (R333). -/
def State.queuesFit (s : State) (l : List PCmd) : Bool :=
  (l.filterMap pushTo).eraseDups.all (fun q =>
    let push := (l.filter (fun c => pushTo c == some q)).map (fun c => (earliest l l.length c, pushCount c))
    let pop := (l.filter (fun c => popFrom c == some q)).map (fun c => (c.start, popCount c))
    push.all (fun e => decide (s.queueStart q + ((push.filter (fun p => decide (p.1 ≤ e.1))).map (·.2)).foldl (· + ·) 0 ≤
      64 + ((pop.filter (fun p => decide (p.1 < e.1))).map (·.2)).foldl (· + ·) 0)))
/-- No engine has more than 16,384 commands in a beat (table *Beat limits*). -/
def countFit (l : List PCmd) : Bool :=
  ((l.map (·.t.engine)).eraseDups).all (fun e => decide ((l.filter (fun c => c.t.engine == e)).length ≤ 16384))
/-- A scheduled list fits, with what else its paths carry (R53, R561). -/
def State.fitsAll (s : State) (cfg : BeatCfg) (more l : List PCmd) : Bool :=
  l.all (fun c => decide (1 ≤ c.t.wcet ∧ c.t.wcet ≤ 40 * tuUs)) &&
  l.all (fun c => decide (c.finish ≤ s.dueBy cfg c ∧ c.finish + c.t.hops * tuUs ≤ cfg.eTu)) &&
  l.all (fun c => decide (1000 * diLoad l c.t.engine ≤ (1000 - cfg.bfloor.toNat) * cfg.eTu)) &&
  l.all (fun c => match s.partOf c.dom, c.t.engine with
    | some k, .gemv i => decide (i / (16 / s.parts) = k)
    | some k, .att i => decide (i / (16 / s.parts) = k)
    | _, _ => true) &&
  countFit l && s.queuesFit l && pendingFit l && sharesFit l && pathsFit s.cxlSlow (l ++ standbys l ++ more) && s.powerFits cfg l

/-! ## SFU bank loads (R194 to R198) -/

/-- The banks of a cluster as sets, the one used last first, the command that first uses that one, and the loads placed so far. -/
structure BankPlan where
  recent : Option Word
  other : Option Word
  first : Option Nat
  loads : List BankLoad
/-- One more command that needs a set, after the commands `before` of its cluster: the set's bank, or a load into the bank that was
used longest ago. Such a load waits for every command before it that needs what that bank holds. -/
def State.useBank (s : State) (beat cl : Nat) (before : List PCmd) (c : PCmd) (h : Word) (p : BankPlan) : BankPlan :=
  let named := p.loads.map (fun b => if b.set = h ∧ (p.loads.filter (fun x => x.set == h)).getLast? = some b then { b with after := b.after ++ [c.id] } else b)
  if p.recent = some h then { p with first := some (p.first.getD c.id), loads := named }
  else if p.other = some h then { recent := some h, other := p.recent, first := some c.id, loads := named }
  else { recent := some h, other := p.recent, first := some c.id, loads := p.loads ++ [{
    cluster := cl, set := h, after := [c.id], turn := p.first, done := false, failed := false,
    before := (before.filter (fun b => s.setNeed beat b == p.other)).map (·.id) }] }
/-- The commands of a cluster that need a set, taken in order. -/
def State.runBanks (s : State) (beat cl : Nat) (l : List PCmd) (p : BankPlan) : BankPlan :=
  let mine := l.filter (fun c => c.t.engine == .cluster cl && (s.setNeed beat c).isSome)
  mine.zipIdx.foldl (fun (p : BankPlan) (q : PCmd × Nat) =>
    match s.setNeed beat q.1 with | some h => s.useBank beat cl (mine.take q.2) q.1 h p | none => p) p
/-- The banks of a cluster as the released plan will leave them: a load whose check has failed brings nothing (R197). -/
def State.bankStart (s : State) (cl : Nat) : BankPlan :=
  let k := (s.cluster cl).sfu
  let of := fun (b : SfuBank) => if b.valid then some b.set else none
  let p : BankPlan := if k.active then { recent := of k.bankB, other := of k.bankA, first := none, loads := [] }
    else { recent := of k.bankA, other := of k.bankB, first := none, loads := [] }
  let lost := fun (c : PCmd) => s.plan.curRegs.loads.any (fun b => b.failed && b.after.contains c.id)
  { s.runBanks s.beat.number.toNat cl (s.plan.cur.filter (fun c => (c.run == .queued || c.run == .running) && !lost c)) p with first := none, loads := [] }
/-- The loads that a list of planned commands of a beat needs, cluster by cluster. -/
def State.loadsFor (s : State) (beat : Nat) (l : List PCmd) : List BankLoad :=
  (List.range 8).flatMap (fun cl => (s.runBanks beat cl l (s.bankStart cl)).loads)
/-- A list in which what a load replaces is waited for by what the load brings (R196), and so is the command that first uses the other
bank: a load writes only the bank that is not active (R195). -/
def withLoads (loads : List BankLoad) (l : List PCmd) : List PCmd :=
  l.map (fun c => { c with t := { c.t with inputs := c.t.inputs ++
    ((loads.filter (fun b => b.after.contains c.id)).flatMap (fun b => b.before ++ b.turn.toList)).filter (fun i => !c.t.inputs.contains i) } })
/-- Time of a bank load: 324 cluster cycles (R195). -/
abbrev loadTu : Nat := 648
/-- The inbound traffic of bank loads, 256 bytes a cycle, in the time before the first command that waits for each (R195, R198). -/
def loadTraffic (loads : List BankLoad) (l : List PCmd) : List PCmd :=
  loads.filterMap (fun b => (l.find? (fun c => b.after.head? == some c.id)).map (fun c => { c with
    start := c.start - loadTu, finish := max loadTu c.start, t := { c.t with paths := [(.clusterIn b.cluster, 256 * 324)] } }))
/-- The schedule of a list of a beat with its bank loads, if the plan fits. -/
def State.prove (s : State) (beat : Nat) (cfg : BeatCfg) (l : List PCmd) : Option (List PCmd) :=
  let loads := s.loadsFor beat l
  (schedule s.cxlSlow (withLoads loads l)).bind (fun q => if s.fitsAll cfg (loadTraffic loads q) q then some q else none)

/-! ## Commands of a plan -/

/-- A command of a plan before it is scheduled. -/
def mkPCmd (id : Nat) (t : TCmd) (client : Nat) (obj : Word) (kind : TemplKind) (dom model : Nat) : PCmd :=
  { id := id, tname := t.name, t := t, client := client, obj := obj, kind := kind, dom := dom, blaze := false,
    model := model, stream := (match t.engine with | .yarder _ => yNum t.word | _ => 0), start := 0, finish := 0,
    run := .queued, startedAt := 0, finishedAt := 0, readyAt := 0, status := stOk, rows := [], acc := none, copy := none }
/-- A firmware command without bytes or inputs. -/
def bareCmd (id : Nat) (e : Engine) (wcet release deadline : Nat) (p : PowerKind) : TCmd :=
  { name := id, engine := e, cls := .D, wcet := wcet, release := release, deadline := deadline, inputs := [], need := 0,
    hops := 0, paths := [], power := p, form := 0, word := [], tensor := none, row := none, kv := none, contrib := none }
/-- Bytes that a blaze frame moves while it runs: its yarder streams bring golden inputs from the firmware area of a stack and take its
outputs away, and its NMU commands read a blaze area (R25, R503; how many is the firmware's: DESIGN CHOICE, log entry 178). -/
def blazePaths (e : Engine) : List (PathId × Nat) :=
  match e with
  | .cluster r => [(.clusterIn r, 8388608), (.clusterOut r, 1048576), (.stack r, 9437184)]
  | .gemv k => [(.nmuDram k, 8388608), (.stack k, 1048576)]
  | .att k => [(.nmuDram k, 4194304)]
  | .yarder _ => []
/-- The blaze slots of a beat, one in every sub-window (R502, R503, R508, R374). -/
def State.blazeCmds (s : State) (beat : Nat) (cfg : BeatCfg) : List PCmd :=
  let r := beat % 24
  let up := fun (u : UnitId) => s.svc u == .inService || s.svc u == .moving
  let mk := fun (id k : Nat) (e : Engine) (w : Nat) (p : PowerKind) =>
    { mkPCmd id { bareCmd id e w (k * cfg.eTu / s.parts) ((k + 1) * cfg.eTu / s.parts) p with paths := blazePaths e } 0 0 .load 0 0 with blaze := true }
  (List.range s.parts).flatMap (fun k =>
    if r < 8 then (if up ⟨.cluster, r⟩ then [mk (2 * k) k (.cluster r) (36 * tuUs) .array] else [])
    else if up ⟨.nmu, r - 8⟩ then
      [mk (2 * k) k (.gemv (r - 8)) (20 * tuUs) .gemv, mk (2 * k + 1) k (.att (r - 8)) (20 * tuUs) .att]
    else [])
/-- A cluster moved `k` places on among the clusters in service. -/
def shiftCluster (svc : List Nat) (k c : Nat) : Nat :=
  match svc.idxOf? c with
  | some i => svc.getD ((i + k) % svc.length) c
  | none => c
/-- A multicast mask moved with its clusters. -/
def shiftMask (svc : List Nat) (k m : Nat) : Nat :=
  (maskList m).foldl (fun a c => a ||| 2 ^ shiftCluster svc k c) 0
/-- A command of a template placed on the clusters `k` places on, with its yarders, paths and multicast mask. A multicast stream runs on a
yarder of its lowest-numbered member (R326). -/
def shiftCmd (svc : List Nat) (k : Nat) (t : TCmd) : TCmd :=
  let f := shiftCluster svc k
  let group := (match t.engine with | .yarder _ => true | _ => false) && decide (yEndpt t.word = 1 ∧ yArg t.word ≠ 0)
  let mask := shiftMask svc k (yArg t.word)
  { t with
    engine := (match t.engine with
      | .cluster c => .cluster (f c)
      | .yarder y => .yarder (4 * (if group then (maskList mask).headD (f (y / 4)) else f (y / 4)) + y % 4)
      | e => e),
    paths := t.paths.map (fun p => match p.1 with
      | .clusterIn c => (.clusterIn (f c), p.2)
      | .clusterOut c => (.clusterOut (f c), p.2)
      | _ => p),
    word := if group then putBytes t.word 0x14 (natLe 2 mask) else t.word }
/-- The class of a kind of work (table *Work classes*, R48). -/
def kindCls : TemplKind → Cls
  | .encode => .D | .decoder => .D | .stopword => .D | .decode => .I | .prefill => .B | .load => .B
/-- A command over the links and ports in service (R29, R31). -/
def State.reroute (s : State) (t : TCmd) : TCmd :=
  { t with
    paths := t.paths.map (fun p => ((s.pathFor p.1).getD p.1, p.2))
    word := (match t.engine, yLink t.word with
      | .yarder _, some l => putBytes t.word 0x14 (natLe 2 ((s.linkFor l).getD l))
      | _, _ => t.word) }
/-- A yarder word with ARB as its class has it (R335). -/
def arbWord (cls : Cls) (w : List Byte) : List Byte :=
  let v := fit 64 w
  putBytes v 3 [BitVec.ofNat 8 (fld v 3 1 / 2 * 2 + b2n (cls != .B))]

/-! ## Key-value work (R247, R254, R282, R305) -/

/-- Steps of a session that the released plan holds and whose record is not written. -/
def State.unwritten (s : State) (x : Session) : Nat :=
  let h := BitVec.ofNat 32 (s.handleOf 2 x.idx)
  if s.plan.cur.any (fun c => c.kind == .decode && c.obj == h) && x.recBeat != some s.beat.number.toNat then 1 else 0
/-- The position that a session's step of the next beat writes. -/
def State.nextPos (s : State) (x : Session) : Nat := x.positions + s.unwritten x
/-- The session whose pages a piece of work reads and writes. -/
def State.workSession (s : State) (kind : TemplKind) (obj : Word) : Option Session :=
  if kind = .decode ∨ kind = .prefill then s.session (hIdx obj.toNat) else none
/-- The first position that a piece of work of a session writes, and how many. -/
def State.workSpan (s : State) (kind : TemplKind) (x : Session) : Nat × Nat :=
  match kind, x.prefill with
  | .prefill, some p => (p.1, p.2.1)
  | _, _ => (s.nextPos x, 1)
/-- The frame of page `p` of a layer of a session. -/
def State.pageLoc (s : State) (x : Session) (p a : Nat) : Option FrameLoc := (x.pages[p]?).bind (fun f => (s.fset f).bind (fun y => y.locs[a]?))
/-- The stack of page `p` of a layer: where its frame lies, or will lie (R282). -/
def State.kvStack (s : State) (x : Session) (p a : Nat) : Option Nat :=
  match s.pageLoc x p a, s.geom x.model with
  | some l, some g => if l.tier = 1 then some l.stack else some (s.pageStack (match s.model x.model with | some m => m.dom | none => 0) g p a)
  | none, some g => some (s.pageStack (match s.model x.model with | some m => m.dom | none => 0) g p a)
  | _, none => none
/-- The most pages of a layer that a stack can hold for a session: what its MAX_CTX needs (R305). -/
def State.maxPages (s : State) (x : Session) : Nat := cdiv (x.maxCtx / 64) (max 1 (s.svcList .nmu).length)
/-- The pages of a layer that a stack holds for a position of a session. -/
def State.listPages (s : State) (x : Session) (k layer pos : Nat) : Nat :=
  ((List.range (pos / 64 + 1)).filter (fun p => decide (s.kvStack x p layer = some k))).length
/-- An attention command on a stack, with what it moves there in place of its template's stack (R25, R282). -/
def onStack (k : Nat) (t : TCmd) : TCmd :=
  match t.engine with
  | .att k0 => { t with engine := .att k, paths := t.paths.map (fun p =>
      if p.1 = .stack k0 then (.stack k, p.2) else if p.1 = .nmuDram k0 then (.nmuDram k, p.2) else p) }
  | _ => t
/-- A key-value or attention command of a session's work: on the stack of its page, its worst case that of MAX_CTX (R305), PAGES the
length of its list; none where the work does not need it: a token past its end, or a KVSEAL whose token does not fill its page (R254).
`full` asks for every KVSEAL and the longest list, as a beat may need them. -/
def State.kvCmd (s : State) (full : Bool) (kind : TemplKind) (x : Session) (t : TCmd) : Option TCmd :=
  match t.kv with
  | none => some t
  | some q =>
    let span := s.workSpan kind x
    let p := span.1 + q.token
    let fp8 := match s.model x.model with | some m => m.kvFp8 | none => false
    if span.2 ≤ q.token then none
    else match attOp t with
      | 0x13 => some (onStack ((s.kvStack x (p / 64) q.layer).getD 0) t)
      | 0x14 => if fp8 && (full || decide (p % 64 = 63)) then some (onStack ((s.kvStack x (p / 64) q.layer).getD 0) t) else none
      | 0x11 | 0x12 => some { t with
          word := putBytes (fit 64 t.word) 0x10 (natLe 2 (if full then s.maxPages x
            else s.listPages x (match t.engine with | .att k => k | _ => 0) q.layer p))
          wcet := 4 * atCycles (putBytes t.word 0x10 (natLe 2 (s.maxPages x))) (rateA (fld t.word 0x24 2)) fp8 }
      | _ => some t
/-- Where a command word names streams (tables of the command words). -/
def streamFields (t : TCmd) : List Nat :=
  match t.engine with
  | .yarder _ => [4]
  | .cluster _ => match fld t.word 0 1 with | 1 => [0x10, 0x12, 0x14] | 2 => [8, 0xA] | 3 => [0xA, 0xC, 0xE] | _ => []
  | .gemv _ => [0x1E]
  | .att _ => []
/-- The local stream indices that some commands name, those of link streams first. -/
def localStreams (l : List TCmd) : List Nat :=
  let of := fun (q : List TCmd) => (q.flatMap (fun t => (streamFields t).map (fun o => fld t.word o 2))).filter (fun i => decide (i ≠ 0xFFFF))
  (of (l.filter (fun t => match t.engine with | .yarder _ => (yLink t.word).isSome | _ => false)) ++ of l).eraseDups
/-- A command with stream numbers in place of its local indices (R308). -/
def withStreams (nums : List (Nat × Nat)) (t : TCmd) : TCmd :=
  { t with word := (streamFields t).foldl (putIndex nums) t.word }
/-- Stream numbers that a command of another piece of work must not take: those of what is placed so far, and of the running plan's
class B streams, which may run on into the next beat. -/
def State.streamsTaken (s : State) (sofar : List PCmd) : List Nat :=
  (sofar ++ s.plan.cur.filter (fun c => c.t.cls == .B && (c.run == .queued || c.run == .running))).filterMap (fun c =>
    match c.t.engine with | .yarder _ => some c.stream | _ => none)
/-- A link stream entry of a template belongs to an egress command (R408). -/
def entryOf (e : Nat × List Byte) (x : TCmd) : Bool :=
  (match x.engine with | .yarder _ => true | _ => false) && decide (yEndpt x.word = 0xA ∧ e.1 = yArg x.word ∧ fld e.2 0 2 = yNum x.word)
/-- FLAGS of a link stream entry as the plan sets them: COMP on class B streams whose first hop reaches DEST (R401), URG on those of
class D and class I (R385). -/
def State.entryFlags (s : State) (cls : Cls) (e : Nat × List Byte) : Nat :=
  let f := fld e.2 6 1
  f / 4 * 4 + b2n (f.testBit 0 && cls == .B && decide ((s.link ((s.linkFor e.1).getD e.1)).peerId.toNat = fld e.2 4 2)) + 2 * b2n (cls != .B)
/-- Frame bytes on a link of a stream's bytes: compressed blocks as if none shrank (R401). -/
def linkCharge (comp : Bool) (b : Nat) : Nat :=
  let n := if comp then b + 16 * cdiv b 4096 else b
  n + 32 * cdiv n 16384
/-- An egress command with what the plan charges its link, and the compressor's time at 40 GB/s where that is longer (R401). -/
def State.charged (s : State) (kind : TemplKind) (model : Nat) (x : TCmd) : TCmd :=
  match (((s.model model).bind (fun m => s.template m kind)).map (·.links)).getD [] |>.find? (fun e => entryOf e x) with
  | none => x
  | some e =>
    let comp := (s.entryFlags (kindCls kind) e).testBit 0
    let b := ((x.paths.filter (fun p => match p.1 with | .dwevyTx _ => true | _ => false)).map (·.2)).foldl max 0
    { x with
      paths := x.paths.map (fun p => match p.1 with | .dwevyTx _ => (p.1, linkCharge comp p.2) | _ => p)
      wcet := if comp then max x.wcet (cdiv (27 * b) 200) else x.wcet }
/-- One piece of work as commands of a plan, numbered from `base`; in a partition its shared engines wait for its
sub-window (R374). The class is that of the kind of work, and a stream's ARB follows it (R48, R335). -/
def State.instantiate (s : State) (full : Bool) (cfg : BeatCfg) (base client : Nat) (obj : Word) (kind : TemplKind) (dom model : Nat)
    (taken : List Nat) (l0 : List TCmd) : List PCmd :=
  let nums := assignNums 4096 (localStreams l0) taken
  let l := (match s.workSession kind obj with
    | some x => l0.filterMap (s.kvCmd full kind x)
    | none => l0).map (fun t => withStreams nums (s.reroute (s.charged kind model t)))
  let names := l.zipIdx.map (fun p => (p.1.name, base + p.2))
  l.zipIdx.map (fun p =>
    let lo := match s.partOf dom, p.1.engine with
      | some k, .cluster _ => k * cfg.eTu / s.parts
      | some k, .yarder _ => k * cfg.eTu / s.parts
      | _, _ => 0
    let word := match p.1.engine with | .yarder _ => arbWord (kindCls kind) p.1.word | _ => p.1.word
    { mkPCmd (base + p.2) { p.1 with
        cls := kindCls kind, word := word, release := max p.1.release lo,
        inputs := p.1.inputs.filterMap (fun i =>
          if l0.any (·.name == i) && !l.any (·.name == i) then none else some ((kget names i).getD (2 ^ 40 + i))) }
        client obj kind dom model with tname := p.1.name })

/-! ## The order that the plan adds (R213, R253, R254, R328, R357) -/

/-- Bytes of the score area that an attention command uses. -/
def scoreSpan (w : List Byte) : Nat × Nat := (atScoreOff w, atScoreOff w + atRows w * atPages w * 256)
/-- Commands of one piece of work of which the first comes before the second: KVPUT, attention, KVSEAL of one layer; ATT_SCORE and
ATT_VALUE of one stack and slot. -/
def kvBefore (a b : PCmd) : Bool :=
  (match a.t.kv, b.t.kv with
   | some p, some q =>
     decide (p.layer = q.layer) &&
       ((decide (attOp a.t = 0x13 ∧ (attOp b.t = 0x11 ∨ attOp b.t = 0x12)) && decide (p.token ≤ q.token)) ||
        (decide ((attOp a.t = 0x11 ∨ attOp a.t = 0x12 ∨ attOp a.t = 0x13) ∧ attOp b.t = 0x14) && decide (p.token ≤ q.token)) ||
        (decide (attOp a.t = 0x14 ∧ (attOp b.t = 0x11 ∨ attOp b.t = 0x12)) && decide (p.token < q.token)))
   | _, _ => false) ||
  (decide (attOp a.t = 0x11 ∧ attOp b.t = 0x12) && a.t.engine == b.t.engine && decide (atMerge a.t.word = atMerge b.t.word))
/-- Where a planned stream writes with ACC, as its list in memory has it: first byte and past the last (R320, R357). -/
def State.accSpans (s : State) (c : PCmd) : List (Nat × Nat) :=
  match c.t.engine with
  | .yarder _ =>
    let w := fit 64 c.t.word
    if !(yIsCopy w || yWrites w) then []
    else
      let l := pushList w
      (List.range l.2).flatMap (fun i =>
        match parseDesc true (MemOps.readN s.mem.dev (l.1 + 32 * i) 32) with
        | some d => if c.acc.getD d.acc then (List.range d.rep).map (fun r => (runAddr d r, runAddr d r + d.len)) else []
        | none => [])
  | _ => []
/-- Two lists of spans share a byte. -/
def spansMeet (a b : List (Nat × Nat)) : Bool := a.any (fun x => b.any (fun y => decide (x.1 < y.2 ∧ y.1 < x.2)))
/-- The commands planned before a command on which it depends beside its template: the last that wrote an object it writes (R213), the
last that pushed to its queue and the last that popped from it (R328), the last ATT_VALUE that read its score region (R253), those that
write with ACC where it does (R320); a KVPUT on the copies of the pages that its session writes (R303). -/
def State.touches (s : State) (before : List PCmd) (c : PCmd) : List Nat :=
  let last := fun (p : PCmd → Bool) => ((before.reverse.find? p).map (·.id)).toList
  let acc := s.accSpans c
  (s.objsOf c).flatMap (fun i => last (fun b => (s.objsOf b).contains i)) ++
  (match pushTo c with | some q => last (fun b => pushTo b == some q) | none => []) ++
  (match popFrom c with | some q => last (fun b => popFrom b == some q) | none => []) ++
  (if attOp c.t = 0x11 then last (fun b => decide (attOp b.t = 0x12) && b.t.engine == c.t.engine &&
      decide ((scoreSpan b.t.word).1 < (scoreSpan c.t.word).2 ∧ (scoreSpan c.t.word).1 < (scoreSpan b.t.word).2)) else []) ++
  (if acc.isEmpty then [] else (before.filter (fun b => spansMeet acc (s.accSpans b))).map (·.id)) ++
  (if attOp c.t = 0x13 then (before.filter (fun b => b.obj == c.obj && (match b.copy with | some (.page ..) => true | _ => false))).map (·.id) else [])
/-- Of the contributions to one sum, the one before: that of the next lower module (R357). -/
def contribBefore (l : List PCmd) (c : PCmd) : Option PCmd :=
  match c.t.contrib with
  | none => none
  | some q => (sortBy (fun b => match b.t.contrib with | some x => x.2 | none => 0)
      (l.filter (fun b => match b.t.contrib with | some x => decide (x.1 = q.1 ∧ x.2 < q.2) | none => false))).getLast?
/-- A list in dependency order, equal ranks in their former order; what depends on itself in a circle comes last. -/
def inOrder : Nat → List PCmd → List PCmd
  | 0, l => l
  | n + 1, l =>
    match l.find? (fun c => c.t.inputs.all (fun i => !l.any (·.id == i))) with
    | none => l
    | some c => c :: inOrder n (l.filter (fun x => decide (x.id ≠ c.id)))
/-- A command with more inputs. -/
def PCmd.after (c : PCmd) (ids : List Nat) : PCmd :=
  { c with t := { c.t with inputs := c.t.inputs ++ (ids.eraseDups).filter (fun i => !c.t.inputs.contains i && decide (i ≠ c.id)) } }
/-- A piece of work after what is placed so far, with the order that the plan adds. -/
def State.ordered (s : State) (sofar mine : List PCmd) : List PCmd :=
  let own := mine.map (fun c =>
    let p := contribBefore mine c
    { (c.after ((mine.filter (fun b => kvBefore b c)).map (·.id) ++ (p.map (·.id)).toList)) with
      acc := if c.t.contrib.isSome then some p.isSome else none })
  (inOrder own.length own).foldl (fun (acc : List PCmd) (c : PCmd) => acc ++ [c.after (s.touches (sofar ++ acc) c)]) []
/-- Merge slots that some commands name. -/
def mergeCount (l : List PCmd) : Nat :=
  (((l.filter (fun c => decide (attOp c.t = 0x11 ∨ attOp c.t = 0x12))).map (fun c => (c.obj, c.kind, atMerge c.t.word))).eraseDups).length
/-- The commands of a reservation for the units in service (R34). -/
def State.workOf (s : State) (r : Resv) : List TCmd :=
  match s.model r.model with
  | some m => match s.template m r.kind with | some t => t.cmds | none => []
  | none => []
/-- The object that a piece of work of a model with recurrent layers writes is there to be named: not destroyed, with no destroy that
waits (R228, R229). -/
def State.objsLive (s : State) (kind : TemplKind) (obj : Word) : Bool :=
  (s.workObjs kind obj).all (fun i => match s.obj i with | some o => o.destroying.isNone | none => false)
/-- Clusters that commands use. -/
def clustersOf (l : List PCmd) : List Nat :=
  l.filterMap (fun c => match c.t.engine with | .cluster i => some i | _ => none)
/-- Work of the safety domain runs only on units that have passed a blaze frame (R507). -/
def State.blazedOk (s : State) (l : List PCmd) : Bool :=
  l.all (fun c => decide (c.dom ≠ s.safe.safetyDomain.toNat) || decide (s.safe.safetyDomain = 0xFF) ||
    (match engineUnit c.t.engine with
     | some u => match u.kind with
       | .cluster => s.safe.blazed.contains u.index
       | _ => s.safe.blazed.contains (8 + u.index)
     | none => true))
/-- One piece of work added to what is placed so far, on the first clusters on which the whole fits: the other path of a
stop-word slot is on another cluster (R520). -/
def State.addWork (s : State) (full : Bool) (beat : Nat) (cfg : BeatCfg) (sofar : List PCmd) (client : Nat) (obj : Word)
    (kind : TemplKind) (dom model : Nat) (l : List TCmd) : Option (List PCmd) :=
  let svc := s.svcList .cluster
  let twin := if kind = .stopword then
      clustersOf (sofar.filter (fun c => c.kind == .stopword && c.obj != obj && decide (c.obj.toNat / 2 = obj.toNat / 2))) else []
  let base := 1000 + sofar.length
  (List.range (max 1 svc.length)).findSome? (fun k =>
    let mine := s.ordered sofar (s.instantiate full cfg base client obj kind dom model (s.streamsTaken sofar) (l.map (shiftCmd svc k)))
    let all := sofar ++ mine
    if decide (mergeCount all ≤ 1024) && mine.all (fun c => decide (c.stream < 4096)) && s.blazedOk mine && (clustersOf mine).all (fun c => !twin.contains c) &&
        (s.prove beat cfg (s.blazeCmds beat cfg ++ all)).isSome then some all else none)

/-! ## The DCP's own copies (R25, R46, R58, R288, R303, R311) -/

/-- Bytes per fabric cycle of the stream of a page copy (DESIGN CHOICE, log entry 177). -/
abbrev pageRate : Nat := 256
/-- The yarder command word of a page copy, a COPY of one descriptor to one descriptor, whose lists stand one after the other (R311). -/
def copyWord (dom num list wcet : Nat) : List Byte :=
  natLe 1 0x21 ++ zeros 1 ++ natLe 1 dom ++ natLe 1 1 ++ natLe 2 num ++ zeros 1 ++ natLe 1 1 ++ natLe 8 list ++ natLe 2 1 ++ natLe 2 1 ++
    zeros 2 ++ natLe 2 pageRate ++ natLe 8 (list + 64) ++ natLe 2 0xFFFF ++ natLe 2 0xFFFF ++ zeros 4 ++ natLe 4 wcet ++ zeros 20
/-- A descriptor of `n` runs of `len` bytes (R315). -/
def descBytes (addr len n stride : Nat) : List Byte := natLe 8 addr ++ natLe 4 len ++ natLe 2 n ++ zeros 2 ++ natLe 8 stride ++ zeros 8
/-- The address of the lists of the `j`-th command of a beat's plan, in the firmware area of a stack (R348; DESIGN CHOICE, log entry 177). -/
def listPlace (beat k j : Nat) : Nat := stackBase k + 0x4000000 + beat % 2 * 0x8000000 + 128 * j
/-- A stream number that nothing planned has. -/
def State.freeStream (s : State) (sofar : List PCmd) : Nat :=
  let t := s.streamsTaken sofar
  ((List.range 4096).find? (fun n => !t.contains n)).getD 0
/-- What is placed so far, and after it the copies of a session's page, one class I yarder command for each attention layer (R303): `cows`
are the plan's page copies. -/
def State.pageCopies (s : State) (beat : Nat) (kind : TemplKind) (client i : Nat) (cows : List (Nat × Nat × Nat)) (sofar : List PCmd) : List PCmd :=
  match cows.find? (fun c => decide (c.1 = i)) with
  | none => sofar
  | some c =>
    match s.fset c.2.1 with
    | none => sofar
    | some a =>
      match s.geom a.model with
      | none => sofar
      | some g =>
        a.locs.zipIdx.foldl (fun (acc : List PCmd) (l : FrameLoc × Nat) =>
          let cyc := 432 + cdiv (trailerOff g) pageRate
          let t := bareCmd (2 ^ 32 + l.2) (.yarder (acc.length % 32)) (3 * cyc) 0 0 .none
          acc ++ [{ mkPCmd (1000 + acc.length) { t with
              cls := .I, paths := [(.stack l.1.stack, 2 * trailerOff g)]
              word := copyWord a.dom (s.freeStream acc) (listPlace beat l.1.stack acc.length) cyc }
            client (BitVec.ofNat 32 (s.handleOf 2 i)) kind a.dom a.model with copy := some (.page i c.2.1 c.2.2 l.2) }]) sofar
/-- Bytes of one part of a class B copy, and the most parts of one copy in a plan (DESIGN CHOICE, log entry 177). -/
abbrev partBytes : Nat := 262144
abbrev partsMost : Nat := 15
/-- The way of reads, and of writes, at a device address. -/
def readWay (a : Nat) : List PathId :=
  match placeOf a with
  | .hbm k => [.stack k] | .window i => [.lcRead i] | .cxl p => [.cxlRd p, .linkDieRx (p / 2)] | .control => [.controlRx] | .hole => []
def writeWay (a : Nat) : List PathId :=
  match placeOf a with
  | .hbm k => [.stack k] | .window i => [.lcWrite i] | .cxl p => [.cxlWr p, .linkDieTx (p / 2)] | .control => [.controlTx] | .hole => []
/-- The sources and the destinations of a class B copy as device addresses, and its bytes. -/
def State.copyEnds (s : State) (c : DcpCopy) : List Nat × List Nat × Nat :=
  let hbm := (s.svcList .nmu).map stackBase
  let objPlace := fun (i : Nat) => ((s.obj i).map (·.addr)).toList
  let objLen := fun (i : Nat) => match s.obj i with | some o => 4096 + bodyBytes o.heads o.dk16 o.dv16 o.layers | none => 0
  let sets := fun (l : List Nat) => l.filterMap s.fset
  match c with
  | .page .. => ([], [], 0)
  | .swap i => match (s.obj i).bind (·.swap) with
    | some w => (objPlace i, if w.dest = 3 then [] else [w.target], objLen i)
    | none => ([], [], 0)
  | .move u =>
    let others := if u.kind = .nmu then hbm else (s.svcList .cxl).map cxlBase
    let from_ := if u.kind = .nmu then stackBase u.index else cxlBase u.index
    ([from_], others, (s.mem.held.filter (fun h => decide (placeOf h.1 = placeOf from_))).foldl (fun n h => n + h.2.1 * regionSize) regionSize)
  | .relay => (hbm, hbm, (s.ctrl.models.flatMap (·.stripes)).foldl (fun n t => n + t.foldl (fun n q => n + q.2.2) 0) regionSize)
  | .work b =>
    match b.kind with
    | .memCopy =>
      let w := ((s.box b.client b.mbox).map (·.payload)).toList.flatten
      let at_ := fun (bit a : Nat) => if (fld w 0x18 1).testBit bit then s.carveAddr a else a
      ([at_ 0 (fld w 0 8)], [at_ 1 (fld w 8 8)], fld w 0x10 8)
    | .modelLoad => match s.box b.client b.mbox with
      | some x => ([if x.refSpace = 1 then s.carveAddr x.refAddr.toNat else x.refAddr.toNat], hbm, x.refLen)
      | none => ([], [], 0)
    | .stateCopy => (objPlace b.obj, [b.arg], objLen b.obj)
    | .snapshot => (objPlace b.arg, objPlace b.arg, objLen b.arg)
    | .reuse => (objPlace b.arg, (match s.session b.obj with | some x => objPlace (hIdx x.rstate.toNat) | none => []), objLen b.arg)
    | .pageMove => ((sets [b.arg]).flatMap (fun x => x.locs.map frameAddr), ((s.svcList .cxl).map cxlBase).take 1,
        (sets [b.arg]).foldl (fun n x => n + x.locs.length * s.modelF x.model) 0)
    | .pageBack =>
      let far := (sets (match s.session b.obj with | some x => x.pages | none => [])).flatMap (fun x => (x.locs.filter (·.tier == 2)).map (fun l => (frameAddr l, s.modelF x.model)))
      (far.map (·.1), hbm, far.foldl (fun n q => n + q.2) 0)
    | .prefill => ([], [], 0)
    | .dataMove => ([], [], 0)
/-- One part of a class B copy: its bytes spread over the ways of its sources and destinations. -/
def State.copyPart (s : State) (c : DcpCopy) (client : Nat) (sofar : List PCmd) : PCmd :=
  let e := s.copyEnds c
  let spread := fun (way : Nat → List PathId) (l : List Nat) => ((l.flatMap way).eraseDups).map (fun p => (p, cdiv partBytes (max 1 l.length)))
  let link := match c with
    | .swap i => (match (s.obj i).bind (·.swap) with
      | some w => if w.dest = 3 then (((List.range 24).filter (fun l => ((kget s.links.routes w.modul).getD 0).getLsbD l)).take 1).map (fun l => (PathId.dwevyTx l, partBytes)) else []
      | none => [])
    | _ => []
  let t := bareCmd (2 ^ 32) (.yarder (sofar.length % 32)) (3 * (1296 + cdiv partBytes 55)) 0 0 .none
  { mkPCmd (1000 + sofar.length) { t with cls := .B, paths := spread readWay e.1 ++ spread writeWay e.2.1 ++ link } client 0 .load 0 0 with copy := some c }
/-- The parts of a copy, as many as its bytes need and the plan has room for. -/
def State.addParts (s : State) (beat : Nat) (cfg : BeatCfg) (c : DcpCopy) (client : Nat) : Nat → List PCmd → List PCmd
  | 0, l => l
  | n + 1, l =>
    let q := l ++ [s.copyPart c client l]
    if (s.prove beat cfg (s.blazeCmds beat cfg ++ q)).isSome then s.addParts beat cfg c client n q else l
/-- Class B copies that wait, in the order in which a plan takes them: page moves of R288 ahead of all other class B work, then what a
fence, a returning stack and swaps need, then copies admitted before this beat (R60, R63). -/
def State.copiesDue (s : State) : List (DcpCopy × Nat) :=
  let b := s.plan.bwork
  (b.filter (fun w => w.kind == .pageMove && !w.taken)).map (fun w => (.work w, w.client)) ++
  (s.units.fences.filter (fun f => (f.1.kind == .nmu || f.1.kind == .cxl) && !f.2.2)).map (fun f => (.move f.1, 0)) ++
  (if s.units.relayDue then [(.relay, 0)] else []) ++
  (s.ctrl.objs.filter (fun o => match o.swap with | some w => w.copying && w.copied.isNone | none => false)).map (fun o => (.swap o.idx, o.client)) ++
  (b.filter (fun w => (w.kind == .snapshot && !w.taken) ||
      (decide (w.beat < s.beat.number.toNat) && (w.kind == .memCopy || w.kind == .stateCopy || w.kind == .pageBack || w.kind == .modelLoad || w.kind == .reuse)))).map
    (fun w => (.work w, w.client))
/-- The copies that wait added to a plan. -/
def State.addCopies (s : State) (beat : Nat) (cfg : BeatCfg) (l : List PCmd) : List PCmd :=
  s.copiesDue.foldl (fun (l : List PCmd) (c : DcpCopy × Nat) =>
    let n := (s.copyEnds c.1).2.2
    s.addParts beat cfg c.1 c.2 (min partsMost (max 1 (cdiv n partBytes))) l) l

/-! ## Reservations placed -/

/-- Reservations placed one after another. -/
def State.addResvs (s : State) (full : Bool) (beat : Nat) (cfg : BeatCfg) (l : List Resv) : Option (List PCmd) :=
  l.foldl (fun (acc : Option (List PCmd)) (r : Resv) =>
    acc.bind (fun q => s.addWork full beat cfg q r.client r.obj r.kind r.dom r.model (s.workOf r)))
    (if (s.prove beat cfg (s.blazeCmds beat cfg)).isSome then some [] else none)
/-- The length bucket of a number of positions (R304). -/
def lenBucket (n : Nat) : Nat :=
  if n ≤ 2048 then 0 else if n ≤ 4096 then 1 else if n ≤ 8192 then 2 else if n ≤ 16384 then 3
  else if n ≤ 32768 then 4 else if n ≤ 65536 then 5 else if n ≤ 131072 then 6 else 7
/-- The order in which reservations are placed: class D in admission order, then decode steps bucket by bucket from 7
down, sessions ascending within one (R304). -/
def State.resvOrder (s : State) (l : List Resv) : List Resv :=
  let d := sortBy (·.seq) (l.filter (fun r => r.kind != .decode))
  let i := sortBy (fun r =>
    (7 - lenBucket (match s.session (hIdx r.obj.toNat) with | some x => x.positions | none => 0)) * 2 ^ 20 + hIdx r.obj.toNat)
    (l.filter (fun r => r.kind == .decode))
  d ++ i
/-- Reservations fit in every beat of the blaze rotation at some settings (R57). -/
def State.resvsFit (s : State) (cfg : BeatCfg) (l : List Resv) : Bool :=
  (List.range 24).all (fun r => (s.addResvs true r cfg (s.resvOrder l)).isSome)
/-- The standing reservations that are not suspended. The paths of a slot stand only while two clusters are there to keep
them apart (R520, R522). -/
def State.standing (s : State) : List Resv :=
  s.plan.resvs.filter (fun r => !r.suspended && (r.kind != .stopword || decide (2 ≤ (s.svcList .cluster).length)))
/-- Class D or I work is admitted beside the standing reservations (R57). -/
def State.admits (s : State) (new : List Resv) : Bool :=
  new.all (fun r => !(s.workOf r).isEmpty) && s.resvsFit s.beat.cur (s.standing ++ new)
/-- A reservation accepted now. -/
def State.newResv (s : State) (client : Nat) (obj : Word) (cls : Cls) (kind : TemplKind) (model dom k : Nat) : Resv :=
  { obj := obj, client := client, cls := cls, kind := kind, model := model, dom := dom,
    beat := s.beat.number.toNat, seq := s.plan.seq + k, suspended := false }
/-- Reservations recorded in admission order. -/
def addReservations (l : List Resv) (s : State) : State :=
  s.onPlan (fun p => { p with resvs := p.resvs ++ l, seq := p.seq + l.length })
/-- The length of the longest chain that ends in each command of a list (R58). -/
def chainLens (slow : List Nat) : Nat → List TCmd → List (Nat × Nat) → List (Nat × Nat)
  | 0, _, acc => acc
  | n + 1, l, acc =>
    match l.find? (fun c => (kget acc c.name).isNone && c.inputs.all (fun i => (kget acc i).isSome || !l.any (·.name == i))) with
    | none => acc
    | some c =>
      chainLens slow n l (acc ++ [(c.name, c.wcet + c.inputs.foldl (fun m i => match kget acc i, l.find? (·.name == i) with
        | some v, some p => max m (v + xferOf slow [] p v c) | _, _ => m) 0)])
/-- A class B request's longest chain fits in the floor, or in E where there is none (R58). -/
def State.chainFits (s : State) (l : List TCmd) : Bool :=
  let e := s.beat.cur.eTu
  let limit := if s.beat.cur.bfloor = 0 then e else e * s.beat.cur.bfloor.toNat / 1000
  let lens := chainLens s.cxlSlow l.length l []
  decide (lens.length = l.length) && lens.all (fun p => decide (p.2 ≤ limit))

end Sys2Proof.Machine
end

