-- ==== Sys2Proof/Machine/MsgOps.lean ====
section
/-! DEFINITION. What the messages share (R464 to R473): payload fields, owners of handles, operands by reference, work that
waits. -/

namespace Sys2Proof

/-! ## Payload fields -/

/-- A payload field. -/
def Msg.f (m : Msg) (off n : Nat) : Nat := Machine.fld m.payload off n
/-- Reserved payload bytes are 0. -/
def Msg.z (m : Msg) (off n : Nat) : Bool := Machine.allZero m.payload off n
/-- The sender is the system client (R470). -/
def Msg.sys (m : Msg) : Bool := m.client == 0

end Sys2Proof

namespace Sys2Proof.Machine

/-! ## Handles and owners (R11, R472, R475) -/

/-- The client that owns an object. -/
def State.ownerOf (s : State) (kind i : Nat) : Option Nat :=
  match kind with
  | 1 => (s.channel i).map (·.client)
  | 2 => (s.session i).map (·.client)
  | 3 => (s.obj i).map (·.client)
  | 4 => (s.model i).map (·.client)
  | 8 => (s.ctrl.tsets.find? (·.idx == i)).map (·.client)
  | _ => some 0
/-- A handle names an object of the kind that a field requires. -/
def State.live (s : State) (kind h : Nat) : Bool := s.hValid kind h && (s.ownerOf kind (hIdx h)).isSome
/-- As `live`, the null handle allowed. -/
def State.liveOr0 (s : State) (kind h : Nat) : Bool := h == 0 || s.live kind h
/-- The object of a handle belongs to a client; the null handle to everyone. -/
def State.owns (s : State) (client kind h : Nat) : Bool := h == 0 || s.ownerOf kind (hIdx h) == some client
/-- A model is being unloaded (R486). -/
def State.unloading (s : State) (h : Nat) : Bool := ((s.model (hIdx h)).bind (·.unloading)).isSome

/-! ## Addresses and operands by reference (R467, R468) -/

/-- Bytes of the application-core carve-out. -/
abbrev carveSize : Nat := 0x800000000
/-- The BAD_FORMAT check of an address in the carve-out. -/
def inCarve (a n : Nat) : Bool := decide (a + n ≤ carveSize)
/-- The checks of an operand by reference: its format, then its domain. -/
def State.refChecks (s : State) (m : Msg) (n : Nat) (write : Bool) : List (Bool × Half) × List (Bool × Half) :=
  let a := m.refAddr.toNat
  if m.refSpace = 1 then ([(inCarve a n, stBadFormat)], [])
  else ([], [(n == 0 || s.rangePasses (s.domainOf m.client) write a n, stRefusedDomain)])
/-- The bytes of an operand. -/
def State.refRead (s : State) (m : Msg) (n : Nat) : List Byte :=
  if m.refSpace = 1 then s.carveRead m.refAddr.toNat n else MemOps.readN s.mem.dev m.refAddr.toNat n
/-- Bytes written to the place of an operand. -/
def refWrite (m : Msg) (l : List Byte) (s : State) : State :=
  if m.refSpace = 1 then carveWrite m.refAddr.toNat l s
  else putMem m.refAddr.toNat l s

/-! ## Messages that wait -/

/-- A message whose final completion waits for a beat, or for an event. -/
def waitFor (m : Msg) (op : Nat) (obj : Nat) (beat : Option Nat) (arg : Nat) : Reply :=
  .pending { client := m.client, mbox := m.mbox, opcode := BitVec.ofNat 16 op, obj := BitVec.ofNat 32 obj, doneBeat := beat, arg := arg }
/-- The beat now. -/
def State.now (s : State) : Nat := s.beat.number.toNat
/-- Class B work recorded, at the end of its client's order (R63). -/
def addWork (b : BWork) (s : State) : State := s.onPlan (fun p => { p with bwork := p.bwork ++ [b] })
/-- Class B work that ends. -/
def dropWork (p : BWork → Bool) (s : State) : State := s.onPlan (fun k => { k with bwork := k.bwork.filter (fun b => !p b) })

/-! ## Rings (R493, R497) -/

/-- SIZE_LOG2 of a ring, its two checks. -/
def ringSizeChecks (n : Nat) : List (Bool × Half) := [(decide (6 ≤ n), stBadLength), (decide (n ≤ 16), stBadFormat)]
/-- A ring as the DCP takes it over: nothing written, RD_IDX as the client left it. -/
def State.newRing (s : State) (addr n : Nat) : RingSt :=
  { addr := addr, sizeLog2 := n, wr := 0, rdSnap := BitVec.ofNat 32 (leNat (s.carveRead (addr + 4) 4)), holds := 0 }
/-- The header fields that the DCP writes at the start: WR_IDX and the count, 0. -/
def startRing (addr : Nat) (s : State) : State := carveWrite (addr + 0x10) (zeros 4) (carveWrite addr (zeros 4) s)
/-- Records that are in the ring and not read, by the RD_IDX of the last tick. -/
def RingSt.unread (r : RingSt) : Nat := (r.wr - r.rdSnap).toNat
/-- RD_IDX is valid (R496). -/
def RingSt.valid (r : RingSt) : Bool := decide (r.unread ≤ 2 ^ r.sizeLog2)

end Sys2Proof.Machine
end

