-- ==== Sys2Proof/Machine/AudioOps.lean ====
section
/-! DEFINITION. Channels, rings, gain changes, chunks, ports and groups of the Audio Front End (R418 to R453, R491). -/

namespace Sys2Proof.Machine

/-! ## Channels (R422, R424) -/

/-- A field of the channel's record. -/
def Channel.r (c : Channel) (off n : Nat) : Nat := fld c.record off n
/-- The channel is an input. -/
def Channel.isIn (c : Channel) : Bool := c.r 0 1 == 1
/-- RATE, SFMT, DOMAIN, TARGET, RING of the record. -/
def Channel.rate (c : Channel) : Nat := c.r 4 1
def Channel.sfmt (c : Channel) : Nat := c.r 5 1
def Channel.dom (c : Channel) : Nat := c.r 7 1 % 64
def Channel.target (c : Channel) : Nat := c.r 0x10 4
def Channel.ring (c : Channel) : Nat := c.r 8 8
/-- The channel has a network ring. -/
def Channel.net (c : Channel) : Bool := c.r 1 1 == 1
/-- W, HOP, L and bins of an input channel. -/
def Channel.win (c : Channel) : Nat := if c.r 0x1C 1 = 0 then 320 else 400
def Channel.hop (c : Channel) : Nat := [80, 160, 320].getD (c.r 0x1D 1) 80
def Channel.chunk (c : Channel) : Nat := c.r 0x20 1
def Channel.bins (c : Channel) : Nat := c.r 0x1E 1
/-- Bytes of a feature. -/
def Channel.featBytes (c : Channel) : Nat := if (c.r 0x1F 1).testBit 1 then 4 else 2
/-- Bytes of a chunk slot (R437). -/
def Channel.slotSize (c : Channel) : Nat := 64 * cdiv (64 + c.chunk * c.bins * c.featBytes) 64
/-- NOM of the channel. -/
def Channel.nom (c : Channel) : Nat := nomStep c.isIn c.rate
/-- Samples the channel's buffer holds (R418, R424). -/
def Channel.cap (c : Channel) : Nat := if c.net then 2 ^ c.sizeLog2 else 4096
/-- TARGET is in its range at a beat of `n16` internal samples (R423). -/
def targetOk (n16 rate target cap : Nat) : Bool :=
  let b := nominalOf n16 rate
  decide (target ≠ 0 ∧ b ≤ target ∧ target + 2 * b ≤ cap)
/-- Every open channel keeps its TARGET in range at some settings (R421). -/
def State.targetsFit (s : State) (cfg : BeatCfg) : Bool :=
  s.audio.chans.all (fun c => targetOk cfg.period.toNat c.rate c.target c.cap)
/-- The port group of a channel's port: that of its SAP, or of its microphone's clock. -/
def State.groupOfChan (s : State) (c : Channel) : Option Nat :=
  (List.range 16).find? (fun g =>
    let k := s.audio.groups.getD g .none
    k.exists_ && ((c.r 1 1 == 2 && k.saps.testBit (c.r 2 1)) || (c.r 1 1 == 3 && k.pdms.testBit (c.r 2 1 / 4))))
/-- A port group. -/
def State.group (s : State) (g : Nat) : GroupSt := s.audio.groups.getD g .none
/-- The state with a port group changed. -/
def State.onGroup (g : Nat) (f : GroupSt → GroupSt) (s : State) : State :=
  s.onAudio (fun a => { a with groups := a.groups.modify g f })
/-- A serial audio port. -/
def State.sap (s : State) (p : Nat) : SapSt := s.audio.saps.getD p .reset
/-- The state with a serial audio port changed. -/
def State.onSap (p : Nat) (f : SapSt → SapSt) (s : State) : State :=
  s.onAudio (fun a => { a with saps := a.saps.modify p f })
/-- The index that the next channel of a direction takes (R418, R476). -/
def State.nextChan (s : State) (input : Bool) : Option Nat :=
  let p := s.pool 1
  let lo := if input then 0 else 4096
  match (List.range 4096).find? (fun i => (kget p.gens (lo + i)).isNone) with
  | some i => some (lo + i)
  | none => (p.freed.find? (fun e => decide (lo ≤ e.1 ∧ e.1 < lo + 4096 ∧ e.2 + 1024 ≤ s.beat.number.toNat))).map (·.1)

/-! ## Gain changes (R440 to R442) -/

/-- The gain a channel's targets give: 0 for a stopped or muted one. -/
def Channel.goal (c : Channel) : Word := if c.running && !c.muted then c.gain else 0
/-- A pending change applied: the new targets and the new gain. -/
def Channel.change (c : Channel) : Channel :=
  match c.pendingCh with
  | none => c
  | some g =>
    let d := { c with gain := g.gain.getD c.gain, running := g.run.getD c.running, muted := g.mute.getD c.muted, pendingCh := none }
    { d with applied := d.goal }
/-- A channel that has closed: its handle retires and its close completes. -/
def removeChan (i : Nat) (s : State) : State :=
  match s.channel i with
  | none => s
  | some c =>
    let s1 := (s.onAudio (fun a => { a with chans := a.chans.filter (fun x => !(x.idx == i)) })).retire 1 i
    match c.closing with
    | some w => completeOwned w.1 w.2 stOk [] s1
    | none => s1
/-- The pending change of a channel applies (R440, R441): its requests complete with OK, and a close is final. -/
def applyChange (i : Nat) (s : State) : State :=
  match (s.channel i).bind (·.pendingCh) with
  | none => s
  | some g =>
    let s1 := g.clients.foldl (fun (s : State) (q : Nat × Nat) => completeOwned q.1 q.2 stOk [] s) (s.onChannel i Channel.change)
    if g.closing then removeChan i s1 else s1
/-- The first sample a beat number makes pending: known from the first sample produced in that beat on. -/
def GainChange.due (g : GainChange) (n : Nat) : Bool := g.s0.isSome || decide (g.beat ≤ n)
/-- A request merged into a channel's pending change (R441), or a new one that is pending in beat n + 2 (R440). -/
def mergeChange (gain : Option Word) (run mute : Option Bool) (close : Bool) (req : List (Nat × Nat)) (n : Nat) (c : Channel) : Channel :=
  match c.pendingCh with
  | some g => { c with pendingCh := some { g with
      gain := gain.orElse (fun _ => g.gain), run := run.orElse (fun _ => g.run), mute := mute.orElse (fun _ => g.mute),
      closing := g.closing || close, clients := g.clients ++ req } }
  | none => { c with pendingCh := some {
      gain := gain, run := run, mute := mute, beat := n + 2, s0 := none, closing := close, clients := req } }

/-! ## Chunks (R436 to R438) -/

/-- Flaws of the internal samples in [a, b). -/
def Channel.flawsIn (c : Channel) (a b : Nat) : List Nat :=
  (c.flawInt.filter (fun f => decide (a ≤ f.1 ∧ f.1 < b))).map (·.2)
/-- A chunk of the complete frames in the making, written to its slot and pushed. -/
def pushChunk (i : Nat) (s : State) : State :=
  match s.channel i with
  | none => s
  | some c =>
    let first := c.nextChunk * c.chunk
    let n := c.feats.length
    let win := fun (j : Nat) => c.flawsIn ((first + j) * c.hop) ((first + j) * c.hop + c.win)
    let all := c.flawsIn (first * c.hop) ((first + n - 1) * c.hop + c.win)
    let gap := (List.range n).foldl (fun (m : Nat) (j : Nat) =>
      if (win j).any (fun k => decide (k ≤ 2)) then m + 2 ^ j else m) 0
    let at_ := c.r 0x30 8 + c.nextChunk % c.r 0x38 2 * c.slotSize
    let ok := s.rangePasses c.dom true at_ c.slotSize
    let fenced := match chanPort c with | some u => !s.serves u | none => false
    let st : Half := if fenced then stFenced else if !ok || all.contains 4 then stDomainFault
      else if all.contains 2 then stTimeout else if all.contains 3 then stBadFormat else stOk
    let feats := c.feats.flatMap (fun f => f.flatMap (fun w =>
      if c.featBytes = 4 then natLe 4 w.toNat else natLe 2 (toB16 (dec32 w)).toNat))
    let head := natLe 4 (s.handleOf 1 i) ++ natLe 2 st.toNat ++ natLe 1 n ++ natLe 1 c.bins ++ natLe 8 first ++
      natLe 8 (if c.net then 2 ^ 64 - 1 else c.chunkPhase) ++ natLe 16 gap ++ zeros 24
    let s1 := if ok then putMem at_ (head ++ feats) s
      else (refuseEngine c.dom true at_ s).onAudio (fun a => { a with domFault := true })
    (s1.onSkid (c.r 0x22 2) (SkidQ.push at_ c.slotSize st)).onChannel i (fun c => { c with nextChunk := c.nextChunk + 1, feats := [] })
/-- An internal sample of a channel by its number; one before the open, or no longer kept, reads +0. -/
def Channel.intAt (c : Channel) (k : Nat) : Word × Nat := if k < c.intBase then (0, 0) else c.internal.getD (k - c.intBase) (0, 0)
/-- The next frame computed, if its samples are there (R434, R436). -/
def nextFrame (c : Channel) : Option Channel :=
  let j := c.nextChunk * c.chunk + c.feats.length
  let a := j * c.hop
  if c.intBase + c.internal.length < a + c.win then none
  else
    let x := (List.range c.win).map (fun i => (c.intAt (a + i)).1)
    let f := logMel ((c.r 0x1F 1).testBit 0) c.win c.bins (BitVec.ofNat 32 (c.r 0x24 4)) (if a = 0 then 0 else (c.intAt (a - 1)).1) x
    some { c with feats := c.feats ++ [f], chunkPhase := if c.feats.isEmpty then (c.intAt a).2 else c.chunkPhase }
/-- Frames computed and full chunks pushed, at most `n` frames. -/
def makeChunks (i : Nat) : Nat → State → State
  | 0, s => s
  | n + 1, s =>
    match (s.channel i).bind nextFrame with
    | none => s
    | some c =>
      let s1 := s.onChannel i (fun _ => c)
      makeChunks i n (if c.feats.length = c.chunk then pushChunk i s1 else s1)
/-- What no later frame needs is forgotten. -/
def pruneChan (c : Channel) : Channel :=
  let first := c.nextChunk * c.chunk * c.hop
  let keep := (c.nextChunk * c.chunk + c.feats.length) * c.hop - 1
  let d := keep - c.intBase
  let old := c.hist.length - 192
  { c with
    intBase := c.intBase + min d c.internal.length, internal := c.internal.drop d,
    flawInt := c.flawInt.filter (fun f => decide (first ≤ f.1)),
    base := c.base + old, hist := c.hist.drop old,
    flaws := c.flaws.filter (fun f => decide (c.base + old ≤ f.1 + 192)) }

/-! ## Input (R426, R427, R430, R433) -/

/-- Samples a channel has taken. -/
def Channel.taken (c : Channel) : Nat := c.base + c.hist.length
/-- A sample by position; before the start +0. -/
def Channel.sampleAt (c : Channel) (p : Int) : Word := if p < (c.base : Int) then 0 else c.hist.getD (p.toNat - c.base) 0
/-- A ring's sample as FP32 with its flaw (9: none): refused words read 0. -/
def State.ringSample (s : State) (c : Channel) (i : Nat) : Word × Nat :=
  let b := sfmtBytes c.sfmt
  let a := c.ring + 0x40 + i % c.cap * b
  if s.passes 1 false (s.carveAddr a) then
    let q := sfmtTo32 c.sfmt (leNat (s.carveRead a b))
    (q.1, if q.2 then 3 else 9)
  else (0, 4)
/-- One more sample taken: from the ring or port buffer where one is there, else +0. The Bool of the input says that a
missing sample counts as zero-filled and is taken all the same. -/
def takeSample (s : State) (fill : Bool) (c : Channel) : Option Channel :=
  let put := fun (v : Word × Nat) (c : Channel) => { c with
    flaws := if v.2 = 9 then c.flaws else c.flaws ++ [(c.taken, v.2)], hist := c.hist ++ [v.1] }
  if c.net then
    if (BitVec.ofNat 32 c.snapRd) ≠ (BitVec.ofNat 32 c.snapWr) then
      some { put (s.ringSample c c.snapRd) c with snapRd := (c.snapRd + 1) % 2 ^ 32 }
    else if fill then some { put (0, 0) c with shortCnt := c.shortCnt + 1 } else none
  else match c.port with
    | v :: r =>
      if c.snapFill = 0 then (if fill then some { put (0, 0) c with shortCnt := c.shortCnt + 1 } else none)
      else some { put v c with port := r, snapFill := c.snapFill - 1 }
    | [] => if fill then some { put (0, 0) c with shortCnt := c.shortCnt + 1 } else none
/-- Samples taken until position `p` is passed. -/
def takeTo (s : State) (fill : Bool) (p : Nat) : Nat → Channel → Channel
  | 0, c => c
  | n + 1, c => if p < c.taken then c else match takeSample s fill c with | some d => takeTo s fill p n d | none => c
/-- Flaws that the taps at position `n` meet. -/
def Channel.flawsAt (c : Channel) (n : Nat) : List Nat :=
  ((c.flaws.filter (fun f => decide (f.1 ≤ n ∧ n < f.1 + tapsOf c.nom - b2n (f.2 == 1)))).map (·.2)).eraseDups
/-- One internal sample (R430). -/
def inputStep (s : State) (step : Nat) (c : Channel) : Channel :=
  let n := c.phase / 2 ^ 32
  let d := takeTo s true n (n + 1 - c.taken) c
  let v := resampleAt d.nom d.sampleAt d.phase
  let k := d.intBase + d.internal.length
  { d with
    internal := d.internal ++ [(v, (d.gframe + n) * 2 ^ 24 % 2 ^ 64 + d.phase % 2 ^ 32 / 2 ^ 8)],
    flawInt := d.flawInt ++ (d.flawsAt n).map (fun f => (k, f)), phase := d.phase + step }
/-- A ring overrun: RD_IDX is set TARGET behind WR_IDX, and what was skipped counts as dropped (R427). -/
def skipOver (c : Channel) : Channel :=
  let f := (BitVec.ofNat 32 c.snapWr - BitVec.ofNat 32 c.snapRd).toNat
  if c.net && decide (c.cap < f) then { c with
    snapRd := (BitVec.ofNat 32 c.snapWr - BitVec.ofNat 32 c.target).toNat, dropped := c.dropped + (f - c.target),
    flaws := c.flaws ++ [(c.taken, 1)] } else c
/-- The AFE's transactions with a ring header carry domain 1 (R26, R426): every byte of one passes. -/
def State.headerPasses (s : State) (write : Bool) (a n : Nat) : Bool :=
  (List.range n).all (fun i => s.passes 1 write (s.carveAddr (a + i)))
/-- Bytes of a ring header written; a refused write is dropped (R370). -/
def headerWrite (a : Nat) (l : List Byte) (s : State) : State :=
  if s.headerPasses true a l.length then carveWrite a l s
  else (refuseEngine 1 true (s.carveAddr a) s).onAudio (fun a => { a with domFault := true })
/-- The header fields of a ring that the AFE writes. -/
def ringOut (c : Channel) (s : State) : State :=
  if !c.net then s
  else
    let s1 := if c.isIn then headerWrite (c.ring + 4) (natLe 4 c.snapRd) s else headerWrite c.ring (natLe 4 c.snapWr) s
    headerWrite (c.ring + 0x10) (natLe 4 c.shortCnt ++ natLe 4 c.dropped) s1
/-- Work of the beat is still to be done for a started channel (AFE_STATUS.BUSY). -/
def afeBusy (s : State) : State :=
  s.onAudio (fun a => { a with busy := a.chans.any (fun c => c.started && decide (c.inBeat ≠ some s.now)) })
/-- Refusals of a channel's accesses to its ring, with domain 1 (R370, R426). -/
def ringRefused (c : Channel) (write : Bool) (n : Nat) (s : State) : State :=
  (List.range n).foldl (fun (s : State) _ => refuseEngine 1 write (s.carveAddr c.ring) s) s
/-- The work of an input channel in a beat. -/
def inputBeat (i : Nat) (s : State) : State :=
  match s.channel i with
  | none => s
  | some c =>
    let step := stepOf c.nom c.adj
    let n16 := s.beat.cur.period.toNat
    let c1 := (List.range n16).foldl (fun (c : Channel) _ => inputStep s step c) (skipOver c)
    let c2 := if c1.phase / 2 ^ 32 = 0 then c1 else takeTo s false (c1.phase / 2 ^ 32 - 1) (c1.phase / 2 ^ 32) c1
    let s1 := (s.onChannel i (fun _ => { c2 with inBeat := some s.now })).onAudio (fun a => { a with
      short := a.short || decide (c.shortCnt < c2.shortCnt),
      badSamp := a.badSamp || decide (c.flaws.countP (fun f => f.2 == 3) < c2.flaws.countP (fun f => f.2 == 3)),
      domFault := a.domFault || decide (c.flaws.countP (fun f => f.2 == 4) < c2.flaws.countP (fun f => f.2 == 4)) })
    let s2 := ringRefused c false (c2.flaws.countP (fun f => f.2 == 4) - c.flaws.countP (fun f => f.2 == 4)) s1
    afeBusy ((makeChunks i n16 (ringOut c2 s2)).onChannel i pruneChan)

/-! ## Output (R428, R439, R440, R443) -/

/-- A skid entry with a buffer of the right length in another module's memory. -/
def State.farBuffer (s : State) (e : SkidEntry) : Bool :=
  let n16 := s.beat.cur.period.toNat
  e.status == stOk && !s.isLocal e.addr && (e.len == n16 * 2 || e.len == n16 * 4)
/-- The buffer of a beat's skid entry: N16 samples, or none where it is invalid or refused. One in another module's memory comes with the
reply to the READ that asked for it (R346). -/
def State.outBuffer (s : State) (c : Channel) (n16 : Nat) (e : SkidEntry) : Option (List Word) :=
  let far := s.farBuffer e
  let back := (c.req.bind (kget s.links.reads)).getD ([], stDomainFault)
  let b := if far then fit e.len back.1 else MemOps.readN s.mem.dev (devAddr e.addr) e.len
  let bad := if far then back.2 ≠ 0 else !s.rangePasses c.dom false (devAddr e.addr) e.len || s.rangePoisoned (devAddr e.addr) e.len
  if e.status ≠ stOk || bad then none
  else if e.len = n16 * 4 then some (wordsOf b)
  else if e.len = n16 * 2 then some ((halvesOf b).map (fun h => enc32 (decB16 h)))
  else none
/-- One output sample y at the channel's rate: the pending change applies where R440 says so, then y × g goes out. -/
def outputSample (n : Nat) (y : Word) (acc : State × Option Channel × List Word) : State × Option Channel × List Word :=
  match acc.2.1 with
  | none => acc
  | some c0 =>
    let c := { c0 with pendingCh := c0.pendingCh.map (fun g => if g.s0.isNone && decide (g.beat ≤ n) then { g with s0 := some c0.nOut } else g) }
    let zc := c.r 0x21 1
    let (hit, late) : Bool × Bool := match c.pendingCh.bind (·.s0) with
      | none => (false, false)
      | some s0 =>
        let cross := fvIsZero (dec32 y) || (decide (c.nOut ≠ 0) && decide ((y.getLsbD 31) ≠ (c.lastY.getLsbD 31)))
        let timeUp := decide (s0 + cdiv (zc * rateHz c.rate) 1000 ≤ c.nOut)
        (decide (s0 ≤ c.nOut) && (zc == 0 || cross || timeUp), zc != 0 && !cross && timeUp)
    let s0 := acc.1.onChannel c.idx (fun _ => c)
    let s1 := if hit then (applyChange c.idx s0).onAudio (fun a => { a with zcTimeout := a.zcTimeout || late }) else s0
    match s1.channel c.idx with
    | none => (s1, none, acc.2.2)
    | some d =>
      let out := if d.zeroed then 0 else mul32 y d.applied
      let e := { d with nOut := d.nOut + 1, lastY := y, shortCnt := d.shortCnt + b2n d.zeroed }
      (s1.onChannel d.idx (fun _ => e), some e, acc.2.2 ++ [out])
/-- Output samples written where the channel's ring or port buffer has room (R428). -/
def sinkOut (c : Channel) (l : List Word) (s : State) : State :=
  if c.net then
    let used := (BitVec.ofNat 32 c.snapWr - BitVec.ofNat 32 c.snapRd).toNat
    let n := min l.length (c.cap - used)
    let b := sfmtBytes c.sfmt
    let d := { c with snapWr := (c.snapWr + n) % 2 ^ 32, dropped := c.dropped + (l.length - n) }
    ringOut d (((l.take n).zipIdx.foldl (fun (s : State) (p : Word × Nat) =>
      let a := c.ring + 0x40 + (c.snapWr + p.2) % c.cap * b
      if s.passes 1 true (s.carveAddr a) then carveWrite a (sinkBytes c.sfmt p.1) s
      else (refuseEngine 1 true (s.carveAddr a) s).onAudio (fun a => { a with domFault := true })) s).onChannel c.idx (fun _ => d))
  else
    let w := [16, 24, 32].getD (s.sap (c.r 2 1)).sampleW.toNat 16
    let n := min l.length (4096 - c.port.length)
    s.onChannel c.idx (fun _ => { c with
      port := c.port ++ (l.take n).map (fun v => (toSink w v, 9)), dropped := c.dropped + (l.length - n) })
/-- The output phases of a beat: those whose sample index lies below the internal samples taken. -/
def outPhases (step lim : Nat) : Nat → Nat → List Nat
  | 0, _ => []
  | n + 1, φ => if step = 0 ∨ lim ≤ φ / 2 ^ 32 then [] else φ :: outPhases step lim n (φ + step)
/-- The work of an output channel in a beat with its buffer at hand: `port` says that its port runs. -/
def playBeat (i : Nat) (portUp : Bool) (s : State) : State :=
  match s.channel i with
  | none => s
  | some c =>
    let n16 := s.beat.cur.period.toNat
    let q := c.r 0x22 2
    let e := (s.skid q).entries.head?
    let s0 := s.onSkid q (SkidQ.pop 1)
    let s1 := match e with
      | some e =>
        let a := devAddr e.addr
        if e.status ≠ stOk then s0
        else if s.farBuffer e then s0.onLinks (fun k => { k with reads := match c.req with | some n => kdel k.reads n | none => k.reads })
        else if !s.rangePasses c.dom false a e.len then refuseEngine c.dom false a s0
        else if s.rangePoisoned a e.len then cxlPoison a (countUe a s0) else s0
      | none => s0
    let buf := if portUp then e.bind (s.outBuffer c n16) else none
    let refused := match e with
      | some e => e.status == stOk && (if s.farBuffer e then ((c.req.bind (kget s.links.reads)).map (·.2)).getD stDomainFault == stDomainFault
          else !s.rangePasses c.dom false (devAddr e.addr) e.len)
      | none => false
    let c1 := match buf with
      | none => { c with zeroed := true }
      | some _ =>
        if c.zeroed then { c with
          zeroed := false, applied := 0,
          pendingCh := some (c.pendingCh.getD {
            gain := none, run := none, mute := none, beat := s.now, s0 := some c.nOut, closing := false, clients := [] }) }
        else c
    let c2 := { c1 with hist := c1.hist ++ buf.getD (List.replicate n16 0) }
    let step := stepOf c2.nom c2.adj
    let φs := outPhases step c2.taken (12 * n16 + 2) c2.phase
    let ys := φs.map (fun φ => if buf.isNone then 0 else resampleAt c2.nom c2.sampleAt φ)
    let c3 := { c2 with phase := c2.phase + φs.length * step, inBeat := some s.now, req := none }
    let s2 := (s1.onChannel i (fun _ => c3)).onAudio (fun a => { a with
      domFault := a.domFault || refused, short := a.short || (c3.zeroed && !φs.isEmpty) })
    let r := ys.foldl (fun acc y => outputSample s.now y acc) (s2, some c3, [])
    match r.2.1 with
    | none => afeBusy r.1
    | some d => afeBusy ((sinkOut d r.2.2 r.1).onChannel i pruneChan)

/-- The work of an output channel in a beat. A buffer in another module's memory is read over the links first, with the channel's domain
(R346): the channel waits for the reply, and one that is refused on its way out is not played. -/
def outputBeat (i : Nat) (portUp : Bool) (s : State) : State :=
  match s.channel i with
  | none => s
  | some c =>
    match (s.skid (c.r 0x22 2)).entries.head?.filter (fun e => portUp && s.farBuffer e), c.req with
    | none, _ => playBeat i portUp s
    | some e, none =>
      let q := sendAddressed 3 c.dom e.addr none true (fun tag => addrHeader e.addr e.len 0 tag) s
      match q.1 with
      | none => playBeat i portUp q.2
      | some n => q.2.onChannel i (fun c => { c with req := some n })
    | some _, some n => if (kget s.links.reads n).isSome then playBeat i portUp s else s

/-! ## Ports (R444 to R453) -/

/-- Channels of a serial audio port. -/
def State.sapChans (s : State) (p : Nat) : List Channel := s.audio.chans.filter (fun c => c.r 1 1 == 2 && c.r 2 1 == p)
/-- The sample in a slot of a frame, as the port's width cuts it: left-justified in its slot (R444). -/
def slotSample (k : SapSt) (frame : List Word) (slot : Nat) : Word :=
  let w := [16, 24, 32].getD k.sampleW.toNat 16
  let sw := if k.slotW = 0 then 16 else 32
  intTo32 w ((frame.getD slot 0).toNat % 2 ^ sw / 2 ^ (sw - w))
/-- A sample joins an input channel's port buffer, if that has room. -/
def portIn (v : Word × Nat) (c : Channel) : Channel := if c.port.length < 4096 then { c with port := c.port ++ [v] } else c
/-- A SAP stops at a frame (R449): cause 0 a full RX FIFO, 1 an empty TX FIFO, 2 a misplaced FS edge, 3 a lost clock. The
frames that its RX FIFO holds were received before it: they go to the port buffers first (DEDUCED, log entry 66). -/
def slipSap (p cause : Nat) (s0 : State) : State :=
  let n := s0.now
  let k := s0.sap p
  let s := s0.onAudio (fun a => { a with chans := a.chans.map (fun c =>
    if c.isIn && c.r 1 1 == 2 && c.r 2 1 == p && c.started then
      k.rx.foldl (fun (c : Channel) (f : List Word) => portIn (slotSample k f (c.r 3 1), 9) c) c else c) })
  let s1 := s.onSap p (fun k => { k with
    running := false, rearmed := true, rejoinDue := false, slip := true, slips := satInc k.slips, rx := [], tx := [],
    overrun := k.overrun || cause == 0, underrun := k.underrun || cause == 1,
    slipBeats := k.slipBeats.filter (fun b => decide (n < b + 1000)) ++ [n], slippedAt := n })
  let s2 := (s1.sapChans p).foldl (fun (s : State) (c : Channel) =>
    if c.isIn then s else s.onChannel c.idx (fun c => { c with zeroed := true, port := [] })) s1
  let s3 := (List.range 16).foldl (fun (s : State) (g : Nat) =>
    let k := s.group g
    if k.exists_ && k.slave && k.refSap == p then s.onAudio (fun a => { a with plls := a.plls.modify k.pll (fun l => { l with hold := true }) }) else s) s2
  if 8 ≤ (s3.sap p).slipBeats.length then fenceByFault ⟨.sap, p⟩ s3 else s3

/-! ## At each tick (R420, R429, R432) -/

/-- A word of a ring header as the AFE reads it: zero where the firewall refuses (R370). -/
def State.headerWord (s : State) (a : Nat) : Nat := if s.headerPasses false a 4 then leNat (s.carveRead a 4) else 0
/-- The group frame of the next sample that a port channel's buffer takes: the frames in its port's RX FIFO come first (R437). -/
def State.frameAt (s : State) (c : Channel) : Nat :=
  match s.groupOfChan c with
  | some g => (s.group g).frame - (if c.r 1 1 == 2 then (s.sap (c.r 2 1)).rx.length else 0)
  | none => 0
/-- Snapshot and rate loop of one channel. -/
def chanTick (n : Nat) (s : State) (c : Channel) : Channel :=
  let begins := !c.started && (match c.startBeat with | some b => decide (b ≤ n) | none => false)
  let c0 := { (if begins then { c with started := true, gframe := s.frameAt c } else c) with req := none }
  if !c0.started then c0
  else
    let c1 := if c.net then
        (if c.isIn then { c0 with snapWr := s.headerWord c.ring } else { c0 with snapRd := s.headerWord (c.ring + 4) })
      else { c0 with snapFill := c0.port.length }
    let f := if c.net then (BitVec.ofNat 32 c1.snapWr - BitVec.ofNat 32 c1.snapRd).toNat else c1.port.length
    if c.r 6 1 = 1 then { c1 with adj := sInt 32 (c.r 0x14 4) }
    else
      let e : Int := (f : Int) - c.target
      let i := clampTo adjLimit (c1.integ + (c.r 0x1A 2 : Nat) * e)
      { c1 with integ := i, adj := clampTo adjLimit (i + (c.r 0x18 2 : Nat) * e) }
/-- The loop of the PLL of a running slave group. -/
def pllTick (g : Nat) (s : State) : State :=
  let k := s.group g
  if !k.exists_ || !k.slave || !k.running then s
  else
    let ins := (s.sapChans k.refSap).any (·.isIn)
    let e : Int := if ins then ((s.sap k.refSap).rx.length : Int) - 32 else 32 - ((s.sap k.refSap).tx.length : Int)
    s.onAudio (fun a => { a with plls := a.plls.modify k.pll (fun l =>
      if l.hold then l
      else
        let ip := clampTo pllLimit (l.ip + 86 * e)
        let adj := clampTo pllLimit (ip + 8590 * e)
        { l with ip := ip, adj := adj, limit := l.limit || decide (adj = pllLimit ∨ adj = -pllLimit) }) })
/-- A trigger event, an edge or a tick, reaches the slipped ports of running groups that may rejoin by now (R451). -/
def rejoinTrig (edge : Bool) (s : State) : State :=
  s.onAudio (fun a => { a with saps := a.saps.zipIdx.map (fun p =>
    if p.1.rearmed && decide (p.1.slippedAt + 2 ≤ s.now) &&
      a.groups.any (fun g => g.exists_ && g.running && g.trigIn == edge && g.saps.testBit p.2)
    then { p.1 with rejoinDue := true } else p.1) })
/-- What the AFE does at a tick: starts due, snapshots, loops, trigger events of groups that wait for the tick. -/
def afeTick (t : Nat) (s : State) : State :=
  let n := s.now
  let s1 := (rejoinTrig false s).onAudio (fun a => { a with
    chans := a.chans.map (chanTick n s), busy := a.chans.any (·.started),
    groups := a.groups.map (fun g => match g.armedFrom with
      | some b => if !g.trigIn && g.trigAt.isNone && decide (b ≤ n) then { g with trigAt := some t } else g
      | none => g) })
  let s2 := (s1.audio.chans.filter (fun c => c.started && c.net)).foldl (fun (s : State) (c : Channel) =>
    let a := if c.isIn then c.ring else c.ring + 4
    if s.headerPasses false a 4 then s
    else (refuseEngine 1 false (s.carveAddr a) s).onAudio (fun k => { k with domFault := true })) s1
  (List.range 16).foldl (fun (s : State) (g : Nat) => pllTick g s) s2
/-- Closes of input channels whose beat has come (R491): the last chunk, then the close completes. -/
def closeInputs (s : State) : State :=
  (s.audio.chans.filter (fun c => c.isIn && (match c.closeAt with | some b => decide (b ≤ s.now) | none => false))).foldl
    (fun (s : State) (c : Channel) => removeChan c.idx (if c.feats.isEmpty then s else pushChunk c.idx s)) s

end Sys2Proof.Machine
end

