-- ==== Sys2Proof/Machine/AudioExec.lean ====
section
/-! DEFINITION. The audio rows: channel messages (R422, R423, R440 to R442, R491), the AFE's beat work (R420), ports, groups
and slips (R444 to R453, R482). -/

namespace Sys2Proof.Machine

/-! ## CHANNEL_OPEN (R422, R423) -/

/-- The rate of a port at RATE's place: a SAP's code, or a microphone's decimated rate in Hz. -/
def State.rateFits (s : State) (src port rate : Nat) : Bool :=
  match src with
  | 2 => decide (rate = (s.sap port).rate.toNat)
  | 3 =>
    let k := s.audio.pdms.getD (port / 4) .reset
    decide (rateHz rate * (if k.dec128 then 128 else 64) = pdmHz k.clk.toNat)
  | _ => true
/-- SIZE_LOG2 of a ring. -/
def State.ringLog2 (s : State) (addr : Nat) : Nat := leNat (s.carveRead (addr + 8) 1)
/-- The record's checks in offset order (R423). -/
def State.recordChecks (s : State) (r : List Byte) : List (Bool × Half) :=
  let f := fld r
  let inp := f 0 1 == 1
  let src := f 1 1
  let port := f 2 1
  let rate := f 4 1
  let lg := s.ringLog2 (f 8 8)
  let cap := if src = 1 then 2 ^ min lg 16 else 4096
  let adj := sInt 32 (f 0x14 4)
  let fl := dec32 (BitVec.ofNat 32 (f 0x24 4))
  let gn := dec32 (BitVec.ofNat 32 (f 0x28 4))
  let out0 := fun (off n : Nat) => (inp || decide (f off n = 0), stBadFormat)
  let in0 := fun (off n : Nat) => (!inp || decide (f off n = 0), stBadFormat)
  [ (decide (f 0 1 = 1 ∨ f 0 1 = 2), stBadFormat),
    (decide (1 ≤ src ∧ src ≤ 3) && (inp || decide (src ≠ 3)), stBadFormat),
    (decide (src ≠ 1 ∨ port = 0), stBadFormat),
    (decide (port < (if src = 2 then 4 else 16)), stBadLength),
    ((match src with | 2 => s.serves ⟨.sap, port⟩ | 3 => s.serves ⟨.pdm, port / 2⟩ | _ => true), stBadFormat),
    (decide (src = 2 ∨ f 3 1 = 0), stBadFormat),
    (decide (src ≠ 2 ∨ f 3 1 < (s.sap port).slots.toNat), stBadLength),
    (decide (rate ≤ 0xA) && s.rateFits src port rate, stBadFormat),
    ((if src = 1 then decide (1 ≤ f 5 1 ∧ f 5 1 ≤ 4) else decide (f 5 1 = 0)), stBadFormat),
    (decide (f 6 1 ≤ 1), stBadFormat),
    (decide (f 7 1 < 64), stBadFormat),
    ((if src = 1 then decide (f 8 8 % 64 = 0) && inCarve (f 8 8) 64 else decide (f 8 8 = 0)), stBadFormat),
    (decide (src ≠ 1 ∨ 8 ≤ lg), stBadLength),
    (decide (src ≠ 1 ∨ (lg ≤ 16 ∧ inCarve (f 8 8) (64 + 2 ^ lg * sfmtBytes (f 5 1)) = true)), stBadFormat),
    (targetOk s.beat.cur.period.toNat rate (f 0x10 4) cap, stBadLength),
    (decide (-adjLimit ≤ adj ∧ adj ≤ adjLimit), stBadLength),
    (decide (f 0x1C 1 ≤ 1 ∧ f 0x1D 1 ≤ 2), stBadFormat),
    out0 0x1C 2,
    (!inp || decide (f 0x1E 1 = 80 ∨ f 0x1E 1 = 128), stBadLength),
    out0 0x1E 1,
    (decide (f 0x1F 1 < 4), stBadFormat),
    out0 0x1F 1,
    (!inp || decide (1 ≤ f 0x20 1 ∧ f 0x20 1 ≤ 128), stBadLength),
    out0 0x20 1,
    in0 0x21 1,
    (decide (f 0x21 1 ≤ 20), stBadLength),
    (decide (f 0x22 2 < 256), stBadFormat),
    ((if inp then fvFinite fl && fvLt fvZero fl else decide (f 0x24 4 = 0)), stBadFormat),
    ((if inp then decide (f 0x28 4 = 0) else fvFinite gn), stBadFormat),
    (inp || (!fvLt gn fvZero && !fvLt (fvInt 16) gn), stBadLength),
    (decide (f 0x2C 4 = 0), stBadFormat),
    ((if inp then decide (f 0x30 8 % 64 = 0) else decide (f 0x30 8 = 0)), stBadFormat),
    (!inp || decide (2 ≤ f 0x38 2 ∧ f 0x38 2 ≤ 64), stBadLength),
    out0 0x38 2,
    (allZero r 0x3A 6, stBadFormat)]
/-- A channel as it opens (R491): an output channel is stopped with g = 0; a network channel starts at the tick of beat
n + 2, a port channel at its group's start, or at n + 2 where the group runs. -/
def State.newChannel (s : State) (i client : Nat) (r : List Byte) : Channel :=
  let c : Channel := {
    idx := i, client := client, record := r, sizeLog2 := min 16 (s.ringLog2 (fld r 8 8)), started := false, startBeat := none,
    integ := 0, adj := 0, phase := 0, base := 0, hist := [], flaws := [], gframe := 0, inBeat := none, intBase := 0, internal := [], flawInt := [],
    nextChunk := 0, chunkPhase := 0, feats := [], port := [], snapWr := 0, snapRd := 0, snapFill := 0, req := none, shortCnt := 0,
    dropped := 0, applied := 0, gain := BitVec.ofNat 32 (fld r 0x28 4), running := false, muted := false, pendingCh := none,
    lastY := 0, nOut := 0, zeroed := false, faultStatus := none, closing := none, closeAt := none }
  match (if c.net then none else s.groupOfChan c) with
  | some g => if (s.group g).running then { c with startBeat := some (s.now + 2) } else c
  | none => if c.net then { c with startBeat := some (s.now + 2) } else c
/-- CHANNEL_OPEN. -/
def channelOpen (m : Msg) (s : State) : State × Reply :=
  let r := fit 64 m.payload
  let inp := fld r 0 1 == 1
  let slot := 64 * cdiv (64 + fld r 0x20 1 * fld r 0x1E 1 * (if (fld r 0x1F 1).testBit 1 then 4 else 2)) 64
  checked (s.recordChecks r ++ [
    (decide (fld r 7 1 = s.domainOf m.client), stRefusedDomain),
    (!inp || s.rangePasses (fld r 7 1) true (fld r 0x30 8) (slot * fld r 0x38 2), stRefusedDomain),
    ((s.nextChan inp).isSome, stRefusedBeat)])
    (fun s => match s.nextChan inp with
      | none => (s, .done stRefusedBeat [])
      | some i =>
        let s1 := (s.issue 1 i).onAudio (fun a => { a with chans := insertBy (·.idx) (s.newChannel i m.client r) a.chans })
        (s1, .done stOk (natLe 4 (s1.handleOf 1 i)))) s
/-- CHANNEL_OPEN. -/
def execChannelOpen (m : Msg) (s : State) : Host.Outcome State Fault Refusal :=
  .next (withMsg 0x0601 (some 64) false m (channelOpen m) s)

/-! ## CHANNEL_CLOSE and CHANNEL_CTRL (R440 to R442, R491) -/

/-- A session names a channel. -/
def State.chanNamed (s : State) (h : Nat) : Bool :=
  s.ctrl.sessions.any (fun x => x.inCh.toNat == h || x.outCh.toNat == h)
/-- CHANNEL_CLOSE. -/
def channelClose (m : Msg) (s : State) : State × Reply :=
  let h := m.f 0 4
  let i := hIdx h
  let busy := match s.channel i with | some c => c.closing.isSome | none => false
  checked [
    (s.live 1 h, stBadHandle),
    (s.owns m.client 1 h, stRefusedDomain),
    (!s.chanNamed h && !busy, stRefusedBeat)]
    (fun s =>
      let s1 := loseChannel 0 0 i s
      let s2 := s1.onChannel i (fun c =>
        let d := { c with closing := some (m.client, m.mbox) }
        if c.isIn then { d with closeAt := some (s.now + 2) } else mergeChange none (some false) none true [] s.now d)
      (s2, waitFor m 0x0602 h none 0)) s
/-- CHANNEL_CLOSE. -/
def execChannelClose (m : Msg) (s : State) : Host.Outcome State Fault Refusal :=
  .next (withMsg 0x0602 (some 4) false m (channelClose m) s)
/-- CHANNEL_CTRL with the operation `op` of its row. -/
def channelCtrl (op : Nat) (gain run mute : Msg → Bool) (m : Msg) (s : State) : State × Reply :=
  let h := m.f 0 4
  let i := hIdx h
  let out := match s.channel i with | some c => !c.isIn | none => false
  let g := dec32 (BitVec.ofNat 32 (m.f 8 4))
  checked [
    (s.live 1 h, stBadHandle),
    (out && decide (m.f 4 1 = op), stBadFormat),
    (m.z 5 3, stBadFormat),
    (decide (op = 5 ∨ m.f 8 4 = 0) && fvFinite g, stBadFormat),
    (!fvLt g fvZero && !fvLt (fvInt 16) g, stBadLength),
    (s.owns m.client 1 h, stRefusedDomain)]
    (fun s => match (s.channel i).bind (·.faultStatus) with
      | some st => (s, .done st [])
      | none =>
        (s.onChannel i (mergeChange (if gain m then some (BitVec.ofNat 32 (m.f 8 4)) else none)
          (if op ≤ 2 then some (run m) else none) (if op = 3 ∨ op = 4 then some (mute m) else none) false
          [(m.client, m.mbox)] s.now), waitFor m 0x0603 h none op)) s
/-- CHANNEL_CTRL, OP START. -/
def execChannelStart (m : Msg) (s : State) : Host.Outcome State Fault Refusal :=
  .next (withMsg 0x0603 (some 12) false m (channelCtrl 1 (fun _ => false) (fun _ => true) (fun _ => false) m) s)
/-- CHANNEL_CTRL, OP STOP. -/
def execChannelStop (m : Msg) (s : State) : Host.Outcome State Fault Refusal :=
  .next (withMsg 0x0603 (some 12) false m (channelCtrl 2 (fun _ => false) (fun _ => false) (fun _ => false) m) s)
/-- CHANNEL_CTRL, OP MUTE. -/
def execChannelMute (m : Msg) (s : State) : Host.Outcome State Fault Refusal :=
  .next (withMsg 0x0603 (some 12) false m (channelCtrl 3 (fun _ => false) (fun _ => false) (fun _ => true) m) s)
/-- CHANNEL_CTRL, OP UNMUTE. -/
def execChannelUnmute (m : Msg) (s : State) : Host.Outcome State Fault Refusal :=
  .next (withMsg 0x0603 (some 12) false m (channelCtrl 4 (fun _ => false) (fun _ => false) (fun _ => false) m) s)
/-- CHANNEL_CTRL, OP GAIN. -/
def execChannelGain (m : Msg) (s : State) : Host.Outcome State Fault Refusal :=
  .next (withMsg 0x0603 (some 12) false m (channelCtrl 5 (fun _ => true) (fun _ => false) (fun _ => false) m) s)
/-- ZERO_CROSSING_APPLY: a pending change that has become due applies. -/
def execZeroCrossingApply (ch : Nat) (s : State) : Host.Outcome State Fault Refusal :=
  .next (match (s.channel ch).bind (·.pendingCh) with
    | some g => if g.due s.now then applyChange ch s else s
    | none => s)
/-- ZC_TIMEOUT: the same at the timeout, which the flag records; with ZC_MS = 0 there is none. -/
def execZcTimeout (ch : Nat) (s : State) : Host.Outcome State Fault Refusal :=
  .next (match s.channel ch with
    | some c => match c.pendingCh with
      | some g => if g.due s.now then
          (applyChange ch s).onAudio (fun a => { a with zcTimeout := a.zcTimeout || decide (c.r 0x21 1 ≠ 0) }) else s
      | none => s
    | none => s)

/-! ## The work of a beat (R420) -/

/-- The work of a channel in this beat is still to be done. -/
def State.beatOpen (s : State) (c : Channel) : Bool := s.rot.dcpReady && c.started && decide (c.inBeat ≠ some s.now)
/-- The input channels of lower index that share a channel's queue have done the beat's work (R436). -/
def State.queueTurn (s : State) (c : Channel) : Bool :=
  s.audio.chans.all (fun d => !(d.isIn && decide (d.idx < c.idx ∧ d.r 0x22 2 = c.r 0x22 2) && s.beatOpen d))
/-- AFE_INPUT_PROCESS: once in a beat, channels that share a queue in ascending index. -/
def execAfeInputProcess (ch : Nat) (s : State) : Host.Outcome State Fault Refusal :=
  .next (match s.channel ch with
    | some c => if s.beatOpen c && c.isIn && s.queueTurn c then inputBeat ch s else s
    | none => s)
/-- AFE_OUTPUT_PROCESS: once in a beat. -/
def execAfeOutputProcess (ch : Nat) (s : State) : Host.Outcome State Fault Refusal :=
  .next (match s.channel ch with
    | some c => if s.beatOpen c && !c.isIn then outputBeat ch (c.net || (s.sap (c.r 2 1)).running) s else s
    | none => s)

/-! ## PORTGROUP_CONFIG and PORTGROUP_ARM (R445 to R448, R482) -/

/-- A SAP_CTRL value's fields are legal, with GROUP and ENABLE 0. -/
def sapValueOk (v : Nat) : Bool :=
  let slots := bitsOf v 16 5
  let sw := bitsOf v 10 2
  let smp := bitsOf v 8 2
  decide (v < 2 ^ 36) && decide (bitsOf v 21 11 = 0) && decide (bitsOf v 2 6 = 0) && !v.testBit 0 &&
    decide (2 ≤ slots ∧ slots ≤ 16) && (!v.testBit 32 || decide (slots = 2)) && decide (bitsOf v 12 4 ≤ 0xA) &&
    decide (sw ≤ 1 ∧ smp ≤ 2) && decide (sw = 1 ∨ smp = 0)
/-- A port configuration keeps the clock rules of a clock mode (R445). -/
def sapClockOk (slave : Bool) (v : Nat) : Bool :=
  let bclk := rateHz (bitsOf v 12 4) * bitsOf v 16 5 * (if bitsOf v 10 2 = 0 then 16 else 32)
  decide (bclk ≤ 24576000) && (slave || decide (pllBase (rateFamily (bitsOf v 12 4)) % bclk = 0)) && decide (v.testBit 1 ≠ slave)
/-- The payload's SAP_CTRL and PDM_CTRL values. -/
def pgSap (m : Msg) (p : Nat) : Nat := m.f (8 + 8 * p) 8
def pgPdm (m : Msg) (c : Nat) : Nat := m.f (0x28 + 8 * c) 8
/-- Members named by the masks of a message. -/
def pgSaps (m : Msg) : List Nat := (List.range 4).filter (fun p => (m.f 4 1).testBit p)
def pgPdms (m : Msg) : List Nat := (List.range 4).filter (fun c => (m.f 5 1).testBit c)
/-- Rate families of a message's members; PDM clocks belong to the 24.576 MHz base. -/
def pgFams (m : Msg) : List Bool :=
  ((pgSaps m).map (fun p => rateFamily (bitsOf (pgSap m p) 12 4)) ++ (pgPdms m).map (fun _ => false)).eraseDups
/-- The PORTGROUP_CONFIG checks that give BAD_FORMAT, but for the first ones. -/
def State.pgFormat (s : State) (m : Msg) : Bool :=
  let g := m.f 0 1
  let slave := m.f 2 1 == 1
  let others := (List.range 16).filter (fun j => decide (j ≠ g) && (s.group j).exists_)
  decide (m.f 4 1 < 16 ∧ m.f 5 1 < 16 ∧ m.f 6 1 < 4) && m.z 7 1 &&
    (!slave || (pgSaps m).contains (m.f 6 1)) &&
    (List.range 4).all (fun p => if (pgSaps m).contains p then sapValueOk (pgSap m p) && sapClockOk slave (pgSap m p) else decide (pgSap m p = 0)) &&
    (List.range 4).all (fun c => if (pgPdms m).contains c then decide (pgPdm m c < 2 ^ 8) && decide (pgPdm m c % 2 ^ 5 = 0) else decide (pgPdm m c = 0)) &&
    decide ((pgFams m).length ≤ 1) &&
    others.all (fun j =>
      let k := s.group j
      decide (k.saps &&& m.f 4 1 = 0) && decide (k.pdms &&& m.f 5 1 = 0) &&
        (decide (k.pll ≠ m.f 1 1) || (!slave && !k.slave &&
          (pgFams m).all (fun x => x == (s.audio.plls.getD (m.f 1 1) .reset).family))))
/-- SAP_CTRL of a member, GROUP and ENABLE set by the DCP. -/
def sapSet (g v : Nat) (k : SapSt) : SapSt :=
  { k with
    group := BitVec.ofNat 4 g, mclkEn := v.testBit 35, bclkInv := v.testBit 34, dataDelay := v.testBit 33, i2s := v.testBit 32,
    slots := BitVec.ofNat 5 (bitsOf v 16 5), rate := BitVec.ofNat 4 (bitsOf v 12 4), slotW := BitVec.ofNat 2 (bitsOf v 10 2),
    sampleW := BitVec.ofNat 2 (bitsOf v 8 2), master := v.testBit 1, enable := true, running := false, rearmed := false,
    rx := [], tx := [] }
/-- PDM_CTRL of a member. -/
def pdmSet (g v : Nat) (k : PdmSt) : PdmSt :=
  { k with clk := BitVec.ofNat 2 (bitsOf v 6 2), dec128 := v.testBit 5, group := BitVec.ofNat 4 g, enable := true, running := false, bits := [] }
/-- The PLLs after a group's configuration. -/
def pllSet (m : Msg) (old : Option Nat) (l : List PllSt) : List PllSt :=
  let cleared := match old with | some a => l.modify a (fun _ => .reset) | none => l
  cleared.modify (m.f 1 1) (fun k => { k with
    enabled := true, locked := true, slave := m.f 2 1 == 1, family := (pgFams m).contains true, adj := 0, ip := 0, hold := false })
/-- PORTGROUP_CONFIG. -/
def portgroupConfig (m : Msg) (s : State) : State × Reply :=
  let g := m.f 0 1
  let old := s.group g
  let mine := fun (k : Nat) => decide (k = g)
  checked [
    (decide (g ≤ 15), stBadLength),
    (decide (m.f 1 1 ≤ 1 ∧ m.f 2 1 ≤ 1 ∧ m.f 3 1 ≤ 1), stBadFormat),
    (s.pgFormat m, stBadFormat),
    (m.sys, stRefusedDomain),
    (s.audio.chans.all (fun c =>
      !((c.r 1 1 == 2 && (m.f 4 1 ||| old.saps).testBit (c.r 2 1)) || (c.r 1 1 == 3 && (m.f 5 1 ||| old.pdms).testBit (c.r 2 1 / 4)))) &&
      old.armedFrom.isNone, stRefusedBeat)]
    (fun s =>
      let s1 := if old.exists_ then s else s.issue 6 g
      let lone := old.exists_ && (List.range 16).all (fun j => mine j || !(s.group j).exists_ || decide ((s.group j).pll ≠ old.pll))
      let s2 := s1.onAudio (fun a => { a with
        saps := a.saps.zipIdx.map (fun p => if (pgSaps m).contains p.2 then sapSet g (pgSap m p.2) p.1
          else if old.exists_ && old.saps.testBit p.2 then { p.1 with enable := false, running := false } else p.1),
        pdms := a.pdms.zipIdx.map (fun p => if (pgPdms m).contains p.2 then pdmSet g (pgPdm m p.2) p.1
          else if old.exists_ && old.pdms.testBit p.2 then { p.1 with enable := false, running := false } else p.1),
        plls := pllSet m (if lone then some old.pll else none) a.plls })
      let s3 := s2.onGroup g (fun _ => {
        exists_ := true, pll := m.f 1 1, slave := m.f 2 1 == 1, trigIn := m.f 3 1 == 1, saps := m.f 4 1, pdms := m.f 5 1,
        refSap := m.f 6 1, armedFrom := none, armMsg := none, trigAt := none, running := false, frame := 0 })
      (s3, .done stOk (natLe 4 (s3.handleOf 6 g)))) s
/-- PORTGROUP_CONFIG. -/
def execPortgroupConfig (m : Msg) (s : State) : Host.Outcome State Fault Refusal :=
  .next (withMsg 0x0108 (some 0x48) false m (portgroupConfig m) s)
/-- PORTGROUP_ARM: a group that is armed or runs cannot be armed again. -/
def portgroupArm (m : Msg) (s : State) : State × Reply :=
  let h := m.f 0 4
  let g := hIdx h
  checked [
    (s.hValid 6 h, stBadHandle),
    (m.sys, stRefusedDomain),
    ((s.group g).armedFrom.isNone && !(s.group g).running, stRefusedBeat)]
    (fun s => (s.onGroup g (fun k => { k with armedFrom := some (s.now + 2), armMsg := some (m.client, m.mbox) }), waitFor m 0x0109 h none 0)) s
/-- PORTGROUP_ARM. -/
def execPortgroupArm (m : Msg) (s : State) : Host.Outcome State Fault Refusal :=
  .next (withMsg 0x0109 (some 4) false m (portgroupArm m) s)

/-! ## Triggers, starts and slips (R448 to R453) -/

/-- TRIG_IN_EDGE: counted, and the trigger event of the groups and the slipped ports that await it. -/
def execTrigInEdge (t : Nat) (s : State) : Host.Outcome State Fault Refusal :=
  .next (if !s.rot.dcpReady then s else (rejoinTrig true s).onAudio (fun a => { a with
    trigCount := a.trigCount + 1,
    groups := a.groups.map (fun g => match g.armedFrom with
      | some b => if g.trigIn && g.trigAt.isNone && decide (b ≤ s.now) then { g with trigAt := some t } else g
      | none => g) }))
/-- The frames of zeros a TX FIFO holds when its port starts. -/
def txFill (k : SapSt) : List (List Word) := List.replicate 32 (List.replicate k.slots.toNat 0)
/-- A group starts: its members frame from group frame 0 and its channels start; the arm message completes. -/
def startGroup (g : Nat) (s : State) : State :=
  let k := s.group g
  let s1 := s.onAudio (fun a => { a with
    saps := a.saps.zipIdx.map (fun p => if k.saps.testBit p.2 && p.1.enable && s.serves ⟨.sap, p.2⟩ then
      { p.1 with running := true, rearmed := false, rx := [], tx := txFill p.1, primed := false, acc := 0 } else p.1),
    pdms := a.pdms.zipIdx.map (fun p => if k.pdms.testBit p.2 && p.1.enable then { p.1 with running := true, bits := [] } else p.1),
    chans := a.chans.map (fun c => if s.groupOfChan c == some g && !c.net then { c with started := true, gframe := 0 } else c) })
  let s2 := s1.onGroup g (fun k => { k with running := true, frame := 0, armedFrom := none, trigAt := none, armMsg := none })
  match k.armMsg with
  | some w => completeOwned w.1 w.2 stOk [] s2
  | none => s2
/-- GROUP_START. -/
def execGroupStart (g : Nat) (s : State) : Host.Outcome State Fault Refusal :=
  .next (if s.rot.dcpReady && (s.group g).trigAt.isSome && (s.group g).armedFrom.isSome then startGroup g s else s)
/-- SLIP of a running SAP; a misplaced FS edge, cause 2, comes to a slave alone (R444). -/
def execSlip (p cause : Nat) (s : State) : Host.Outcome State Fault Refusal :=
  .next (if s.rot.dcpReady && (s.sap p).running && !(cause == 2 && (s.sap p).master) then slipSap p cause s else s)
/-- SLIP_REJOIN, once a trigger event has come two beats or more after the slip (R451). -/
def execSlipRejoin (p : Nat) (s : State) : Host.Outcome State Fault Refusal :=
  .next (let k := s.sap p
    if s.rot.dcpReady && k.rearmed && k.rejoinDue && s.serves ⟨.sap, p⟩ then
      (s.onSap p (fun k => { k with running := true, rearmed := false, rejoinDue := false, rx := [], tx := txFill k, primed := false, acc := 0 })).onAudio (fun a => { a with
        plls := a.groups.foldl (fun (l : List PllSt) (g : GroupSt) =>
          if g.exists_ && g.slave && g.refSap == p then l.modify g.pll (fun x => { x with hold := false }) else l) a.plls })
    else s)
/-- CLK_LOST of a running slave group (R452). -/
def execClkLost (g : Nat) (s : State) : Host.Outcome State Fault Refusal :=
  .next (let k := s.group g
    if !s.rot.dcpReady || !k.exists_ || !k.slave || !k.running then s
    else
      let s1 := (s.onSap k.refSap (fun p => { p with clkLost := true })).onAudio (fun a => { a with
        plls := a.plls.modify k.pll (fun l => { l with hold := true }) })
      ((List.range 4).filter (fun p => k.saps.testBit p && (s.sap p).running)).foldl (fun (s : State) (p : Nat) => slipSap p 3 s) s1)

/-! ## GROUP_FRAME -/

/-- A slot's bits for a sample. -/
def slotBits (k : SapSt) (v : Word) : Word :=
  let w := [16, 24, 32].getD k.sampleW.toNat 16
  let sw := if k.slotW = 0 then 16 else 32
  BitVec.ofNat 32 (v.toNat % 2 ^ w * 2 ^ (sw - w))
/-- Frames of a port's FIFO in each direction (R418). -/
abbrev fifoFrames : Nat := 64
/-- One frame on the internal side of a SAP: the RX FIFO gives its oldest frame to the port buffers, from its first 32 on, and the port buffers
give one to the TX FIFO where that has room. -/
def sapInside (p : Nat) (s : State) : State :=
  let k := s.sap p
  let primed := k.primed || decide (32 ≤ k.rx.length)
  let took := if primed then k.rx.head? else none
  let put := decide (k.tx.length < fifoFrames)
  let mine := fun (c : Channel) => c.r 1 1 == 2 && c.r 2 1 == p && c.started
  let outs := (List.range k.slots.toNat).map (fun i =>
    match s.audio.chans.find? (fun c => mine c && !c.isIn && c.r 3 1 == i) with
    | some c => slotBits k ((c.port.head?.map (·.1)).getD 0)
    | none => 0)
  let s1 := s.onAudio (fun a => { a with chans := a.chans.map (fun c =>
    if !mine c then c
    else if c.isIn then (match took with | some f => portIn (slotSample k f (c.r 3 1), 9) c | none => c)
    else if put then { c with port := c.port.drop 1 } else c) })
  s1.onSap p (fun k => { k with
    primed := primed, rx := if took.isSome then k.rx.drop 1 else k.rx, tx := if put then k.tx ++ [outs] else k.tx })
/-- The internal frames that fall in one frame at the pins, and what is left of the next: the divider of the group's PLL applies adj (R432). A
master group's frames are its own PLL's (DESIGN CHOICE, log entry 66). -/
def insideFrames (adj : Int) (span acc : Nat) : Nat × Nat :=
  let a := acc + ((span : Int) + (span : Int) * adj / 2 ^ 32).toNat
  (a / 2 ^ 32, a % 2 ^ 32)
/-- A frame of a SAP that does not run: zeros at the pins, and zeros that are marked lost for its input channels once it has slipped (R449). -/
def sapStopped (p : Nat) (s : State) : State :=
  let k := s.sap p
  let s1 := s.onSap p (fun k => { k with pins := [List.replicate k.slots.toNat 0] })
  if k.rearmed then s1.onAudio (fun a => { a with
    chans := a.chans.map (fun c => if c.isIn && c.r 1 1 == 2 && c.r 2 1 == p && c.started then portIn (0, 2) c else c) }) else s1
/-- One frame of a SAP at its pins: the received frame enters the RX FIFO, the oldest TX frame leaves; a full RX FIFO or an empty TX FIFO is a
slip at this frame (R449). Then the internal side's frames (R432). -/
def sapFrame (p : Nat) (adj : Int) (span : Nat) (frame : List Word) (s : State) : State :=
  let k := s.sap p
  if !k.running then sapStopped p s
  else if fifoFrames ≤ k.rx.length then sapStopped p (slipSap p 0 s)
  else match k.tx with
    | [] => sapStopped p (slipSap p 1 s)
    | t :: r =>
      let q := insideFrames adj span k.acc
      (List.range q.1).foldl (fun (s : State) _ => sapInside p s)
        (s.onSap p (fun k => { k with rx := k.rx ++ [frame], tx := r, pins := [t], acc := q.2 }))
/-- Bits of a microphone kept for the decimator: 16 decimation periods. -/
def pdmMemory : Nat := 16
/-- The samples that a microphone's bits give, and the bits kept. -/
def decimate (d : Nat) : Nat → List Bool → List Word × List Bool
  | 0, h => ([], h)
  | n + 1, h =>
    if h.length < pdmMemory * d then ([], h)
    else
      let r := decimate d n (h.drop d)
      (intTo32 24 (Config.pdmSample d (h.take (pdmMemory * d))).toNat :: r.1, r.2)
/-- Every second bit of a line, from the first or the second on. -/
def everyOther : List Bool → List Bool
  | [] => []
  | [a] => [a]
  | a :: _ :: r => a :: everyOther r
/-- Bits of a PDM data line: rising and falling edges in turn give the line's two microphones (R446). -/
def pdmLine (l : Nat) (bits : List Bool) (s : State) : State :=
  let k := s.audio.pdms.getD (l / 2) .reset
  let d := if k.dec128 then 128 else 64
  if !k.running then s
  else
    let one := fun (mic : Nat) (new : List Bool) (s : State) =>
      let k := s.audio.pdms.getD (l / 2) .reset
      let hs := if k.bits.length = 4 then k.bits else List.replicate 4 (List.replicate ((pdmMemory - 1) * d) false)
      let up := s.serves ⟨.pdm, l⟩
      let r := decimate d (new.length + 1) (hs.getD (mic % 4) [] ++ new)
      s.onAudio (fun a => { a with
        pdms := a.pdms.modify (l / 2) (fun k => { k with bits := hs.set (mic % 4) r.2 }),
        chans := a.chans.map (fun c => if c.r 1 1 == 3 && c.r 2 1 == mic && c.started && up then
          r.1.foldl (fun (c : Channel) (v : Word) => portIn (v, 9) c) c else c) })
    one (2 * l + 1) (everyOther (bits.drop 1)) (one (2 * l) (everyOther bits) s)
/-- adj of the PLL that paces a group's internal side, and the length of a frame: a master group's is nominal (R432). -/
def State.groupPace (s : State) (g : Nat) (span : Nat) : Int × Nat :=
  if (s.group g).slave then ((s.audio.plls.getD (s.group g).pll .reset).adj, span) else (0, 2 ^ 32)
/-- GROUP_FRAME: one frame of every SAP of a running group, and the bits of its PDM lines. -/
def execGroupFrame (g : Nat) (rx : PinFrames) (pdm : List (Nat × List Bool)) (s : State) :
    Host.Outcome State Fault Refusal :=
  .next (let k := s.group g
    if !s.rot.dcpReady || !k.exists_ || !k.running then s
    else
      let q := s.groupPace g rx.span
      let s1 := ((List.range 4).filter (fun p => k.saps.testBit p)).foldl
        (fun (s : State) (p : Nat) => sapFrame p q.1 q.2 ((kget rx.frames p).getD []) s) s
      let s2 := (pdm.filter (fun q => decide (q.1 < 8) && k.pdms.testBit (q.1 / 2))).foldl
        (fun (s : State) (q : Nat × List Bool) => pdmLine q.1 q.2 s) s1
      s2.onGroup g (fun k => { k with frame := k.frame + 1 }))

end Sys2Proof.Machine
end

