-- ==== Sys2Proof/Machine/ObjExec.lean ====
section
/-! DEFINITION. State objects (R215 to R230, R487, R488): creation, destruction, swaps, resets, copies. -/

namespace Sys2Proof.Machine

/-! ## Pins and planned steps (R222, R230) -/

/-- Every command of the released plan and of the plan composed for the next beat. -/
def State.planned (s : State) : List PCmd := s.plan.cur ++ (match s.plan.next with | some n => n.2.1 | none => [])
/-- A planned command names the object. -/
def State.pinned (s : State) (i : Nat) : Bool := s.planned.any (fun c => (s.objsOf c).contains i)
/-- The last step already placed (R230): STEP − 1 and the steps of the rows placed in plans that have not yet completed, counted
on the rows of the object's last layer. -/
def State.lastPlaced (s : State) (o : StateObj) : Int :=
  (stepAfter (s.handleOf 3 o.idx) o.layers o.step (s.planned.filter (fun c => c.run == .queued || c.run == .running)) : Int) - 1
/-- A reservation of an object's owner: of the session or channel itself, or of a channel of the session. -/
def State.ownerHolds (s : State) (owner : Word) (r : Resv) : Bool :=
  owner != 0 && (decide (r.obj = owner) && r.kind != .stopword ||
    (match (if hKind owner.toNat = 2 then s.session (hIdx owner.toNat) else none) with
     | some x => (r.kind == .encode && decide (r.obj = x.inCh)) || (r.kind == .decoder && decide (r.obj = x.outCh))
     | none => false))
/-- An admitted reservation of class D or I whose work writes an object, or that the object's owner holds (R223). -/
def State.reservedObj (s : State) (i : Nat) : Bool :=
  s.plan.resvs.any (fun r => (s.workObjs r.kind r.obj).contains i ||
    (match s.obj i with | some o => s.ownerHolds o.owner r | none => false))
/-- Swaps in progress. -/
def State.swaps (s : State) : Nat := (s.ctrl.objs.filter (fun o => o.swap.isSome && !o.gone)).length

/-! ## Creation -/

/-- Regions for an object, tagged for a domain, behind a CXL port with CACHE (R355), zeroed, held by an owner word. -/
def holdObj (owner : Word) (dom lo n : Nat) (s : State) : State :=
  (clearMem (lo * regionSize) (n * regionSize) (assignRegions lo n (mkTag 2 (b2n (portOfAddr (lo * regionSize)).isSome) dom) dom s)).onMem (fun m => { m with
    held := m.held ++ [(lo * regionSize, n, owner)] })
/-- A new object's record at an address. -/
def freshObj (i client model : Nat) (owner : Word) (heads dk16 dv16 layers : Nat) (vec : Bool) (addr : Nat) : StateObj :=
  { idx := i, client := client, model := model, owner := owner, heads := heads, dk16 := dk16, dv16 := dv16,
    layers := layers, decayVec := vec, addr := addr, step := 0, seq := 0, invalid := none, resets := [], swap := none,
    destroying := none, copies := 0, gone := false, freeAt := none }
/-- A new object in HBM (R217): its index, if one can be issued and a stack has room. -/
def newObj (client dom model : Nat) (owner : Word) (heads dk16 dv16 layers : Nat) (vec : Bool) (s : State) : Option (Nat × State) :=
  let n := objRegions heads dk16 dv16 layers
  match s.nextIdx 3, s.anyStackRun dom n with
  | some i, some q =>
    let s1 := s.issue 3 i
    let h := BitVec.ofNat 32 (s1.handleOf 3 i)
    let s2 := holdObj h dom q.2 n s1
    some (i, syncObj i (s2.onCtrl (fun k => { k with
      objs := k.objs ++ [freshObj i client model owner heads dk16 dv16 layers vec (q.2 * regionSize)] })))
  | _, _ => none
/-- STATE_CREATE. -/
def stateCreate (m : Msg) (s : State) : State × Reply :=
  let model := m.f 0 4
  let owner := m.f 4 4
  let heads := m.f 8 1
  let dk := m.f 9 1
  let dv := m.f 0xA 1
  let layers := m.f 0xC 2
  let vec := m.f 0xB 1 == 1
  let shape := match (s.model (hIdx model)) with
    | some x => x.pkg.recurrent.any (fun g => g.heads == heads && g.dk16 == dk && g.dv16 == dv && g.layers == layers && g.decayVec == vec)
    | none => false
  let ownerKind := if hKind owner = 2 then 2 else 1
  checked [
    (s.live 4 model && s.liveOr0 ownerKind owner, stBadHandle),
    (decide (1 ≤ heads ∧ heads ≤ 64), stBadLength),
    (decide (1 ≤ dk ∧ dk ≤ 8), stBadLength),
    (decide (1 ≤ dv ∧ dv ≤ 8), stBadLength),
    (decide (m.f 0xB 1 ≤ 1), stBadFormat),
    (decide (1 ≤ layers ∧ layers ≤ 256), stBadLength),
    (decide (bodyBytes heads dk dv layers ≤ 2 ^ 30), stBadLength),
    (m.z 0xE 2, stBadFormat),
    (shape, stBadFormat),
    (s.owns m.client 4 model && s.owns m.client ownerKind owner, stRefusedDomain),
    (!s.unloading model && (s.nextIdx 3).isSome, stRefusedBeat)]
    (fun s => match newObj m.client (s.domainOf m.client) (hIdx model) (BitVec.ofNat 32 owner) heads dk dv layers vec s with
      | some (i, s1) => (s1, .done stOk (natLe 4 (s1.handleOf 3 i)))
      | none => (s, .done stRefusedPages [])) s
/-- STATE_CREATE. -/
def execStateCreate (m : Msg) (s : State) : Host.Outcome State Fault Refusal :=
  .next (withMsg 0x0401 (some 16) false m (stateCreate m) s)

/-! ## Destruction (R228, R229) -/

/-- A forced destroy (R229): the handle retires at once, the region is freed at the tick of beat n + 2; a swap ends with
STATE_GONE (R227), other messages that wait on the object with BAD_HANDLE (R475). -/
def forceDestroy (i : Nat) (s : State) : State :=
  match s.obj i with
  | none => s
  | some o =>
    let s1 := endWork (fun b => b.kind == .stateCopy && b.obj == i) stBadHandle s
    let s2 := match o.swap with
      | some w => completeOwned w.client w.mbox stStateGone [] (releaseHeld (swapOwner i) s1)
      | none => s1
    let s3 := match o.destroying with
      | some w => completeOwned w.1 w.2 stBadHandle [] s2
      | none => s2
    (s3.retire 3 i).onObj i (fun o => { o with gone := true, freeAt := some (s.now + 2), swap := none, destroying := none })
/-- STATE_DESTROY. -/
def stateDestroy (m : Msg) (s : State) : State × Reply :=
  let h := m.f 0 4
  let force := m.f 4 4 == 1
  let i := hIdx h
  let o := s.obj i
  let busy := match o with | some o => o.swap.isSome || o.destroying.isSome || decide (0 < o.copies) | none => false
  let ownerOpen := match o with
    | some o => o.owner != 0 && s.live (if hKind o.owner.toNat = 2 then 2 else 1) o.owner.toNat
    | none => false
  checked [
    (s.live 3 h, stBadHandle),
    (decide (m.f 4 4 ≤ 1), stBadFormat),
    (s.owns m.client 3 h, stRefusedDomain),
    (force || (!busy && !ownerOpen), stRefusedBeat)]
    (fun s =>
      if force then (forceDestroy i s, .done stOk [])
      else if s.pinned i then
        (s.onObj i (fun o => { o with destroying := some (m.client, m.mbox) }), waitFor m 0x0402 h none 0)
      else (dropObj i s, .done stOk [])) s
/-- STATE_DESTROY. -/
def execStateDestroy (m : Msg) (s : State) : Host.Outcome State Fault Refusal :=
  .next (withMsg 0x0402 (some 8) false m (stateDestroy m) s)
/-- PINNED_DESTROY: the end of the last pinning beat (R228). -/
def execPinnedDestroy (i : Nat) (s : State) : Host.Outcome State Fault Refusal :=
  .next (match (s.obj i).bind (·.destroying) with
    | none => s
    | some w => if s.pinned i then s else completeOwned w.1 w.2 stOk [] (dropObj i s))

/-! ## Swaps (R223 to R227) -/

/-- The tier code of an object's place: 1 HBM, 2 CXL tier. -/
def tierOf (o : StateObj) : Nat := if (portOfAddr o.addr).isSome then 2 else 1
/-- STATE_SWAP. -/
def stateSwap (m : Msg) (s : State) : State × Reply :=
  let h := m.f 0 4
  let dest := m.f 4 1
  let i := hIdx h
  let dom := s.domainOf m.client
  let o := (s.obj i).getD (freshObj i 0 0 0 0 0 0 0 false 0)
  let n := objRegions o.heads o.dk16 o.dv16 o.layers
  let same := decide (dest = tierOf o)
  checked [
    (s.live 3 h, stBadHandle),
    (decide (1 ≤ dest ∧ dest ≤ 3), stBadFormat),
    (m.z 5 1, stBadFormat),
    (decide (m.f 6 2 < 4096) && !(decide (dest = 3) && decide (m.f 6 2 = s.links.moduleId.toNat)), stBadFormat),
    (s.owns m.client 3 h, stRefusedDomain),
    (o.swap.isNone && o.destroying.isNone && decide (o.copies = 0), stRefusedBeat),
    (same || ((tierOf o == 2 || !s.reservedObj i) && decide (s.swaps < 64)), stRefusedBeat)]
    (fun s =>
      if same then (s, .done stOk (natLe 4 h))
      else
        let go := fun (lo : Nat) (s : State) =>
          (s.onObj i (fun o => { o with swap := some {
              dest := dest, modul := m.f 6 2, client := m.client, mbox := m.mbox, target := lo * regionSize, copying := false,
              copied := none, newHandle := BitVec.ofNat 32 h } }), waitFor m 0x0403 h none 0)
        if dest = 3 then go 0 s
        else match (if dest = 1 then s.anyStackRun dom n else s.anyPortRun dom n) with
          | some q => go q.2 (holdObj (swapOwner i) dom q.2 n s)
          | none => (s, .done stRefusedPages [])) s
/-- STATE_SWAP. -/
def execStateSwap (m : Msg) (s : State) : Host.Outcome State Fault Refusal :=
  .next (withMsg 0x0403 (some 8) false m (stateSwap m) s)
/-- SWAP_COPY_START: the first tick after the last beat that holds a command pinning the object. -/
def execSwapCopyStart (i : Nat) (s : State) : Host.Outcome State Fault Refusal :=
  .next (if s.pinned i then s else s.onObj i (fun o => { o with swap := o.swap.map (fun w => { w with copying := true }) }))
/-- SWAP_COPY_COMPLETE: refused by the destination or lost with its port or link (R227), or copied; the object moves at
the next tick. -/
def execSwapCopyComplete (i : Nat) (refused : Bool) (newHandle : Word) (s : State) : Host.Outcome State Fault Refusal :=
  .next (match (s.obj i).bind (·.swap) with
    | none => s
    | some w =>
      if !w.copying || w.copied.isSome then s
      else if refused then
        completeOwned w.client w.mbox stFenced [] ((releaseHeld (swapOwner i) s).onObj i (fun o => { o with swap := none }))
      else if !s.copyRuns (· == .swap i) then s
      else s.onObj i (fun o => { o with
        swap := some { w with copied := some s.now, newHandle := if w.dest = 3 then newHandle else w.newHandle } }))
/-- SWAP_RELOCATE at a tick (R224, R225). -/
def relocateObj (i : Nat) (s : State) : State :=
  match s.obj i with
  | none => s
  | some o =>
    match o.swap with
    | none => s
    | some w =>
      if w.copied.isNone then s
      else if w.dest = 3 then
        completeOwned w.client w.mbox stOk (natLe 4 w.newHandle.toNat) (dropObj i s)
      else
        let h := BitVec.ofNat 32 (s.handleOf 3 i)
        let n := objRegions o.heads o.dk16 o.dv16 o.layers
        let s1 := copyMem o.addr w.target (n * regionSize) s
        let s2 := (releaseHeld h s1).onMem (fun k => { k with
          held := updAll k.held (fun q => q.2.2 == swapOwner i) (fun q => (q.1, q.2.1, h)) })
        completeOwned w.client w.mbox stOk (natLe 4 w.newHandle.toNat)
          (s2.onObj i (fun o => { o with addr := w.target, swap := none }))

/-! ## Resets (R230) -/

/-- STATE_RESET. -/
def stateReset (m : Msg) (s : State) : State × Reply :=
  let h := m.f 0 4
  let n := m.f 4 1
  let mask := m.f 0x10 16
  let steps := ((List.range 128).filter (fun i => mask.testBit i)).map (m.f 8 8 + ·)
  let last : Int := match s.obj (hIdx h) with | some o => s.lastPlaced o | none => 0
  checked [
    (s.live 3 h, stBadHandle),
    (decide (n ≤ 128), stBadLength),
    (m.z 5 3, stBadFormat),
    (decide (mask < 2 ^ n), stBadFormat),
    (s.owns m.client 3 h, stRefusedDomain),
    (decide (n = 0) || steps.all (fun x => decide (last < (x : Int))), stRefusedBeat)]
    (fun s => (s.onObj (hIdx h) (fun o => { o with resets := o.resets ++ steps.filter (fun x => !o.resets.contains x) }), .done stOk [])) s
/-- STATE_RESET. -/
def execStateReset (m : Msg) (s : State) : Host.Outcome State Fault Refusal :=
  .next (withMsg 0x0404 (some 32) false m (stateReset m) s)

/-! ## Copies (R488) -/

/-- STATE_COPY. -/
def stateCopy (m : Msg) (s : State) : State × Reply :=
  let h := m.f 0 4
  let i := hIdx h
  let o := (s.obj i).getD (freshObj i 0 0 0 0 0 0 0 false 0)
  let n := objRegions o.heads o.dk16 o.dv16 o.layers
  let dom := s.domainOf m.client
  checked [
    (s.live 3 h, stBadHandle),
    (m.z 4 4, stBadFormat),
    (s.owns m.client 3 h, stRefusedDomain),
    (o.swap.isNone && o.destroying.isNone && (s.nextIdx 3).isSome, stRefusedBeat)]
    (fun s => match s.anyStackRun dom n with
      | none => (s, .done stRefusedPages [])
      | some q =>
        let s1 := (holdObj (copyOwner m.client m.mbox) dom q.2 n s).onObj i (fun o => { o with copies := o.copies + 1 })
        (addWork { kind := .stateCopy, client := m.client, mbox := m.mbox, obj := i, arg := q.2 * regionSize, model := o.model,
                   beat := s.now, taken := false } s1, waitFor m 0x0405 h none 0)) s
/-- STATE_COPY. -/
def execStateCopy (m : Msg) (s : State) : Host.Outcome State Fault Refusal :=
  .next (withMsg 0x0405 (some 8) false m (stateCopy m) s)
/-- A copy takes its source at the first tick at which no released plan holds a command that writes it. -/
def takeCopies (s : State) : State :=
  (s.plan.bwork.filter (fun b => b.kind == .stateCopy && !b.taken)).foldl (fun (s : State) (b : BWork) =>
    match s.obj b.obj with
    | none => s
    | some o =>
      if s.plan.cur.any (fun c => (s.objsOf c).contains b.obj) then s
      else (copyMem o.addr b.arg (4096 + bodyBytes o.heads o.dk16 o.dv16 o.layers) s).onPlan (fun p => { p with
        bwork := updFirst p.bwork (· == b) (fun b => { b with taken := true }) })) s
/-- STATE_COPY_COMPLETE, while a plan's part of the copy runs: the new object takes an index and its handle is the reply. -/
def execStateCopyComplete (client mbox : Nat) (s : State) : Host.Outcome State Fault Refusal :=
  .next (match s.plan.bwork.find? (fun b => b.kind == .stateCopy && b.client == client && b.mbox == mbox && b.taken) with
    | none => s
    | some b =>
      if !s.copyRuns (DcpCopy.isFor b.same) then s
      else match s.obj b.obj, s.nextIdx 3 with
      | some o, some j =>
        let s1 := ((dropWork (· == b) s).onObj b.obj (fun o => { o with copies := o.copies - 1 })).issue 3 j
        let h := BitVec.ofNat 32 (s1.handleOf 3 j)
        let inv : Option Half := if fld (MemOps.readN s.mem.dev b.arg 64) 2 1 % 2 = 1 then
          some (BitVec.ofNat 16 (fld (MemOps.readN s.mem.dev b.arg 64) 0x14 2)) else none
        let s2 := s1.onMem (fun k => { k with
          held := updAll k.held (fun q => q.2.2 == copyOwner client mbox) (fun q => (q.1, q.2.1, h)) })
        let s3 := s2.onCtrl (fun k => { k with objs := k.objs ++ [{
          freshObj j client o.model 0 o.heads o.dk16 o.dv16 o.layers o.decayVec b.arg with
          step := fld (MemOps.readN s.mem.dev b.arg 64) 0x18 8, invalid := inv }] })
        completeOwned client mbox stOk (natLe 4 h.toNat) (syncObj j s3)
      | _, _ => endWork (· == b) stRefusedBeat s)

/-! ## At each tick -/

/-- Swaps relocated, copies taken, regions of objects destroyed by force freed, resets of past steps forgotten. -/
def objTick (s : State) : State :=
  let s1 := (s.ctrl.objs.map (·.idx)).foldl (fun (s : State) (i : Nat) => relocateObj i s) s
  let due := s1.ctrl.objs.filter (fun o => match o.freeAt with | some b => decide (b ≤ s.now) | none => false)
  let s2 := due.foldl (fun (s : State) (o : StateObj) => releaseHeld (BitVec.ofNat 32 (s.handleOf 3 o.idx)) s) s1
  takeCopies (s2.onCtrl (fun k => { k with
    objs := (k.objs.filter (fun o => match o.freeAt with | some b => decide (s.now < b) | none => true)).map
      (fun o => { o with resets := o.resets.filter (fun x => decide (o.step ≤ x)) }) }))

end Sys2Proof.Machine
end

