-- ==== Sys2Proof/Machine/CtrlExec.lean ====
section
/-! DEFINITION. System messages and client memory (R457, R462, R470 to R484, R492, R497): clients, beat settings, topology,
pools, fences, telemetry, faults, MEM_ALLOC, MEM_FREE, MEM_COPY. -/

namespace Sys2Proof.Machine

/-! ## Clients (R471, R473) -/

/-- CLIENT_CREATE. -/
def clientCreate (m : Msg) (s : State) : State × Reply :=
  let d := m.f 0 1
  checked [
    (decide (d < 64), stBadFormat),
    (m.z 1 3, stBadFormat),
    (m.sys && decide (2 ≤ d) && (s.parts == 1 || decide (d < 2 + s.parts)), stRefusedDomain),
    ((s.nextIdx 7).isSome, stRefusedBeat)]
    (fun s => match s.nextIdx 7 with
      | none => (s, .done stRefusedBeat [])
      | some i =>
        let s1 := s.issue 7 i
        let h := s1.handleOf 7 i
        let s2 := (s1.onBlock i (fun b => { b with bound := true, domain := BitVec.ofNat 6 d, handle := BitVec.ofNat 32 h })).onCtrl
          (fun k => { k with tallies := kset k.tallies i .zero })
        (s2, .done stOk (natLe 4 h))) s
/-- CLIENT_CREATE. -/
def execClientCreate (m : Msg) (s : State) : Host.Outcome State Fault Refusal :=
  .next (withMsg 0x0101 (some 4) false m (clientCreate m) s)
/-- A running stop-word slot of a client stops at a beat. -/
def stopSlots (p : SwSlot → Bool) (beat : Nat) (s : State) : State :=
  (s.onCtrl (fun k => { k with slots := updAll k.slots (fun w => p w && w.stopAt.isNone) (fun w => { w with stopAt := some beat }) })).onPlan
    (fun q => { q with resvs := q.resvs.filter (fun r =>
      !(r.kind == .stopword && s.ctrl.slots.any (fun w => p w && decide (w.slot = r.obj.toNat / 2)))) })
/-- A channel of a client that goes: its requests end, its output is at zero at once, and it closes at a beat. -/
def shutChannel (beat : Nat) (c : Channel) (s : State) : State :=
  let s1 := loseChannel 0 0 c.idx s
  s1.onChannel c.idx (fun c => { c with
    pendingCh := none, running := false, applied := if c.isIn then c.applied else 0, closeAt := some beat, closing := none })
/-- What CLIENT_DESTROY does at once (R473): messages end with BAD_HANDLE, sessions and channels close, state objects go,
models unload. -/
def shutClient (i : Nat) (s : State) : State :=
  let n := s.now
  let s1 := endWork (fun b => b.client == i) stBadHandle s
  let s2 := (List.range 16).foldl (fun (s : State) (k : Nat) => completeOwned i k stBadHandle [] s) s1
  let s3 := s2.onPlan (fun p => { p with resvs := p.resvs.filter (fun r => decide (r.client ≠ i)) })
  let s4 := s3.onCtrl (fun k => { k with
    sessions := updAll k.sessions (fun x => x.client == i) (fun x => { x with state := 3, left := 0, prefill := none, closing := some (n + 2) }),
    models := updAll k.models (fun m => m.client == i) (fun m => { m with unloading := some (n + 2) }) })
  let s5 := stopSlots (fun w => w.client == i) (n + 2) s4
  let s6 := (s5.audio.chans.filter (fun c => c.client == i)).foldl (fun (s : State) (c : Channel) => shutChannel (n + 2) c s) s5
  ((s6.ctrl.objs.filter (fun o => o.client == i && !o.gone)).map (·.idx)).foldl (fun (s : State) (o : Nat) => forceDestroy o s) s6
/-- CLIENT_DESTROY. -/
def clientDestroy (m : Msg) (s : State) : State × Reply :=
  let h := m.f 0 4
  let i := hIdx h
  checked [
    (s.hValid 7 h, stBadHandle),
    (m.sys && decide (i ≠ 0), stRefusedDomain),
    (!s.ctrl.closingClients.any (fun c => c.1 == i), stRefusedBeat)]
    (fun s => ((shutClient i s).onCtrl (fun k => { k with closingClients := k.closingClients ++ [(i, s.now + 2, m.client, m.mbox)] }),
      waitFor m 0x0102 h none 0)) s
/-- CLIENT_DESTROY. -/
def execClientDestroy (m : Msg) (s : State) : Host.Outcome State Fault Refusal :=
  .next (withMsg 0x0102 (some 4) false m (clientDestroy m) s)

/-! ## Beat settings (R41 to R43, R421, R478) -/

/-- A change of the beat's settings is admitted here (R42, R421). A suspended reservation has no place in a plan and is not asked to
fit (DESIGN CHOICE, log entry 148). -/
def State.changeFits (s : State) (cfg : BeatCfg) : Bool := s.targetsFit cfg && s.resvsFit cfg s.standing
/-- The settings of a payload. -/
def cfgOf (m : Msg) : BeatCfg :=
  { period := BitVec.ofNat 9 (m.f 0 2), bg := BitVec.ofNat 10 (m.f 2 2), kerf := BitVec.ofNat 10 (m.f 4 2), bfloor := BitVec.ofNat 10 (m.f 6 2) }
/-- A change armed for a beat. -/
def armChange (cfg : BeatCfg) (holdMax : BitVec 4) (beat : Nat) (s : State) : State :=
  s.onBeat (fun b => { b with next := cfg, applyAt := BitVec.ofNat 64 beat, armedHoldMax := some (beat, holdMax) })
/-- BEAT_CONFIG (R42). While an earlier change is armed, or waits for the chain's answers, another is refused with REFUSED_BEAT (DEDUCED, log
entry 82). -/
def beatConfig (m : Msg) (s : State) : State × Reply :=
  let hm := m.f 8 1
  let small := decide (m.f 0 2 ≤ 256 ∧ m.f 2 2 ≤ 1000 ∧ m.f 4 2 ≤ 1000 ∧ m.f 6 2 ≤ 500)
  checked [
    (small && (cfgOf m).ok, stBadLength),
    (decide (1 ≤ hm ∧ hm ≤ 8), stBadLength),
    (m.z 9 7, stBadFormat),
    (m.sys && s.beat.master, stRefusedDomain),
    (s.beat.change.isNone && decide (s.beat.applyAt = 0) && s.changeFits (cfgOf m), stRefusedBeat)]
    (fun s =>
      let b := s.now + 4
      if s.beat.chainModules.isEmpty then (armChange (cfgOf m) (BitVec.ofNat 4 hm) b s, waitFor m 0x0103 0 (some b) b)
      else (s.onBeat (fun k => { k with change := some {
          client := m.client, mbox := m.mbox, cfg := cfgOf m, holdMax := BitVec.ofNat 4 hm, received := s.now,
          waiting := k.chainModules } }), waitFor m 0x0103 0 none b)) s
/-- BEAT_CONFIG. -/
def execBeatConfig (m : Msg) (s : State) : Host.Outcome State Fault Refusal :=
  .next (withMsg 0x0103 (some 16) false m (beatConfig m) s)
/-- BEAT_NEXT's fields of a register value (R44). -/
def cfgOfReg (v : Nat) : BeatCfg :=
  { period := BitVec.ofNat 9 v, bg := BitVec.ofNat 10 (v / 2 ^ 16), kerf := BitVec.ofNat 10 (v / 2 ^ 32), bfloor := BitVec.ofNat 10 (v / 2 ^ 48) }
/-- CHAIN_CHANGE_CHECK: a module of the chain checks the master's request and answers it (R43); a request that it accepts waits for
what the master makes of the answers. -/
def execChainChangeCheck (cfg : Dword) (holdMax : Nat) (s : State) : Host.Outcome State Fault Refusal :=
  .next (if s.beat.master || !s.coresUp then s
    else
      let c := cfgOfReg cfg.toNat
      let ok := c.ok && decide (1 ≤ holdMax ∧ holdMax ≤ 8) && s.changeFits c
      s.onBeat (fun b => { b with
        answers := b.answers ++ [(b.chainMaster, ok)]
        change := if ok then some {
          client := 0, mbox := 16, cfg := c, holdMax := BitVec.ofNat 4 holdMax, received := s.now, waiting := [b.chainMaster] } else none }))
/-- CHAIN_CHANGE_ANSWER: the last acceptance arms the change at beat n + 4, a refusal ends the request (R43, R478). On a follower
that has accepted, an answer in the name of its master is the outcome that the master tells: the change is applied chain-wide
(DESIGN CHOICE, log entry 149). -/
def execChainChangeAnswer (modul : Nat) (accept : Bool) (s : State) : Host.Outcome State Fault Refusal :=
  .next (match s.beat.change with
    | none => s
    | some ch =>
      if !ch.waiting.contains modul then s
      else if !accept then completeOwned ch.client ch.mbox stRefusedBeat [] (s.onBeat (fun b => { b with change := none }))
      else
        let rest := ch.waiting.filter (fun x => decide (x ≠ modul))
        if !rest.isEmpty then s.onBeat (fun b => { b with change := some { ch with waiting := rest } })
        else
          let at_ := ch.received + 4
          ((armChange ch.cfg ch.holdMax at_ s).onBeat (fun b => { b with change := none })).onCtrl (fun k => { k with
            pend := updAll k.pend (fun p => p.client == ch.client && p.mbox == ch.mbox) (fun p => { p with doneBeat := some at_ }) }))

/-! ## Topology (R411, R479) -/

/-- Modules that the links of a mask of a module lead to. -/
def hopsOf (m mask : Nat) : List Nat := ((List.range 24).filter mask.testBit).filterMap (Config.cable m)
/-- Following the masks toward a destination returns to a module already passed. -/
def routeLoops (es : List RouteEntry) (dest : Nat) : Nat → List Nat → Nat → Bool
  | 0, _, _ => true
  | n + 1, path, m =>
    if m = dest then false
    else match es.find? (fun e => e.from_ == m && e.dest == dest) with
      | none => false
      | some e => (hopsOf m e.links).any (fun x => (m :: path).contains x || routeLoops es dest n (m :: path) x)
/-- Modules reached from some within one hop toward a destination, added. -/
def reachStep (es : List RouteEntry) (l : List Nat) : List Nat :=
  (l ++ (es.filter (fun e => (hopsOf e.from_ e.links).any l.contains)).map (·.from_)).eraseDups
/-- The modules within `n` hops of the master. -/
def withinHops (es : List RouteEntry) : Nat → List Nat → List Nat
  | 0, l => l
  | n + 1, l => withinHops es n (reachStep es l)
/-- The entries of a TOPOLOGY keep R411 and the reserved bits, and name the master. -/
def topoOk (es : List RouteEntry) (master : Nat) (rsvd : Bool) : Bool :=
  let mods := (es.map (·.from_)).eraseDups
  let mine := es.filter (fun e => e.dest == master)
  rsvd && es.any (fun e => e.from_ == master || e.dest == master) &&
    es.all (fun e => !routeLoops es e.dest (mods.length + 1) [] e.from_) &&
    (let near := withinHops mine 24 [master]; mods.all near.contains)
/-- TOPOLOGY. -/
def topology (m : Msg) (s : State) : State × Reply :=
  let n := m.f 0xC 4
  let rc := s.refChecks m m.refLen false
  let readable := rc.2.all (·.1) && rc.1.all (·.1) && decide (8 * n ≤ m.refLen)
  let bytes := if readable then s.refRead m (8 * n) else []
  let es := (List.range (bytes.length / 8)).map (fun i =>
    ({ from_ := fld bytes (8 * i) 2 % 4096, dest := fld bytes (8 * i + 2) 2 % 4096, links := fld bytes (8 * i + 4) 4 % 2 ^ 24 } : RouteEntry))
  let rsvd := (List.range (bytes.length / 8)).all (fun i =>
    decide (fld bytes (8 * i) 2 < 4096 ∧ fld bytes (8 * i + 2) 2 < 4096 ∧ fld bytes (8 * i + 4) 4 < 2 ^ 24))
  checked (rc.1 ++ [
    (decide (m.f 8 2 < 4096 ∧ m.f 0xA 1 ≤ 1), stBadFormat),
    (m.z 0xB 1, stBadFormat),
    (decide (n ≠ 0 ∧ 8 * n ≤ m.refLen), stBadLength),
    (!readable || topoOk es (m.f 8 2) rsvd, stBadFormat),
    (m.sys, stRefusedDomain)] ++ rc.2 ++ [
    (s.beat.topo.isNone && decide (s.now + 4 ≤ m.f 0 8), stRefusedBeat)])
    (fun s => (s.onBeat (fun b => { b with topo := some {
        client := m.client, mbox := m.mbox, applyBeat := m.f 0 8, master := m.f 8 2, masterSrc := m.f 0xA 1, entries := es } }),
      waitFor m 0x0104 0 (some (m.f 0 8)) 0)) s
/-- TOPOLOGY. -/
def execTopology (m : Msg) (s : State) : Host.Outcome State Fault Refusal :=
  .next (withMsg 0x0104 (some 16) true m (topology m) s)

/-! ## Pools (R275, R480) -/

/-- The most regions that a pool can have: its own, and the free ones of the general area of its stack (table *Page limits*). -/
def State.poolMost (s : State) (k : Nat) : Nat := ((s.ppool k).runs.map (·.2)).foldl (· + ·) 0 + s.poolRoom k
/-- POOL_CONFIG. -/
def poolConfig (m : Msg) (s : State) : State × Reply :=
  let h := m.f 0 4
  let k := hIdx h
  let n := m.f 4 4
  checked [
    (s.hValid 5 h, stBadHandle),
    (!s.inSvc ⟨.nmu, k⟩ || (decide (n ≠ 0) && decide (n ≤ s.poolMost k)), stBadLength),
    (decide (m.f 0xC 2 ≤ 500), stBadLength),
    (decide (m.f 0xE 2 ≤ 500), stBadLength),
    (decide (m.f 0xC 2 ≤ m.f 0xE 2), stBadFormat),
    (m.sys, stRefusedDomain),
    (s.inSvc ⟨.nmu, k⟩, stFenced),
    ((s.poolRuns k n).isSome, stRefusedPages)]
    (fun s => match s.poolRuns k n with
      | none => (s, .done stRefusedPages [])
      | some r => (s.onPool k (fun p => { p with size2M := n, cxl2M := m.f 8 4, admitPm := m.f 0xC 2, evictPm := m.f 0xE 2, runs := r }), .done stOk [])) s
/-- POOL_CONFIG. -/
def execPoolConfig (m : Msg) (s : State) : Host.Outcome State Fault Refusal :=
  .next (withMsg 0x0105 (some 16) false m (poolConfig m) s)

/-! ## FENCE and UNFENCE (R29 to R31, R36, R481) -/

/-- The data of a unit fits elsewhere (R29, R350). -/
def State.dataFits (s : State) (u : UnitId) : Bool :=
  let t := s.setSvc u .moving
  match u.kind with
  | .nmu => (moveSlices u.index t).any (fun t1 => !(moveStack u.index t1).2)
  | .cxl => !(movePort u.index t).2
  | _ => true
/-- What a FENCE of an NMU with LOST still needs: room for its slice. -/
def State.sliceFits (s : State) (u : UnitId) : Bool :=
  decide (u.kind ≠ .nmu) || (moveSlices u.index (s.setSvc u .moving)).isSome
/-- The unit that a FENCE or UNFENCE payload names. -/
def unitOfMsg (m : Msg) : UnitId := ⟨(unitOfCode (m.f 0 1)).getD .cluster, m.f 1 1⟩
/-- FENCE: of a unit that is fenced, or on its way out or back, it has no effect (R481). -/
def fenceMsg (m : Msg) (s : State) : State × Reply :=
  let u := unitOfMsg m
  let lost := m.f 2 2 == 1
  let out := s.svc u != .inService
  let last := (u.kind == .cluster || u.kind == .nmu) && (s.svcList u.kind).all (fun i => decide (i = u.index))
  checked [
    ((unitOfCode (m.f 0 1)).isSome, stBadFormat),
    (decide (u.index < unitCount u.kind), stBadLength),
    (decide (m.f 2 2 ≤ 1) && (!lost || u.kind == .nmu || u.kind == .cxl), stBadFormat),
    (m.z 4 4, stBadFormat),
    (m.sys, stRefusedDomain),
    (out || !last, stRefusedBeat),
    (out || (if lost then s.sliceFits u else s.dataFits u), stRefusedPages)]
    (fun s =>
      if out then (s, .done stOk (zeros 8))
      else
        let s1 := (s.setSvc u .moving).onUnits (fun k => { k with fences := k.fences ++ [(u, s.now + 2, lost)] })
        let s2 := if (u.kind = .nmu ∨ u.kind = .cxl) ∧ lost = false then
          addWork { kind := .dataMove, client := m.client, mbox := m.mbox, obj := unitCode u.kind * 256 + u.index, arg := 0,
                    model := 0, beat := s.now, taken := false } s1 else s1
        (s2, waitFor m 0x0106 0 none (unitCode u.kind * 256 + u.index))) s
/-- FENCE. -/
def execFence (m : Msg) (s : State) : Host.Outcome State Fault Refusal :=
  .next (withMsg 0x0106 (some 8) false m (fenceMsg m) s)
/-- A read of a CXL port in training took longer than 600 ns: the port stays down (R359). -/
def testSlow (u : UnitId) (t : UnitTest) : Bool := u.kind == .cxl && decide (600 < t.slowest)
/-- The unit's return test passes; a CXL port's holds its latency check (R528). -/
def testOk (u : UnitId) (t : UnitTest) : Bool := t.passed && !testSlow u t
/-- What a unit's return test leaves on its way back: a CXL port has the capacity, rate and width of its training (R358 to R360), an enabled
link trains and agrees on keys anew (R405). -/
def trainedPort (u : UnitId) (t : UnitTest) (s : State) : State :=
  match u.kind with
  | .cxl => s.onMem (fun m => { m with cxl := m.cxl.modify u.index (CxlReg.trained t.bytes t.code) })
  | .link => s.onLink u.index (fun k => { k with training := k.enable && !k.up })
  | _ => s
/-- UNFENCE: the self-test's outcome decides whether the unit is on its way back; of a unit that is on its way back it waits
for the return. -/
def unfenceMsg (m : Msg) (t : UnitTest) (s : State) : State × Reply :=
  let u := unitOfMsg m
  let free := s.svc u == .inService
  let back := s.svc u == .returning
  checked [
    ((unitOfCode (m.f 0 1)).isSome, stBadFormat),
    (decide (u.index < unitCount u.kind), stBadLength),
    (decide (m.f 2 2 = 0), stBadFormat),
    (m.z 4 4, stBadFormat),
    (m.sys, stRefusedDomain),
    (free || back || (s.svc u == .fenced && !s.units.fences.any (fun f => f.1 == u)), stRefusedBeat)]
    (fun s =>
      if free then (s, .done stOk (zeros 8))
      else
        let s1 := if back then s
          else if testOk u t then
            (trainedPort u t (s.setSvc u .returning)).onUnits (fun k => { k with
              returns := k.returns ++ [(u, u.kind != .nmu && u.kind != .link && u.kind != .cxl, u.kind != .nmu)],
              relayDue := k.relayDue || u.kind == .nmu })
          else if testSlow u t then s.onMem (fun k => { k with cxl := k.cxl.modify u.index (fun c => { c with latFail := true }) })
          else s
        (s1, waitFor m 0x0107 0 none (unitCode u.kind * 256 + u.index))) s
/-- UNFENCE: a failed test completes it at once with INTEGRITY_FAIL. -/
def execUnfence (m : Msg) (test : UnitTest) (s : State) : Host.Outcome State Fault Refusal :=
  .next (
    let s1 := withMsg 0x0107 (some 8) false m (unfenceMsg m test) s
    if testOk (unitOfMsg m) test || s1.svc (unitOfMsg m) != .fenced then s1 else completeUnfences (unitOfMsg m) stIntegrityFail s1)

/-! ## TELEMETRY_CONFIG and FAULT_CLEAR (R492, R497) -/

/-- TELEMETRY_CONFIG. -/
def telemetryConfig (m : Msg) (s : State) : State × Reply :=
  let a := m.f 0 8
  let n := m.f 8 1
  let gone := a == 0 && m.f 0xC 4 == 0
  checked ((if gone then [] else (inCarve a 64, stBadFormat) :: ringSizeChecks n ++ [(inCarve a (64 + 2 ^ n * 64), stBadFormat)]) ++
    [(m.z 9 3, stBadFormat)])
    (fun s =>
      let s1 := s.onCtrl (fun k => { k with telems := k.telems.filter (fun t => decide (t.client ≠ m.client)) })
      if gone then (s1, .done stOk [])
      else
        (startRing a (s1.onCtrl (fun k => { k with telems := k.telems ++ [{
          client := m.client, ring := s.newRing a n, mask := BitVec.ofNat 32 (m.f 0xC 4), events := [], ready := [], lastWritten := none }] })),
          .done stOk [])) s
/-- TELEMETRY_CONFIG. -/
def execTelemetryConfig (m : Msg) (s : State) : Host.Outcome State Fault Refusal :=
  .next (withMsg 0x0110 (some 16) false m (telemetryConfig m) s)
/-- The channels that a FAULT_CLEAR names. -/
def State.faultChans (s : State) (h : Nat) : List Nat :=
  if hKind h = 1 then [hIdx h]
  else match s.session (hIdx h) with
    | some x => (if x.inCh = 0 then [] else [hIdx x.inCh.toNat]) ++ (if x.outCh = 0 then [] else [hIdx x.outCh.toNat])
    | none => []
/-- The status of a channel's fault whose cause persists: its port is still out of service. -/
def State.persists (s : State) (ch : Nat) : Option Half :=
  match s.channel ch with
  | some c => match chanPort c, c.faultStatus with
    | some u, some st => if s.serves u then none else some st
    | _, _ => none
  | none => none
/-- FAULT_CLEAR. -/
def faultClear (m : Msg) (s : State) : State × Reply :=
  let h := m.f 0 4
  let k := if hKind h = 1 then 1 else 2
  checked [(s.live k h, stBadHandle), (s.owns m.client k h, stRefusedDomain)]
    (fun s => match (s.faultChans h).findSome? s.persists with
      | some st => (s, .done st [])
      | none => ((s.faultChans h).foldl (fun (s : State) (c : Nat) => s.onChannel c (fun c => { c with faultStatus := none })) s, .done stOk [])) s
/-- FAULT_CLEAR. -/
def execFaultClear (m : Msg) (s : State) : Host.Outcome State Fault Refusal :=
  .next (withMsg 0x0111 (some 4) false m (faultClear m) s)

/-! ## Client memory (R483, R484) -/

/-- MEM_ALLOC. -/
def memAlloc (m : Msg) (s : State) : State × Reply :=
  let hbm := m.f 0 1 == 1
  let i := m.f 1 1
  let n := m.f 4 4
  let dom := s.domainOf m.client
  let u : UnitId := if hbm then ⟨.nmu, i⟩ else ⟨.cxl, i⟩
  let mine := if hbm then (s.stksFor dom [i]).contains i else (s.partOf dom).isNone || decide ((s.portRange dom i).1 ≠ (s.portRange dom i).2)
  let run := if hbm then s.stackRun i n else s.portRun dom i n
  checked [
    (decide (1 ≤ m.f 0 1 ∧ m.f 0 1 ≤ 2), stBadFormat),
    (decide (i < unitCount u.kind), stBadFormat),
    (decide (1 ≤ m.f 2 1 ∧ m.f 2 1 ≤ 2), stBadFormat),
    (m.z 3 1, stBadFormat),
    (n == 0 || mine, stRefusedDomain),
    (n == 0 || s.inSvc u, stFenced),
    (n == 0 || run.isSome, stRefusedPages)]
    (fun s =>
      if n = 0 then (s, .done stOk (zeros 8))
      else match run with
        | none => (s, .done stRefusedPages [])
        | some r =>
          let a := r * regionSize
          ((assignRegions r n (mkTag (m.f 2 1) 0 dom) dom s).onMem (fun k => { k with runs := k.runs ++ [(a, n, m.client)] }),
            .done stOk (natLe 8 a))) s
/-- MEM_ALLOC. -/
def execMemAlloc (m : Msg) (s : State) : Host.Outcome State Fault Refusal :=
  .next (withMsg 0x0201 (some 8) false m (memAlloc m) s)
/-- A run of MEM_ALLOC that holds a part. -/
def State.runWith (s : State) (a n : Nat) : Option (Nat × Nat × Nat) :=
  s.mem.runs.find? (fun r => decide (r.1 ≤ a ∧ a + n * regionSize ≤ r.1 + r.2.1 * regionSize))
/-- A part of a run given up: what is left over stays as runs of their own. -/
def splitRun (a n : Nat) (r : Nat × Nat × Nat) : List (Nat × Nat × Nat) :=
  let front := (a - r.1) / regionSize
  let back := r.2.1 - front - n
  (if front = 0 then [] else [(r.1, front, r.2.2)]) ++ (if back = 0 then [] else [(a + n * regionSize, back, r.2.2)])
/-- Regions that a model, a pool or a state object holds are among some. -/
def State.heldIn (s : State) (a n : Nat) : Bool :=
  let lo := a / regionSize
  !freeAt (s.mem.held.map (fun h => (h.1 / regionSize, h.2.1)) ++ s.pages.pools.flatMap (·.runs)) lo n
/-- MEM_FREE. -/
def memFree (m : Msg) (s : State) : State × Reply :=
  let a := m.f 0 8
  let n := m.f 8 4
  let run := s.runWith a n
  checked [
    (m.z 0xC 4, stBadFormat),
    (n == 0 || decide (a % regionSize = 0), stBadFormat),
    (n == 0 || run.isSome || s.heldIn a n, stBadFormat),
    (n == 0 || run.isNone || run.any (fun r => r.2.2 == m.client), stRefusedDomain),
    (n == 0 || run.isSome, stRefusedBeat)]
    (fun s =>
      match run with
      | some r =>
        if n = 0 then (s, .done stOk [])
        else ((releaseRegions (a / regionSize) n s).onMem (fun k => { k with
          runs := k.runs.flatMap (fun q => if q == r then splitRun a n q else [q]) }), .done stOk [])
      | none => (s, .done stOk [])) s
/-- MEM_FREE. -/
def execMemFree (m : Msg) (s : State) : Host.Outcome State Fault Refusal :=
  .next (withMsg 0x0202 (some 16) false m (memFree m) s)
/-- MEM_COPY. -/
def memCopy (m : Msg) (s : State) : State × Reply :=
  let n := m.f 0x10 8
  let sp := m.f 0x18 1
  let dom := s.domainOf m.client
  checked [
    (decide (n = 0) || !sp.testBit 0 || inCarve (m.f 0 8) n, stBadFormat),
    (decide (n = 0) || !sp.testBit 1 || inCarve (m.f 8 8) n, stBadFormat),
    (decide (sp ≤ 3), stBadFormat),
    (m.z 0x19 7, stBadFormat),
    (sp.testBit 0 || s.rangePasses dom false (m.f 0 8) n, stRefusedDomain),
    (sp.testBit 1 || s.rangePasses dom true (m.f 8 8) n, stRefusedDomain)]
    (fun s =>
      if n = 0 then (s, .done stOk [])
      else (addWork { kind := .memCopy, client := m.client, mbox := m.mbox, obj := 0, arg := 0, model := 0, beat := s.now, taken := false } s,
        waitFor m 0x0203 0 none 0)) s
/-- MEM_COPY. -/
def execMemCopy (m : Msg) (s : State) : Host.Outcome State Fault Refusal :=
  .next (withMsg 0x0203 (some 32) false m (memCopy m) s)
/-- The bytes of a copy moved, the source read whole first, and the copy's status (R341). -/
def runCopy (dom : Nat) (w : List Byte) (s : State) : State × Half :=
  let src := fld w 0 8
  let dst := fld w 8 8
  let n := fld w 0x10 8
  let sc := (fld w 0x18 1).testBit 0
  let dc := (fld w 0x18 1).testBit 1
  if !sc && !s.rangePasses dom false src n then (refuseEngine dom false src s, stDomainFault)
  else if !dc && !s.rangePasses dom true dst n then (refuseEngine dom true dst s, stDomainFault)
  else
    let bad := if sc then s.rangePoisoned (s.carveAddr src) n else s.rangePoisoned src n
    let s1 :=
      if !sc && !dc then copyMem src dst n s
      else
        let l := if sc then s.carveRead src n else MemOps.readN s.mem.dev src n
        if dc then carveWrite dst l s else putMem dst l s
    if bad then (countUe src s1, stIntegrityFail) else (s1, stOk)
/-- MEM_COPY_COMPLETE, while a plan's part of the copy runs: a fault that ended the copy, or its bytes moved. -/
def execMemCopyComplete (client mbox : Nat) (status : Half) (s : State) : Host.Outcome State Fault Refusal :=
  let mine := fun (b : BWork) => b.kind == .memCopy && b.client == client && b.mbox == mbox
  .next (if !s.plan.bwork.any mine || !s.copyRuns (DcpCopy.isFor mine) then s
    else
      let s1 := dropWork mine s
      if tableStatus status ≠ stOk then completeOwned client mbox (tableStatus status) [] s1
      else
        let r := runCopy (s.domainOf client) ((s.box client mbox).map (·.payload)).toList.flatten s1
        completeOwned client mbox r.2 [] r.1)

/-! ## The window (R457, R462, R466) -/

/-- MAILBOX_WRITE_DROP: a write to a mailbox that the DCP owns is ignored. -/
def execMailboxWriteDrop (client mbox : Nat) (s : State) : Host.Outcome State Fault Refusal :=
  .next (if s.boxOwned client mbox then s.onBlock client (fun b => { b with wrDrop := true }) else s)
/-- The opcodes of the message catalogue. -/
def knownOps : List Nat :=
  [0x0101, 0x0102, 0x0103, 0x0104, 0x0105, 0x0106, 0x0107, 0x0108, 0x0109, 0x0110, 0x0111, 0x0201, 0x0202, 0x0203, 0x0301,
   0x0302, 0x0303, 0x0311, 0x0312, 0x0401, 0x0402, 0x0403, 0x0404, 0x0405, 0x0501, 0x0502, 0x0503, 0x0504, 0x0505, 0x0506,
   0x0507, 0x0601, 0x0602, 0x0603, 0x0611, 0x0612]
/-- MAILBOX_RESERVED_OPCODE. -/
def execMailboxReservedOpcode (opcode : Half) (m : Msg) (s : State) : Host.Outcome State Fault Refusal :=
  .next (if knownOps.contains opcode.toNat || !s.coresUp then s
    else if s.boxOwned m.client m.mbox then s.onBlock m.client (fun b => { b with wrDrop := true })
    else (withMsg opcode.toNat none true { m with plen := min m.plen 4032 } (fun s => (s, .done stBadFormat [])) s).onBox m.client m.mbox
      (fun b => { b with plen := m.plen }))

end Sys2Proof.Machine
end

