-- ==== Sys2Proof/Machine/RotExec.lean ====
section
/-! DEFINITION. The Root of Trust (R531 to R552): images, boot, staging and commits, identity, attestation, keys, unlocking, and
its SMBus interface. -/

namespace Sys2Proof.Machine

/-! ## Images (R532 to R534) -/

/-- Bytes of a slot by image type (table *Image types*). -/
def slotBytes : Nat → Nat
  | 1 => 16 * 2 ^ 20 | 2 => 4 * 2 ^ 20 | 3 => 4 * 2 ^ 20 | 4 => 4 * 2 ^ 20 | 5 => 2 * 2 ^ 20 | 6 => 64 * 2 ^ 20 | _ => 0
/-- The image type `t` of 1 to 6. -/
def RotSt.img (r : RotSt) (t : Nat) : ImgType := r.imgs.getD (t - 1) .none
/-- The Root of Trust with an image type changed. -/
def RotSt.onImg (t : Nat) (f : ImgType → ImgType) (r : RotSt) : RotSt := { r with imgs := r.imgs.modify (t - 1) f }
/-- A customer key is enrolled. -/
def RotSt.custKey (r : RotSt) : Bool := r.cust.any (·.hash.isSome)
/-- The number of 32 bytes as a digest. -/
def digestOf (l : List Byte) : BitVec 256 := BitVec.ofNat 256 (leNat (sha256 l))
/-- The measurement of an image: SHA-256 of its header but for SIG. -/
def measure (b : Image) : BitVec 256 := digestOf (b.take 0xC0)
/-- The checks of R534 in order: OK, BAD_FORMAT for a failure of step 1 or 2, INTEGRITY_FAIL for a later one. -/
def verifyImage (r : RotSt) (t : Nat) (b : Image) : Half :=
  let h := fit 256 b
  let body := (b.drop 256).take (fld h 8 4)
  let cust := decide (t = 6)
  let open_ := cust && !r.custKey
  let idx := fld h 5 1
  let key := (h.drop 0x38).take 64
  (firstFail [
    (decide (256 ≤ b.length) && decide (fld h 0 2 = 1) && decide (fld h 2 1 = t) && decide (1 ≤ t ∧ t ≤ 6) &&
      decide (fld h 3 1 = if cust then 1 else 0) && decide (fld h 4 1 ≤ 63) && allZero h 6 2 && allZero h 0xC 4 &&
      allZero h 0xB8 8, stBadFormat),
    (decide (1 ≤ fld h 8 4 ∧ fld h 8 4 ≤ slotBytes t - 256) && decide (body.length = fld h 8 4), stBadFormat),
    (open_ || (if cust then
        (match r.cust[idx]? with
         | some k => !k.revoked && decide (k.hash = some (digestOf key))
         | none => false)
      else decide (idx ≤ 3) && !r.revoked.getLsbD idx &&
        ecdsaVerify r.rootPub ((h.drop 5).take 1 ++ key) ((h.drop 0x78).take 64)), stIntegrityFail),
    (open_ || ecdsaVerify key (h.take 0xC0) ((h.drop 0xC0).take 64), stIntegrityFail),
    (decide ((r.img t).fused ≤ fld h 4 1), stIntegrityFail),
    (decide (sha256 body = (h.drop 0x18).take 32), stIntegrityFail)]).getD stOk
/-- What a type's registers hold once a slot's image runs. The Bool: slot B. -/
def runImage (r : RotSt) (t : Nat) (b : Image) (slotB : Bool) : RotSt :=
  let open_ := t == 6 && !r.custKey
  let r1 := r.onImg t (fun i => { i with
    running := slotB, measured := measure b, runSvn := fld b 4 1,
    runKey := if open_ then 8 else fld b 5 1 % 4 + 4 * (fld b 3 1 % 2) })
  if t = 6 then
    { r1 with
      osUnverified := open_,
      cust := if !open_ && decide (fld b 5 1 = 1) then r1.cust.modify 0 (fun k => { k with revoked := true }) else r1.cust }
  else r1
/-- A slot's image verified. -/
def verifySlot (r : RotSt) (t : Nat) : Option Image → Half
  | some b => verifyImage r t b
  | none => stBadFormat

/-! ## Boot (R535 to R542) -/

/-- The first candidate in [1, n − 1] of R542. -/
def identityFrom (prk : List Byte) : Nat → Nat → Nat
  | 0, _ => 1
  | n + 1, c =>
    let d := beNat (hkdfExpand prk ([0x50, 0x32, 0x35, 0x36] ++ natLe 1 c) 32)
    if 1 ≤ d ∧ d < p256n then d else identityFrom prk n (c + 1)
/-- The identity private key of a device secret (R542). -/
def identityOf (uds : List Byte) : Nat :=
  identityFrom (hkdfExtract [0x48, 0x4C, 0x2D, 0x54, 0x5A, 0x2D, 0x49, 0x44] uds) 256 0
/-- One type at boot: the fuses caught up (R540), then the trial's slot, else the active one, else the other for this
boot only (R536, R539). The Nat: 0 the type runs, else the status of the failure. -/
def bootType (t : Nat) (s : State) : State × Half :=
  let s0 := s.onRot (fun r => r.onImg t (fun i => { i with fused := max i.fused i.committedSvn }))
  let i := s0.rot.img t
  let rev := fun (s : State) => bbAdd 0x61 1 0 0 stOk (natLe 1 t ++ natLe 1 (imgSvn i.trialSlot) ++ natLe 1 2)
    (s.onRot (fun r => r.onImg t (fun i => { i with trial := false })))
  match (if i.trial then i.trialSlot else none) with
  | some b =>
    if verifyImage s0.rot t b = stOk then (s0.onRot (fun r => runImage r t b (!i.active)), stOk)
    else
      let s1 := rev s0
      match i.activeSlot with
      | some a => if verifyImage s1.rot t a = stOk then (s1.onRot (fun r => runImage r t a i.active), stOk)
        else (s1, verifyImage s1.rot t a)
      | none => (s1, stBadFormat)
  | none =>
    let s1 := if i.trial then rev s0 else s0
    match i.activeSlot, i.trialSlot with
    | some a, o =>
      if verifyImage s1.rot t a = stOk then (s1.onRot (fun r => runImage r t a i.active), stOk)
      else match o with
        | some b => if verifyImage s1.rot t b = stOk then (s1.onRot (fun r => runImage r t b (!i.active)), stOk)
          else (s1, verifyImage s1.rot t a)
        | none => (s1, verifyImage s1.rot t a)
    | none, some b =>
      if verifyImage s1.rot t b = stOk then (s1.onRot (fun r => runImage r t b (!i.active)), stOk)
      else (s1, verifyImage s1.rot t b)
    | none, none => (s1, stBadFormat)
/-- Recovery (R536): nothing but the Root of Trust runs, and a record names the type and the status. -/
def enterRecovery (t : Nat) (st : Half) (s : State) : State :=
  bbAdd 0x60 2 0 0 st (natLe 1 t ++ natLe 1 0 ++ natLe 1 0) (s.onRot (fun r => { r with recovery := true, dcpReady := false }))
/-- The types from `t` on, `n` of them. -/
def bootTypes : Nat → Nat → State → State
  | 0, _, s => s
  | n + 1, t, s =>
    let r := bootType t s
    if r.2 = stOk then bootTypes n (t + 1) r.1 else enterRecovery t r.2 r.1
/-- A CXL port as training leaves it (R359, R360): capacity in bytes, RATE × 4 + WIDTH, and the slowest of its reads in
nanoseconds. -/
def trainCxl (p : Nat × Nat × Nat × Nat) (s : State) : State :=
  s.onMem (fun m => { m with cxl := m.cxl.modify p.1 (fun c =>
    if 600 < p.2.2.2 then { c with up := false, latFail := true }
    else { c.trained p.2.1 p.2.2.1 with up := true }) })

/-- BOOT (R535): the known-answer tests, the identity, every image in order, then the DCP brings up the engines and the
CXL ports and the application cores are released. Nothing boots while a reset is held or once the module runs. -/
def execBoot (katOk : Bool) (cxl : List (Nat × Nat × Nat × Nat)) (s : State) : Host.Outcome State Fault Refusal :=
  if !s.rot.released || s.rot.dcpReady || s.rot.recovery || s.pins.refclkHold || s.power.mode != .active then
    .next s
  else if !katOk then .next (enterRecovery 0 stIntegrityFail s)
  else
    let d := identityOf s.rot.uds
    let s1 := s.onRot (fun r => { r with
      idPriv := d, deviceId := BitVec.ofNat 64 (leNat ((sha256 (pubOf d)).take 8)),
      drbg := drbgInit (Config.seedBytes (r.bootCount.toNat + 2)) })
    let s2 := bootTypes 6 1 (s1.onPower (fun p => { p with nor := { p.nor with refreshBuf := none } }))
    if s2.rot.recovery then .next s2
    else .next (cxl.foldl (fun (s : State) (p : Nat × Nat × Nat × Nat) => trainCxl p s)
      (s2.onRot (fun r => { r with dcpReady := true })))

/-- TRIAL_TIMEOUT (R539): the DCP of a trial boot was not ready in time: a warm device reset, which reverts the trial. It ends the reset
that brought the trial, and is no part of it. -/
def execTrialTimeout (s : State) : Host.Outcome State Fault Refusal :=
  if s.rot.released && !s.rot.dcpReady && s.rot.imgs.any (·.trial) then .next (warmRun 0x0B s) else .next s

/-! ## The SMBus interface (R548) -/

/-- The Root of Trust answers: it has been released and its rails are up. -/
def State.rotUp (s : State) : Bool :=
  s.rot.released && (s.power.mode == .active || s.power.mode == .standby) && !s.pins.refclkHold
/-- A reply in the buffer. -/
def rotReply (st : Half) (data : List Byte) (s : State) : State :=
  s.onRot (fun r => { r with replyStatus := st, reply := if st = stOk then data else [] })
/-- An operation with a payload of the right length; a wrong length completes with BAD_LENGTH. -/
def rotOp (ok : Bool) (body : State → State) (s : State) : State :=
  if !s.rotUp then s else if ok then body s else rotReply stBadLength [] s
/-- Bytes from the generator. -/
def State.rand (s : State) (n : Nat) : List Byte × State :=
  let d := drbgGet s.rot.drbg n
  (d.2, s.onRot (fun r => { r with drbg := d.1 }))
/-- A signature by the identity key, with a nonce from the generator (R545). -/
def identitySign (msg : List Byte) (s : State) : List Byte × State :=
  let r := s.rand 32
  (ecdsaSign s.rot.idPriv (beNat r.1 % (p256n - 1) + 1) msg, r.2)
/-- The certificate chain (R544). -/
def State.chain (s : State) : List Byte := s.rot.certs.flatMap (fun c => natLe 2 c.length ++ c) ++ zeros 2
/-- Some type is TRIAL. -/
def RotSt.anyTrial (r : RotSt) : Bool := r.imgs.any (·.trial)

/-- GET_CERTS. -/
def execGetCerts (payload : List Byte) (s : State) : Host.Outcome State Fault Refusal :=
  .next (rotOp payload.isEmpty (fun s => rotReply stOk s.chain s) s)

/-- A measurement entry (R546). -/
def measEntry (t : Nat) (i : ImgType) : List Byte :=
  natLe 1 t ++ natLe 1 (b2n i.running) ++ natLe 1 i.runSvn ++ natLe 1 i.fused ++ natLe 1 i.runKey ++ zeros 3 ++
    natLe 32 i.measured.toNat
/-- The signed part of an attestation report. -/
def State.report (s : State) (nonce : List Byte) : List Byte :=
  let flags := b2n s.rot.unlockedFor.isSome + 2 * b2n s.rot.anyTrial + 4 * b2n s.rot.custKey + 8 * b2n (s.mem.memMode != 0)
  let cfg := Config.configBytes s.safe.safetyDomain.toNat s.mem.memMode.toNat s.links.moduleId.toNat
    (s.rot.cust.map (fun k => (k.hash, k.revoked)))
  natLe 2 1 ++ natLe 1 7 ++ natLe 1 flags ++ natLe 2 s.links.moduleId.toNat ++ natLe 2 s.rot.siliconRev.toNat ++
    natLe 8 s.rot.deviceId.toNat ++ fit 32 nonce ++ natLe 8 s.rot.bootCount.toNat ++ natLe 8 s.beat.number.toNat ++
    s.rot.imgs.zipIdx.flatMap (fun p => measEntry (p.2 + 1) p.1) ++ natLe 1 0x80 ++ zeros 7 ++ sha256 cfg
/-- ATTEST (R546). -/
def execAttest (payload : List Byte) (s : State) : Host.Outcome State Fault Refusal :=
  .next (rotOp (payload.length == 32) (fun s =>
    let m := s.report payload
    let g := identitySign m s
    rotReply stOk (m ++ g.1) g.2) s)

/-- The inactive slot of a type written. -/
def setTrialSlot (v : Option Image) (i : ImgType) : ImgType := if i.active then { i with slotA := v } else { i with slotB := v }

/-- STAGE_BEGIN (R541, R548): staging into the inactive slot of a type starts. -/
def execStageBegin (payload : List Byte) (s : State) : Host.Outcome State Fault Refusal :=
  .next (rotOp (payload.length == 5) (fun s =>
    let t := fld payload 0 1
    let total := fld payload 1 4
    match firstFail [(decide (1 ≤ t ∧ t ≤ 6), stBadFormat), (decide (total ≠ 0), stBadLength),
        (s.rot.staging.isNone && !s.rot.anyTrial, stRefusedBeat)] with
    | some st => rotReply st [] s
    | none => rotReply stOk [] (s.onRot (fun r =>
        { r.onImg t (fun i => { setTrialSlot none i with pending := false }) with
          staging := some { type := t, total := total, data := [], have_ := [] } }))) s)

/-- STAGE_DATA (R548): bytes that pass TOTAL or the slot, or come with no staging, complete with BAD_LENGTH. -/
def execStageData (payload : List Byte) (s : State) : Host.Outcome State Fault Refusal :=
  .next (rotOp (decide (5 ≤ payload.length ∧ payload.length ≤ 228)) (fun s =>
    let o := fld payload 0 4
    let d := payload.drop 4
    match s.rot.staging with
    | none => rotReply stBadLength [] s
    | some g =>
      if min g.total (slotBytes g.type) < o + d.length then rotReply stBadLength [] s
      else rotReply stOk [] (s.onRot (fun r => { r with
        staging := some { g with data := MemOps.writeN g.data o d, have_ := insertBy (·.1) (o, d.length) g.have_ } }))) s)

/-- How far ranges in ascending order cover from 0 on. -/
def covered (l : List (Nat × Nat)) : Nat :=
  l.foldl (fun reach (p : Nat × Nat) => if p.1 ≤ reach then max reach (p.1 + p.2) else reach) 0

/-- STAGE_END (R538, R548): the staged image is verified; one that passes R534 becomes pending. -/
def execStageEnd (payload : List Byte) (s : State) : Host.Outcome State Fault Refusal :=
  .next (rotOp payload.isEmpty (fun s =>
    match s.rot.staging with
    | none => rotReply stBadLength [] s
    | some g =>
      if covered g.have_ < g.total then rotReply stBadLength [] s
      else
        let img := MemOps.readN g.data 0 g.total
        let st := verifyImage s.rot g.type img
        let s1 := s.onRot (fun r => { r.onImg g.type (fun i => { setTrialSlot (some img) i with pending := st == stOk }) with
          staging := none })
        rotReply st [] (if st = stOk then bbAdd 0x61 1 0 0 stOk (natLe 1 g.type ++ natLe 1 (fld img 4 1) ++ natLe 1 0) s1 else s1)) s)

/-- COMMIT (R539, R540): a TRIAL image's slot becomes active, its SVN is recorded and its fuses are blown. -/
def execCommit (payload : List Byte) (s : State) : Host.Outcome State Fault Refusal :=
  .next (rotOp (payload.length == 1) (fun s =>
    let t := fld payload 0 1
    if ¬ (1 ≤ t ∧ t ≤ 6) then rotReply stBadFormat [] s
    else if !(s.rot.img t).trial then rotReply stOk [] s
    else
      let v := imgSvn (s.rot.img t).trialSlot
      rotReply stOk [] (bbAdd 0x61 1 0 0 stOk (natLe 1 t ++ natLe 1 v ++ natLe 1 1)
        (s.onRot (fun r => r.onImg t (fun i => { i with
          trial := false, active := !i.active, committedSvn := v, fused := max i.fused v }))))) s)

/-- STAGE_ABORT (R548). -/
def execStageAbort (payload : List Byte) (s : State) : Host.Outcome State Fault Refusal :=
  .next (rotOp payload.isEmpty (fun s => rotReply stOk [] (s.onRot (fun r => { r with staging := none }))) s)

/-- The public keys under which a signature of a message verifies, by recovery from its point. -/
def ecdsaRecover (msg sig : List Byte) : List (List Byte) :=
  let r := beNat (sig.take 32)
  let t := beNat ((sig.drop 32).take 32)
  let z := beNat (sha256 msg)
  let w := invMod p256n r
  ([r, r + p256n].filter (· < p256p)).flatMap (fun x =>
    let y2 := (x * x * x + (p256p - 3) * x + p256b) % p256p
    let y := powMod p256p 256 y2 ((p256p + 1) / 4) 1
    [y, p256p - y].filterMap (fun yy =>
      (ecAdd (ecMul (t * w % p256n) (x, yy)) (ecMul ((p256n - z % p256n) * w % p256n) p256g)).map pointBytes))
/-- A signature of a message by the key of a fused hash. -/
def signedByHash (h : BitVec 256) (msg sig : List Byte) : Bool :=
  (ecdsaRecover msg sig).any (fun k => decide (digestOf k = h) && ecdsaVerify k msg sig)

/-- KEY_ENROLL (R549): slot 0 once while empty; slot 1 under a signature of slot 0's key; the identity key signs the
response. -/
def execKeyEnroll (payload : List Byte) (s : State) : Host.Outcome State Fault Refusal :=
  .next (rotOp (payload.length == 129) (fun s =>
    let slot := fld payload 0 1
    let key := (payload.drop 1).take 64
    let sig := payload.drop 65
    let dev := natLe 8 s.rot.deviceId.toNat
    let h := fun (i : Nat) => (s.rot.cust.getD i { hash := none, revoked := false }).hash
    let ok := if slot = 0 then (h 0).isNone
      else if slot = 1 then (h 1).isNone && (match h 0 with | some k => signedByHash k (dev ++ [1] ++ key) sig | none => false)
      else false
    if !ok then rotReply stRefusedDomain [] s
    else
      let s1 := s.onRot (fun r => { r with cust := r.cust.modify slot (fun k => { k with hash := some (digestOf key) }) })
      let g := identitySign (dev ++ natLe 1 slot ++ key) s1
      rotReply stOk g.1 g.2) s)

/-- DEBUG_CHALLENGE (R551). -/
def execDebugChallenge (payload : List Byte) (s : State) : Host.Outcome State Fault Refusal :=
  .next (rotOp payload.isEmpty (fun s =>
    let r := s.rand 16
    rotReply stOk r.1 (r.2.onRot (fun k => { k with challenge := some r.1 }))) s)

/-- DEBUG_UNLOCK (R550, R551): a token that passes takes effect at the next warm device reset; the challenge is spent. -/
def execDebugUnlock (payload : List Byte) (s : State) : Host.Outcome State Fault Refusal :=
  .next (rotOp (payload.length == 224) (fun s =>
    let pub := (payload.drop 0x20).take 64
    let fail := firstFail [
      (decide (fld payload 0 2 = 1) && decide (fld payload 2 2 < 8) && allZero payload 4 4, stBadFormat),
      (decide (fld payload 8 8 = s.rot.deviceId.toNat), stIntegrityFail),
      (decide (s.rot.challenge = some ((payload.drop 0x10).take 16)), stIntegrityFail),
      (ecdsaVerify s.rot.rootPub pub ((payload.drop 0x60).take 64), stIntegrityFail),
      (ecdsaVerify pub (payload.take 0xA0) ((payload.drop 0xA0).take 64), stIntegrityFail)]
    let s1 := s.onRot (fun k => { k with challenge := none })
    match fail with
    | some st => rotReply st [] s1
    | none => rotReply stOk [] (bbAdd 0x62 1 0 0 stOk (natLe 2 (fld payload 2 2))
        (s1.onRot (fun k => { k with debugPending := some (BitVec.ofNat 16 (fld payload 2 2)) })))) s)

/-- ROT_REPLY_READ: up to 240 bytes of the reply buffer from an offset, STATUS and LEN first. -/
def execRotReplyRead (off : Nat) (s : State) : Host.Outcome State Fault Refusal :=
  if s.rotUp then .next (s.onRot (fun r => { r with
    smbusOut := ((natLe 2 r.replyStatus.toNat ++ natLe 2 r.reply.length ++ r.reply).drop (off % 65536)).take 240 }))
  else .next s

/-- ROT_RESERVED_OPERATION (R548): a code of the table is no reserved operation and changes nothing here. -/
def execRotReservedOperation (op : Byte) (s : State) : Host.Outcome State Fault Refusal :=
  if [0x01, 0x02, 0x10, 0x11, 0x12, 0x13, 0x14, 0x20, 0x30, 0x31, 0x80].contains op.toNat then .next s
  else if s.rotUp then .next (rotReply stBadFormat [] s) else .next s

/-- DRBG_RESEED (R531). -/
def execDrbgReseed (entropy : List Byte) (s : State) : Host.Outcome State Fault Refusal :=
  if s.rotUp then .next (s.onRot (fun r => { r with drbg := drbgReseed r.drbg entropy })) else .next s

end Sys2Proof.Machine
end

