-- ==== Sys2Proof/Machine/Flags.lean ====
section
/-! DEFINITION. The registers of the control region as 64-bit words (R44, R155, R185, R204, R240, R270, R343, R376, R417,
R454, R530, R552, R583, R594): which field and which flag stands in which bit, register by register. -/

namespace Sys2Proof.Machine

/-- A field placed at a bit. -/
def at_ (v lo : Nat) : Nat := v * 2 ^ lo
/-- A flag placed at a bit. -/
def flag (b : Bool) (lo : Nat) : Nat := b2n b * 2 ^ lo
/-- The unit is out of service: FENCED of its registers. -/
def State.isFenced (s : State) (u : UnitId) : Bool :=
  s.svc u == .fenced || s.svc u == .returning

/-! ## The Beat Sequencer (R44) -/

/-- BEAT_CTRL. -/
def BeatSt.ctrlWord (b : BeatSt) : Nat :=
  at_ b.holdMax.toNat 12 + flag b.beatOutEn 8 + flag b.master 3 + at_ b.src.toNat 1 + flag b.enable 0
/-- BEAT_CUR and BEAT_NEXT. -/
def BeatCfg.word (c : BeatCfg) : Nat := at_ c.bfloor.toNat 48 + at_ c.kerf.toNat 32 + at_ c.bg.toNat 16 + c.period.toNat
/-- BEAT_STATUS. -/
def BeatSt.statusWord (b : BeatSt) : Nat :=
  at_ b.overrunCount.toNat 48 + flag b.deadlineMiss 12 + flag b.syncLost 11 + flag b.planMiss 10 + flag b.overrun 9 +
    flag b.cfgErr 8 + flag b.holdover 1 + flag b.locked 0
/-- The Beat Sequencer's registers by offset. -/
def State.beatReg (s : State) : Nat → Option Nat
  | 0x00 => some s.beat.ctrlWord | 0x08 => some s.beat.cur.word | 0x10 => some s.beat.next.word
  | 0x18 => some s.beat.applyAt.toNat | 0x20 => some s.beat.number.toNat | 0x28 => some s.beat.statusWord
  | 0x30 => some s.beat.offsetPs.toNat | _ => none

/-! ## Clusters (R155, R185, R204, R240) -/

/-- ARR_STATUS. BUSY is 1 from a command's start (COMMAND_START) to its end. -/
def State.arrStatus (s : State) (c : Nat) : Nat :=
  let a := (s.cluster c).arr
  at_ a.lastStatus.toNat 48 + flag a.poison 7 + flag a.eccUe 6 + flag a.domFault 5 + flag a.stalled 4 + at_ a.curMode.toNat 2 +
    flag (a.busy || s.runningOp (.cluster c) == 1) 1 + flag (s.isFenced ⟨.cluster, c⟩) 0
/-- VE_STATUS. -/
def State.veStatus (s : State) (c : Nat) : Nat :=
  let k := s.cluster c
  let v := k.veRegs
  at_ v.lastStatus.toNat 48 + flag v.var1Clamp 7 + flag v.eccUe 6 + flag v.domFault 5 + flag v.stalled 4 +
    flag (!k.ve.ru.queue.isEmpty || k.ve.ru.running.isSome) 3 + flag v.nonfinite 2 +
    flag (v.busy || s.runningOp (.cluster c) == 2) 1 +
    flag (s.isFenced ⟨.cluster, c⟩) 0
/-- SFU_STATUS. -/
def SfuSt.statusWord (u : SfuSt) : Nat :=
  flag u.loadErr 7 + flag u.bankB.compat 6 + flag u.bankA.compat 5 + flag u.loading 4 + flag u.bankB.valid 3 +
    flag u.bankA.valid 2 + flag u.busy 1 + flag u.active 0
/-- SCAN_STATUS. -/
def State.scanStatus (s : State) (c : Nat) : Nat :=
  let k := (s.cluster c).scan
  at_ k.lastStatus.toNat 48 + flag k.gone 7 + flag k.eccUe 6 + flag k.domFault 5 + flag k.stalled 4 + flag k.invalidRow 3 +
    flag (k.busy || s.runningOp (.cluster c) == 3) 1 + flag (s.isFenced ⟨.cluster, c⟩) 0
/-- The registers of cluster `c` by offset in its block. -/
def State.clusterReg (s : State) (c : Nat) : Nat → Option Nat
  | 0x000 => some (s.arrStatus c) | 0x008 => some (s.cluster c).arr.lastTag.toNat
  | 0x010 => some (s.cluster c).arr.count.toNat | 0x018 => some (s.cluster c).arr.stall.toNat
  | 0x100 => some (s.veStatus c) | 0x108 => some (s.cluster c).veRegs.lastTag.toNat
  | 0x110 => some (s.cluster c).veRegs.count.toNat | 0x118 => some (s.cluster c).veRegs.stall.toNat
  | 0x200 => some (s.cluster c).sfu.statusWord | 0x208 => some (s.cluster c).sfu.bankA.set.toNat
  | 0x210 => some (s.cluster c).sfu.bankB.set.toNat | 0x218 => some (s.cluster c).sfu.loads.toNat
  | 0x220 => some (s.cluster c).sfu.switches.toNat
  | 0x300 => some (s.scanStatus c) | 0x308 => some (s.cluster c).scan.lastTag.toNat
  | 0x310 => some (s.cluster c).scan.count.toNat | 0x318 => some (s.cluster c).scan.rows.toNat
  | 0x320 => some (s.cluster c).scan.stall.toNat | _ => none

/-! ## NMUs (R270) and yarders (R343) -/

/-- NMU_STATUS. -/
def State.nmuStatus (s : State) (i : Nat) : Nat :=
  let n := s.nmu i
  at_ n.lastStatus.toNat 48 + flag n.cfgErr 9 + flag n.spill 8 + flag n.poison 7 + flag n.eccUe 6 + flag n.domFault 5 +
    flag n.stalled 4 + flag (n.attBusy || (s.runningCmd (.att i)).isSome) 3 +
    flag (n.gemvBusy || (s.runningCmd (.gemv i)).isSome) 2 + flag (s.isFenced ⟨.nmu, i⟩) 0
/-- The registers of NMU `i`. -/
def State.nmuReg (s : State) (i : Nat) : Nat → Option Nat
  | 0x00 => some (s.nmuStatus i)
  | 0x08 => some (at_ (s.nmu i).attTag.toNat 32 + (s.nmu i).gemvTag.toNat)
  | 0x10 => some (at_ (s.nmu i).attCount.toNat 32 + (s.nmu i).gemvCount.toNat)
  | 0x18 => some (s.nmu i).stall.toNat
  | 0x20 => some (at_ (s.nmu i).ifPm.toNat 32 + at_ (s.nmu i).attPm.toNat 16 + (s.nmu i).gemvPm.toNat)
  | _ => none
/-- YARD_STATUS. -/
def State.yardStatus (s : State) (y : Nat) : Nat :=
  let k := s.yarder y
  at_ k.lastStatus.toNat 48 + at_ (s.ctxsUsed y % 32) 9 + flag k.cfgErr 8 + flag k.descErr 7 + flag k.eccUe 6 +
    flag k.domFault 5 + flag k.stalled 4 + flag k.skidFull 3 + flag k.discard 2 + flag (k.ctxs.any (·.started)) 1
/-- The registers of yarder `y`. -/
def State.yardReg (s : State) (y : Nat) : Nat → Option Nat
  | 0x00 => some (s.yardStatus y) | 0x08 => some (s.yarder y).lastTag.toNat | 0x10 => some (s.yarder y).count.toNat
  | 0x18 => some (s.yarder y).stall.toNat
  | 0x20 => some (at_ (s.yarder y).outB.toNat 16 + at_ (s.yarder y).outI.toNat 8 + (s.yarder y).outD.toNat)
  | 0x28 => some (s.yarder y).bytes.toNat | _ => none
/-- YARD_SPLIT. -/
def YardSt.splitWord (k : YardSt) : Nat :=
  flag k.splitErr 63 + at_ k.remotePm.toNat 32 + at_ k.writePm.toNat 16 + k.readPm.toNat
/-- The shared yarder registers by offset from 0x0C00_0006_0000. -/
def State.sharedReg (s : State) (o : Nat) : Option Nat :=
  if o = 0 then some s.yard.splitWord
  else if 0x1000 ≤ o ∧ o < 0x1800 then
    let q := s.yard.skids.getD ((o - 0x1000) / 8) .empty
    some (at_ q.pushSeq.toNat 48 + at_ q.popSeq.toNat 32 + q.entries.length)
  else none

/-! ## Memory (R376) -/

/-- Retired regions of a stack, from the configuration store; none for a slice. -/
def State.retiredIn (s : State) (i : Nat) : Nat :=
  (s.power.cfg.retired.filter (fun r => stackOfAddr (r * regionSize) == some i && decide (i < 16))).length
/-- CXL_STATUS of port `p`. -/
def State.cxlStatus (s : State) (p : Nat) : Nat :=
  let c := s.mem.cxl.getD p .down
  at_ c.cap2M.toNat 16 + flag c.poison 7 + flag c.latFail 6 + at_ c.rate.toNat 4 + at_ c.width.toNat 2 +
    flag (s.isFenced ⟨.cxl, p⟩) 1 + flag c.up 0
/-- The memory registers by offset. -/
def State.memReg (s : State) (o : Nat) : Option Nat :=
  if o = 0 then some (flag s.mem.lcCfgErr 8 + (s.mem.winNext.getD s.mem.winWays).toNat)
  else if o = 8 then some s.mem.memMode.toNat
  else if 0x100 ≤ o ∧ o < 0x200 then
    let i := (o - 0x100) / 8
    let e := s.mem.ecc.getD i .reset
    some (at_ e.ce.toNat 32 + at_ e.ue.toNat 16 + at_ (min 255 (s.retiredIn i)) 8 + flag e.ueSeen 0)
  else if o = 0x200 then some s.mem.violInfo
  else if o = 0x208 then some s.mem.violAddr.toNat
  else if 0x300 ≤ o ∧ o < 0x320 then some (s.cxlStatus ((o - 0x300) / 8))
  else if 0x400 ≤ o ∧ o < 0x4C0 then some (s.mem.linkDom.getD ((o - 0x400) / 8) 0).toNat
  else none

/-! ## Links (R417) -/

/-- DLK_STATUS. -/
def State.dlkStatus (s : State) (l : Nat) : Nat :=
  let k := s.link l
  at_ (if k.up then k.peerId.toNat else 0xFFF) 48 + flag k.orphan 9 + flag k.peerFail 8 + flag k.laneFail 7 + flag k.corrupt 6 + flag k.authFail 5 +
    flag k.replay 4 + flag k.training 3 + flag k.keyed 2 + flag (s.isFenced ⟨.link, l⟩) 1 + flag k.up 0
/-- The registers of link `l`. -/
def State.linkReg (s : State) (l : Nat) : Nat → Option Nat
  | 0x00 => some (s.dlkStatus l) | 0x08 => some (flag (s.link l).enable 0)
  | 0x10 => some (at_ ((s.link l).txEpoch.getD 0 0 % 2 ^ 32) 32 + (s.link l).oneWay.toNat)
  | 0x18 => some (at_ (s.link l).naks.toNat 48 + at_ (s.link l).authFails.toNat 32 + at_ (s.link l).corruptBlocks.toNat 16 +
      (s.link l).fecUncorr.toNat)
  | _ => none
/-- DLK_MODULE and the DLK_ROUTE entries by offset from 0x0C00_000A_0000. -/
def State.routeReg (s : State) (o : Nat) : Option Nat :=
  if o = 0 then some s.links.moduleId.toNat
  else if 0x1000 ≤ o ∧ o < 0x5000 then some ((kget s.links.routes ((o - 0x1000) / 4)).getD 0).toNat
  else none

/-! ## The Audio Front End (R454) -/

/-- SAP_CTRL. -/
def SapSt.ctrlWord (k : SapSt) : Nat :=
  at_ k.group.toNat 36 + flag k.mclkEn 35 + flag k.bclkInv 34 + flag k.dataDelay 33 + flag k.i2s 32 + at_ k.slots.toNat 16 +
    at_ k.rate.toNat 12 + at_ k.slotW.toNat 10 + at_ k.sampleW.toNat 8 + flag k.master 1 + flag k.enable 0
/-- SAP_STATUS of port `p`. -/
def State.sapStatus (s : State) (p : Nat) : Nat :=
  let k := s.audio.saps.getD p .reset
  at_ k.slips.toNat 48 + flag k.cfgErr 8 + flag k.clkLost 7 + flag k.underrun 6 + flag k.overrun 5 + flag k.slip 4 +
    flag k.rearmed 3 + flag k.running 2 + flag (s.isFenced ⟨.sap, p⟩) 1
/-- PDM_CTRL of clock `c`. -/
def State.pdmCtrl (s : State) (c : Nat) : Nat :=
  let k := s.audio.pdms.getD c .reset
  flag (s.isFenced ⟨.pdm, 2 * c⟩ || s.isFenced ⟨.pdm, 2 * c + 1⟩) 8 + at_ k.clk.toNat 6 + flag k.dec128 5 +
    at_ k.group.toNat 1 + flag k.enable 0
/-- APLL_STATUS. -/
def PllSt.word (k : PllSt) : Nat :=
  at_ (k.adj % 2 ^ 32).toNat 32 + flag k.hold 7 + flag k.limit 6 + flag k.family 3 + flag k.slave 2 + flag k.locked 1 +
    flag k.enabled 0
/-- The AFE registers by offset. -/
def State.afeReg (s : State) (o : Nat) : Option Nat :=
  if o = 0 then some (at_ s.audio.trigCount.toNat 32 + flag s.audio.short 5 + flag s.audio.domFault 4 +
    flag s.audio.badSamp 3 + flag s.audio.zcTimeout 2 + flag s.audio.busy 1)
  else if 0x100 ≤ o ∧ o < 0x200 ∧ o % 0x40 = 0 then some (s.audio.saps.getD ((o - 0x100) / 0x40) .reset).ctrlWord
  else if 0x100 ≤ o ∧ o < 0x200 ∧ o % 0x40 = 8 then some (s.sapStatus ((o - 0x100) / 0x40))
  else if 0x200 ≤ o ∧ o < 0x220 ∧ o % 8 = 0 then some (s.pdmCtrl ((o - 0x200) / 8))
  else if 0x300 ≤ o ∧ o < 0x310 ∧ o % 8 = 0 then some (s.audio.plls.getD ((o - 0x300) / 8) .reset).word
  else none

/-! ## Safety, trust, power, pins (R530, R552, R583, R594) -/

/-- SAFE_STATUS. -/
def State.safeStatus (s : State) : Nat :=
  let k := s.safe
  at_ k.holds.toNat 48 + at_ k.foreign.toNat 32 + at_ k.swRun.toNat 8 + flag k.outFail 7 + flag k.pulse 6 +
    flag (k.hold && !s.causePresent) 5 + flag k.hb 4 + flag k.bLvl 3 + flag k.aLvl 2 + flag s.causePresent 1 + flag k.hold 0
/-- BLAZE_STATUS. -/
def SafeSt.blazeWord (k : SafeSt) : Nat :=
  at_ k.blazePasses.toNat 32 + at_ k.blazeFails.toNat 16 + at_ k.blazeUnit.toNat 8 + flag k.blazeMismatch 7 + flag k.blazeLate 6
/-- STEST_STATUS. -/
def SafeSt.stestWord (k : SafeSt) : Nat :=
  at_ k.deferrals.toNat 32 + at_ k.latent.toNat 16 + flag k.testFail 1 + flag k.latentSeen 0
/-- The safety registers by offset; the verdict slots read 0. -/
def State.safeReg (s : State) (o : Nat) : Option Nat :=
  if o = 0 then some s.safeStatus
  else if o = 0x08 then some s.safe.causeWord
  else if o = 0x10 then some s.safe.safetyDomain.toNat
  else if o = 0x18 then some s.safe.blazeWord
  else if o = 0x20 then some s.safe.stestWord
  else if 0x1000 ≤ o ∧ o < 0x1200 ∧ (o - 0x1000) % 0x40 < 0x20 then some 0
  else none
/-- ROT_STATUS. -/
def RotSt.statusWord (r : RotSt) : Nat :=
  at_ (r.bootCount.toNat % 2 ^ 32) 32 +
    at_ ((List.range 6).foldl (fun n i => n + flag ((r.imgs.getD i .none).running) i) 0) 8 +
    flag r.unlockedFor.isSome 3 + flag r.anyTrial 2 + flag r.custKey 1 + flag r.osUnverified 0
/-- PWR_STATUS. -/
def PowerSt.statusReg (p : PowerSt) : Nat :=
  at_ p.tempMax.toNat 56 + flag p.modelHigh 11 + flag p.thermLimit 10 + flag p.capClamped 9 + flag p.vinLow 8 +
    flag p.bankOk 2 + (if p.mode = .standby then 2 else 0)
/-- The power registers. -/
def State.powerReg (s : State) : Nat → Option Nat
  | 0x00 => some s.power.statusReg
  | 0x08 => some (at_ s.power.pinW.toNat 48 + at_ s.power.iin.toNat 32 + at_ s.power.vin.toNat 16 + s.power.modelW.toNat)
  | 0x10 => some (flag s.power.capErr 32 + at_ s.power.effective.toNat 16 + s.power.capW.toNat)
  | 0x18 => some (at_ s.power.computeResets.toNat 48 + at_ s.power.rstCause.toNat 8 + s.power.rstKind.toNat)
  | _ => none
/-- GPIO_CTRL (R594): IN shows the level of each pin, which a driven pin takes from OUT. -/
def PinsSt.word (p : PinsSt) : Nat := at_ ((p.gpioIn &&& ~~~ p.gpioOe) ||| (p.gpioOut &&& p.gpioOe)).toNat 8 + at_ p.gpioOe.toNat 4 + p.gpioOut.toNat

/-! ## The control region -/

/-- The base of the control register region. -/
abbrev ctrlBase : Nat := 0x0C0000000000
/-- A region has a tag: HBM, the ways of the Landing Cache window that are present, the CXL tier; the others are holes (R345, R366). -/
def State.tagged (s : State) (r : Nat) : Bool :=
  match placeOf (r * regionSize) with
  | .hbm _ => decide (r * regionSize % 0x2000000000 < 0x1400000000)
  | .window _ => decide (r * regionSize - 0x080000000000 < s.winBytes)
  | .cxl p => decide (r * regionSize - cxlBase p < s.portRegions p * regionSize)
  | _ => false
/-- The register at an offset of the control region, as it reads; none where no chapter assigns the offset. -/
def State.regAt (s : State) (o : Nat) : Option Nat :=
  if 0x10000000 ≤ o ∧ o < 0x20000000 then
    some (if s.tagged ((o - 0x10000000) / 2) then (s.tag ((o - 0x10000000) / 2)).toNat else 0)
  else if 0x20000000 ≤ o ∧ o < 0x21000000 then some (leNat (MemOps.readN s.bb.mram (o - 0x20000000) 8))
  else if o < 0x10000 then none
  else if o < 0x20000 then s.beatReg (o - 0x10000)
  else if o < 0x28000 then s.clusterReg ((o - 0x20000) / 0x1000) (o % 0x1000)
  else if o < 0x30000 then none
  else if o < 0x40000 then s.nmuReg ((o - 0x30000) / 0x1000) (o % 0x1000)
  else if o < 0x60000 then s.yardReg ((o - 0x40000) / 0x1000) (o % 0x1000)
  else if o < 0x70000 then s.sharedReg (o - 0x60000)
  else if o < 0x80000 then s.memReg (o - 0x70000)
  else if o < 0x98000 then s.linkReg ((o - 0x80000) / 0x1000) (o % 0x1000)
  else if o < 0xA0000 then none
  else if o < 0xB0000 then s.routeReg (o - 0xA0000)
  else if o < 0xC0000 then s.afeReg (o - 0xB0000)
  else if o < 0xD0000 then s.safeReg (o - 0xC0000)
  else if o = 0xD0000 then some s.rot.statusWord
  else if o < 0xE0000 then none
  else if o < 0xF0000 then s.powerReg (o - 0xE0000)
  else if o = 0xF0000 then some s.pins.word
  else none
/-- A register read by a domain: domains 0 and 1 read every register, any other reads 0. -/
def State.readReg (s : State) (dom o : Nat) : Nat := if dom ≤ 1 then (s.regAt o).getD 0 else 0
/-- A register read as an event on the control fabric: what it gives, and the violation that a read by any other domain is (R155, R185,
R240, R270). The table has no row for a register read: this is what one would do. -/
def State.readRegister (s : State) (dom o : Nat) : Nat × State :=
  (s.readReg dom o, if dom ≤ 1 ∧ (s.regAt o).isSome = true then s else refuse 0x3C dom 2 false (ctrlBase + o) s)

/-! ## Control blocks (R469) -/

/-- MBX_PEND of a client. -/
def State.pendWord (s : State) (c : Nat) : Nat :=
  let b := s.block c
  flag b.wrDrop 35 + flag b.telem 34 + flag b.token 33 + at_ b.doneBits.toNat 16 +
    (List.range 16).foldl (fun n m => n + flag (((s.box c m).map (·.own)).getD false) m) 0
/-- MBX_MSI_CFG of a client. -/
def CtrlBlock.msiCfg (b : CtrlBlock) : Nat := flag b.enTelem 34 + flag b.enToken 33 + flag b.enDone 32 + b.msiData.toNat

end Sys2Proof.Machine
end

