-- ==== Sys2Proof/Machine/Cert.lean ====
section
/-! DEFINITION. X.509 certificates in DER and the two-certificate chain of R543 and R544. The layout of DER and of a
certificate is the standard's (log entry 10). -/

namespace Sys2Proof.Machine

/-- A DER element: its tag, its content and all its bytes. -/
structure DerItem where
  tag : Byte
  content : List Byte
  all : List Byte

/-- The first DER element and what follows it. -/
def derNext (l : List Byte) : Option (DerItem × List Byte) :=
  match l with
  | t :: n :: r =>
    let m := n.toNat
    if m < 128 then
      if m ≤ r.length then some ({ tag := t, content := r.take m, all := t :: n :: r.take m }, r.drop m) else none
    else
      let k := m - 128
      let len := beNat (r.take k)
      let body := r.drop k
      if 1 ≤ k ∧ k ≤ 3 ∧ k ≤ r.length ∧ len ≤ body.length then
        some ({ tag := t, content := body.take len, all := t :: n :: (r.take k ++ body.take len) }, body.drop len)
      else none
  | _ => none
/-- The elements of a content, at most `n`; none where one is malformed or there are more. -/
def derList : Nat → List Byte → Option (List DerItem)
  | 0, l => if l.isEmpty then some [] else none
  | n + 1, l =>
    if l.isEmpty then some []
    else (derNext l).bind (fun e => (derList n e.2).map (fun r => e.1 :: r))
/-- The elements of a SEQUENCE. -/
def derSeq (n : Nat) (d : DerItem) : Option (List DerItem) := if d.tag = 0x30 then derList n d.content else none
/-- What a certificate says: the bytes signed, the signature as r ‖ s, issuer, subject, the public key x ‖ y. -/
structure CertView where
  tbs : List Byte
  sig : List Byte
  issuer : List Byte
  subject : List Byte
  key : List Byte
/-- The signature value of a BIT STRING: r ‖ s, 32 bytes each. -/
def derSig (d : DerItem) : Option (List Byte) :=
  if d.tag = 0x03 ∧ d.content.headD 1 = 0 then
    match (derNext (d.content.drop 1)).bind (fun q => derSeq 2 q.1) with
    | some [r, t] => some (natBe 32 (beNat r.content) ++ natBe 32 (beNat t.content))
    | _ => none
  else none
/-- The point of a subject public key: an uncompressed point in a BIT STRING. -/
def derKey (d : DerItem) : Option (List Byte) :=
  match derSeq 2 d with
  | some [_, b] =>
    if b.tag = 0x03 ∧ b.content.length = 66 ∧ b.content.take 2 = [0x00, 0x04] then some (b.content.drop 2) else none
  | _ => none
/-- A certificate read from its DER bytes: version, serial, algorithm, issuer, validity, subject, key, extensions. -/
def parseCert (der : List Byte) : Option CertView :=
  match (derNext der).bind (fun q => if q.2.isEmpty then derSeq 3 q.1 else none) with
  | some [tbs, _, sg] =>
    match derSeq 10 tbs, derSig sg with
    | some (_ :: _ :: _ :: issuer :: _ :: subject :: spki :: _), some sig =>
      (derKey spki).map (fun key => { tbs := tbs.all, sig := sig, issuer := issuer.all, subject := subject.all, key := key })
    | _, _ => none
  | _ => none
/-- The certificates of a chain: records of a length and that many bytes, a length of 0 at the end (R544). -/
def chainRecords : Nat → List Byte → Option (List (List Byte))
  | 0, _ => none
  | n + 1, l =>
    let m := fld l 0 2
    if l.length < 2 then none
    else if m = 0 then (if l.length = 2 then some [] else none)
    else if 1024 < m ∨ l.length < 2 + m then none
    else (chainRecords n (l.drop (2 + m))).map (fun r => (l.drop 2).take m :: r)
/-- The device key that a chain certifies under a root key; none where the chain fails (R543). -/
def chainKey (root chain : List Byte) : Option (List Byte) :=
  match chainRecords 3 chain with
  | some [dev, ca] =>
    match parseCert dev, parseCert ca with
    | some d, some c =>
      if d.issuer = c.subject ∧ ecdsaVerify root c.tbs c.sig = true ∧ ecdsaVerify c.key d.tbs d.sig = true then some d.key
      else none
    | _, _ => none
  | _ => none

end Sys2Proof.Machine
end

