-- ==== Sys2Proof/Machine/LinkExec.lean ====
section
/-! DEFINITION. Dwevy links: egress, frames received, replay, keys, delay, bring-up (R378 to R417). -/

namespace Sys2Proof.Machine

/-- The state with a link's `replay` queue item taken, and so on: the first element of a list that a test names, and the
list without it. -/
def takeFirst {α : Type} (p : α → Bool) : List α → Option (α × List α)
  | [] => none
  | a :: r => if p a then some (a, r) else (takeFirst p r).map (fun q => (q.1, a :: q.2))

/-! ## Egress (R385, R390, R393, R401, R408) -/

/-- The link stream entry of an egress stream. -/
def LinkSt.entry (k : LinkSt) (num : Nat) : Option LinkStream := k.streams.find? (·.stream == num)
/-- RATE of a planned stream, at least 1. -/
def State.rateOf (s : State) (num : Nat) : Nat :=
  match s.plan.cur.find? (fun c => (match c.t.engine with | .yarder _ => true | _ => false) && c.stream == num) with
  | some c => max 1 (fld c.t.word 0x16 2)
  | none => 1
/-- Bytes of a stream that wait at a link. -/
def LinkSt.pendBytes (k : LinkSt) (num : Nat) : Nat :=
  ((k.txPend.filter (·.num == num)).map (fun t => t.bytes.length)).foldl (· + ·) 0
/-- The context of a stream number, whichever yarder runs it. -/
def State.ctxOf (s : State) (num : Nat) : Option StreamCtx := (List.range 32).findSome? (fun y => s.ctx y num)
/-- The bytes that RATE divides for the urgency of a stream (R336): those that a read stream has delivered and its endpoint has not
consumed, the room of a write stream's source, those that a COPY has staged. The source buffer of a write stream is taken as its LEAD
tiles, and what an activation buffer has received as not consumed while the stream runs (DESIGN CHOICE, log entry 54). -/
def State.urgBytes (s : State) (num : Nat) : Nat :=
  match s.ctxOf num with
  | none => 0
  | some c =>
    let i := (maskList c.mask).headD 0
    if yIsCopy c.word then stagedLen c.staged
    else if yWrites c.word then yLead c.word * yTile c.word - stagedLen c.staged
    else match yEndpt c.word with
      | 0xA => (s.link (yArg c.word)).pendBytes num
      | 8 => c.donePos
      | 7 => (s.cluster i).sfu.arrived.length
      | _ => (bufBytes (s.cluster i).inb num).length
/-- The bytes of an egress stream have all come to its link: no context brings more. -/
def State.egressWhole (s : State) (l num : Nat) : Bool :=
  (List.range 32).all (fun y => (s.yarder y).ctxs.all (fun c => !(c.num == num && decide (yEndpt c.word = 0xA ∧ yArg c.word = l)) ||
    (c.started && c.listsEnd && c.xfers.isEmpty && c.staged.isEmpty)))
/-- An egress stream has bytes that can leave: of a compressed one a whole block, or what its end leaves (R393). -/
def State.canLeave (s : State) (l : Nat) (t : TxTile) : Bool :=
  match (s.link l).entry t.num with
  | some e => !e.comp || t.coded || decide (4096 ≤ (s.link l).pendBytes t.num) || s.egressWhole l t.num
  | none => false
/-- The egress streams of a link that have bytes to send, with the URG bit given, and the streams of its addressed transfers. -/
def State.egressNums (s : State) (l : Nat) (urg : Bool) : List Nat :=
  let k := s.link l
  ((k.egress.filter (fun e => e.prio == (if urg then 4 else 5))).filterMap (·.src) ++
    (k.txPend.filter (fun t => (match k.entry t.num with | some e => e.urg == urg | none => false) && s.canLeave l t)).map (·.num)).eraseDups
/-- The most urgent of some streams: the fewest bytes for its RATE, the lower number where they tie (R336). -/
def State.mostUrgent (s : State) (l : List Nat) : Option Nat :=
  l.foldl (fun (best : Option Nat) (n : Nat) =>
    match best with
    | none => some n
    | some b =>
      let un := s.urgBytes n * s.rateOf b
      let ub := s.urgBytes b * s.rateOf n
      if un < ub ∨ (un = ub ∧ n < b) then some n else best) none
/-- Whose turn it is among bulk traffic in rotation (R337): 0 stands for frames that belong to no stream of this module, n + 1 for stream
n. All of it is of the remote category (DESIGN CHOICE, log entry 54: the frames of no stream take one turn). -/
def State.bulkTurn (s : State) (l : Nat) : Option Nat :=
  let k := s.link l
  let keys := sortBy id ((if k.egress.any (fun e => e.prio == 5 && e.src == none) then [0] else []) ++ (s.egressNums l false).map (· + 1))
  match keys.find? (fun n => decide (k.lastTx < n)) with | some n => some n | none => keys.head?
/-- A stream whose domain may not leave on a link loses its bytes: DOMAIN_FAULT at the yarder that feeds it (R341, R368). -/
def dropEgress (l : Nat) (t : TxTile) (s : State) : State :=
  let s1 := refuse (0x20 + l) t.dom 0 true 0 (s.onLink l (fun k => { k with txPend := k.txPend.filter (fun x => !(x.num == t.num)) }))
  (List.range 32).foldl (fun (s : State) (y : Nat) =>
    match s.ctx y t.num with
    | some c =>
      if yEndpt c.word = 0xA ∧ yArg c.word = l then
        (s.onCtx y t.num (fun c => { c with status := if c.status = stOk then stDomainFault else c.status })).onYarder y
          (fun k => { k with domFault := true })
      else s
    | none => s) s1
/-- The pending tiles of a stream with its next blocks coded: whole blocks of 4,096 bytes in stream byte order, the last one shorter where
the stream has come to its end (R393). -/
def codePend (whole : Bool) (t : TxTile) (l : List TxTile) : List TxTile :=
  let b := (l.filter (fun x => x.num == t.num)).flatMap (·.bytes)
  let n := if whole then b.length else b.length / 4096 * 4096
  let rest := b.drop n
  { t with coded := true, bytes := codeBlocks (n + 1) (b.take n) } ::
    ((if rest.isEmpty then [] else [{ t with bytes := rest }]) ++ l.filter (fun x => !(x.num == t.num)))
/-- The next frame of a stream: at most 16,384 bytes of one tile, or of its coded blocks. -/
def sendStream (l : Nat) (t : TxTile) (s : State) : State :=
  match (s.link l).entry t.num with
  | none => s
  | some e =>
    if !s.linkDomOk l t.dom then dropEgress l t s
    else
      let pend := if e.comp && !t.coded then codePend (s.egressWhole l t.num) t (s.link l).txPend else (s.link l).txPend
      match takeFirst (fun x => x.num == t.num) pend with
      | none => s
      | some q =>
        let f := mkFrame 1 e.comp e.urg t.dom e.dest e.dstream (q.1.bytes.take 16384)
        if 262144 < (s.link l).replayBytes + frSize f then s
        else
          let rest := q.1.bytes.drop 16384
          sendFrame l f (s.onLink l (fun k => { k with txPend := if rest.isEmpty then q.2 else { q.1 with bytes := rest } :: q.2 }))
/-- An item taken from the egress queue and sent. -/
def sendItem (l : Nat) (it : EgressItem) (rest : List EgressItem) (s : State) : State :=
  let s1 := s.onLink l (fun k => { k with egress := rest })
  if it.replayed then s1.onLink l (fun k => { k with wire := k.wire ++ [it.fr] })
  else if frSpace it.fr = 0 ∧ 262144 < (s.link l).replayBytes + frSize it.fr then s
  else sendFrame l it.fr s1
/-- The first item of a priority that a test names sent; `none` where there is none. -/
def sendFirst (l p : Nat) (ok : EgressItem → Bool) (s : State) : Option State :=
  (takeFirst (fun (e : EgressItem) => e.prio == p && ok e) (s.link l).egress).map (fun q => sendItem l q.1 q.2 s)
/-- The next frame of a stream number: an addressed transfer first, then its bytes. -/
def sendNum (l p num : Nat) (s : State) : State :=
  match sendFirst l p (fun e => e.src == some num) s with
  | some t => t
  | none => match (s.link l).txPend.find? (fun t => t.num == num) with
    | some t => sendStream l t s
    | none => s
/-- Bulk traffic that has had its turn. -/
def turned (l n : Nat) (s t : State) : State :=
  if (t.link l).wire.length = (s.link l).wire.length then t else t.onLink l (fun k => { k with lastTx := n })
/-- The data frame that a link sends next (R385, R336, R337): urgent frames of no stream in the order they came, urgent streams by urgency,
bulk traffic in rotation. -/
def dataOut (l : Nat) (s : State) : State :=
  match sendFirst l 4 (fun e => e.src == none) s, s.mostUrgent (s.egressNums l true), s.bulkTurn l with
  | some t, _, _ => t
  | none, some n, _ => sendNum l 4 n s
  | none, none, some 0 => turned l 0 s ((sendFirst l 5 (fun e => e.src == none) s).getD s)
  | none, none, some (n + 1) => turned l (n + 1) s (sendNum l 5 n s)
  | none, none, none => s
/-- FRAME_EGRESS: the next frame in the order of R385. -/
def frameOut (l : Nat) (s : State) : State :=
  match sendFirst l 1 (fun _ => true) s, sendFirst l 2 (fun _ => true) s, sendFirst l 3 (fun _ => true) s with
  | some t, _, _ => t
  | none, some t, _ => t
  | none, none, some t => t
  | none, none, none => dataOut l s
/-- FRAME_EGRESS. -/
def execFrameEgress (l : Nat) (s : State) : Host.Outcome State Fault Refusal :=
  .next (if s.linkUp l then frameOut l s else s)
/-- EPOCH_ROLLOVER of a space whose number has wrapped. -/
def execEpochRollover (l σ : Nat) (s : State) : Host.Outcome State Fault Refusal := .next (s.onLink l (rollover σ))

/-! ## Frames received (R382 to R388) -/

/-- A NAK sent or received on a link: more than 16 in a beat fence it (R388; DEDUCED, log entry 50). -/
def countNak (l : Nat) (s : State) : State :=
  let s1 := s.onLink l (fun k => { k with naksBeat := k.naksBeat + 1, replay := true })
  if 16 < (s1.link l).naksBeat then fenceByFault ⟨.link, l⟩ s1 else s1
/-- A NAK that names the frame expected (R386). -/
def sendNak (l : Nat) (s : State) : State :=
  countNak l (queueCtl l 2 2 ((s.link l).rxSeq.getD 0 0).toNat 0 0 0 (s.onLink l (fun k => { k with naks := satInc k.naks })))
/-- An ACK for everything received, and the count starts anew. -/
def sendAck (l : Nat) (s : State) : State :=
  queueCtl l 2 1 (((s.link l).rxSeq.getD 0 0) - 1).toNat 0 0 0 (s.onLink l (fun k => { k with sinceAck := 0 }))
/-- A number accepted in a space; the epoch rises at its wrap (R404). -/
def acceptSeq (σ : Nat) (k : LinkSt) : LinkSt :=
  let q := k.rxSeq.getD σ 0
  { k with
    rxSeq := k.rxSeq.set σ (q + 1), rxEpoch := if q = 0xFFFFFFFF then k.rxEpoch.modify σ (· + 1) else k.rxEpoch,
    tagFailed := none, sinceAck := if σ = 0 then k.sinceAck + 1 else k.sinceAck }
/-- A data frame whose tag fails: the second time for one number it is an authentication failure (R388). -/
def tagFail (l : Nat) (f : Frame) (s : State) : State :=
  let again := decide ((s.link l).tagFailed = some f.seq)
  let s1 := s.onLink l (fun k => { k with authFails := satInc k.authFails, tagFailed := some f.seq })
  if again then
    fenceByFault ⟨.link, l⟩ (bbAdd 0x50 2 3 l stIntegrityFail (natLe 4 f.seq.toNat) (s1.onLink l (fun k => { k with authFail := true })))
  else sendNak l s1
/-- The lengths and reserved fields of a decrypted data frame (R381, R382). -/
def dataFrameBad (f : Frame) : Bool :=
  let b := f.body
  let c := frClass f
  let headBad := f.ctl.getLsbD 7 || decide (64 ≤ f.domain.toNat) || decide (4096 ≤ f.dest.toNat)
  let lenBad := decide (16384 < f.len.toNat) || decide (f.len.toNat ≠ b.length)
  let addrBad := decide (2 ^ 60 ≤ fld b 0 8) || decide (4 ≤ fld b 0xA 1) || decide (fld b 0xB 1 ≠ 0) ||
    decide (fld b 8 2 = 0 ∨ 4096 < fld b 8 2)
  let replyBad := decide (fld b 6 2 ≠ 0)
  headBad || lenBad ||
    (match c with
     | 1 => false
     | 2 => decide (b.length < 16) || addrBad || decide (b.length ≠ 16 + fld b 8 2)
     | 3 => decide (b.length ≠ 16) || addrBad
     | 4 => decide (b.length < 9 ∨ 4104 < b.length) || replyBad
     | 5 => decide (b.length ≠ 8) || replyBad
     | _ => true)
/-- A frame for another module, or a reply, queued on a route: none where no route leads there, or the egress firewall of
its link refuses the domain. -/
def routeFrame (sel : Option Nat) (f : Frame) (s : State) : Option State :=
  let dest := f.dest.toNat
  match s.routeOf dest (sel.getD 0) with
  | none => none
  | some l => if s.linkDomOk l (f.domain.toNat % 64) then some (queueFrame l (if frUrg f then 4 else 5) f s) else none
/-- A refusal at the egress of a frame that cannot go on. -/
def refuseFrame (sel : Nat) (write : Bool) (ga : Nat) (f : Frame) (s : State) : State :=
  match s.routeOf f.dest.toNat sel with
  | none => refuse 0x3C f.domain.toNat 3 write ga s
  | some l => refuse (0x20 + l) f.domain.toNat 3 write ga s
/-- A reply to the module that a TAG names. -/
def sendReply (cls : Nat) (f : Frame) (body : List Byte) (s : State) : State :=
  let r := mkFrame cls false (frUrg f) f.domain.toNat (bitsOf (fld f.body 0xC 4) 20 12) 0xFFFF body
  (routeFrame none r s).getD (refuseFrame 0 true 0 r s)
/-- The answer to a WRITE that asks for one. -/
def answerWrite (f : Frame) (st : Half) (s : State) : State :=
  if (fld f.body 0xA 1).testBit 1 then sendReply 5 f (replyHeader (fld f.body 0xC 4) st) s else s
/-- The answer to a READ. -/
def answerRead (f : Frame) (st : Half) (data : List Byte) (s : State) : State :=
  sendReply 4 f (replyHeader (fld f.body 0xC 4) st ++ data) s
/-- A WRITE to this module's memory through the firewall (R356, R383). -/
def remoteWrite (f : Frame) (sym : Nat) (s : State) : State :=
  let ga := fld f.body 0 8
  let a := devOf ga
  let l := f.body.drop 16
  let dom := f.domain.toNat
  if !s.rangePasses dom true a l.length then answerWrite f stDomainFault (refuse (pointOf a) dom 3 true ga s)
  else if (fld f.body 0xA 1).testBit 0 then
    if eccLost sym || s.rangePoisoned a l.length then answerWrite f stIntegrityFail (cxlPoison a (countUe a s))
    else answerWrite f stOk ((eccNote a sym s).onDev (fun m => accWrite m a l))
  else answerWrite f stOk (putMem a l s)
/-- A READ of this module's memory (R370, R383); an uncorrectable word, or one that a CXL device returns as poisoned, is reported (R361). -/
def remoteRead (f : Frame) (sym : Nat) (s : State) : State :=
  let ga := fld f.body 0 8
  let a := devOf ga
  let n := fld f.body 8 2
  let dom := f.domain.toNat
  if !s.readPasses dom a n then answerRead f stDomainFault (zeros n) (refuse (pointOf a) dom 3 false ga s)
  else
    let bad := eccLost sym || s.rangePoisoned a n
    let s2 := lcLines a n (if bad then cxlPoison a (countUe a s) else eccNote a sym s)
    answerRead f (if bad then stIntegrityFail else stOk) (MemOps.readN s.mem.dev a n) s2
/-- The yarder whose running ingress stream takes DSTREAM from a link. -/
def State.ingressYard (s : State) (l num : Nat) : Option Nat :=
  (List.range 32).find? (fun y => match s.ctx y num with
    | some c => c.started && decide (yEndpt c.word = 0xB) && decide (yArg c.word = l)
    | none => false)
/-- A corrupt block: the stream ends, the sender is told, the link is fenced (R400). -/
def blockCorrupt (l y num : Nat) (s : State) : State :=
  let s1 := bbAdd 0x51 2 3 l stBlockCorrupt (natLe 2 num) (s.onLink l (fun k => { k with
    corrupt := true, corruptBlocks := satInc k.corruptBlocks, ingress := k.ingress.filter (fun g => !(g.num == num)) }))
  let s2 := sendFrame l (mkFrame 8 false false 0 (s.link l).peerId.toNat 0xFFFF (ctlBody 5 num 0 0 0)) s1
  let s3 := planDoneStream y num stBlockCorrupt (stopStream y num stBlockCorrupt
    (match s2.ctx y num with | some c => yardFinish c.word stBlockCorrupt y s2 | none => s2))
  fenceByFault ⟨.link, l⟩ s3
/-- A STREAM body for this module (R383, R393, R399), row by row where its stream names a link scale table (R112, R113). -/
def deliverStream (l : Nat) (f : Frame) (s : State) : State :=
  let num := f.dstream.toNat
  match s.ingressYard l num with
  | none => s.onLink l (fun k => { k with orphan := true })
  | some y =>
    let g := ((s.link l).ingress.find? (·.num == num)).getD { num := num, pend := [], raw := [], out := [], status := stOk }
    let take := fun (g : Ingress) (b : List Byte) => match s.rowFor num with
      | none => { g with out := g.out ++ b }
      | some f =>
        let q := pieces f.coded (g.raw.length + b.length) (g.raw ++ b)
        let rows := q.1.map (rowRead f)
        { g with raw := q.2, out := g.out ++ rows.flatMap (·.1), status := firstBad (g.status :: rows.map (·.2)) }
    let put := fun (g : Ingress) => s.onLink l (fun k => { k with
      ingress := k.ingress.filter (fun x => !(x.num == num)) ++ [g] })
    if frComp f then
      let all := g.pend ++ f.body
      let r := decodeBlocks (all.length + 1) all
      let s1 := put (take { g with pend := r.2.1 } r.1)
      if r.2.2 then blockCorrupt l y num s1 else s1
    else put (take g f.body)
/-- A data frame delivered here, or forwarded (R383, R391, R409). -/
def deliver (l : Nat) (f : Frame) (sym : Nat) (s : State) : State :=
  let c := frClass f
  let here := decide (f.dest.toNat = s.links.moduleId.toNat)
  let ga := fld f.body 0 8
  let tag := fld f.body 0 4
  let mine := decide (bitsOf tag 20 12 = s.links.moduleId.toNat)
  if here then
    match c with
    | 1 => deliverStream l f s
    | 2 => remoteWrite f sym s
    | 3 => remoteRead f sym s
    | 4 => if mine then s.onLinks (fun k => { k with
        reads := kset k.reads (bitsOf tag 0 20) (f.body.drop 8, BitVec.ofNat 16 (fld f.body 4 2)) }) else s
    | _ => if mine then s.onLinks (fun k => { k with
        dones := kset k.dones (bitsOf tag 0 20) (BitVec.ofNat 16 (fld f.body 4 2)) }) else s
  else
    let sel := if c = 1 then f.dstream.toNat else if c = 2 ∨ c = 3 then ga / 4096 else 0
    match routeFrame (some sel) f s with
    | some t => t
    | none =>
      let s1 := refuseFrame sel (c != 3) ga f s
      match c with
      | 2 => answerWrite f stDomainFault s1
      | 3 => answerRead f stDomainFault (zeros (fld f.body 8 2)) s1
      | _ => s1
/-! ## From the lanes (R379, R384, R387, R390) -/

/-- A codeword with more than 15 symbols in error is uncorrectable (R379). -/
def cwLost (n : Nat) : Bool := decide (15 < n)
/-- A frame of which a codeword is uncorrectable: it fails its CRC (R379). -/
def rxLost (r : RxFrame) : Bool := r.cw.any cwLost
/-- Uncorrectable codewords counted (R417). -/
def fecSeen (l : Nat) (r : RxFrame) (s : State) : State :=
  s.onLink l (fun k => { k with fecUncorr := satAdd k.fecUncorr (r.cw.countP cwLost) })
/-- A data-space frame as it reaches the receiver: FEC, CRC, number, tag, form, delivery (R390). -/
def frameIn (l : Nat) (r : RxFrame) (s : State) : State :=
  if !s.linkUp l then s
  else
    let f := r.fr
    let s0 := fecSeen l r s
    if rxLost r || decide (frCrc f ≠ f.crc) || decide (f.seq ≠ (s.link l).rxSeq.getD 0 0) then sendNak l s0
    else
      let n := (s.link l).rxEpoch.getD 0 0
      let okm := s.rxKey l 0 n
      if frTag okm n f ≠ f.tag then tagFail l f s0
      else
        let f1 : Frame := { f with body := frCrypt okm n f }
        if dataFrameBad f1 || decide (frSpace f1 ≠ 0) then fenceByFault ⟨.link, l⟩ s0
        else
          let s1 := s0.onLink l (acceptSeq 0)
          let s2 := if 16 ≤ (s1.link l).sinceAck then sendAck l s1 else s1
          deliver l f1 r.sym s2

/-- FRAME_STREAM. -/
def execFrameStream (l : Nat) (r : RxFrame) (s : State) : Host.Outcome State Fault Refusal := .next (frameIn l r s)
/-- FRAME_WRITE. -/
def execFrameWrite (l : Nat) (r : RxFrame) (s : State) : Host.Outcome State Fault Refusal := .next (frameIn l r s)
/-- FRAME_READ. -/
def execFrameRead (l : Nat) (r : RxFrame) (s : State) : Host.Outcome State Fault Refusal := .next (frameIn l r s)
/-- FRAME_READ_DATA. -/
def execFrameReadData (l : Nat) (r : RxFrame) (s : State) : Host.Outcome State Fault Refusal := .next (frameIn l r s)
/-- FRAME_WRITE_DONE. -/
def execFrameWriteDone (l : Nat) (r : RxFrame) (s : State) : Host.Outcome State Fault Refusal := .next (frameIn l r s)

/-! ## Control frames -/

/-- The reserved bits of a header are set, or its LEN is not that of the body. -/
def headBad (f : Frame) : Bool :=
  f.ctl.getLsbD 7 || decide (64 ≤ f.domain.toNat) || decide (4096 ≤ f.dest.toNat) || decide (f.len.toNat ≠ f.body.length)
/-- The form of a decrypted frame of the control space is broken (R382): a class that is none of it, a reserved bit or TYPE, a LEN that is
not the class's. -/
def ctlFrameBad (f : Frame) : Bool :=
  headBad f || decide (frSpace f ≠ 1) || decide (f.body.length ≠ 32) ||
    (match frClass f with
     | 8 => decide (fld f.body 0 1 < 1 ∨ 6 < fld f.body 0 1) || decide (fld f.body 1 3 ≠ 0)
     | 9 => decide (4096 ≤ fld f.body 0x18 2) || decide (fld f.body 0x1B 5 ≠ 0)
     | _ => true)
/-- The epoch of a control frame's number: the next one where the number has wrapped past the one expected (R404; DEDUCED, log entry 181). -/
def LinkSt.ctlEpoch (k : LinkSt) (seq : Word) : Nat :=
  k.rxEpoch.getD 1 0 + (if seq.toNat < (k.rxSeq.getD 1 0).toNat then 1 else 0)
/-- A control frame's number taken: it is the latest, and the numbers up to it are passed (R384, R404). -/
def acceptCtl (seq : Word) (k : LinkSt) : LinkSt :=
  { k with
    rxSeq := k.rxSeq.set 1 (seq + 1), rxEpoch := k.rxEpoch.set 1 (k.ctlEpoch seq + (if seq = 0xFFFFFFFF then 1 else 0)) }
/-- A control frame's number lies at or after the one expected: since none is replayed, a lost one leaves a gap (R384, R387; DEDUCED, log
entry 181). -/
def LinkSt.ctlNext (k : LinkSt) (seq : Word) : Bool := decide ((seq - k.rxSeq.getD 1 0).toNat < 2 ^ 31)
/-- The decrypted frame of the control space that passes FEC, CRC, number and tag on a link. -/
def State.ctlOpen (s : State) (l : Nat) (r : RxFrame) : Option Frame :=
  let f := r.fr
  let n := (s.link l).ctlEpoch f.seq
  let okm := s.rxKey l 1 n
  if rxLost r || decide (frCrc f ≠ f.crc) || !(s.link l).ctlNext f.seq || decide (frTag okm n f ≠ f.tag) then none
  else some { f with body := frCrypt okm n f }
/-- A frame of the control space as it reaches the receiver (R387, R390): one that fails a check is dropped, one whose form is broken fences
the link (R382), one of the class and TYPE of the row has its effect. -/
def ctlIn (l : Nat) (r : RxFrame) (cls type : Nat) (act : List Byte → State → State) (s : State) : State :=
  if !s.linkUp l then s
  else
    let s0 := fecSeen l r s
    match s.ctlOpen l r with
    | none => s0
    | some f =>
      if ctlFrameBad f then fenceByFault ⟨.link, l⟩ s0
      else if frClass f ≠ cls ∨ (cls = 8 ∧ fld f.body 0 1 ≠ type) then s0
      else act f.body (s0.onLink l (acceptCtl r.fr.seq))
/-- The replay buffer gives up every frame up to the one that an ACK names (R386). -/
def ackTake (l : Nat) (b : List Byte) (s : State) : State :=
  s.onLink l (fun k => { k with sent := k.sent.filter (fun e => !decide ((BitVec.ofNat 32 (fld b 4 4) - e.fr.seq).toNat < 2 ^ 31)) })
/-- ACK. -/
def execAck (l : Nat) (r : RxFrame) (s : State) : Host.Outcome State Fault Refusal := .next (ctlIn l r 8 1 (ackTake l) s)
/-- ACK_TIMER: 1 µs without an ACK (R387). -/
def execAckTimer (l : Nat) (s : State) : Host.Outcome State Fault Refusal :=
  .next (if s.linkUp l && decide (0 < (s.link l).sinceAck) then sendAck l s else s)
/-- The frames from the one that a NAK names on are sent again, as they were (R386). -/
def nakTake (l : Nat) (b : List Byte) (s : State) : State :=
  countNak l (s.onLink l (fun k => { k with
    egress := k.egress.filter (fun e => !e.replayed) ++
      (k.sent.filter (fun e => decide ((e.fr.seq - BitVec.ofNat 32 (fld b 4 4)).toNat < 2 ^ 31))).map (fun e =>
        { prio := 3, fr := e.fr, replayed := true, src := none }) }))
/-- NAK. -/
def execNak (l : Nat) (r : RxFrame) (s : State) : Host.Outcome State Fault Refusal := .next (ctlIn l r 8 2 (nakTake l) s)
/-- LINK_DELAY_MEASUREMENT: DELAY_REQ carrying T1 (R72, R415). -/
def execLinkDelayMeasurement (l t : Nat) (s : State) : Host.Outcome State Fault Refusal :=
  .next (if s.bgRuns (.delay l) && s.linkUp l then
      queueCtl l 1 3 0 t 0 0 ((bgDone (.delay l) s).onLink l (fun k => { k with delayT1 := t })) else s)
/-- DELAY_REQ answered with DELAY_RESP: T1 as received, T2 at its arrival, T3 at the answer's departure. -/
def execDelayReq (l : Nat) (r : RxFrame) (t2 t3 : Nat) (s : State) : Host.Outcome State Fault Refusal :=
  .next (ctlIn l r 8 3 (fun b s => queueCtl l 1 4 0 (fld b 8 8) t2 t3 s) s)
/-- d of R415 from the answer to the request under way. -/
def delayTake (l t4 : Nat) (b : List Byte) (s : State) : State :=
  if fld b 8 8 = (s.link l).delayT1 then s.onLink l (fun k => { k with
    oneWay := BitVec.ofInt 32 ((((t4 : Int) - (fld b 8 8 : Nat)) - ((fld b 0x18 8 : Nat) - (fld b 0x10 8 : Nat) : Int)) / 2) }) else s
/-- DELAY_RESP, by its bytes, at a time. -/
def execDelayResp (l : Nat) (head rest : List Byte) (cw : List Nat) (t4 : Nat) (s : State) : Host.Outcome State Fault Refusal :=
  .next (ctlIn l (rxOf head rest cw) 8 4 (delayTake l t4) s)
/-- CORRUPT: the other end found a corrupt block (R400). -/
def execCorrupt (l : Nat) (r : RxFrame) (s : State) : Host.Outcome State Fault Refusal :=
  .next (ctlIn l r 8 5 (fun _ s => fenceByFault ⟨.link, l⟩ s) s)

/-! ## Keys and bring-up (R378, R402, R403, R405, R407) -/

/-- The link may be brought up: it is enabled, no fence keeps it down, the module has an ID. -/
def State.linkMay (s : State) (l : Nat) : Bool :=
  decide (l < 24) && (s.link l).enable && s.links.moduleId != 0xFFF && s.power.mode == .active &&
    (s.svc ⟨.link, l⟩ == .inService || s.svc ⟨.link, l⟩ == .moving || s.svc ⟨.link, l⟩ == .returning)
/-- The HELLO frame of a body: unencrypted, SEQ 0, an all-zero tag. -/
def helloFrame (body : List Byte) : Frame :=
  let f : Frame := { mkFrame 0xA false false 0 0xFFF 0xFFFF body with tag := zeros 16 }
  { f with crc := frCrc f }
/-- A fresh HELLO body: nonce, ephemeral key, signature, chain (R402). -/
def makeHello (l : Nat) (s : State) : State :=
  let r1 := s.rand 16
  let r2 := r1.2.rand 32
  let eph := beNat r2.1 % (p256n - 1) + 1
  let chain := s.chain
  let head := natLe 2 s.links.moduleId.toNat ++ natLe 2 chain.length ++ zeros 4 ++ r1.1 ++ pubOf eph
  let sg := identitySign head r2.2
  let body := head ++ sg.1 ++ chain
  sg.2.onLink l (fun k => { k with
    nonce := r1.1, ephPriv := eph, helloOut := body, wire := k.wire ++ [helloFrame body] })
/-- LINK_TRAINING_COMPLETE: `lanesOk` says that all eight lanes of each direction trained. -/
def execLinkTrainingComplete (l : Nat) (lanesOk : Bool) (s : State) : Host.Outcome State Fault Refusal :=
  .next (if !s.linkMay l || (s.link l).up || !(s.link l).training then s
    else if lanesOk then makeHello l s
    else s.onLink l (fun k => { k with laneFail := true, training := false }))
/-- HELLO_REPEAT: every 100 µs until a valid KEYED has come. -/
def execHelloRepeat (l : Nat) (s : State) : Host.Outcome State Fault Refusal :=
  .next (if s.linkMay l && (s.link l).training && !(s.link l).helloOut.isEmpty && !(s.link l).keyedGot then
      s.onLink l (fun k => { k with wire := k.wire ++ [helloFrame k.helloOut] })
    else s)
/-- A HELLO frame that keeps the table *HELLO body* and its CRC. -/
def helloOk (f : Frame) : Bool :=
  decide (frCrc f = f.crc) && decide (f.ctl = 0x2A) && decide (f.seq = 0) && allZero f.tag 0 16 &&
    decide (f.len.toNat = f.body.length) && decide (f.body.length = 0x98 + fld f.body 2 2) &&
    decide (4 ≤ fld f.body 2 2 ∧ fld f.body 2 2 ≤ 2054) && decide (fld f.body 0 2 < 4096) && decide (fld f.body 4 4 = 0)
/-- HELLO: kept, checked, and the keys derived; then KEYED goes out as the first frame of the control space. -/
def execHello (l : Nat) (r : RxFrame) (s0 : State) : Host.Outcome State Fault Refusal :=
  let k := s0.link l
  let s := fecSeen l r s0
  .next (if !s0.linkMay l || !k.training || k.helloOut.isEmpty then s0
    else if k.peerHello.isSome || rxLost r || !helloOk r.fr then s
    else
      let b := r.fr.body
      let peer := fld b 0 2
      let pub := (b.drop 0x18).take 64
      let good := match chainKey s.rot.rootPub (b.drop 0x98) with
        | some key => ecdsaVerify key (b.take 0x58) ((b.drop 0x58).take 64)
        | none => false
      let own := s.links.moduleId.toNat
      match (if good && decide (peer ≠ own ∧ peer ≠ 0xFFF) then ecdh k.ephPriv pub else none) with
      | none => s.onLink l (fun k => { k with peerFail := true, training := false })
      | some z =>
        let pn := (b.drop 8).take 16
        let prk := hkdfExtract (if own < peer then k.nonce ++ pn else pn ++ k.nonce) z
        let s1 := s.onLink l (fun k => { k with
          peerHello := some b, prk := prk, peerId := BitVec.ofNat 12 peer, ephPriv := 0, keyedSent := true })
        sendFrame l (mkFrame 8 false false 0 peer 0xFFFF (ctlBody 6 0 0 0 0)) s1)
/-- KEYED: a frame that passes its tag under the keys of epoch 0 shows that the peer holds the same keys; the link comes up. -/
def execKeyed (l : Nat) (r : RxFrame) (s : State) : Host.Outcome State Fault Refusal :=
  let k := s.link l
  let s0 := fecSeen l r s
  .next (if !s.linkMay l || k.up || !k.keyedSent then s
    else match s.ctlOpen l r with
      | none => s0
      | some f =>
        if ctlFrameBad f then fenceByFault ⟨.link, l⟩ s0
        else if frClass f ≠ 8 ∨ f.seq ≠ 0 ∨ f.body ≠ ctlBody 6 0 0 0 0 then s0
        else s0.onLink l (fun k => { acceptCtl 0 k with keyedGot := true, keyed := true, up := true, training := false }))
/-- LANE_LOSS in service (R378). -/
def execLaneLoss (l : Nat) (s : State) : Host.Outcome State Fault Refusal :=
  .next (if (s.link l).up then fenceByFault ⟨.link, l⟩ (s.onLink l (fun k => { k with laneFail := true })) else s)
/-- A write of ENABLE = 1 in DLK_CTRL: the link is brought up, unless it is fenced. -/
def enableLink (l : Nat) (s : State) : State :=
  s.onLink l (fun k => { k with enable := true, training := if k.enable then k.training else !k.up && s.svc ⟨.link, l⟩ != .fenced })
/-- A link drops as in R389 and trains again with a new agreement, where it is enabled and not fenced (R417). -/
def retrainLink (l : Nat) (s : State) : State :=
  (abandonCmds (usesUnit ⟨.link, l⟩) stFenced 0x09 s).onLink l (fun k => { linkDown k with training := k.enable && s.svc ⟨.link, l⟩ != .fenced })
/-- The device address of DLK_CTRL of a link. -/
def dlkCtrl (l : Nat) : Nat := 0x0C0000080000 + l * 0x1000 + 8
/-- DLK_ENABLE. -/
def execDlkEnable (dom l : Nat) (s : State) : Host.Outcome State Fault Refusal :=
  .next (if 24 ≤ l then s else if dom ≠ 0 then refuse 0x3C dom 2 true (dlkCtrl l) s else enableLink l s)
/-- DLK_RETRAIN. -/
def execDlkRetrain (dom l : Nat) (s : State) : Host.Outcome State Fault Refusal :=
  .next (if 24 ≤ l then s else if dom ≠ 0 then refuse 0x3C dom 2 true (dlkCtrl l) s else retrainLink l s)

end Sys2Proof.Machine
end

