-- ==== Sys2Proof/Machine/RegExec.lean ====
section
/-! DEFINITION. Register writes (R44, R155, R185, R204, R240, R270, R337, R343, R352, R366, R376, R417, R454, R469, R530,
R583, R594, R605) and the application-core port (R30, R368, R456, R459). -/

namespace Sys2Proof.Machine

/-! ## Refused accesses -/

/-- A register write by a domain that may not make it: ignored and counted (R370). -/
def refuseReg (dom o : Nat) (s : State) : State := refuse 0x3C dom 2 true (ctrlBase + o) s
/-- A write that only domain 0 may make. -/
def sysWrite (dom o : Nat) (f : State → State) (s : State) : State := if dom = 0 then f s else refuseReg dom o s
/-- The device address that an application-core address of the control window names (R459); what lies in no window names none and stands
as it is (DESIGN CHOICE, log entry 94). -/
def coreDev (a : Nat) : Nat := if 0x004100000000 ≤ a ∧ a < 0x004200000000 then ctrlBase + (a - 0x004100000000) else a
/-- An access-fault exception on an application core: the access is dropped and counted at its port (R368, R370). -/
def coreFault (addr : Nat) (write : Bool) (s : State) : State :=
  (refuse 0x3D 1 1 write (coreDev addr) s).onCtrl (fun k => { k with irqs := k.irqs ++ [{ addr := addr, data := 0, kind := 3 }] })

/-! ## The Beat Sequencer -/

/-- A write that sets CFG_ERR and nothing else (R605). -/
def beatCfgErr (s : State) : State := s.onBeat (fun b => { b with cfgErr := true })
/-- Ticks enabled or disabled: the count starts anew at the first tick after ENABLE rises (R44, R606). -/
def setEnable (en : Bool) (b : BeatSt) : BeatSt :=
  if en == b.enable then b
  else { b with
    enable := en, ticked := false, fresh := true, nextTick := none, nextNumber := none, missSet := false, locked := false, holdover := false, refTime := none,
    qualified := false, misses := 0, markerSeen := false, holdBeats := 0 }
/-- The last local time that the state records: that of the last tick, or that of the time counter. -/
def State.localTime (s : State) : Nat := max s.beat.tickTime (s.power.timeUs * 16000)
/-- Ticks enabled at a time: with the internal source the first tick falls one period later (R606). -/
def enableAt (t : Nat) (b : BeatSt) : BeatSt :=
  if b.enable then b
  else
    let e := setEnable true b
    if e.src = 0 then { e with nextTick := some (t + e.cur.period.toNat * 1000000) } else e
/-- A write of BEAT_CTRL. A register write carries no time: one that sets ENABLE is taken to stand at the last time that the
state records; BEAT_ENABLE carries its own (DESIGN CHOICE, log entry 145). -/
def beatCtrlWrite (v : Nat) (s : State) : State :=
  let hm := bitsOf v 12 4
  let src := bitsOf v 1 2
  if hm = 0 ∨ 8 < hm ∨ src = 3 ∨ (src = 2 ∧ v.testBit 3 = true) ∨ (src ≠ 2 ∧ v.testBit 3 = false) then beatCfgErr s
  else s.onBeat (fun b => (if v.testBit 0 then enableAt s.localTime else setEnable false) { b with
    holdMax := BitVec.ofNat 4 hm, beatOutEn := v.testBit 8, master := v.testBit 3, src := BitVec.ofNat 2 src })
/-- A write of BEAT_APPLY. -/
def beatApplyWrite (v : Dword) (s : State) : State :=
  if v = 0 then s.onBeat (fun b => { b with applyAt := 0, armedHoldMax := none })
  else if v.toNat ≤ s.beat.number.toNat + 1 ∨ s.beat.next.ok = false then beatCfgErr s
  else s.onBeat (fun b => { b with applyAt := v, armedHoldMax := none })
/-- A write of a Beat Sequencer register by domain 0. BEAT_NEXT is copied as it stands at the tick named; a write that would break
the limits while a change is armed is ignored with CFG_ERR, which keeps R37 (DESIGN CHOICE, log entry 146). -/
def beatRegWrite (o : Nat) (v : Dword) (s : State) : State :=
  let n := v.toNat
  if o = 0x00 then beatCtrlWrite n s
  else if o = 0x10 then
    if s.beat.applyAt ≠ 0 ∧ (cfgOfReg n).ok = false then beatCfgErr s else s.onBeat (fun b => { b with next := cfgOfReg n })
  else if o = 0x18 then beatApplyWrite v s
  else if o = 0x28 then s.onBeat (fun b => { b with
    deadlineMiss := w1c b.deadlineMiss n 12, syncLost := w1c b.syncLost n 11, planMiss := w1c b.planMiss n 10,
    overrun := w1c b.overrun n 9, cfgErr := w1c b.cfgErr n 8 })
  else s

/-! ## Clusters, NMUs, yarders -/

/-- A write of a cluster register by domain 0. -/
def clusterRegWrite (c o : Nat) (v : Dword) (s : State) : State :=
  let n := v.toNat
  if o = 0x000 then s.onCluster c (fun k => { k with arr := { k.arr with
    poison := w1c k.arr.poison n 7, eccUe := w1c k.arr.eccUe n 6, domFault := w1c k.arr.domFault n 5,
    stalled := w1c k.arr.stalled n 4 } })
  else if o = 0x100 then s.onCluster c (fun k => { k with veRegs := { k.veRegs with
    var1Clamp := w1c k.veRegs.var1Clamp n 7, eccUe := w1c k.veRegs.eccUe n 6, domFault := w1c k.veRegs.domFault n 5,
    stalled := w1c k.veRegs.stalled n 4, nonfinite := w1c k.veRegs.nonfinite n 2 } })
  else if o = 0x200 then s.onCluster c (fun k => { k with sfu := { k.sfu with loadErr := w1c k.sfu.loadErr n 7 } })
  else if o = 0x300 then s.onCluster c (fun k => { k with scan := { k.scan with
    gone := w1c k.scan.gone n 7, eccUe := w1c k.scan.eccUe n 6, domFault := w1c k.scan.domFault n 5,
    stalled := w1c k.scan.stalled n 4, invalidRow := w1c k.scan.invalidRow n 3 } })
  else s
/-- A write of NMU_SHARE (R267). -/
def nmuShare (i n : Nat) (s : State) : State :=
  if 1000 < bitsOf n 0 10 + bitsOf n 16 10 + bitsOf n 32 10 then s.onNmu i (fun k => { k with cfgErr := true })
  else s.onNmu i (fun k => { k with
    gemvPm := BitVec.ofNat 10 (bitsOf n 0 10), attPm := BitVec.ofNat 10 (bitsOf n 16 10), ifPm := BitVec.ofNat 10 (bitsOf n 32 10) })
/-- A write of an NMU register by domain 0. -/
def nmuRegWrite (i o : Nat) (v : Dword) (s : State) : State :=
  let n := v.toNat
  if o = 0x00 then s.onNmu i (fun k => { k with
    cfgErr := w1c k.cfgErr n 9, spill := w1c k.spill n 8, poison := w1c k.poison n 7, eccUe := w1c k.eccUe n 6,
    domFault := w1c k.domFault n 5, stalled := w1c k.stalled n 4 })
  else if o = 0x20 then nmuShare i n s
  else s
/-- A number of outstanding transfers is legal. -/
def outOk (n : Nat) : Bool := decide (1 ≤ n) && decide (n ≤ 64)
/-- A write of YARD_OUTST (R343, R344). -/
def yardOutst (y n : Nat) (s : State) : State :=
  if outOk (bitsOf n 0 7) && outOk (bitsOf n 8 7) && outOk (bitsOf n 16 7) then
    s.onYarder y (fun k => { k with
      outD := BitVec.ofNat 7 (bitsOf n 0 7), outI := BitVec.ofNat 7 (bitsOf n 8 7), outB := BitVec.ofNat 7 (bitsOf n 16 7) })
  else s.onYarder y (fun k => { k with cfgErr := true })
/-- A write of a yarder register by domain 0. -/
def yardRegWrite (y o : Nat) (v : Dword) (s : State) : State :=
  let n := v.toNat
  if o = 0x00 then s.onYarder y (fun k => { k with
    cfgErr := w1c k.cfgErr n 8, descErr := w1c k.descErr n 7, eccUe := w1c k.eccUe n 6, domFault := w1c k.domFault n 5,
    stalled := w1c k.stalled n 4, skidFull := w1c k.skidFull n 3, discard := w1c k.discard n 2 })
  else if o = 0x20 then yardOutst y n s
  else s
/-- A write of YARD_SPLIT (R337). -/
def yardSplit (n : Nat) (s : State) : State :=
  if 1000 < bitsOf n 0 10 + bitsOf n 16 10 + bitsOf n 32 10 then s.onYard (fun k => { k with splitErr := true })
  else s.onYard (fun k => { k with
    splitErr := w1c k.splitErr n 63, readPm := BitVec.ofNat 10 (bitsOf n 0 10), writePm := BitVec.ofNat 10 (bitsOf n 16 10),
    remotePm := BitVec.ofNat 10 (bitsOf n 32 10) })

/-! ## Memory and links -/

/-- A write of LC_PART (R352): the window ways change at the next tick. -/
def lcPart (n : Nat) (s : State) : State :=
  if 20 < bitsOf n 0 5 then s.onMem (fun m => { m with lcCfgErr := true })
  else s.onMem (fun m => { m with lcCfgErr := w1c m.lcCfgErr n 8, winNext := some (BitVec.ofNat 5 (bitsOf n 0 5)) })
/-- A command of the released plan that has not ended names a region (R369): one of its model's or table set's, of its state object's, of
its session's pages, of the place of its descriptor list. -/
def State.namesRegion (s : State) (r : Nat) : Bool :=
  let hit := fun (a n : Nat) => decide (a < (r + 1) * regionSize ∧ r * regionSize < a + n)
  s.plan.cur.any (fun c => (c.run == .queued || c.run == .running) &&
    (let owners := (if c.blaze then [] else [s.modelHandle c.model, BitVec.ofNat 32 (s.handleOf 8 (((s.model c.model).map (·.tset)).getD 0))]) ++
       (s.objsOf c).map (fun i => BitVec.ofNat 32 (s.handleOf 3 i))
     let pages := s.setsOf c ++ (match s.workSession c.kind c.obj with | some x => x.pages | none => [])
     s.mem.held.any (fun h => owners.contains h.2.2 && hit h.1 (h.2.1 * regionSize)) ||
     (pages.filterMap s.fset).any (fun x => x.locs.any (fun l => hit (frameAddr l) (s.modelF x.model))) ||
     (match c.t.engine with | .yarder _ => hit (fld c.t.word 8 8) (32 * fld c.t.word 0x10 2) | _ => false)))
/-- A write of a region tag (R366): a hole's is ignored, and so is ACCESS 0b11, both with CFG_ERR (R376). The region's cached lines are
invalidated first (R355). The DCP makes none while a command of the released plan names the region (R369): such a write has no effect
(DESIGN CHOICE, log entry 180). -/
def regionTag (region n : Nat) (s : State) : State :=
  if !s.tagged region || bitsOf n 14 2 == 3 then s.onMem (fun m => { m with violCfgErr := true })
  else if s.namesRegion region then s
  else (lcInvalidate region s).onMem (fun m => { m with
    tags := kset m.tags region (mkTag (bitsOf n 14 2) (bitsOf n 13 1) (bitsOf n 0 6)) })
/-- A write of a memory register by domain 0. -/
def memRegWrite (o : Nat) (v : Dword) (s : State) : State :=
  let n := v.toNat
  if o = 0 then lcPart n s
  else if 0x100 ≤ o ∧ o < 0x200 then s.onMem (fun m => { m with
    ecc := m.ecc.modify ((o - 0x100) / 8) (fun e => { e with ueSeen := w1c e.ueSeen n 0 }) })
  else if o = 0x200 then s.onMem (fun m => { m with violValid := w1c m.violValid n 63, violCfgErr := w1c m.violCfgErr n 38 })
  else if 0x300 ≤ o ∧ o < 0x320 then s.onMem (fun m => { m with
    cxl := m.cxl.modify ((o - 0x300) / 8) (fun c => { c with poison := w1c c.poison n 7, latFail := w1c c.latFail n 6 }) })
  else if 0x400 ≤ o ∧ o < 0x4C0 then s.onMem (fun m => { m with
    linkDom := m.linkDom.modify ((o - 0x400) / 8) (fun _ => v ||| 1) })
  else s
/-- A write of DLK_CTRL: ENABLE, then RETRAIN (R405, R417). -/
def dlkWrite (l n : Nat) (s : State) : State :=
  let s1 := if n.testBit 0 then enableLink l s else s.onLink l (fun k => { k with enable := false })
  if n.testBit 1 then retrainLink l s1 else s1
/-- A write of a link register by domain 0. -/
def linkRegWrite (l o : Nat) (v : Dword) (s : State) : State :=
  let n := v.toNat
  if o = 0x00 then s.onLink l (fun k => { k with
    orphan := w1c k.orphan n 9, peerFail := w1c k.peerFail n 8, laneFail := w1c k.laneFail n 7, corrupt := w1c k.corrupt n 6,
    authFail := w1c k.authFail n 5, replay := w1c k.replay n 4 })
  else if o = 0x08 then dlkWrite l n s
  else s
/-- A write of a DLK_ROUTE entry by domain 0. -/
def routeWrite (o : Nat) (v : Dword) (s : State) : State :=
  if 0x1000 ≤ o ∧ o < 0x5000 then
    s.onLinks (fun k => { k with routes := kset k.routes ((o - 0x1000) / 4) (BitVec.ofNat 24 v.toNat) })
  else s

/-! ## Audio, safety, power, pins -/

/-- A SAP_CTRL value is legal: the fields of R445's check with any GROUP and ENABLE. A nonzero reserved bit in [31:21] or [7:2] and a
reserved SLOT_W or SAMPLE_W code are refused too, though the field map names only SLOTS, RATE and a width above SLOT_W (DESIGN
CHOICE, log entry 95). -/
def sapWordOk (n : Nat) : Bool := sapValueOk (n % 2 ^ 36 - n % 2)
/-- A write of SAP_CTRL. -/
def sapCtrlWrite (p n : Nat) (s : State) : State :=
  if sapWordOk n then s.onAudio (fun a => { a with saps := a.saps.modify p (fun k => { k with
    group := BitVec.ofNat 4 (bitsOf n 36 4), mclkEn := n.testBit 35, bclkInv := n.testBit 34, dataDelay := n.testBit 33,
    i2s := n.testBit 32, slots := BitVec.ofNat 5 (bitsOf n 16 5), rate := BitVec.ofNat 4 (bitsOf n 12 4),
    slotW := BitVec.ofNat 2 (bitsOf n 10 2), sampleW := BitVec.ofNat 2 (bitsOf n 8 2), master := n.testBit 1,
    enable := n.testBit 0 }) })
  else s.onAudio (fun a => { a with saps := a.saps.modify p (fun k => { k with cfgErr := true }) })
/-- A write of an AFE register by domain 0. -/
def afeRegWrite (o : Nat) (v : Dword) (s : State) : State :=
  let n := v.toNat
  if o = 0 then s.onAudio (fun a => { a with
    short := w1c a.short n 5, domFault := w1c a.domFault n 4, badSamp := w1c a.badSamp n 3, zcTimeout := w1c a.zcTimeout n 2 })
  else if 0x100 ≤ o ∧ o < 0x200 ∧ o % 0x40 = 0 then sapCtrlWrite ((o - 0x100) / 0x40) n s
  else if 0x100 ≤ o ∧ o < 0x200 ∧ o % 0x40 = 8 then s.onAudio (fun a => { a with
    saps := a.saps.modify ((o - 0x100) / 0x40) (fun k => { k with
      cfgErr := w1c k.cfgErr n 8, clkLost := w1c k.clkLost n 7, underrun := w1c k.underrun n 6, overrun := w1c k.overrun n 5,
      slip := w1c k.slip n 4 }) })
  else if 0x200 ≤ o ∧ o < 0x220 then s.onAudio (fun a => { a with
    pdms := a.pdms.modify ((o - 0x200) / 8) (fun k => { k with
      clk := BitVec.ofNat 2 (bitsOf n 6 2), dec128 := n.testBit 5, group := BitVec.ofNat 4 (bitsOf n 1 4), enable := n.testBit 0 }) })
  else if 0x300 ≤ o ∧ o < 0x310 then s.onAudio (fun a => { a with
    plls := a.plls.modify ((o - 0x300) / 8) (fun k => { k with limit := w1c k.limit n 6 }) })
  else s
/-- A register write that names a verdict slot: it comes from no write stream, and a domain other than SAFETY_DOMAIN is
counted (R523, R530). -/
def slotRegWrite (dom : Nat) (s : State) : State :=
  if s.safe.safetyDomain ≠ 0xFF ∧ dom = s.safe.safetyDomain.toNat then s
  else s.onSafe (fun k => { k with foreign := satInc k.foreign })
/-- A write of a safety register by domain 0. -/
def safeRegWrite (o : Nat) (v : Dword) (s : State) : State :=
  let n := v.toNat
  if o = 0x18 then s.onSafe (fun k => { k with blazeMismatch := w1c k.blazeMismatch n 7, blazeLate := w1c k.blazeLate n 6 })
  else if o = 0x20 then s.onSafe (fun k => { k with testFail := w1c k.testFail n 1, latentSeen := w1c k.latentSeen n 0 })
  else s
/-- CAP_W is legal (R562). -/
def capOk (n : Nat) : Bool := decide (600 ≤ n) && decide (n ≤ 2400) && decide (n % 50 = 0)
/-- The effective cap of R562 with its floor, as what is planned now sets it; CAP_CLAMPED where the floor raises it. -/
def refreshCap (l : List PCmd) (s : State) : State :=
  let f := s.capFloor s.beat.cur l
  s.onPower (fun p => { p with
    effective := BitVec.ofNat 16 (max s.capW f), capClamped := p.capClamped || decide (s.capW < f) })
/-- A write of CAP_W (R562): kept in the configuration store, or ignored with CFG_ERR. -/
def writeCap (n : Nat) (s : State) : State :=
  if capOk n then refreshCap s.plan.cur (s.onPower (fun p => saveCfg { p with
    capW := BitVec.ofNat 16 n, cfg := { p.cfg with capW := n } }))
  else s.onPower (fun p => { p with capErr := true })
/-- A write of PWR_CAP: the whole write is ignored where CAP_W is not legal (R605). -/
def pwrCapWrite (n : Nat) (s : State) : State :=
  if capOk (bitsOf n 0 16) then
    (writeCap (bitsOf n 0 16) s).onPower (fun p => { p with capErr := w1c p.capErr n 32 })
  else s.onPower (fun p => { p with capErr := true })
/-- A write of a power register by domain 0. -/
def powerRegWrite (o : Nat) (v : Dword) (s : State) : State :=
  let n := v.toNat
  if o = 0x00 then s.onPower (fun p => { p with
    modelHigh := w1c p.modelHigh n 11, thermLimit := w1c p.thermLimit n 10, capClamped := w1c p.capClamped n 9,
    vinLow := w1c p.vinLow n 8 })
  else if o = 0x10 then pwrCapWrite n s
  else s
/-- A write of GPIO_CTRL (R594): OE and OUT. -/
def gpioWrite (n : Nat) (s : State) : State :=
  s.onPins (fun p => { p with gpioOe := BitVec.ofNat 4 (bitsOf n 4 4), gpioOut := BitVec.ofNat 4 (bitsOf n 0 4) })

/-! ## The whole region -/

/-- An assigned register written by domain 0, by its offset. -/
def regEffect (o : Nat) (v : Dword) (s : State) : State :=
  if 0x10000000 ≤ o then regionTag ((o - 0x10000000) / 2) v.toNat s
  else if o < 0x20000 then beatRegWrite (o - 0x10000) v s
  else if o < 0x30000 then clusterRegWrite ((o - 0x20000) / 0x1000) (o % 0x1000) v s
  else if o < 0x40000 then nmuRegWrite ((o - 0x30000) / 0x1000) (o % 0x1000) v s
  else if o < 0x60000 then yardRegWrite ((o - 0x40000) / 0x1000) (o % 0x1000) v s
  else if o = 0x60000 then yardSplit v.toNat s
  else if o < 0x70000 then s
  else if o < 0x80000 then memRegWrite (o - 0x70000) v s
  else if o < 0xA0000 then linkRegWrite ((o - 0x80000) / 0x1000) (o % 0x1000) v s
  else if o < 0xB0000 then routeWrite (o - 0xA0000) v s
  else if o < 0xC0000 then afeRegWrite (o - 0xB0000) v s
  else if o < 0xD0000 then safeRegWrite (o - 0xC0000) v s
  else if o < 0xE0000 then s
  else if o < 0xF0000 then powerRegWrite (o - 0xE0000) v s
  else gpioWrite v.toNat s
/-- A domain may write the register at an offset. -/
def mayWrite (dom o : Nat) : Bool :=
  if o = 0xF0000 then decide (dom ≤ 1)
  else if o = 0xD0000 ∨ 0x20000000 ≤ o then false
  else decide (dom = 0)
/-- A write of a control block word by the application cores (R469); a page's block is there whether or not a client
holds the index. -/
def blockWrite (a : Nat) (v : Dword) (s : State) : State :=
  let c := (a - 0x004001000000) / 0x40
  let n := v.toNat
  match (a - 0x004001000000) % 0x40 with
  | 0x00 => s.onBlock c (fun b => { b with msiAddr := BitVec.ofNat 62 (n / 4) })
  | 0x08 => s.onBlock c (fun b => { b with
      enTelem := n.testBit 34, enToken := n.testBit 33, enDone := n.testBit 32, msiData := BitVec.ofNat 32 n })
  | 0x10 => s.onBlock c (fun b => { b with
      wrDrop := w1c b.wrDrop n 35, telem := w1c b.telem n 34, token := w1c b.token n 33,
      doneBits := b.doneBits &&& ~~~ (BitVec.ofNat 16 (bitsOf n 16 16)) })
  | _ => s
/-- A register write by a domain at an address: a control block word by its application-core address, everything else by
its device address. A hole, and an offset that no chapter assigns, is refused (R345); memory is no register. -/
def regWrite (dom addr : Nat) (v : Dword) (s : State) : State :=
  if 0x004001000000 ≤ addr ∧ addr < 0x004001004000 then (if dom = 1 ∧ s.coresUp = true then blockWrite addr v s else s)
  else if addr < ctrlBase ∨ ctrlBase + 0x100000000 ≤ addr then (if placeOf addr = .hole then refuse 0x3C dom 2 true addr s else s)
  else
    let o := addr - ctrlBase
    match s.regAt o with
    | none => if dom = 1 then coreFault (0x004100000000 + o) true s else refuseReg dom o s
    | some _ =>
      if 0xC1000 ≤ o ∧ o < 0xC1200 then slotRegWrite dom s
      else if mayWrite dom o then regEffect o v s
      else refuseReg dom o s

/-! ## The rows -/

/-- NMU_SHARE_WRITE. -/
def execNmuShareWrite (dom i : Nat) (v : Dword) (s : State) : Host.Outcome State Fault Refusal :=
  .next (if 16 ≤ i then s else sysWrite dom (0x30020 + i * 0x1000) (nmuShare i v.toNat) s)
/-- YARD_OUTST_WRITE. -/
def execYardOutstWrite (dom y : Nat) (v : Dword) (s : State) : Host.Outcome State Fault Refusal :=
  .next (if 32 ≤ y then s else sysWrite dom (0x40020 + y * 0x1000) (yardOutst y v.toNat) s)
/-- YARD_SPLIT_WRITE. -/
def execYardSplitWrite (dom : Nat) (v : Dword) (s : State) : Host.Outcome State Fault Refusal :=
  .next (sysWrite dom 0x60000 (yardSplit v.toNat) s)
/-- LC_PART_WRITE. -/
def execLcPartWrite (dom : Nat) (v : Dword) (s : State) : Host.Outcome State Fault Refusal :=
  .next (sysWrite dom 0x70000 (lcPart v.toNat) s)
/-- REGION_TAG_WRITE. -/
def execRegionTagWrite (dom region : Nat) (v : Half) (s : State) : Host.Outcome State Fault Refusal :=
  .next (sysWrite dom (0x10000000 + 2 * region) (regionTag region v.toNat) s)
/-- PWR_CAP_WRITE. -/
def execPwrCapWrite (dom : Nat) (v : Dword) (s : State) : Host.Outcome State Fault Refusal :=
  .next (sysWrite dom 0xE0010 (pwrCapWrite v.toNat) s)
/-- GPIO_CTRL_WRITE: domains 0 and 1 may write it. -/
def execGpioCtrlWrite (dom : Nat) (v : Dword) (s : State) : Host.Outcome State Fault Refusal :=
  .next (if dom ≤ 1 then gpioWrite v.toNat s else refuseReg dom 0xF0000 s)
/-- BEAT_APPLY_WRITE. -/
def execBeatApplyWrite (dom : Nat) (v : Dword) (s : State) : Host.Outcome State Fault Refusal :=
  .next (sysWrite dom 0x10018 (beatApplyWrite v) s)
/-- REGISTER_WRITE. -/
def execRegisterWrite (dom addr : Nat) (v : Dword) (s : State) : Host.Outcome State Fault Refusal :=
  .next (regWrite dom addr v s)

/-! ## The application-core port -/

/-- An application-core address is one that a core may use: the carve-out, the mailboxes and control blocks, an assigned
offset of the control window (R456, R459). -/
def State.coreMay (s : State) (addr : Nat) : Bool :=
  inCarve addr 1 || (decide (0x004000000000 ≤ addr) && decide (addr < 0x004001004000)) ||
    (decide (0x004100000000 ≤ addr) && decide (addr < 0x004200000000) && (s.regAt ((addr - 0x004100000000) / 8 * 8)).isSome)
/-- ACCESS_FAULT. -/
def execAccessFault (core addr : Nat) (write : Bool) (s : State) : Host.Outcome State Fault Refusal :=
  .next (if 16 ≤ core ∨ s.coresUp = false ∨ s.coreMay addr = true then s else coreFault addr write s)
/-- ERROR_INTERRUPT (R30): a fault in application core 0 to 15, Ethernet MAC M (16) or S (17), told to the operating
system; no unit is reset. -/
def execErrorInterrupt (unit : Nat) (s : State) : Host.Outcome State Fault Refusal :=
  .next (if 18 ≤ unit ∨ s.coresUp = false then s
    else s.onCtrl (fun k => { k with irqs := k.irqs ++ [{ addr := unit, data := 0, kind := 2 }] }))

end Sys2Proof.Machine
end

