-- ==== Sys2Proof/Machine/BeatExec.lean ====
section
/-! DEFINITION. The beat's clock (R38, R44, R606, R74 to R78, R413, R414): BEAT_IN, enabling, markers, holdover. Times are in
units of 1/16 ns. -/

namespace Sys2Proof.Machine

/-- 1 µs. -/
abbrev t16Us : Nat := 16000
/-- The tick that comes next, where its time is known: announced, or one period after the reference edge of BEAT_IN. -/
def BeatSt.dueAt (b : BeatSt) : Option Nat :=
  match b.nextTick with
  | some t => some t
  | none => if b.src = 1 then b.refTime.map (· + b.cur.period16) else none
/-- The number of the tick at a time: 0 for a master's first one, what the marker said on a follower; after a reset the
one it would have reached (R569 5). -/
def BeatSt.numberAt (b : BeatSt) (t : Nat) : Nat :=
  if b.fresh && b.master then 0
  else match (if b.master then none else b.nextNumber) with
    | some n => n
    | none =>
      if b.ticked || b.fresh then b.number.toNat + (if b.fresh then 0 else 1)
      else b.number.toNat + max 1 ((t - b.tickTime + b.cur.period16 / 2) / b.cur.period16)

/-! ## BEAT_IN (R38, R606) -/

/-- A rising edge at the pin, on a master that follows BEAT_IN. -/
def beatInEdge (t : Nat) (b : BeatSt) : BeatSt :=
  match b.refTime with
  | none => { b with refTime := some t, qualified := true }
  | some r =>
    if b.qualified = false ∧ r < t ∧ t ≤ r + t16Us then
      { b with refTime := some t, qualified := true, misses := 0, missSet := false, syncLost := b.syncLost && !b.missSet }
    else if b.nextTick = none ∧ r + b.cur.period16 ≤ t + t16Us ∧ t ≤ r + b.cur.period16 then
      { b with nextTick := some t, refTime := some t, qualified := true, misses := 0, missSet := false }
    else b
/-- No qualified edge by T: the module ticks at T, and four misses in a row set SYNC_LOST. -/
def beatInTimeout (b : BeatSt) : BeatSt :=
  match b.refTime with
  | some r =>
    if b.nextTick = none then
      let lost := decide (3 ≤ b.misses)
      { b with
        nextTick := some (r + b.cur.period16), refTime := some (r + b.cur.period16), qualified := false, misses := b.misses + 1,
        missSet := lost && !b.syncLost, syncLost := b.syncLost || lost }
    else b
  | none => b
/-- The master of a chain follows BEAT_IN. -/
def State.onBeatIn (s : State) : Bool := s.beat.enable && s.beat.master && s.beat.src == 1
/-- BEAT_IN_EDGE. -/
def execBeatInEdge (t : Nat) (s : State) : Host.Outcome State Fault Refusal :=
  .next (if s.onBeatIn then s.onBeat (beatInEdge t) else s)
/-- BEAT_IN_TIMEOUT. -/
def execBeatInTimeout (s : State) : Host.Outcome State Fault Refusal :=
  .next (if s.onBeatIn then s.onBeat beatInTimeout else s)
/-- BEAT_ENABLE: the write that sets ENABLE, by a domain at a time. -/
def execBeatEnable (dom : Nat) (t : Nat) (s : State) : Host.Outcome State Fault Refusal :=
  .next (sysWrite dom 0x10000 (fun s => s.onBeat (enableAt t)) s)

/-! ## Markers (R76, R77, R413, R414) -/

/-- The links that are up. -/
def State.upLinks (s : State) : List Nat := (List.range 24).filter (fun l => (s.link l).up)
/-- The bytes of a MARKER body (table *Marker body*). -/
def markerBody (mk : Marker) : List Byte :=
  natLe 8 mk.beat.toNat ++ natLe 8 mk.tickTime.toNat ++ natLe 8 mk.sendTime.toNat ++ natLe 2 mk.master.toNat ++ natLe 1 mk.hops ++ zeros 5
/-- Markers sent on some links, one copy for each: frames of the first rank of each egress (R385). -/
def sendCopies (links : List Nat) (mk : Nat → Marker) (s : State) : State :=
  links.foldl (fun (s : State) (l : Nat) =>
    queueFrame l 1 (mkFrame 9 false false 0 (s.link l).peerId.toNat 0xFFFF (markerBody (mk l))) s)
    (s.onBeat (fun b => { b with markersOut := links.map (fun l => (l, mk l)) }))
/-- A marker sent on some links. -/
def sendMarkers (links : List Nat) (mk : Marker) (s : State) : State := sendCopies links (fun _ => mk) s
/-- MARKER_SEND: the master's marker of the next beat on every link that is up, 50 µs before its tick. -/
def execMarkerSend (t : Nat) (s : State) : Host.Outcome State Fault Refusal :=
  .next (if !s.beating || !s.beat.enable || !s.beat.master then s
    else match s.beat.dueAt with
      | none => s
      | some d =>
        let mk : Marker := {
          beat := BitVec.ofNat 64 (s.beat.numberAt d), tickTime := BitVec.ofNat 64 d, sendTime := BitVec.ofNat 64 t,
          master := s.links.moduleId, hops := 0, rsvd := 0 }
        sendMarkers s.upLinks mk s)
/-- The link leads toward the chain's master (R76, R479). -/
def State.towardMaster (s : State) (l : Nat) : Bool := ((kget s.links.routes s.beat.chainMaster).getD 0).getLsbD l
/-- A marker that a follower takes as valid. -/
def State.markerOk (s : State) (l : Nat) (mk : Marker) : Bool :=
  (s.link l).up && s.towardMaster l && decide (mk.hops ≤ 24) && decide (mk.master.toNat = s.beat.chainMaster) &&
    (!s.beat.ticked || decide (s.beat.number.toNat < mk.beat.toNat))
/-- The own frequency disciplined against markers: local time for the master's time, between the ticks that the last two markers announce
(R77; DESIGN CHOICE, log entry 147). -/
def learnRate (tick local_ : Nat) (b : BeatSt) : BeatSt :=
  { b with
    lastMark := some (tick, local_),
    rate := match b.lastMark with
      | some p => if p.1 < tick ∧ p.2 < local_ then (local_ - p.2, tick - p.1) else b.rate
      | none => b.rate }
/-- The marker's tick in local time with its offset o, the frequency learnt from it, and the copies relayed: SEND_TIME of each is its own
departure time minus o (R414). How long after its arrival a copy departs is open: `Config.markerLag`. -/
def markerTake (l : Nat) (mk : Marker) (t : Nat) (s : State) : State :=
  let o : Int := (t : Int) - ((mk.sendTime.toNat : Int) + (s.link l).oneWay.toNat)
  let tick := ((mk.tickTime.toNat : Int) + o).toNat
  let out := fun (k : Nat) => { mk with
    sendTime := BitVec.ofNat 64 (((t + Config.markerLag mk.beat.toNat k : Nat) : Int) - o).toNat, hops := mk.hops + 1 }
  sendCopies (s.upLinks.filter (fun k => decide (k ≠ l))) out (s.onBeat (fun b => learnRate mk.tickTime.toNat tick { b with
    nextTick := some tick, nextNumber := some mk.beat.toNat, markerSeen := true, holdover := false, holdBeats := 0 }))
/-- The marker that a body of the table *Marker body* holds (R413). -/
def markerOf (b : List Byte) : Marker :=
  { beat := BitVec.ofNat 64 (fld b 0 8), tickTime := BitVec.ofNat 64 (fld b 8 8), sendTime := BitVec.ofNat 64 (fld b 0x10 8),
    master := BitVec.ofNat 12 (fld b 0x18 2), hops := fld b 0x1A 1, rsvd := fld b 0x1B 5 }
/-- The first valid marker of a beat at a follower, on a link, at a local time; every other has no effect. -/
def markerGot (l t : Nat) (mk : Marker) (s : State) : State :=
  if !s.beating || !s.beat.enable || s.beat.master || s.beat.markerSeen || !s.markerOk l mk then s else markerTake l mk t s
/-- MARKER_RECEIVE: a frame of the control space on a link at a local time. -/
def execMarkerReceive (l : Nat) (r : RxFrame) (t : Nat) (s : State) : Host.Outcome State Fault Refusal :=
  .next (ctlIn l r 9 0 (fun b s => markerGot l t (markerOf b) s) s)
/-- A beat without a marker: holdover, and SYNC_LOST once HOLD_MAX of them have followed each other (R77): at the MARKER_MISSING of
the last of them, before that beat's tick. A tick of holdover falls one period after the last tick, at the frequency learnt from past
markers (DESIGN CHOICE, log entry 147). -/
def holdOver (b : BeatSt) : BeatSt :=
  let n := b.holdBeats + 1
  let lost := decide (b.holdMax.toNat ≤ n)
  { b with
    holdover := true, holdBeats := n, nextTick := some (b.tickTime + b.cur.period16 * b.rate.1 / b.rate.2), nextNumber := none,
    syncLost := b.syncLost || lost, locked := b.locked && !lost }
/-- MARKER_MISSING: no valid marker has come for the next beat. A follower that has never ticked waits for its first. -/
def execMarkerMissing (s : State) : Host.Outcome State Fault Refusal :=
  .next (if !s.beating || !s.beat.enable || s.beat.master || s.beat.markerSeen || !s.beat.ticked || s.beat.nextTick.isSome then s
    else s.onBeat holdOver)

end Sys2Proof.Machine
end

