-- ==== Sys2Proof/Machine/ModelCalc.lean ====
section
/-! DEFINITION. The checks of a model package (R95 to R107, R125, R141, R182, R191, R236, R263, R271, R313, R485) and of a
table-set image (R189, R190). -/

namespace Sys2Proof.Machine

/-- The first failure of some checks. -/
def firstSome (l : List (Option Half)) : Option Half := l.findSome? id
/-- One check as a failure. -/
def need (ok : Bool) (st : Half) : Option Half := if ok then none else some st

/-! ## Code tensors (R95 to R104) -/

/-- The first pass of R101 over a stripe region. -/
def regionFail (r : List Byte) : Option Half :=
  let scaleEnd := fld r 0x18 4 + 4 * tnScales (tnForm r) (fld r 0x10 4)
  firstFail [
    (decide (64 ≤ r.length), stBadLength),
    (decide ((crc32c (r.take 60)).toNat = fld r 0x3C 4), stIntegrityFail),
    (decide (fld r 0x1C 4 + fld r 0x20 8 ≤ r.length), stBadLength),
    (decide ((crc32c (cut r (fld r 0x14 4) (scaleEnd - fld r 0x14 4))).toNat = fld r 0x28 4), stIntegrityFail)]
/-- The fields of a stripe's header in header order (R97, R100); `i` is the stripe's place. -/
def stripeFail (i : Nat) (r : List Byte) : Option Half :=
  let form := tnForm r
  let n := fld r 4 4
  let k := fld r 8 4
  let c := fld r 0x10 4
  firstFail [
    (decide (fld r 0 2 = 1), stBadFormat),
    (decide (1 ≤ form ∧ form ≤ 4), stBadFormat),
    (decide (fld r 3 1 ≤ 1), stBadFormat),
    (decide (1 ≤ n ∧ n ≤ 65536), stBadLength),
    (decide (1 ≤ k ∧ k ≤ 65536), stBadLength),
    (decide (fld r 0xC 2 = if tnStriped r then i else 0), stBadFormat),
    (allZero r 0xE 2, stBadFormat),
    (decide (c = tnCols (tnStriped r) (tnNb form n)), stBadFormat),
    (decide (fld r 0x14 4 = 0x40), stBadFormat),
    (decide (fld r 0x18 4 = tnScaleOff form k), stBadFormat),
    (decide (fld r 0x1C 4 = tnCodeOff form k c), stBadFormat),
    (decide (fld r 0x20 8 = tnCodeBytes k c), stBadFormat),
    (decide (tnCodeBytes k c ≤ 2 ^ 32), stBadLength),
    (allZero r 0x2C 16, stBadFormat)]
/-- The output that scale `j` of a stripe belongs to (R102). -/
def scaleOut (form c i j : Nat) : Nat := if form = 1 then 2 * c * i + j else if form = 2 then c * i + j % c else c * i + j
/-- The contents of a stripe: finite entries and scales, and padding (R95, R102, R104). -/
def stripeDataOk (i : Nat) (r : List Byte) : Bool :=
  let form := tnForm r
  let n := fld r 4 4
  let k := fld r 8 4
  let c := fld r 0x10 4
  let sl := tnSlices k
  let nb := tnNb form n
  let entries := halvesOf (cut r 0x40 (8 * sl * tnRecord form))
  let scales := wordsOf (cut r (tnScaleOff form k) (4 * tnScales form c))
  let perGroup := tnRecord form / 2
  entries.all (fun e => fvFinite (decB16 e)) &&
  (entries.drop (cdiv k 64 * perGroup)).all (fun e => fvIsZero (decB16 e)) &&
  scales.zipIdx.all (fun p => fvFinite (dec32 p.1) && (decide (scaleOut form c i p.2 < n) || decide (p.1 = 0))) &&
  (cut r (tnCodeOff form k c) (tnCodeBytes k c)).zipIdx.all (fun p =>
    let q := p.2
    decide (p.1 = 0) ||
      (decide (i * c + 64 * (q / (sl * 32768)) + q / 512 % 64 < nb) && decide (512 * (q / 32768 % sl) + q % 512 < k)))
/-- The fields of R101 on which the stripes of a tensor agree. -/
def stripeKey (r : List Byte) : List Nat := [fld r 0 2, fld r 2 1, fld r 3 1, fld r 4 4, fld r 8 4, fld r 0x10 4]
/-- The checks of one tensor after the first pass of R101. -/
def tensorFail (t : List (List Byte)) : Option Half :=
  let first := t.getD 0 []
  firstSome (t.zipIdx.map (fun p => stripeFail p.2 p.1) ++
    [need (decide (t.length = if tnStriped first then 16 else 1)) stBadLength,
     need (t.all (fun r => stripeKey r == stripeKey first)) stBadFormat] ++
    t.zipIdx.map (fun p => need (stripeDataOk p.2 p.1) stBadFormat))

/-! ## Vector Engine programs (R163, R182) -/

/-- Open loops at each instruction of a program, by the place of their LOOP, innermost first. -/
def loopNest : List Dword → Nat → List Nat → List (List Nat)
  | [], _, _ => []
  | w :: r, i, st => st :: loopNest r (i + 1) (if veOp w = 0xF0 then i :: st else if veOp w = 0xF1 then st.tail else st)
/-- Every ENDL has its LOOP, and every LOOP its ENDL. -/
def loopsMatch : List Dword → Nat → Bool
  | [], d => decide (d = 0)
  | w :: r, d => if veOp w = 0xF0 then loopsMatch r (d + 1) else if veOp w = 0xF1 then decide (d ≠ 0) && loopsMatch r (d - 1) else loopsMatch r d
/-- The last END of a program. -/
def lastEnd (p : List Dword) : Option Nat := ((List.range p.length).filter (fun i => veOp (p.getD i 0) == 0xFF)).getLast?
/-- The checks of R182 on one program: END stands last, for instructions after the last END can run past the program. A skip over a whole
loop crosses no boundary (DESIGN CHOICE, log entry 185). -/
def veProgOk (p : List Dword) : Bool :=
  let nest := loopNest p 0 []
  p.all (fun w => veWordOk (veOp w) (veFields w)) && loopsMatch p 0 && nest.all (fun l => decide (l.length ≤ 4)) &&
  (match lastEnd p with
   | none => false
   | some e =>
     decide (e ≤ 8191) && decide (e + 1 = p.length) && (nest.getD e []).isEmpty &&
     p.zipIdx.all (fun q =>
       let t := q.2 + 1 + bitsOf (veFields q.1).imm.toNat 0 8
       !(veOp q.1 == 0xF2 || veOp q.1 == 0xF3) || (decide (t ≤ e) && nest.getD t [] == nest.getD q.2 [])))
/-- What an instruction reads, as (0 vector, 1 mask, 2 scalar; number). A register of which it keeps a part is not read (DEDUCED, log entry
79). -/
def veReads (op : Nat) (f : VEWord) : List (Nat × Nat) :=
  let imm := f.imm.toNat
  let sb := imm.testBit 28 && decide (op ≤ 0x45)
  let a := f.va.toNat
  let b := f.vb.toNat
  let own : List (Nat × Nat) :=
    if op = 0x50 ∨ op = 0x51 ∨ op = 0x52 then [(1, a % 8), (1, b % 8)]
    else if op = 0x53 then [(1, a % 8)]
    else if op = 0x60 then [(2, bitsOf imm 23 4)]
    else if op = 0x61 then [(2, bitsOf imm 23 4), (0, f.vd.toNat)]
    else if op = 0x81 then [(2, a), (2, b)]
    else if op = 0xF2 ∨ op = 0xF3 then [(1, bitsOf imm 8 3)]
    else match veUse op with
      | none => []
      | some u => (if u.va then [(0, a)] else []) ++
          (if u.vb && (decide (op ≠ 0x31) || decide (bitsOf imm 0 4 = 2)) then [(if sb then 2 else 0, b)] else []) ++
          (if u.vc && (decide (op ≠ 0x25) || !imm.testBit 0) then [(0, f.vc.toNat)] else []) ++ (if op = 0x14 then [(1, bitsOf imm 0 3)] else [])
  own ++ (if f.msk = 0 then [] else [(1, f.msk.toNat)])
/-- What an instruction writes, as a mask register or others: M0 discards what is written to it, so no read of it waits. -/
def veWrites (op : Nat) (f : VEWord) : List (Nat × Nat) :=
  let d := f.vd.toNat
  let mask := fun (m : Nat) => if m = 0 then [] else [(1, m)]
  if (0x10 ≤ op ∧ op ≤ 0x13) ∨ (0x50 ≤ op ∧ op ≤ 0x53) then mask (d % 8)
  else if (0x70 ≤ op ∧ op ≤ 0x73) ∨ (0x80 ≤ op ∧ op ≤ 0x82) then [(2, d)]
  else if op = 0x23 then (0, d) :: mask (bitsOf f.imm.toNat 0 3)
  else if op = 0x61 then []
  else match veUse op with
    | some u => if u.vd then [(0, d)] else []
    | none => []
/-- The place after the body of the LOOP before `pc` in a program. -/
def progAfter (p : List Dword) : Nat → Nat → Nat → Nat
  | 0, pc, _ => pc
  | n + 1, pc, d =>
    let op := veOp (p.getD pc 0)
    if op = 0xF1 then (if d = 0 then pc + 1 else progAfter p n (pc + 1) (d - 1))
    else progAfter p n (pc + 1) (if op = 0xF0 then d + 1 else d)
/-- Cluster cycles of a program from `pc` to END with no skip taken (R163, R182), at most `n` instructions. -/
def veCycles (p : List Dword) : Nat → Nat → Nat → List ((Nat × Nat) × Nat) → List (Nat × Nat) → Nat
  | 0, _, t, _, _ => t
  | n + 1, pc, t, ready, loops =>
    let w := p.getD pc 0
    let op := veOp w
    let f := veFields w
    let u := (veUse op).getD ⟨[], false, false, false, false, 0, false, 1, 0⟩
    let at_ := (veReads op f).foldl (fun m r => max m ((kget ready r).getD 0)) t
    let ready' := (veWrites op f).foldl (fun l r => kset l r (at_ + u.lat)) ready
    let t' := at_ + u.issue
    if op = 0xFF ∨ p.length ≤ pc then t'
    else if op = 0xF0 then
      let k := bitsOf f.imm.toNat 0 13
      if k = 0 then veCycles p n (progAfter p p.length (pc + 1) 0) t' ready' loops
      else veCycles p n (pc + 1) t' ready' ((pc + 1, k) :: loops)
    else if op = 0xF1 then
      match loops with
      | [] => veCycles p n (pc + 1) t' ready' []
      | (q, k) :: r => if k ≤ 1 then veCycles p n (pc + 1) t' ready' r else veCycles p n q t' ready' ((q, k - 1) :: r)
    else veCycles p n (pc + 1) t' ready' loops
/-- All programs of a package, one after another: ENTRY counts from the first instruction. -/
def pkgProgram (k : Package) : List Dword := k.vePrograms.flatten

/-! ## Command words of templates -/

/-- Every command of every template. -/
def pkgCmds (k : Package) : List TCmd := k.templates.flatMap (·.cmds) ++ k.prefillChain ++ k.loadChain
/-- A command on a cluster with an opcode. -/
def cmdIsCl (t : TCmd) (op : Nat) : Bool := match t.engine with | .cluster _ => decide (fld t.word 0 1 = op) | _ => false
/-- The header of the tensor that a command runs. -/
def pkgTensorHdr (k : Package) (t : TCmd) : Option (List Byte) := t.tensor.map (fun x => ((k.tensors.getD x []).getD 0 []).take 64)
/-- A form that an array runs, and in the mode it names (R96, R125). -/
def modeOk (k : Package) (t : TCmd) : Bool :=
  match pkgTensorHdr k t with
  | some h => !cmdIsCl t 1 || decide (tnForm h = arrMode t.word + 1 ∧ tnForm h ≠ 4)
  | none => true
/-- The last check of R141. -/
def sliceOk (k : Package) (t : TCmd) : Bool :=
  match pkgTensorHdr k t with
  | some h => decide (arrSlices t.word ≤ tnSlices (fld h 8 4)) && decide (512 * (arrSlices t.word - 1) + arrKLast t.word ≤ fld h 8 4)
  | none => true
/-- The checks of R125 and R141 on an array command. DESIGN CHOICE (log entry 144): the check of SLICES and K_LAST against the
bound tensor stands after the word's own checks; a cluster command of no known opcode is malformed. -/
def arrCmdFail (k : Package) (t : TCmd) : Option Half :=
  match t.engine with
  | .cluster _ =>
    if fld t.word 0 1 = 1 then firstSome [need (modeOk k t) stBadFormat, arrWordFail t.word, need (sliceOk k t) stBadFormat]
    else need (decide (fld t.word 0 1 = 2 ∨ fld t.word 0 1 = 3)) stBadFormat
  | _ => none
/-- The checks of R182 on a VE command. -/
def veTemplFail (k : Package) (t : TCmd) : Option Half :=
  if cmdIsCl t 2 then firstSome [veCmdFail (min 8192 (pkgProgram k).length) t.word,
    need (decide (veCycles (pkgProgram k) 108001 (fld t.word 4 2) 0 [] [] ≤ fld t.word 0x18 4)) stBadFormat]
  else none
/-- The checks of R191 on one instruction, against a set. -/
def sfnOk (img : List Byte) (w : Dword) : Bool :=
  let f := veFields w
  let fn := bitsOf f.imm.toNat 0 5
  if veOp w = 0x7C then (if fn < 2 then !tsCompat img else decide (16 ≤ fn) && tsHas img (fn - 16))
  else if veOp w = 0x78 then !(rugoPass f).stats.getLsbD 3 || decide (tsExpSlot img ≠ 0xFF)
  else true
/-- The checks of R236 on a Scan command. -/
def scanTemplFail (k : Package) (img : List Byte) (t : TCmd) : Option Half :=
  if cmdIsCl t 3 then firstSome [scanWordFail (k.recurrent.any (fun g => decide (g.heads = scHeads t.word ∧ g.dk16 = fld t.word 8 1 ∧
      g.dv16 = fld t.word 9 1 ∧ fld t.word 6 2 < g.layers) && g.decayVec == scVec t.word)) t.word,
    need (decide (tsExpSlot img ≠ 0xFF)) stBadFormat]
  else none
/-- The stacks of a mask, ascending. -/
def maskStks (m : Nat) : List Nat := (List.range 16).filter m.testBit
/-- A header that no stack holds: with a VERSION of 0. -/
def foreignHdr (h : List Byte) : List Byte := putBytes h 0 (zeros 2)
/-- The header of the stripe of a command's tensor that a stack holds under a template's units (R98, R99); one that no stack holds where
the stack has no stripe, or where the form is not the one that the template names (R263). -/
def pkgStripeHdr (k : Package) (mask : Nat) (i : Nat) (t : TCmd) : Option (List Byte) :=
  t.tensor.map (fun x =>
    let tn := k.tensors.getD x []
    let stks := maskStks mask
    let h := if tnStriped (tn.getD 0 []) then
        (match stks.idxOf? i with
         | some j => ((layoutStripes tn x stks.length).getD j []).take 64
         | none => foreignHdr (((layoutStripes tn x stks.length).getD 0 []).take 64))
      else (tn.getD 0 []).take 64
    if tnForm h = t.form then h else foreignHdr h)
/-- The checks of R263 on an NMU command. -/
def nmuTemplFail (k : Package) (fp8 : Bool) (mask : Nat) (t : TCmd) : Option Half :=
  match t.engine with
  | .gemv i => firstSome [gemvFail i t.word (pkgStripeHdr k mask i t), need (gvEmpty t.word || t.tensor.isSome) stBadFormat]
  | .att _ => if fld t.word 0 1 = 0x13 ∨ fld t.word 0 1 = 0x14 then kvFail t.word else attFail t.word fp8
  | _ => none
/-- The checks of R263 on a merge descriptor of a template, in offset order. MODULES of a descriptor that is no root's, and OUT_ADDR of a
leaf's, are 0 (R255). -/
def mergeFail (t : Template) (d0 : List Byte) : Option Half :=
  let d := fit 32 d0
  let level := fld d 6 1
  let mine := t.cmds.filter (fun c => match c.engine with
    | .att _ => decide ((fld c.word 0 1 = 0x11 ∨ fld c.word 0 1 = 0x12) ∧ atMerge c.word = fld d 0 2)
    | _ => false)
  firstFail [
    (decide (fld d 0 2 ≤ 1023), stBadLength),
    (decide (1 ≤ fld d 2 1 ∧ fld d 2 1 ≤ 64) && mine.all (fun c => decide (atRows c.word = 0 ∨ atRows c.word = fld d 2 1)), stBadLength),
    (decide (fld d 3 1 = 1 ∨ fld d 3 1 = 2 ∨ fld d 3 1 = 4), stBadFormat),
    (decide (fld d 4 2 ≠ 0), stBadLength),
    (decide (level < 3), stBadFormat),
    (decide (level ≠ 1) || decide (2 ≤ fld d 7 1 ∧ fld d 7 1 ≤ 16), stBadLength),
    (decide (level = 1) || decide (fld d 7 1 = 0), stBadFormat),
    (decide (fld d 8 2 < 4096), stBadFormat),
    (decide (fld d 0xA 1 < 2), stBadFormat),
    (allZero d 0xC 4, stBadFormat),
    (decide (level ≠ 2) || decide (fld d 0x10 8 = 0), stBadFormat)]
/-- The checks of R313 on a yarder command. -/
def yardTemplFail (t : TCmd) : Option Half := match t.engine with | .yarder y => yardWordFail y t.word | _ => none

/-! ## The package (R485) -/

/-- The header of a package, without what R101 checks first. -/
def pkgHeadFail (refLen : Nat) (h : List Byte) : Option Half :=
  let n := fld h 2 2
  firstFail ([
    (decide (64 ≤ h.length), stBadLength),
    (decide ((crc32c (h.take 60)).toNat = fld h 0x3C 4), stIntegrityFail),
    (decide (fld h 0 2 = 1), stBadFormat),
    (decide (1 ≤ n ∧ n ≤ 64), stBadLength),
    (decide (fld h 8 8 = refLen), stBadLength),
    (allZero h 0x10 44, stBadFormat)] ++
    (List.range n).map (fun i => (decide (1 ≤ fld h (0x40 + 16 * i) 2 ∧ fld h (0x40 + 16 * i) 2 ≤ 6) && allZero h (0x42 + 16 * i) 2,
      stBadFormat)))
/-- The limits of R271, and those of R241 on heads and head width. -/
def geomOk (g : AttGeom) : Bool :=
  decide (1 ≤ g.layers ∧ g.layers ≤ 64) && decide (g.layerStep ≤ 15) && decide (1 ≤ g.heads ∧ g.heads ≤ 16) &&
    decide (g.d = 64 ∨ g.d = 128 ∨ g.d = 256) && decide (1 ≤ g.heads * g.d ∧ g.heads * g.d < 2048) && decide (frameSize g ≤ 524288)
/-- Every check of a package after the first pass of R101, in section order. -/
def pkgFail (refLen : Nat) (fp8 : Bool) (img : List Byte) (k : Package) : Option Half :=
  firstSome ([pkgHeadFail refLen k.header] ++ k.tensors.map tensorFail ++ (pkgCmds k).map (arrCmdFail k) ++
    k.vePrograms.map (fun p => need (veProgOk p) stBadFormat) ++
    (pkgCmds k).map (veTemplFail k) ++
    k.vePrograms.map (fun p => need (p.all (sfnOk img)) stBadFormat) ++
    (pkgCmds k).map (scanTemplFail k img) ++
    k.templates.flatMap (fun t => t.cmds.map (nmuTemplFail k fp8 t.nmuMask) ++ t.merges.map (mergeFail t)) ++
    (pkgCmds k).map yardTemplFail ++
    [need ((pkgCmds k).all (fun t => decide (t.wcet ≤ 40 * tuUs))) stBadFormat,
     firstSome ((pkgCmds k).map (fun t => match t.row with
       | some r => need (decide (1 ≤ r.channels ∧ r.channels ≤ 16384) && (match k.linkTables[r.table]? with
         | some l => decide (r.channels ≤ l.length)
         | none => false)) stBadLength
       | none => none)),
     need (k.linkTables.all (fun t => t.all (fun e => fvFinite (dec32 e.1) && fvLt fvZero (dec32 e.1)))) stBadFormat,
     need (match k.attention with | some g => geomOk g | none => true) stBadLength])
/-- The slots that a package's programs name. -/
def pkgSlots (k : Package) : List Nat :=
  ((pkgProgram k).filter (fun w => veOp w == 0x7C && decide (16 ≤ bitsOf (veFields w).imm.toNat 0 5))).map
    (fun w => bitsOf (veFields w).imm.toNat 0 5 - 16)
/-- A package needs EXP_SLOT: a soft-maximum pass or a Scan command. -/
def pkgNeedsExp (k : Package) : Bool :=
  (pkgCmds k).any (fun t => cmdIsCl t 3) || (pkgProgram k).any (fun w => veOp w == 0x78 && (rugoPass (veFields w)).stats.getLsbD 3)

/-! ## Table-set images (R189, R190) -/

/-- A finite FP32 word. -/
def finW (img : List Byte) (off : Nat) : Bool := fvFinite (dec32 (BitVec.ofNat 32 (fld img off 4)))
/-- A positive normal power of two: its exponent, if a word is one. -/
def pow2Of (w : Nat) : Option Int := if w % 2 ^ 23 = 0 ∧ 1 ≤ w / 2 ^ 23 ∧ w / 2 ^ 23 ≤ 254 then some ((w / 2 ^ 23 : Nat) - 127) else none
/-- The descriptor of a present slot (table *Table descriptor*). -/
def tableOkAt (compat : Bool) (img : List Byte) (d : Nat) : Bool :=
  let mode := fld img d 1
  let sym := fld img (d + 1) 1
  let shift := sInt 8 (fld img (d + 2) 1)
  let out := fld img (d + 3) 1
  let xlo := fld img (d + 4) 4
  let nan := fun (off : Nat) => match dec32 (BitVec.ofNat 32 (fld img (d + off) 4)) with | .nan => true | _ => false
  let ymin := dec32 (BitVec.ofNat 32 (fld img (d + 0x10) 4))
  let ymax := dec32 (BitVec.ofNat 32 (fld img (d + 0x14) 4))
  let seg : Int := if compat then 128 else 256
  decide (mode ≤ if compat then 1 else 5) && decide (sym ≤ 2) &&
  (decide (sym = 0) || decide (mode ≤ 1) || (decide (mode = 5) && decide (sym = 1))) &&
  (match mode with
   | 0 => decide (-32 ≤ shift ∧ shift ≤ 31) && finW img (d + 4)
   | 1 => decide (0 ≤ shift ∧ shift ≤ if compat then 7 else 8) &&
       (match pow2Of xlo with | some e => decide (e * 2 ^ shift.toNat + seg ≤ 127 * 2 ^ shift.toNat) | none => false)
   | _ => decide (shift = 0) && decide (xlo = 0)) &&
  decide (out < 4) && (decide (mode ≤ 1) || decide (out = 0)) &&
  !nan 0x10 && !nan 0x14 && !fvLt ymax ymin &&
  ((decide (mode = 1) || decide (3 ≤ mode)) || decide (fld img (d + 0x18) 4 = 0)) &&
  ((decide (mode = 2) || decide (mode = 3)) || decide (fld img (d + 0x1C) 8 = 0)) &&
  allZero img (d + 0x28) 8
/-- Slot `i` of an image: its descriptor, then its region. -/
def slotOk (compat : Bool) (img : List Byte) (i : Nat) : Bool :=
  let d := 0x40 + 48 * i
  let reg := 0x400 + 0x1000 * i
  if tsHas img i then
    tableOkAt compat img d && (List.range (if compat then 256 else 1024)).all (fun j => finW img (reg + 4 * j)) &&
      (!compat || allZero img (reg + 0x400) 0xC00)
  else allZero img d 48 && allZero img reg 0x1000
/-- The checks of R190 on an image. -/
def tsetFail (img : List Byte) : Option Half :=
  firstFail [
    (decide ((crc32c (img.take 0x3C)).toNat = fld img 0x3C 4), stIntegrityFail),
    (decide ((crc32c (cut img 0x40 0x103C0)).toNat = fld img 0x38 4), stIntegrityFail),
    (decide (fld img 0 2 = 1), stBadFormat),
    (decide (1 ≤ fld img 2 1 ∧ fld img 2 1 ≤ 2), stBadFormat),
    (decide (fld img 3 1 = 0xFF) || (decide (fld img 3 1 ≤ 15) && tsHas img (fld img 3 1)), stBadFormat),
    (allZero img 6 2, stBadFormat),
    (decide (fld img 8 4 ≠ 0), stBadLength),
    (decide (fld img 8 4 = 0x10400), stBadFormat),
    (allZero img 0xC 44, stBadFormat),
    ((List.range 16).all (slotOk (tsCompat img) img), stBadFormat),
    (allZero img 0x340 0xC0, stBadFormat)]

end Sys2Proof.Machine
end

