-- ==== Sys2Proof/Machine/ModelExec.lean ====
section
/-! DEFINITION. Models and table sets (R181, R189 to R198, R294, R485, R486): loads, unloads, table-set changes. -/

namespace Sys2Proof.Machine

/-! ## Table sets -/

/-- Table set `i`. -/
def State.tset (s : State) (i : Nat) : Option Tset := s.ctrl.tsets.find? (·.idx == i)
/-- The image of a set; nothing for one that does not exist. -/
def State.tsetImg (s : State) (i : Nat) : List Byte := match s.tset i with | some t => t.image | none => []
/-- A destroy of the set waits (R192). -/
def State.tsetDoomed (s : State) (i : Nat) : Bool := match s.tset i with | some t => t.destroying.isSome | none => false
/-- A model, loaded or in its load, names the set, or will from its next switch on. -/
def State.tsetNamed (s : State) (i : Nat) : Bool :=
  s.ctrl.models.any (fun m => decide (m.tset = i) || (match m.nextTset with | some n => decide (n.1 = i) | none => false))
/-- The set goes: its handle retires. -/
def dropTset (i : Nat) (s : State) : State := ((releaseHeld (BitVec.ofNat 32 (s.handleOf 8 i)) s).retire 8 i).onCtrl (fun k => { k with tsets := k.tsets.filter (fun t => decide (t.idx ≠ i)) })
/-- TSET_CREATE: the image stands in a region of the general area (R348). -/
def tsetCreate (m : Msg) (s : State) : State × Reply :=
  let n := m.refLen
  let rc := s.refChecks m n false
  let sized := decide (n = 0x10400)
  let img := if sized && rc.1.all (·.1) && rc.2.all (·.1) then s.refRead m n else []
  checked ([(sized, stBadLength)] ++ rc.1 ++
    [(img.isEmpty || (tsetFail img).isNone, (tsetFail img).getD stOk)] ++ rc.2 ++ [((s.nextIdx 8).isSome, stRefusedBeat),
     ((placeStripe 0 (s.domainOf m.client) none img s).isSome, stRefusedPages)])
    (fun s => match s.nextIdx 8 with
      | none => (s, .done stRefusedBeat [])
      | some i =>
        let s0 := (s.issue 8 i).onCtrl (fun k => { k with tsets := k.tsets ++ [{ idx := i, client := m.client, image := img, destroying := none }] })
        let h := s0.handleOf 8 i
        let s1 := match placeStripe (BitVec.ofNat 32 h) (s.domainOf m.client) none img s0 with | some q => q.2 | none => s0
        (s1, .done stOk (natLe 4 h))) s
/-- TSET_CREATE. -/
def execTsetCreate (m : Msg) (s : State) : Host.Outcome State Fault Refusal :=
  .next (withMsg 0x0311 (some 0) true m (tsetCreate m) s)
/-- TSET_DESTROY. -/
def tsetDestroy (m : Msg) (s : State) : State × Reply :=
  let h := m.f 0 4
  let i := hIdx h
  checked [
    (s.live 8 h, stBadHandle),
    (s.owns m.client 8 h, stRefusedDomain),
    (!s.tsetDoomed i, stRefusedBeat)]
    (fun s =>
      if s.tsetNamed i then
        (s.onCtrl (fun k => { k with tsets := updAll k.tsets (·.idx == i) (fun t => { t with destroying := some (m.client, m.mbox) }) }),
          waitFor m 0x0312 h none 0)
      else (dropTset i s, .done stOk [])) s
/-- TSET_DESTROY. -/
def execTsetDestroy (m : Msg) (s : State) : Host.Outcome State Fault Refusal :=
  .next (withMsg 0x0312 (some 4) false m (tsetDestroy m) s)
/-- TSET_DESTROY_COMPLETE: the last model that named the set is gone (R192). -/
def execTsetDestroyComplete (i : Nat) (s : State) : Host.Outcome State Fault Refusal :=
  .next (match (s.tset i).bind (·.destroying) with
    | none => s
    | some w => if s.tsetNamed i then s else completeOwned w.1 w.2 stOk [] (dropTset i s))

/-! ## Loading a model (R181, R485) -/

/-- Clusters that a package's templates name. -/
def pkgClusters (k : Package) : List Nat :=
  (List.range 8).filter (fun c => k.templates.any (fun t => t.clusterMask.testBit c || t.cmds.any (fun x => x.engine == .cluster c)))
/-- Instructions of the clusters that models hold, as (first, count). -/
def State.veTaken (s : State) (cl : List Nat) : List (Nat × Nat) :=
  (s.ctrl.models.flatMap (·.veBase)).filterMap (fun p => if cl.contains p.1 then some p.2 else none)
/-- The lowest place for `n` instructions that is free in all of some clusters. -/
def State.vePlace (s : State) (cl : List Nat) (n : Nat) : Option Nat :=
  ((freeGaps (sortBy (·.1) (s.veTaken cl)) 0 8192).find? (fun g => decide (n ≤ g.2))).map (·.1)
/-- Local skid queue indices that the yarder commands of a list name. -/
def queueIdxs (l : List TCmd) : List Nat :=
  l.flatMap (fun t => match t.engine with
    | .yarder _ => [fld (fit 64 t.word) 0x20 2, fld (fit 64 t.word) 0x22 2].filter (fun q => decide (q ≠ 0xFFFF))
    | _ => [])
/-- Queue numbers for a package's local indices, of the queues that no model holds. -/
def State.queuePlace (s : State) (k : Package) : List (Nat × Nat) :=
  assignNums 256 (queueIdxs (k.templates.flatMap (·.cmds) ++ k.prefillChain ++ k.loadChain)).eraseDups
    (s.ctrl.models.flatMap (fun m => m.queues.map (·.2)))
/-- The index under which a model stands during its load: past the indices that handles name. -/
def State.loadIdx (s : State) : Nat :=
  ((List.range 65280).map (256 + ·)).find? (fun i => !s.ctrl.models.any (·.idx == i)) |>.getD 65535
/-- MODEL_LOAD. -/
def modelLoad (m : Msg) (pkg : Package) (s : State) : State × Reply :=
  let h := m.f 0 4
  let n := m.refLen
  let img := s.tsetImg (hIdx h)
  let cl := pkgClusters pkg
  let place := s.vePlace cl (pkgProgram pkg).length
  let queues := s.queuePlace pkg
  let first := firstSome (pkg.tensors.flatMap (fun t => t.map regionFail))
  let rest := pkgFail n (m.f 4 4 == 1) img pkg
  checked [
    (s.live 8 h, stBadHandle),
    (decide (n ≠ 0), stBadLength),
    (decide (m.refSpace = 0), stBadFormat),
    (first.isNone, first.getD stOk),
    (decide (m.f 4 4 ≤ 1), stBadFormat),
    (rest.isNone, rest.getD stOk),
    (s.owns m.client 8 h, stRefusedDomain),
    (s.rangePasses (s.domainOf m.client) false m.refAddr.toNat n, stRefusedDomain),
    (!s.tsetDoomed (hIdx h) && (s.nextIdx 4).isSome && place.isSome && queues.all (fun q => decide (q.2 < 256)) && s.chainFits pkg.loadChain, stRefusedBeat)]
    (fun s =>
      let i := s.loadIdx
      let rnd := s.rand 16
      let model : Model := {
        idx := i, client := m.client, dom := s.domainOf m.client, loaded := false, unloading := none, tset := hIdx h, nextTset := none,
        kvFp8 := m.f 4 4 == 1, vocab := fld pkg.header 4 4, pkg := pkg, stripes := [],
        veBase := cl.map (fun c => (c, place.getD 0, (pkgProgram pkg).length)), suspended := none,
        keyM := BitVec.ofNat 128 (leNat rnd.1), queues := queues, rotaryAt := [] }
      (addWork { kind := .modelLoad, client := m.client, mbox := m.mbox, obj := i, arg := 0, model := i, beat := s.now, taken := false }
        (rnd.2.onCtrl (fun k => { k with models := k.models ++ [model] })), waitFor m 0x0301 0 none 0)) s
/-- MODEL_LOAD. -/
def execModelLoad (m : Msg) (pkg : Package) (s : State) : Host.Outcome State Fault Refusal :=
  .next (withMsg 0x0301 (some 8) true m (modelLoad m pkg) s)
/-- A VE command of a template with its ENTRY moved to where the programs lie; a yarder command with the numbers of its queues. -/
def rebase (base : Nat) (queues : List (Nat × Nat)) (t : TCmd) : TCmd :=
  match t.engine with
  | .yarder _ => { t with word := [0x20, 0x22].foldl (putIndex queues) (fit 64 t.word) }
  | _ => if cmdIsCl t 2 then { t with word := t.word.take 4 ++ natLe 2 (fld t.word 4 2 + base) ++ t.word.drop 6 } else t
/-- A package whose programs lie from an instruction on, with the numbers of its queues. -/
def rebasePkg (base : Nat) (queues : List (Nat × Nat)) (k : Package) : Package :=
  { k with
    templates := k.templates.map (fun t => { t with cmds := t.cmds.map (rebase base queues) }), prefillChain := k.prefillChain.map (rebase base queues),
    loadChain := k.loadChain.map (rebase base queues) }
/-- The programs of a model written into the clusters. -/
def writePrograms (m : Model) (s : State) : State :=
  m.veBase.foldl (fun (s : State) (p : Nat × Nat × Nat) => s.onCluster p.1 (fun c => { c with
    ve := { c.ve with
      imem := c.ve.imem.filter (fun e => decide (e.1 < p.2.1 ∨ p.2.1 + p.2.2 ≤ e.1)) ++
        (pkgProgram m.pkg).zipIdx.map (fun e => (p.2.1 + e.2, e.1)) } })) s
/-- The rotary record of a model in a region of every stack it may use; with the regions' addresses. -/
def placeRotary (owner : Word) (dom : Nat) (stks : List Nat) (k : Package) (s : State) : Option (List Nat × State) :=
  if k.rotary.isEmpty then some ([], s)
  else stks.eraseDups.foldl (fun (acc : Option (List Nat × State)) (i : Nat) =>
    acc.bind (fun q => (placeStripe owner dom (some i) (bytesOfWords k.rotary) q.2).map (fun r => (q.1 ++ [r.1.2.1], r.2)))) (some ([], s))
/-- The EXP table of a model at every NMU (R241). -/
def setExp (model : Nat) (h : Word) (s : State) : State :=
  s.onNmus (fun l => l.map (fun k => { k with expTables := kset k.expTables model h }))
/-- A model that leaves the records while it is still loading. -/
def dropLoad (i : Nat) (s : State) : State := s.onCtrl (fun k => { k with models := k.models.filter (fun m => decide (m.idx ≠ i)) })
/-- A stack that is on its way back waits for one more re-lay: a model laid over the stacks in service alone has come since the last one
(R99). -/
def relayAgain (s : State) : State :=
  if s.units.returns.any (fun r => r.1.kind == .nmu && r.2.2) then
    s.onUnits (fun k => { k with relayDue := true, returns := k.returns.map (fun r => (r.1, r.2.1, r.2.2 && r.1.kind != .nmu)) })
  else s
/-- MODEL_LOAD_COMPLETE, while a plan's part of the load runs: the stripes and the other regions are placed, the model takes its index (R98, R99, R375, R485). -/
def execModelLoadComplete (client mbox : Nat) (s : State) : Host.Outcome State Fault Refusal :=
  .next (match s.plan.bwork.find? (fun b => b.kind == .modelLoad && b.client == client && b.mbox == mbox) with
    | none => s
    | some b =>
      let s0 := dropWork (· == b) s
      if !s.copyRuns (DcpCopy.isFor b.same) then s
      else match s.model b.obj, s.nextIdx 4 with
      | some m, some i =>
        let s1 := (dropLoad b.obj s0).issue 4 i
        let owner := BitVec.ofNat 32 (s1.handleOf 4 i)
        let stks := s.stripeStks m.dom (s.svcList .nmu)
        match (placeModel owner m.dom stks m.pkg s1).bind (fun q => (placeRotary owner m.dom stks m.pkg q.2).map (fun t => (q.1, t.1, t.2))) with
        | none => completeOwned client mbox stRefusedPages [] (dropLoad b.obj s0)
        | some q =>
          let base := match m.veBase with | [] => 0 | p :: _ => p.2.1
          let model : Model := { m with idx := i, loaded := true, stripes := q.1, rotaryAt := q.2.1, pkg := rebasePkg base m.queues m.pkg }
          let s2 := writePrograms model (q.2.2.onCtrl (fun k => { k with models := k.models ++ [model] }))
          let s3 := setExp i (BitVec.ofNat 32 (s.handleOf 8 m.tset)) s2
          reviewModels (completeOwned client mbox stOk (natLe 4 owner.toNat) (relayAgain s3))
      | some _, none => completeOwned client mbox stRefusedBeat [] (dropLoad b.obj s0)
      | none, _ => completeOwned client mbox stBadHandle [] s0)

/-! ## Table-set changes (R198) -/

/-- MODEL_SET_TABLES. -/
def modelSetTables (m : Msg) (s : State) : State × Reply :=
  let h := m.f 0 4
  let t := m.f 4 4
  let fits := match s.model (hIdx h) with
    | some k =>
      let img := s.tsetImg (hIdx t)
      (tsCompat img == tsCompat (s.tsetImg k.tset)) && (pkgSlots k.pkg).all (tsHas img) &&
        (!pkgNeedsExp k.pkg || decide (tsExpSlot img ≠ 0xFF))
    | none => false
  let switching := match s.model (hIdx h) with | some k => k.nextTset.isSome | none => false
  checked [
    (s.live 4 h && s.live 8 t, stBadHandle),
    (fits, stBadFormat),
    (s.owns m.client 4 h && s.owns m.client 8 t, stRefusedDomain),
    (!s.unloading h && !s.tsetDoomed (hIdx t) && !switching, stRefusedBeat)]
    (fun s => (s.onModel (hIdx h) (fun k => { k with nextTset := some (hIdx t, s.now + 2) }), waitFor m 0x0303 h (some (s.now + 2)) 0)) s
/-- MODEL_SET_TABLES. -/
def execModelSetTables (m : Msg) (s : State) : Host.Outcome State Fault Refusal :=
  .next (withMsg 0x0303 (some 8) false m (modelSetTables m) s)
/-- The switches due at a tick. -/
def switchTables (s : State) : State :=
  (s.ctrl.models.filter (fun m => match m.nextTset with | some n => decide (n.2 ≤ s.now) | none => false)).foldl
    (fun (s : State) (m : Model) => match m.nextTset with
      | some n => setExp m.idx (BitVec.ofNat 32 (s.handleOf 8 n.1)) (s.onModel m.idx (fun k => { k with tset := n.1, nextTset := none }))
      | none => s) s

/-! ## Unloading (R486) -/

/-- Something still uses the model. -/
def State.modelBusy (s : State) (i : Nat) : Bool :=
  let h := BitVec.ofNat 32 (s.handleOf 4 i)
  s.ctrl.sessions.any (fun x => decide (x.model = i) || x.encModel == h || x.decModel == h) ||
  s.ctrl.slots.any (fun k => decide (k.model = i)) ||
  (match s.model i with | some m => !m.loaded | none => false) ||
  s.ctrl.objs.any (fun o => decide (o.model = i) && !o.gone && (o.swap.isSome || decide (0 < o.copies)))
/-- MODEL_UNLOAD. -/
def modelUnload (m : Msg) (s : State) : State × Reply :=
  let h := m.f 0 4
  let i := hIdx h
  checked [
    (s.live 4 h, stBadHandle),
    (s.owns m.client 4 h, stRefusedDomain),
    (!s.unloading h && !s.modelBusy i, stRefusedBeat)]
    (fun s =>
      let s1 := s.onModel i (fun k => { k with unloading := some (s.now + 2) })
      (dropWork (fun b => decide (b.model = i) && (b.kind == .reuse || b.kind == .snapshot)) s1, waitFor m 0x0302 h (some (s.now + 2)) 0)) s
/-- MODEL_UNLOAD. -/
def execModelUnload (m : Msg) (s : State) : Host.Outcome State Fault Refusal :=
  .next (withMsg 0x0302 (some 4) false m (modelUnload m) s)
/-- A prefix tree's nodes of a model freed with their snapshots (R300, R486). -/
def dropTree (p : TreeNode → Bool) (s : State) : State :=
  let gone := s.pages.nodes.filter p
  let s1 := s.onPages (fun k => { k with nodes := k.nodes.filter (fun n => !p n) })
  gone.foldl (fun (s : State) (n : TreeNode) =>
    let s2 := match n.snapshot with | some o => dropObj o s | none => s
    unrefSet n.fs (s2.onSet n.fs (fun x => { x with tree := false }))) s1
/-- What a model held is freed, and its handle retires. -/
def finishUnload (i : Nat) (s : State) : State :=
  match s.model i with
  | none => s
  | some m =>
    let s1 := ((s.ctrl.objs.filter (fun o => decide (o.model = i) && !o.gone)).map (·.idx)).foldl
      (fun (s : State) (o : Nat) =>
        match (s.obj o).bind (·.destroying) with
        | some w => completeOwned w.1 w.2 stBadHandle [] (dropObj o s)
        | none => dropObj o s) s
    let s2 := dropTree (fun n => decide (n.model = i)) s1
    let s3 := if m.loaded then releaseHeld (BitVec.ofNat 32 (s.handleOf 4 i)) s2 else s2
    let s4 := m.veBase.foldl (fun (s : State) (p : Nat × Nat × Nat) => s.onCluster p.1 (fun c => { c with
      ve := { c.ve with imem := c.ve.imem.filter (fun e => decide (e.1 < p.2.1 ∨ p.2.1 + p.2.2 ≤ e.1)) } })) s3
    let s5 := s4.onNmus (fun l => l.map (fun k => { k with expTables := kdel k.expTables i }))
    let s6 := s5.onPlan (fun p => { p with suspendedModels := p.suspendedModels.filter (fun j => decide (j ≠ i)) })
    let s7 := m.queues.foldl (fun (s : State) (q : Nat × Nat) => s.onSkid q.2 (fun k => { k with entries := [], late := [], popSeq := k.pushSeq })) (dropLoad i s6)
    if m.loaded then s7.retire 4 i else s7
/-- Unloads due at a tick, and loads whose work has ended without a completion. -/
def unloadTick (s : State) : State :=
  let due := s.ctrl.models.filter (fun m => (match m.unloading with | some b => decide (b ≤ s.now) | none => false) ||
    (!m.loaded && !s.plan.bwork.any (fun b => b.kind == .modelLoad && decide (b.obj = m.idx))))
  (due.map (·.idx)).foldl (fun (s : State) (i : Nat) => finishUnload i s) s

end Sys2Proof.Machine
end

