-- ==== Sys2Proof/Machine/NmuExec.lean ====
section
/-! DEFINITION. The near-memory commands on their NMUs (R259 to R270) and the merge stage (R255 to R258). -/

namespace Sys2Proof.Machine

/-! ## What an NMU reaches -/

/-- The NMU exists, is powered and takes commands. -/
def State.nmuUp (s : State) (k : Nat) : Bool :=
  decide (k < 16) && s.rot.dcpReady && s.power.mode == .active && (s.svc ⟨.nmu, k⟩ == .inService || s.svc ⟨.nmu, k⟩ == .moving)
/-- A byte of the stack through the NMU's firewall: a refused read returns zero (R266). -/
def State.nmuByte (s : State) (k dom o : Nat) : Nat :=
  if s.passes dom false (stackBase k + o) then (MemOps.read s.mem.dev (stackBase k + o)).toNat else 0
/-- A byte of the activation buffer is a domain's to read: no domain other than 0 and the one whose stream wrote it reads it. No region
tag covers the buffer (R366): the owner of a byte is the model's (DESIGN CHOICE, log entry 155). -/
def NmuSt.actPasses (n : NmuSt) (dom o : Nat) : Bool :=
  let t := (MemOps.read n.actDom o).toNat
  decide (dom = 0 ∨ t = 0 ∨ t = dom + 1)
/-- A byte of the activation buffer: a refused read returns zero (R266). -/
def State.actByte (s : State) (k dom o : Nat) : Nat :=
  if (s.nmu k).actPasses dom o then (MemOps.read (s.nmu k).act o).toNat else 0
/-- A command's reads of the activation buffer, (offset, bytes), after what it has met so far. -/
def actTouch (k dom : Nat) (l : List (Nat × Nat)) (q : State × Half) : State × Half :=
  l.foldl (fun (q : State × Half) (r : Nat × Nat) =>
    match (List.range r.2).find? (fun i => !(q.1.nmu k).actPasses dom (r.1 + i)) with
    | some i => (refuse k dom 0 false (r.1 + i) q.1, if q.2 = stOk then stDomainFault else q.2)
    | none => q) q
/-- Bytes written to the stack: a refused write is dropped (R266). -/
def nmuWrite (k dom o : Nat) (l : List Byte) (s : State) : State :=
  s.onDev (fun d => l.zipIdx.foldl (fun (m : Mem) (p : Byte × Nat) =>
    let a := stackBase k + o + p.2
    if s.passes dom true a then MemOps.write m a p.1 else m) d)
/-- The accesses of a command, (stack offset, bytes, write): the refusals recorded, the uncorrectable words counted, the
poison of written words cleared; the status that follows (R266). -/
def nmuTouch (k dom : Nat) (l : List (Nat × Nat × Bool)) (s : State) : State × Half :=
  l.foldl (fun (acc : State × Half) (r : Nat × Nat × Bool) =>
    let a := stackBase k + r.1
    if r.2.1 = 0 then acc
    else if !acc.1.rangePasses dom r.2.2 a r.2.1 then
      (refuse k dom 0 r.2.2 (((touched a r.2.1).find? (fun x => !acc.1.passes dom r.2.2 x)).getD a) acc.1,
        if acc.2 = stOk then stDomainFault else acc.2)
    else if r.2.2 then (clearPoison a r.2.1 acc.1, acc.2)
    else if acc.1.rangePoisoned a r.2.1 then (countUe a acc.1, if acc.2 = stOk then stIntegrityFail else acc.2)
    else acc) (s, stOk)
/-- The status of the first invalid input of an engine's running command (R67). -/
def State.runStatus (s : State) (e : Engine) : Half :=
  match s.plan.cur.find? (fun c => c.t.engine == e && c.run == .running) with
  | some c => c.status
  | none => stOk
/-- The flags that a command's end leaves. -/
def nmuFlags (st : Half) (fault : Half) (r : NmuSt) : NmuSt :=
  { r with
    lastStatus := st, eccUe := r.eccUe || fault == stIntegrityFail, domFault := r.domFault || fault == stDomainFault }
/-- The registers after a GEMV command completes. -/
def gvFinish (w : List Byte) (st fault : Half) (r : NmuSt) : NmuSt :=
  { nmuFlags st fault r with gemvBusy := false, gemvTag := BitVec.ofNat 32 (fld w 0x24 4), gemvCount := r.gemvCount + 1 }
/-- The registers after an attention-engine command completes; `off` is where its word holds TAG. -/
def atFinish (w : List Byte) (off : Nat) (st fault : Half) (r : NmuSt) : NmuSt :=
  { nmuFlags st fault r with attBusy := false, attTag := BitVec.ofNat 32 (fld w off 4), attCount := r.attCount + 1 }
/-- A model's EXP table at an NMU (R241, R251). -/
def State.nmuExp (s : State) (k model : Nat) : SfuBank :=
  match kget (s.nmu k).expTables model with
  | some h => match s.ctrl.tsets.find? (fun t => t.idx == hIdx h.toNat) with
    | some t => { set := h, valid := true, compat := tsCompat t.image, image := t.image }
    | none => .empty
  | none => .empty
/-- A model's EXP table at the merge stage (R255). -/
def State.mergeExp (s : State) (model : Nat) : SfuBank :=
  match s.model model with
  | some m => match s.ctrl.tsets.find? (fun t => t.idx == m.tset) with
    | some t => { set := BitVec.ofNat 32 (s.handleOf 8 t.idx), valid := true, compat := tsCompat t.image, image := t.image }
    | none => .empty
  | none => .empty
/-- The state after a table evaluation that used free values: an empty bank alone does. -/
def useFree (b : SfuBank) (s : State) : State := if b.valid then s else { s with freeCtr := s.freeCtr + 2 ^ 32 }

/-! ## The merge stage -/

/-- The stacks of a slot, ascending. -/
def MergeSlot.stks (m : MergeSlot) : List Nat := (List.range 16).filter (fun i => m.stkMask.testBit i)
/-- The pairs of a source. -/
def MergeSlot.pairOf (m : MergeSlot) (src : MergeSrc) : Option (List (Word × Word) × Half) :=
  (m.pairs.find? (fun p => p.1 == src)).map (·.2)
/-- The partial rows of a source. -/
def MergeSlot.partOf (m : MergeSlot) (src : MergeSrc) : Option (List (List Word) × Half) :=
  (m.parts.find? (fun p => p.1 == src)).map (·.2)
/-- The module sources that have sent pairs, in ascending module number, the root's own included. -/
def srcModules {α : Type} (l : List (MergeSrc × α)) : List Nat :=
  sortBy id (l.filterMap (fun p => match p.1 with | .modul i => some i | .stack _ => none))
/-- Pairs combined row by row over a list of contributions in order. -/
def combinePairs (exp : Fv → Fv) (rows : Nat) (l : List (List (Word × Word))) : List (Word × Word) :=
  (List.range rows).map (fun r => mergePair exp (l.map (fun c => c.getD r (negInf32, 0))))
/-- Partial rows folded element by element over a list of contributions in order. -/
def combineParts (rows d : Nat) (l : List (List (List Word))) : List (List Word) :=
  (List.range rows).map (fun r => (List.range d).map (fun c => mergeElem (l.map (fun x => (x.getD r []).getD c 0))))
/-- Every stack of a slot has sent its pair, or its partial output. -/
def MergeSlot.stacksIn {α : Type} (m : MergeSlot) (l : List (MergeSrc × α)) : Bool :=
  m.stks.all (fun i => l.any (fun p => p.1 == .stack i))
/-- The output rows as they are written at OUT_ADDR. -/
def mergeBytes (fp32 : Bool) (rows : List (List Word)) : List Byte :=
  rows.flatMap (fun r => r.flatMap (fun v => if fp32 then natLe 4 v.toNat else natLe 2 (toB16 (dec32 v)).toNat))
/-- The module's own number. -/
def State.selfId (s : State) : Nat := s.links.moduleId.toNat
/-- The pairs phase of a slot: the module's own pair once every stack has sent, then the broadcast (R256, R258). -/
def mergePairs (exp : Fv → Fv) (self : Nat) (m : MergeSlot) : MergeSlot :=
  if m.bcast.isSome || !m.stacksIn m.pairs then m
  else
    let own := m.stks.filterMap (fun i => m.pairOf (.stack i))
    let st := firstBad (own.map (·.2))
    let pair := combinePairs exp m.rows (own.map (·.1))
    if m.level = 0 then { m with bcast := some (pair.map (fun p => (p.1, mergeR p))), bcastStatus := st }
    else
      let m1 := if (m.pairOf (.modul self)).isSome then m else { m with
        pairs := m.pairs ++ [(.modul self, pair, st)], sent := if m.level = 2 then m.sent ++ [(m.root, .pairs pair st)] else m.sent }
      if m.level = 1 then
        let mods := srcModules m1.pairs
        if mods.length < m1.modules then m1
        else
          let l := mods.filterMap (fun i => m1.pairOf (.modul i))
          let mr := (combinePairs exp m1.rows (l.map (·.1))).map (fun p => (p.1, mergeR p))
          let st1 := firstBad (l.map (·.2))
          { m1 with
            bcast := some mr, bcastStatus := st1
            sent := m1.sent ++ (mods.filter (fun i => decide (i ≠ self))).map (fun i => (i, .pairs mr st1)) }
      else
        match m1.pairOf (.modul m1.root) with
        | some q => { m1 with bcast := some (q.1.take m1.rows), bcastStatus := firstBad [st, q.2] }
        | none => m1
/-- The outputs phase of a slot: the module's own partial rows once every stack has sent, then the final output. -/
def mergeParts (self : Nat) (m : MergeSlot) : MergeSlot :=
  if m.out.isSome || !m.stacksIn m.parts || m.bcast.isNone then m
  else
    let own := m.stks.filterMap (fun i => m.partOf (.stack i))
    let st := firstBad (m.bcastStatus :: own.map (·.2))
    let rows := combineParts m.rows (64 * m.d64) (own.map (·.1))
    if m.level = 0 then { m with out := some rows, outStatus := st }
    else
      let m1 := if (m.partOf (.modul self)).isSome then m else { m with parts := m.parts ++ [(.modul self, rows, st)] }
      if m.level = 1 then
        let mods := srcModules m1.parts
        if mods.length < m1.modules then m1
        else
          let l := mods.filterMap (fun i => m1.partOf (.modul i))
          { m1 with out := some (combineParts m1.rows (64 * m1.d64) (l.map (·.1)))
                    outStatus := firstBad (m1.bcastStatus :: l.map (·.2)) }
      else { m1 with toRoot := rows, sent := m1.sent ++ [(m1.root, .partials rows st)], out := some [], outStatus := st }
/-- The state with a merge slot replaced. -/
def setMerge (m : MergeSlot) (s : State) : State := s.onMerges (fun l => updAll l (fun x => x.slot == m.slot) (fun _ => m))
/-- The merge slot of a number. -/
def State.merge (s : State) (slot : Nat) : Option MergeSlot := s.merges.find? (·.slot == slot)
/-- The final output of a slot written at OUT_ADDR through the firewall, at LEVEL 0 and 1. -/
def mergeWrite (m : MergeSlot) (s : State) : State :=
  match m.out with
  | none => s
  | some rows =>
    if m.level = 2 ∨ rows = [] then s
    else
      let b := mergeBytes m.outFp32 rows
      if s.rangePasses m.dom true m.outAddr b.length then
        putMem m.outAddr b s
      else
        (refuseEngine m.dom true m.outAddr s).onMerges (fun l =>
          updAll l (fun x => x.slot == m.slot) (fun x => { x with outStatus := firstBad [x.outStatus, stDomainFault] }))
/-- A slot goes as far as its contributions let it (R256). -/
def mergeRun (slot : Nat) (s : State) : State :=
  match s.merge slot with
  | none => s
  | some m =>
    let bank := s.mergeExp m.model
    let m1 := mergePairs (bank.exp s.freeCtr) s.selfId m
    let m2 := mergeParts s.selfId m1
    let s1 := if m1.bcast.isSome && m.bcast.isNone then useFree bank s else s
    let s2 := setMerge m2 s1
    if m2.out.isSome && m.out.isNone then mergeWrite m2 s2 else s2
/-- A slot that names a fenced stack completes invalid with FENCED (R258): values that nothing states. -/
def mergeInvalid (st : Half) (m : MergeSlot) (s : State) : State :=
  let free := fun (i : Nat) => BitVec.ofNat 32 (Config.freeWord (s.freeCtr + i)).toNat
  let s1 := setMerge { m with
    bcast := some (m.bcast.getD ((List.range m.rows).map (fun r => (free (2 * r), free (2 * r + 1)))))
    bcastStatus := if m.bcast.isSome then m.bcastStatus else st
    out := some (m.out.getD []), outStatus := if m.out.isSome then m.outStatus else firstBad [m.bcastStatus, st] } s
  { s1 with freeCtr := s1.freeCtr + 2 * m.rows }
/-- A contribution arrives at a slot. A source the slot does not name, or one that has sent already, adds nothing; a slot
with a fenced stack is invalid. -/
def mergeTake (slot : Nat) (src : MergeSrc) (d : MergeData) (s : State) : State :=
  match s.merge slot with
  | none => s
  | some m =>
    let named := match src with
      | .stack i => m.stkMask.testBit i && decide (i < 16)
      | .modul i => (m.level == 1 && i != s.selfId) || (m.level == 2 && i == m.root)
    if !named then s
    else if m.stks.any (fun i => s.svc ⟨.nmu, i⟩ == .fenced) then mergeInvalid stFenced m s
    else
      let m1 := match d with
        | .pairs l st => if (m.pairOf src).isSome || m.bcast.isSome then m else { m with pairs := m.pairs ++ [(src, l, tableStatus st)] }
        | .partials r st => if (m.partOf src).isSome || m.out.isSome then m else { m with parts := m.parts ++ [(src, r, tableStatus st)] }
      mergeRun slot (setMerge m1 s)

/-- MERGE_CONTRIBUTION (R256): the contribution joins its slot; when all have arrived they are combined in the fixed
order, and (M, r) is broadcast, or the output written, or the partial result sent to the root. -/
def execMergeContribution (slot : Nat) (src : MergeSrc) (d : MergeData) (s : State) : Host.Outcome State Fault Refusal :=
  .next (mergeTake slot src d s)

/-- MERGE_DEADLINE (R258): a slot whose contributions have not arrived completes invalid with BEAT_OVERRUN, or FENCED
where it names a fenced stack. -/
def execMergeDeadline (slot : Nat) (s : State) : Host.Outcome State Fault Refusal :=
  match s.merge slot with
  | none => .next s
  | some m =>
    if m.out.isSome then .next s
    else .next (mergeInvalid (if m.stks.any (fun i => s.svc ⟨.nmu, i⟩ == .fenced) then stFenced else stBeatOverrun) m s)

/-! ## GEMV -/

/-- A malformed command found at run time (R265). -/
def nmuBad (e : Engine) (k : Nat) (f : NmuSt → NmuSt) (s : State) : State := dcpFault (planDone e stBadFormat (s.onNmu k f))

/-- GEMV (R242 to R246, R260): the stripe's codes against the activation rows, output token by token. -/
def execGemv (k : Nat) (w0 : List Byte) (sym : Nat) (s : State) : Host.Outcome State Fault Refusal :=
  let w := fit 64 w0
  let dom := fld w 2 1 % 64
  let o := fld w 8 8
  if !s.nmuUp k then .next s
  else
    let hdrOk := s.rangePasses dom false (stackBase k + o) 64
    let h := (List.range 64).map (fun i => BitVec.ofNat 8 (s.nmuByte k dom (o + i)))
    if (gemvFail k w (if hdrOk && !gvEmpty w then some h else none)).isSome then
      .next (nmuBad (.gemv k) k (fun n => { gvFinish w stBadFormat stOk n with
        outb := outPut (fld w 0x1E 2) [] stBadFormat n.outb }) s)
    else if gvEmpty w then .next (planDone (.gemv k) stOk (s.onNmu k (gvFinish w stOk stOk)))
    else
      let g : GvIn := { w := w, h := h, rd := fun i => s.nmuByte k dom (o + i), act := s.actByte k dom }
      let r := actTouch k dom (gvActs w h) (nmuTouch k dom ((o, 64, false) :: (gvRanges w h).map (fun x => (x.1, x.2, false))) (eccNote (stackBase k + o) sym s))
      let fault := firstBad [r.2, if eccLost sym then stIntegrityFail else stOk]
      let st := firstBad [s.runStatus (.gemv k), fault]
      let poison := (List.range (gvTokens w)).any g.poison
      .next (planDone (.gemv k) st (r.1.onNmu k (fun n => { gvFinish w st fault n with
        poison := n.poison || poison, outb := outPut (fld w 0x1E 2) g.drain st n.outb })))

/-! ## Attention -/

/-- The pages of an attention command: the list that its word names in the stack (R247). -/
def State.attPages (s : State) (k : Nat) (w : List Byte) : List PageEnt :=
  (List.range (atPages w)).map (pageEnt (s.nmuByte k (fld w 2 1 % 64)) (fld w 8 8))
/-- A page list breaks R247, R248 or its OPEN_MAX; a list the firewall refuses is not judged. -/
def State.attBad (s : State) (k : Nat) (w : List Byte) (fp8 : Bool) : Bool :=
  s.rangePasses (fld w 2 1 % 64) false (stackBase k + fld w 8 8) (16 * atPages w) &&
  (!(s.attPages k w).all (PageEnt.ok fp8) || decide (atOpenMax w < (s.attPages k w).countP (fun p => !p.sealed)))
/-- What an attention command reads: its page list, keys or values, scales. -/
def attRanges (w : List Byte) (pages : List PageEnt) (v : Nat) : List (Nat × Nat × Bool) :=
  (fld w 8 8, 16 * atPages w, false) :: pages.flatMap (fun p =>
    let q := pagePart w p v
    (q.1, q.2, false) ::
      (if p.sealed then [(p.frame + atHeads w * atD w * 256 + 0x40 + 4 * fld w 4 1, 4, false)] else []))
/-- Where a score lies in the score area (R251). -/
def scoreAddr (w : List Byte) (row page slot : Nat) : Nat := atScoreOff w + ((row * atPages w + page) * 64 + slot) * 4
/-- Some score of the command reaches the DRAM part of the score area. -/
def atSpilled (w : List Byte) : Bool := (List.range (atPages w)).any (atSpills w)

/-- The part of the score area that the score buffer holds (R253). -/
abbrev scoreHeld : Nat := 4194304
/-- The scores of a command in the DRAM part of the score area: stack offset and bytes. -/
def spillRange (w : List Byte) : Nat × Nat :=
  let a := max scoreHeld (atScoreOff w)
  (a, atScoreOff w + atRows w * atPages w * 256 - a)
/-- A byte of the score area: the first 4 MiB in the score buffer, the others in the stack's DRAM (R253, R348). -/
def State.scoreByte (s : State) (k a : Nat) : Nat :=
  if a < scoreHeld then (MemOps.read (s.nmu k).scoreBuf a).toNat else (MemOps.read s.mem.dev (stackBase k + a)).toNat
/-- Scores written from an offset of the score area on. -/
def scoreWrite (k off : Nat) (l : List Byte) (s : State) : State :=
  let n := scoreHeld - off
  (s.onNmu k (fun x => { x with scoreBuf := MemOps.writeN x.scoreBuf off (l.take n) })).onDev (fun d =>
    MemOps.writeN d (stackBase k + max off scoreHeld) (l.drop n))
/-- A command's access to the DRAM part of the score area, which its firewall lets pass whatever its DOMAIN (R348), after what it has met so
far. -/
def scoreTouch (k : Nat) (write : Bool) (w : List Byte) (q : State × Half) : State × Half :=
  let r := spillRange w
  let a := stackBase k + r.1
  if r.2 = 0 then q
  else if write then (clearPoison a r.2 q.1, q.2)
  else if q.1.rangePoisoned a r.2 then (countUe a q.1, if q.2 = stOk then stIntegrityFail else q.2)
  else q
/-- The rotary table's values that the pair mode of a command reads (R250). -/
def State.attRope (s : State) (k : Nat) (w : List Byte) : List Nat :=
  if bitsOf (fld w 1 1) 0 2 = 0 then []
  else (List.range (atD w / 2)).map (fun i => (rd4 (s.nmuByte k (fld w 2 1 % 64)) (fld w 0x28 8 + 4 * i)).toNat)
/-- What ATT_SCORE reads of the stack. -/
def State.scoreReads (s : State) (k : Nat) (w : List Byte) : List (Nat × Nat × Bool) :=
  attRanges w (s.attPages k w) 0 ++ (if bitsOf (fld w 1 1) 0 2 = 0 then [] else [(fld w 0x28 8, 2 * atD w, false)])
/-- What ATT_SCORE reads of the activation buffer: its queries and their positions. -/
def scoreActs (w : List Byte) : List (Nat × Nat) := [(fld w 0x14 4, 2 * (atRows w * atD w)), (fld w 0x18 4, 4 * atRows w)]
/-- The scores of a command, row by row and page by page (R249 to R251). -/
def State.attScores (s : State) (k : Nat) (w : List Byte) : List (List (List Word)) :=
  let dom := fld w 2 1 % 64
  let rope := s.attRope k w
  (List.range (atRows w)).map (fun i =>
    let qpos := (rd4 (s.actByte k dom) (fld w 0x18 4 + 4 * i)).toNat
    let q := rotate (bitsOf (fld w 1 1) 0 2) qpos rope ((List.range (atD w)).map (fun c =>
      decB16 (rd2 (s.actByte k dom) (fld w 0x14 4 + 2 * (i * atD w + c)))))
    (s.attPages k w).map (fun p => pageScores w (s.nmuByte k dom) p rope q qpos))
/-- The running (m, s) of each row over its pages (R251). -/
def State.attStats (s : State) (k : Nat) (w : List Byte) : List (Word × Word) :=
  (s.attScores k w).map (fun segs => segs.foldl (fun (a : Word × Word) seg =>
    smaxSeg ((s.nmuExp k (fld w 7 1)).exp s.freeCtr) a.1 a.2 seg) (negInf32, 0))
/-- The partial output rows of ATT_VALUE from the broadcast (M, r) of each row (R252). -/
def State.attRowsOut (s : State) (k : Nat) (w : List Byte) (bc : List (Word × Word)) : List (List Word) :=
  (List.range (atRows w)).map (fun i =>
    let mr := bc.getD i (nan32, nan32)
    rowOut w (s.nmuByte k (fld w 2 1 % 64)) ((s.nmuExp k (fld w 7 1)).exp s.freeCtr) (s.attPages k w)
      (fun p j => rd4 (s.scoreByte k) (scoreAddr w i p j)) mr.1 mr.2)
/-- ATT_SCORE (R247 to R251): every row's scores to the score area, its running (m, s) to the merge slot. -/
def execAttScore (k : Nat) (w0 : List Byte) (sym : Nat) (s : State) : Host.Outcome State Fault Refusal :=
  let w := fit 64 w0
  let dom := fld w 2 1 % 64
  let fp8 := s.fp8 (fld w 7 1)
  if !s.nmuUp k then .next s
  else if fld w 0 1 ≠ 0x11 ∨ (attFail w fp8).isSome ∨ (atRows w ≠ 0 ∧ s.attBad k w fp8 = true) then
    .next (nmuBad (.att k) k (atFinish w 0x34 stBadFormat stOk) s)
  else if atRows w = 0 then .next (planDone (.att k) stOk (s.onNmu k (atFinish w 0x34 stOk stOk)))
  else
    let pages := s.attPages k w
    let r := scoreTouch k true w (actTouch k dom (scoreActs w) (nmuTouch k dom (s.scoreReads k w) (eccNote (stackBase k + fld w 8 8) sym s)))
    let fault := firstBad [r.2, if eccLost sym then stIntegrityFail else stOk]
    let st := firstBad (s.runStatus (.att k) :: pages.map (fun p => s.pageStatus k p.frame) ++ [fault])
    let bank := s.nmuExp k (fld w 7 1)
    let s1 := scoreWrite k (atScoreOff w) ((s.attScores k w).flatMap (fun segs => segs.flatMap bytesOfWords))
      ((useFree bank r.1).onNmu k (fun n => { atFinish w 0x34 st fault n with spill := n.spill || atSpilled w }))
    .next (planDone (.att k) st (mergeTake (atMerge w) (.stack k) (.pairs (s.attStats k w) st) s1))

/-- ATT_VALUE (R252): probabilities from the broadcast (M, r), the partial output rows to the merge slot. A broadcast
that has not come stalls the engine (R269). -/
def execAttValue (k : Nat) (w0 : List Byte) (sym : Nat) (s : State) : Host.Outcome State Fault Refusal :=
  let w := fit 64 w0
  let dom := fld w 2 1 % 64
  let fp8 := s.fp8 (fld w 7 1)
  if !s.nmuUp k then .next s
  else if fld w 0 1 ≠ 0x12 ∨ (attFail w fp8).isSome ∨ (atRows w ≠ 0 ∧ s.attBad k w fp8 = true) then
    .next (nmuBad (.att k) k (atFinish w 0x34 stBadFormat stOk) s)
  else if atRows w = 0 then .next (planDone (.att k) stOk (s.onNmu k (atFinish w 0x34 stOk stOk)))
  else
    match (s.merge (atMerge w)).bind (fun m => m.bcast.map (fun b => (b, m.bcastStatus))) with
    | none =>
      let f := s.free
      .next (f.2.onNmu k (fun n => { n with stalled := true, attBusy := true, stall := n.stall + f.1 }))
    | some (bc, bst) =>
      let pages := s.attPages k w
      let r := scoreTouch k false w (nmuTouch k dom (attRanges w pages 1) (eccNote (stackBase k + fld w 8 8) sym s))
      let fault := firstBad [r.2, if eccLost sym then stIntegrityFail else stOk]
      let st := firstBad (s.runStatus (.att k) :: pages.map (fun p => s.pageStatus k p.frame) ++ [bst, fault])
      let bank := s.nmuExp k (fld w 7 1)
      let s1 := (useFree bank r.1).onNmu k (atFinish w 0x34 st fault)
      .next (planDone (.att k) st (mergeTake (atMerge w) (.stack k) (.partials (s.attRowsOut k w bc) st) s1))

/-! ## Key-value pages -/

/-- KVPUT (R115, R254): a token's keys and values for every head into a slot of an open page; a failure marks the page
invalid (R266). A sealed page is not changed (R121): a command that names one is malformed (DESIGN CHOICE, log entry 153). -/
def execKvput (k : Nat) (w0 : List Byte) (sym : Nat) (s : State) : Host.Outcome State Fault Refusal :=
  let w := fit 32 w0
  let dom := fld w 2 1 % 64
  let frame := fld w 8 8
  let d := kvD w
  if !s.nmuUp k then .next s
  else if fld w 0 1 ≠ 0x13 ∨ (kvFail w).isSome ∨ s.frameSealed k frame = true then .next (nmuBad (.att k) k (atFinish w 0x1C stBadFormat stOk) s)
  else
    let parts := (List.range (2 * kvH w)).map (fun i =>
      (frame + (i * 64 + fld w 1 1) * d * 2,
        (List.range (2 * d)).map (fun j => BitVec.ofNat 8 (s.actByte k dom (fld w 0x10 4 + i * 2 * d + j)))))
    let r := actTouch k dom [(fld w 0x10 4, 4 * (kvH w * d))] (nmuTouch k dom (parts.map (fun p => (p.1, p.2.length, true))) (eccNote (stackBase k + frame) sym s))
    let fault := firstBad [r.2, if eccLost sym then stIntegrityFail else stOk]
    let st := firstBad [s.runStatus (.att k), fault]
    let s1 := parts.foldl (fun (s : State) (p : Nat × List Byte) => nmuWrite k dom p.1 p.2 s) r.1
    let s2 := s1.onNmu k (atFinish w 0x1C st fault)
    .next (planDone (.att k) st (if st = stOk then s2 else invalidPage st k frame s2))

/-- KVSEAL (R116 to R118, R254, R273): the page body to E4M3 with one scale a head, in place, and the trailer. A page that is sealed, or
whose model stores BF16, is not sealed: a command that names one is malformed (R114, R121; DESIGN CHOICE, log entry 153). -/
def execKvseal (k : Nat) (w0 : List Byte) (sym : Nat) (s : State) : Host.Outcome State Fault Refusal :=
  let w := fit 32 w0
  let dom := fld w 2 1 % 64
  let frame := fld w 8 8
  let t := kvH w * kvD w * 256
  if !s.nmuUp k then .next s
  else if fld w 0 1 ≠ 0x14 ∨ (kvFail w).isSome ∨ s.frameSealed k frame = true ∨ s.frameBf16 k frame = true then .next (nmuBad (.att k) k (atFinish w 0x1C stBadFormat stOk) s)
  else
    let b := sealBody (kvH w) (kvD w) (fun i => s.nmuByte k dom (frame + i))
    let r := nmuTouch k dom [(frame, t + 128, false), (frame, t / 2, true), (frame + t, 128, true)] (eccNote (stackBase k + frame) sym s)
    let fault := firstBad [r.2, if eccLost sym then stIntegrityFail else stOk]
    let st := firstBad [s.runStatus (.att k), fault]
    let old := (List.range 128).map (fun i => BitVec.ofNat 8 (s.nmuByte k dom (frame + t + i)))
    let flags := BitVec.ofNat 8 (fld old 6 1 / 2 * 2 + 1)
    let head := old.take 5 ++ [64, flags] ++ (old.drop 7).take 53
    let scale := fit 64 (bytesOfWords b.2)
    let trailer := head ++ natLe 4 (crc32c (head ++ scale)).toNat ++ scale
    let s1 := nmuWrite k dom (frame + t) trailer (nmuWrite k dom frame b.1 r.1)
    let s2 := (s1.onNmu k (atFinish w 0x1C st fault)).onPages (fun p => { p with
      sets := updAll p.sets (fun x => x.locs.any (fun l => l.tier == 1 && l.stack == k && l.off == frame))
        (fun x => { x with
          fill := 64
          locs := updAll x.locs (fun l => l.tier == 1 && l.stack == k && l.off == frame) (fun l => { l with sealed := true }) }) })
    .next (planDone (.att k) st (if st = stOk then s2 else invalidPage st k frame s2))

end Sys2Proof.Machine
end

