-- ==== Sys2Proof/Machine/SessOps.lean ====
section
/-! DEFINITION. What sessions share (R284 to R303, R493 to R496): watermarks, the CXL tier, the prefix tree, token rings,
closing. -/

namespace Sys2Proof.Machine

/-! ## Watermarks (R275, R287) -/

/-- No stack in service is below its admission watermark (R287). -/
def State.aboveAdmit (s : State) : Bool :=
  (s.svcList .nmu).all (fun k => decide ((s.ppool k).admitPm = 0) || decide ((s.ppool k).admitPm ≤ s.phi k))

/-! ## The CXL tier (R274, R289 to R291) -/

/-- A session is idle: no class D or class I reservation of it stands (R289). -/
def State.idleSession (s : State) (x : Session) : Bool :=
  let h := BitVec.ofNat 32 (s.handleOf 2 x.idx)
  !s.plan.resvs.any (fun r => (r.kind == .decode && r.obj == h) || (r.kind == .encode && r.obj == x.inCh && x.inCh != 0) ||
    (r.kind == .decoder && r.obj == x.outCh && x.outCh != 0))

/-- A session has a page in the CXL tier. -/
def State.inCxl (s : State) (x : Session) : Bool :=
  x.pages.any (fun i => match s.fset i with | some f => f.locs.any (fun l => l.tier == 2) | none => false)
/-- The trailer in a frame is its own: CRC, owner, layer and first position (R274). -/
def trailerOk (d : Mem) (g : AttGeom) (at_ owner layer page : Nat) : Bool :=
  let t := MemOps.readN d (at_ + trailerOff g) 128
  decide ((crc32c (t.take 60 ++ t.drop 64)).toNat = fld t 0x3C 4) && decide (fld t 0 4 = owner) && decide (fld t 4 1 = layer) &&
    decide (fld t 8 4 = 64 * page)
/-- One frame set brought back into HBM; none where a stack has no frame. -/
def backSet (owner i : Nat) (s : State) : Option State :=
  match s.fset i with
  | none => some s
  | some x =>
    match s.geom x.model with
    | none => some s
    | some g =>
      if !x.locs.any (fun l => l.tier == 2) then some s
      else
        let r := (List.range x.locs.length).foldl (fun (acc : Option State) a =>
          acc.bind (fun t =>
            match x.locs[a]? with
            | some l =>
              if l.tier ≠ 2 then some t
              else
                let k := t.pageStack x.dom g x.page a
                (t.takeFrame k x.model x.dom).map (fun q =>
                  let bad := !trailerOk t.mem.dev g (frameAddr l) owner a x.page
                  let l' : FrameLoc := { l with tier := 1, stack := k, off := q.1, inv := if bad then some (l.inv.getD stIntegrityFail) else l.inv }
                  (copyMem (frameAddr l) (frameAddr l') (frameSize g) q.2).onSet i
                    (fun y => { y with locs := y.locs.set a l' }))
            | none => some t)) (some s)
        r.map (fun t => writeTrailers i owner (releaseHeld (setWord i) t))
/-- Every page of a session brought back. -/
def backPages (x : Session) (s : State) : Option State :=
  x.pages.foldl (fun (acc : Option State) (i : Nat) => acc.bind (backSet (s.handleOf 2 x.idx) i)) (some s)
/-- The pages can come back and leave every stack at its admission watermark (R291). -/
def State.backFits (s : State) (x : Session) : Bool := match backPages x s with | some t => t.aboveAdmit | none => false
/-- Frames of a set in one region. -/
def perRegion (f : Nat) : Nat := max 1 (regionSize / f)
/-- A frame set moved behind a CXL port: its entries change and its HBM frames are freed (R290). -/
def moveSetOut (owner i : Nat) (s : State) : State :=
  match s.fset i with
  | none => s
  | some x =>
    match s.geom x.model with
    | none => s
    | some g =>
      let f := frameSize g
      match s.anyPortRun x.dom (cdiv g.layers (perRegion f)) with
      | none => s.onSet i (fun y => { y with moving := false })
      | some q =>
        let n := cdiv g.layers (perRegion f)
        let s1 := (assignRegions q.2 n (mkTag 2 0 x.dom) x.dom s).onMem (fun m => { m with held := m.held ++ [(q.2 * regionSize, n, setWord i)] })
        let place := fun (a : Nat) => (q.2 + a / perRegion f) * regionSize + a % perRegion f * f
        let s2 := x.locs.zipIdx.foldl (fun (t : State) (p : FrameLoc × Nat) =>
          if p.1.tier = 1 then copyMem (frameAddr p.1) (place p.2) f t else t) s1
        let s3 := s2.onSet i (fun y => { y with
          moving := false,
          locs := y.locs.zipIdx.map (fun p => if p.1.tier = 1 then { p.1 with tier := 2, off := place p.2 - 0x100000000000 } else p.1) })
        writeTrailers i owner ((List.range 16).foldl (fun (s : State) (k : Nat) => returnRegions k s) s3)

/-! ## The prefix tree (R293 to R301) -/

/-- The most nodes of the tree, and references of a frame set (table *Page limits*). -/
abbrev treeMax : Nat := 262144
abbrev refMax : Nat := 65535
/-- The key of a block (R293). -/
def blockKey (km : BitVec 128) (prev : Dword) (ids : List Word) : Dword := sipHash km (natLe 8 prev.toNat ++ bytesOfWords ids)
/-- `n` whole blocks of token IDs. -/
def blocksOf : Nat → List Word → List (List Word)
  | 0, _ => []
  | n + 1, l => l.take 64 :: blocksOf n (l.drop 64)
/-- The nodes that match some blocks, and collisions seen (R295, R301). -/
def State.matchTree (s : State) (model dom : Nat) (km : BitVec 128) : List (List Word) → Option Nat → Dword → List TreeNode × Nat
  | [], _, _ => ([], 0)
  | b :: r, parent, prev =>
    let key := blockKey km prev b
    let same := s.pages.nodes.filter (fun n => decide (n.model = model ∧ n.dom = dom) && n.key == key)
    match same.find? (fun n => n.parent == parent && n.ids == b) with
    | some n =>
      if (match s.fset n.fs with | some f => decide (refMax ≤ f.refs) | none => true) then ([], 0)
      else let q := s.matchTree model dom km r (some n.id) key; (n :: q.1, q.2)
    | none => ([], if same.isEmpty then 0 else 1)
/-- The matched nodes up to the deepest reuse point (R299). -/
def toReuse : List TreeNode → List TreeNode
  | [] => []
  | n :: r => let q := toReuse r; if q.isEmpty then (if n.reusable then [n] else []) else n :: q
/-- A page that may be published: no frame of it is invalid. -/
def State.setValid (s : State) (i : Nat) : Bool :=
  match s.fset i with
  | some x => x.invalid.isNone && x.locs.all (fun l => l.inv.isNone)
  | none => false
/-- The blocks of a session's pages from page `p` on made nodes, the page sets given (R298). The last node made, if any. -/
def publishFrom (x : Session) (m : Model) : List Nat → Nat → Option Nat → Dword → Option Nat → State → Option Nat × State
  | [], _, _, _, last, s => (last, s)
  | f :: r, p, parent, prev, last, s =>
    let ids := (x.ids.drop (64 * p)).take 64
    let key := blockKey m.keyM prev ids
    let clash := s.pages.nodes.any (fun n => decide (n.model = m.idx ∧ n.dom = m.dom) && n.key == key && n.parent == parent && n.ids == ids)
    if clash || decide (treeMax ≤ s.pages.nodes.length) then (last, s)
    else
      let i := s.pages.nextId
      let node : TreeNode := {
        id := i, model := m.idx, dom := m.dom, parent := parent, key := key, ids := ids, fs := f, snapshot := none,
        reusable := m.pkg.recurrent.isEmpty, attachedAt := s.now }
      let s1 := s.onPages (fun k => { k with nextId := i + 1, nodes := k.nodes ++ [node] })
      let s2 := writeTrailers f 0 (s1.onSet f (fun y => { y with tree := true, key := key, refs := y.refs + 1 }))
      publishFrom x m r (p + 1) (some i) key (some i) s2
/-- The client index of snapshots: no client's. -/
abbrev noClient : Nat := 1000
/-- The copy of a session's state object that becomes the snapshot of a node (R298 3). -/
def takeSnapshot (x : Session) (node : Nat) (s : State) : State :=
  match s.obj (hIdx x.rstate.toNat) with
  | none => s
  | some o =>
    match newObj noClient ((s.model o.model).map (·.dom) |>.getD 0) o.model 0 o.heads o.dk16 o.dv16 o.layers o.decayVec s with
    | none => s
    | some (j, s1) =>
      match s1.obj j with
      | none => s1
      | some n =>
        let s2 := copyMem (o.addr + 4096) (n.addr + 4096) (bodyBytes o.heads o.dk16 o.dv16 o.layers) s1
        let s3 := syncObj j (s2.onObj j (fun k => { k with step := o.step, invalid := o.invalid }))
        addWork { kind := .snapshot, client := noClient, mbox := 16, obj := node, arg := j, model := o.model, beat := s.now, taken := false }
          (s3.onPages (fun k => { k with nodes := updFirst k.nodes (·.id == node) (fun q => { q with snapshot := some j }) }))
/-- A reuse point's snapshot copied into the session's state object (R299); a copy clears no INVALID (R221). -/
def reuseCopy (b : BWork) (s : State) : State :=
  let s1 := dropWork (· == b) s
  match s1.session b.obj, s1.obj b.arg with
  | some x, some o =>
    match s1.obj (hIdx x.rstate.toNat) with
    | some d => syncObj d.idx ((copyMem (o.addr + 4096) (d.addr + 4096) (bodyBytes o.heads o.dk16 o.dv16 o.layers) s1).onObj d.idx (fun k => { k with
          step := o.step, invalid := if k.invalid.isSome then k.invalid else o.invalid }))
    | none => s1
  | _, _ => s1
/-- Publication of a session's pages (R298). -/
def publish (i : Nat) (s : State) : State :=
  match s.session i with
  | none => s
  | some x =>
    match s.model x.model with
    | none => s
    | some m =>
      if !x.pages.all s.setValid then s
      else
        let inTree := fun (f : Nat) => match s.fset f with | some y => y.tree | none => false
        let p0 := (x.pages.takeWhile inTree).length
        let parent := if p0 = 0 then none else s.pages.nodes.find? (fun n => decide (n.fs = x.pages.getD (p0 - 1) 0))
        let prev := match parent with | some n => n.key | none => 0
        let r := publishFrom x m ((x.pages.take (x.positions / 64)).drop p0) p0 (parent.map (·.id)) prev none s
        match r.1 with
        | some n => if m.pkg.recurrent.isEmpty then r.2 else takeSnapshot x n r.2
        | none => r.2

/-! ## Opening and closing -/

/-- The OWNER of a state object set, and its header written. -/
def setOwnerOf (h owner : Word) (s : State) : State :=
  if h = 0 then s else syncObj (hIdx h.toNat) (s.onObj (hIdx h.toNat) (fun o => { o with owner := owner }))
/-- The state objects that a session names lose it as their owner (R490). -/
def disown (i : Nat) (x : Session) (s : State) : State :=
  let h := BitVec.ofNat 32 (s.handleOf 2 i)
  [x.rstate, x.encState, x.decState].foldl (fun (s : State) (o : Word) =>
    match s.obj (hIdx o.toNat) with
    | some q => if o ≠ 0 ∧ q.owner = h then setOwnerOf o 0 s else s
    | none => s) s
/-- The end of a close: pages lose their references, state objects their owner, the handle retires. -/
def finishClose (i : Nat) (s : State) : State :=
  match s.session i with
  | none => s
  | some x =>
    let s1 := endWork (fun b => (b.kind == .prefill || b.kind == .pageBack || b.kind == .pageMove || b.kind == .reuse) && decide (b.obj = i)) stBadHandle s
    let s2 := disown i x s1
    let s3 := s2.onCtrl (fun k => { k with sessions := k.sessions.filter (fun y => decide (y.idx ≠ i)) })
    (x.pages.foldl (fun (s : State) (f : Nat) => unrefSet f s) s3).retire 2 i
/-- Class D and I reservations of a session released. -/
def releaseSession (x : Session) (h : Word) (s : State) : State :=
  s.onPlan (fun p => { p with resvs := p.resvs.filter (fun r =>
    !((r.kind == .decode && r.obj == h) || (r.kind == .encode && r.obj == x.inCh) || (r.kind == .decoder && r.obj == x.outCh))) })
/-- A state object that class D or I work may use: in HBM, with no swap or destroy in progress (R224, R226, R228). -/
def State.resident (s : State) (h : Word) : Bool :=
  h == 0 || (match s.obj (hIdx h.toNat) with
    | some o => tierOf o == 1 && o.swap.isNone && o.destroying.isNone
    | none => false)
/-- A state object of a model with no owner. -/
def State.freeObjOf (s : State) (model h : Nat) : Bool :=
  match s.obj (hIdx h) with
  | some o => decide (o.model = hIdx model) && decide (o.owner = 0)
  | none => false
/-- A channel and its direction. -/
def State.chanIs (s : State) (h : Nat) (input : Bool) : Bool :=
  match s.channel (hIdx h) with | some c => c.isIn == input | none => false
/-- The message that a mailbox holds. -/
def msgOf (b : Mailbox) : Msg :=
  { client := b.client, mbox := b.mbox, ownWord := 1, seq := b.seq, plen := b.plen, refAddr := b.refAddr, refLen := b.refLen,
    refSpace := b.refSpace, rsvd1D := b.rsvd1D, rsvd30 := b.rsvd30, payload := b.payload }

/-! ## Token rings (R493 to R496) -/

/-- Checks of a token ring at an address. -/
def State.ringChecks (s : State) (a : Nat) : List (Bool × Half) :=
  let n := leNat (s.carveRead (a + 8) 1)
  (inCarve a 64, stBadFormat) :: (if inCarve a 64 then ringSizeChecks n ++ [(inCarve a (64 + 16 * 2 ^ n), stBadFormat)] else [])
/-- The ring at an address as the DCP takes it over. -/
def State.ringAt (s : State) (a : Nat) : RingSt := s.newRing a (leNat (s.carveRead (a + 8) 1))

end Sys2Proof.Machine
end

