-- ==== Sys2Proof/Machine/RunExec.lean ====
section
/-! DEFINITION. A plan's run (R49, R50, R52, R54, R64 to R70, R149, R160, R194, R231, R325, R330): starting commands, the
watchdog, the check points at E and at the kerf. -/

namespace Sys2Proof.Machine

/-! ## Readiness (R49, R330) -/

/-- A local time as the time from the tick, in units of 1/5400 µs. -/
def BeatSt.sinceTick (b : BeatSt) (t : Nat) : Nat := (t - b.tickTime) * 27 / 80
/-- A command's run has ended. -/
def PCmd.over (c : PCmd) : Bool := c.run == .done || c.run == .abandoned
/-- A yarder has a context for the command, and its skid queue the entries it pops. -/
def State.streamReady (s : State) (c : PCmd) : Bool :=
  match c.t.engine with
  | .yarder y =>
    let w := fit 64 c.t.word
    (decide (fld w 0x10 2 = 0) || decide (s.ctxsUsed y < 16)) &&
      (match skidIn w with | some q => decide (fld w 0x10 2 ≤ (s.skid q).entries.length) | none => true)
  | _ => true
/-- A command is ready: its release time has passed, its inputs are complete (R49), the bank loads that it depends on have come to their
end (R196), its entries have been pushed (R330). -/
def State.ready (s : State) (now : Nat) (c : PCmd) : Bool :=
  decide (c.t.release ≤ now) && (s.inputsOf c).all PCmd.over &&
  s.plan.curRegs.loads.all (fun b => b.done || !b.after.contains c.id) && s.streamReady c
/-- The head of a class queue of an engine: its first command in plan order that has not started. -/
def State.headOf (s : State) (e : Engine) (cls : Cls) : Option PCmd :=
  s.plan.cur.find? (fun c => c.t.engine == e && c.t.cls == cls && c.run == .queued)
/-- The command that starts next: the ready head of the highest class. -/
def State.nextCmd (s : State) (now : Nat) (e : Engine) : Option PCmd :=
  [Cls.D, Cls.I, Cls.B].findSome? (fun k => (s.headOf e k).bind (fun c => if s.ready now c then some c else none))
/-- The status of the merge whose slot an attention command contributes to (R258). -/
def State.mergeStatus (s : State) (c : PCmd) : Half :=
  match c.t.engine with
  | .att _ => if fld c.t.word 0 1 = 0x12 then
      (match s.merges.find? (fun m => decide (m.slot = fld c.t.word 0x12 2)) with | some m => m.outStatus | none => stOk) else stOk
  | _ => stOk
/-- The status of a command's first input that is not OK: of the commands of earlier beats, then of those of this plan in plan
order, each with its rows, and with the merge that it contributes to (R67, R238, R258). The rows of a Scan command take the statuses of
rows as they run. -/
def State.inputStatus (s : State) (c : PCmd) : Half :=
  match s.plan.carry.find? (fun e => e.1 == c.obj && c.t.inputs.contains (2 ^ 40 + e.2.1)) with
  | some e => e.2.2
  | none => ((s.inputsOf c).findSome? (fun x =>
      let st := if isScan c.t then x.status else x.outStatus
      if st ≠ stOk then some st else if s.mergeStatus x ≠ stOk then some (s.mergeStatus x) else none)).getD stOk
/-- When a command became ready. -/
def State.readySince (s : State) (now : Nat) (c : PCmd) : Nat :=
  (s.inputsOf c).foldl (fun m x => max m (if x.run = .done ∧ x.finishedAt = 0 then now else x.finishedAt)) c.t.release
/-- A tally changed (R69, R70). -/
def State.onTally (client : Nat) (f : Tally → Tally) (s : State) : State :=
  s.onCtrl (fun k => { k with tallies := updAll k.tallies (fun p => p.1 == client) (fun p => (p.1, f p.2)) })
/-- A planned command changed. -/
def State.onCmd (id : Nat) (f : PCmd → PCmd) (s : State) : State :=
  s.onPlan (fun p => { p with cur := updFirst p.cur (fun c => c.id == id) f })

/-! ## The boundary -/

/-- A finished class D command is late: past its own deadline, or past E (R53, R66). -/
def State.late (s : State) (c : PCmd) (now : Nat) : Bool := c.t.cls == .D && decide (s.dueBy s.beat.cur c < now)
/-- The end of a command is dated; a late class D command's outputs are invalid (R66). -/
def dateDone (now : Nat) (c : PCmd) (s : State) : State :=
  let s1 := s.onCmd c.id (fun x => { x with finishedAt := max 1 now })
  if s.late c now then
    let s2 := (s1.onBeat (fun b => { b with deadlineMiss := true })).onCmd c.id (fun x => { x with
      status := if x.status = stOk then stBeatOverrun else x.status })
    if c.status = stOk then affectWork stBeatOverrun 0x09 c s2 else s2
  else s1
/-- A command is a part of a copy of the DCP that no yarder word describes: its end is that of its time. -/
def PCmd.isPart (c : PCmd) : Bool := match c.copy with | some (.page ..) => false | some _ => true | none => false
/-- The parts of copies that ran on a yarder have ended. The first that ends of a reuse point's copy has brought its snapshot into the
session's state object (R299; DESIGN CHOICE, log entry 177). -/
def endParts (e : Engine) (s : State) : State :=
  let hit : PCmd → Bool := fun c => c.t.engine == e && c.run == .running && c.isPart
  ((s.plan.cur.filter hit).filterMap (fun c => match c.copy with | some (.work b) => some b | _ => none)).foldl (fun (s : State) (b : BWork) =>
    match s.plan.bwork.find? (fun w => w.kind == .reuse && w.same b) with
    | some w => reuseCopy w s
    | none => s) (s.onPlan (fun p => { p with cur := updAll p.cur hit (fun c => { c with run := .done }) }))
/-- The boundary of an engine at a time: what ran has ended, and its end is dated. A yarder's streams end on their own. -/
def boundary (e : Engine) (now : Nat) (s : State) : State :=
  let s1 := match e with | .yarder _ => endParts e s | _ => planDone e stOk s
  (s1.plan.cur.filter (fun c => c.t.engine == e && c.run == .done && decide (c.finishedAt = 0))).foldl
    (fun (s : State) (c : PCmd) => dateDone now c s) s1
/-- The SFU bank that holds the set of the command's model becomes active (R194). -/
def activateBank (c : Nat) (set : Word) (s : State) : State :=
  s.onCluster c (fun k =>
    let want := if k.sfu.bankA.valid ∧ k.sfu.bankA.set = set then some false
      else if k.sfu.bankB.valid ∧ k.sfu.bankB.set = set then some true else none
    match want with
    | some b => if b = k.sfu.active then k else { k with sfu := { k.sfu with active := b, switches := k.sfu.switches + 1 } }
    | none => k)
/-- The page list of an attention command written into its stack at PAGE_LIST when the command starts, with SEALED of each page as it
then is (R247): what an earlier KVSEAL of the plan has sealed is read so. The write is that of the command's domain (DESIGN CHOICE,
log entry 156). -/
def putList (k : Nat) (c : PCmd) (s : State) : State :=
  let base := stackBase k + fld c.t.word 8 8
  (c.rows.flatMap (fun r => putBytes r 0xD [BitVec.ofNat 8 (b2n (s.frameSealed k (fld r 0 8)))])).zipIdx.foldl
    (fun (t : State) (p : Byte × Nat) =>
      if s.passes c.dom true (base + p.2) then clearPoison (base + p.2) 1 (t.onDev (fun d => MemOps.write d (base + p.2) p.1)) else t) s
/-- What a start does in the engine: prefetched banks of another command dropped (R325), the SFU bank (R194), the
mode of the array (R155), the context of a stream with its popped entries (R307, R330), the page list (R247). -/
def engineStart (c : PCmd) (s : State) : State :=
  match c.t.engine with
  | .cluster i =>
    let w := fit 32 c.t.word
    let keep := (wordStreams c.t.engine w).1 ++ (wordStreams c.t.engine w).2
    let s0 := if fld w 0 1 = 1 ∧ arrWordFail w = none then
        s.onCluster i (fun k => { k with arr := { k.arr with curMode := BitVec.ofNat 2 (arrMode w) } }) else s
    let s1 := unicast i keep (resumeStreams keep (discardFor i keep s0))
    match s1.setHandle c.model with | some h => activateBank i h s1 | none => s1
  | .yarder y =>
    let w := fit 64 c.t.word
    if fld w 0x10 2 = 0 then s
    else match popFor w s with
    | some (p, s1) => s1.onYarder y (fun k => { k with
        ctxs := if k.ctxs.any (·.num == c.stream) then updFirst k.ctxs (·.num == c.stream) (fun x => { x.pop p with held := true })
          else k.ctxs ++ [{ (newCtx y w s).pop p with held := true }] })
    | none => s
  | .att k => if c.rows.isEmpty then s else putList k c s
  | _ => s
/-- The pre-emption of R69: a queue whose head is ready is left for a higher one. -/
def preemption (now : Nat) (c : PCmd) (s : State) : State :=
  match kget s.plan.queueOf c.t.engine with
  | none => s
  | some k =>
    let rank : Cls → Nat := fun x => match x with | .D => 1 | .I => 2 | .B => 3
    match s.headOf c.t.engine k with
    | some h => if rank c.t.cls < rank k ∧ s.ready now h = true then
        s.onTally h.client (fun t => { t with livePreempt := t.livePreempt + 1 }) else s
    | none => s
/-- A bank load that a command depends on has failed (R197). -/
def State.loadFailed (s : State) (c : PCmd) : Bool := s.plan.curRegs.loads.any (fun b => b.failed && b.after.contains c.id)
/-- A command starts: its outputs are invalid where an input is (R67), or a bank load that it depends on has failed (R197). Background work, blaze frames and self-tests have no waiting time (R70). -/
def startCmd (now : Nat) (c : PCmd) (s : State) : State :=
  let wait := (now - s.readySince now c) / 3
  let st0 := if c.status = stOk then s.inputStatus c else c.status
  let st := if st0 = stOk ∧ s.loadFailed c = true then stIntegrityFail else st0
  let s1 := engineStart c (preemption now c s)
  let s2 := (s1.onCmd c.id (fun x => { x with run := .running, startedAt := now, readyAt := s.readySince now c, status := st })).onPlan
    (fun p => { p with queueOf := kset p.queueOf c.t.engine c.t.cls })
  let s3 := if c.blaze then s2 else s2.onTally c.client (fun t => { t with liveWait := t.liveWait + wait, liveMax := max t.liveMax wait })
  match engineUnit c.t.engine with
  | some u => if s.safe.safetyDomain ≠ 0xFF ∧ c.dom = s.safe.safetyDomain.toNat then
      s3.onSafe (fun k => { k with servedSafety := k.servedSafety.filter (fun x => decide (x ≠ u)) ++ [u] }) else s3
  | none => s3
/-- An engine of the module that takes commands: its unit in service or on its way out. -/
def State.engineUp (s : State) (e : Engine) : Bool :=
  s.beating && (match engineUnit e with
    | some u => decide (u.index < unitCount u.kind) && (s.svc u == .inService || s.svc u == .moving)
    | none => match e with | .yarder y => decide (y < 32) | _ => false)
/-- An engine's units are at rest: no command of theirs is stalled (R50). -/
def State.atRest (s : State) : Engine → Bool
  | .cluster c => !((s.cluster c).arr.busy || (s.cluster c).veRegs.busy || (s.cluster c).scan.busy)
  | .gemv i => !(s.nmu i).gemvBusy
  | .att i => !(s.nmu i).attBusy
  | .yarder _ => true
/-- A freed context goes first to a stream whose command runs: one that a discard had stopped at its end, or the unicast stream of a
multicast member (R149, R325). -/
def contextFree (e : Engine) (s : State) : State :=
  match e with
  | .yarder y =>
    match s.runningCmd (.cluster (y / 4)) with
    | some p => let keep := (wordStreams p.t.engine (fit 32 p.t.word)).1; unicast (y / 4) keep (resumeStreams keep s)
    | none => s
  | _ => s
/-- COMMAND_START: a command boundary of an engine, or a freed context, at a time. Commands start in the execution window alone
(R46, R65). -/
def execCommandStart (e : Engine) (t : Nat) (s : State) : Host.Outcome State Fault Refusal :=
  .next (if !s.engineUp e || !s.beat.ticked || !s.atRest e then s
    else
      let now := s.beat.sinceTick t
      let s1 := contextFree e (boundary e now (s.onBeat (fun b => { b with clock := max b.clock now })))
      match (if s.beat.part = .window ∧ now < s.beat.cur.eTu then s1.nextCmd now e else none) with
      | some c => startCmd now c s1
      | none => s1)

/-! ## Overruns (R64, R65, R68) -/

/-- OVERRUN set, counted and recorded. -/
def overrunNow (s : State) : State :=
  let s1 := s.onBeat (fun b => { b with overrun := true, overrunCount := satInc b.overrunCount })
  bbAdd 0x70 2 0 0 stBeatOverrun (natLe 8 s1.beat.statusWord) s1
/-- The fault of an engine: its unit is fenced, or a yarder causes a compute reset (R64, R68, R342). -/
def engineFault (e : Engine) (s : State) : State :=
  match engineUnit e with
  | some u => fenceByFault u s
  | none => computeResetTo 0x09 s
/-- Engines named once each. -/
def enginesOf (l : List PCmd) : List Engine := (l.map (·.t.engine)).eraseDups
/-- Engines with incomplete work at two check points in a row (R68): the units first, a compute reset last. -/
def doubleFault (now : List Engine) (s : State) : State :=
  let hit := now.filter (fun e => s.plan.incomplete.contains e)
  let s1 := s.onPlan (fun p => { p with incomplete := now })
  let s2 := (hit.filter (fun e => (engineUnit e).isSome)).foldl (fun (s : State) (e : Engine) => engineFault e s) s1
  if hit.any (fun e => (engineUnit e).isNone) then computeResetTo 0x09 s2 else s2
/-- EXEC_WINDOW_END: the check point at E. A class D command that still runs then is past its deadline: DEADLINE_MISS is set here
(DESIGN CHOICE, log entry 151). -/
def execExecWindowEnd (s0 : State) : Host.Outcome State Fault Refusal :=
  .next (if !s0.beating || !s0.beat.ticked then s0
    else
      let s := s0.onBeat (fun b => { b with
        part := .background, deadlineMiss := b.deadlineMiss || s0.plan.cur.any (fun c => c.run == .running && c.t.cls == .D) })
      let bad := s.plan.cur.filter (fun c => !c.over)
      if bad.isEmpty then s.onPlan (fun p => { p with incomplete := [] })
      else
        let s1 := abandonCmds (fun c => c.run == .queued) stBeatOverrun 0x09 s
        let late := s1.plan.cur.filter (fun c => c.run == .running)
        let s2 := s1.onPlan (fun p => { p with
          cur := updAll p.cur (fun c => c.run == .running) (fun c => { c with status := if c.status = stOk then stBeatOverrun else c.status }) })
        let s3 := late.foldl (fun (s : State) (c : PCmd) => affectWork (if c.status = stOk then stBeatOverrun else c.status) 0x09 c s) s2
        doubleFault (enginesOf bad) (overrunNow s3))
/-- Background tasks that have not run are abandoned, and OVERRUN is set (R65). Which end of a link measures its delay is not told
here: a measurement that has not run counts as the other end's (R415). -/
def closeBackground (s : State) : State :=
  let left := s.plan.bgDue.filter (fun t => match t with | .delay _ => false | _ => true)
  let s1 := s.onPlan (fun p => { p with bgDue := [] })
  if left.isEmpty then s1 else overrunNow s1
/-- KERF_START: the check point at P − K. The plan of the next beat must be there (R55). -/
def execKerfStart (s0 : State) : Host.Outcome State Fault Refusal :=
  .next (if !s0.beating || !s0.beat.ticked then s0
    else
      let s := closeBackground (s0.onBeat (fun b => { b with part := .kerf }))
      let s1 := doubleFault (enginesOf (s.plan.cur.filter (fun c => c.run == .running))) s
      if !s1.beat.ticked || (match s1.plan.next with | some n => decide (n.1 = s1.beat.number.toNat + 1) | none => false) then s1
      else
        let s2 := s1.onBeat (fun b => { b with planMiss := true })
        warmResetTo 0x05 (bbAdd 0x71 2 0 0 stOk (natLe 8 s2.beat.statusWord) s2))
/-- WATCHDOG_TRIP: a command has run 1 µs past its worst case (R64). -/
def execWatchdogTrip (e : Engine) (s : State) : Host.Outcome State Fault Refusal :=
  .next (if !s.engineUp e || !s.engineBusy e then s
    else engineFault e (overrunNow (abandonCmds (fun c => c.t.engine == e && c.run == .running) stBeatOverrun 0x09 s)))

end Sys2Proof.Machine
end

