-- ==== Sys2Proof/Machine/SessExec.lean ====
section
/-! DEFINITION. Sessions (R284 to R305, R489 to R499): opening, prefill, decoding, forks, queries, token records, page moves,
telemetry. -/

namespace Sys2Proof.Machine

/-! ## SESSION_OPEN, SESSION_CLOSE (R489, R490) -/

/-- An audio side of an open: channel, model and state all null, or none of them, the channel of its direction. -/
def State.sideOk (s : State) (ch model st : Nat) (input : Bool) : Bool :=
  if ch = 0 then decide (model = 0 ∧ st = 0) else decide (model ≠ 0 ∧ st ≠ 0) && s.chanIs ch input
/-- A channel that an open session names. -/
def State.chanTaken (s : State) (ch : Nat) : Bool :=
  decide (ch ≠ 0) && s.ctrl.sessions.any (fun x => decide (x.inCh.toNat = ch ∨ x.outCh.toNat = ch))
/-- A session as it is opened. -/
def newSession (i client model : Nat) (rstate : Word) (maxCtx : Nat) (ring : RingSt) (beat : Nat) : Session :=
  { idx := i, client := client, model := model, rstate := rstate, inCh := 0, outCh := 0, encModel := 0, encState := 0, decModel := 0,
    decState := 0, maxCtx := maxCtx, ring := ring, state := 1, positions := 0, ids := [], pages := [], holds := 0, left := 0,
    lastActive := beat, recBeat := none, lastStatus := stOk, faulted := none, prefill := none, reused := 0, closing := none }
/-- SESSION_OPEN. -/
def sessionOpen (m : Msg) (s : State) : State × Reply :=
  let mo := m.f 0 4
  let rs := m.f 4 4
  let ic := m.f 8 4
  let oc := m.f 0xC 4
  let em := m.f 0x10 4
  let es := m.f 0x14 4
  let dm := m.f 0x18 4
  let ds := m.f 0x1C 4
  let ctx := m.f 0x20 4
  let ring := m.f 0x28 8
  let w := BitVec.ofNat 32
  let dom := s.domainOf m.client
  let recur := match s.model (hIdx mo) with | some x => !x.pkg.recurrent.isEmpty | none => false
  let enc := if ic = 0 then [] else [s.newResv m.client (w ic) .D .encode (hIdx em) dom 0]
  let dec := if oc = 0 then [] else [s.newResv m.client (w oc) .D .decoder (hIdx dm) dom enc.length]
  checked ([
    (s.live 4 mo && s.liveOr0 3 rs && s.liveOr0 1 ic && s.liveOr0 1 oc && s.liveOr0 4 em && s.liveOr0 3 es && s.liveOr0 4 dm &&
      s.liveOr0 3 ds, stBadHandle),
    (if rs = 0 then !recur else s.freeObjOf mo rs, stBadFormat),
    (s.sideOk ic em es true, stBadFormat),
    (s.sideOk oc dm ds false, stBadFormat),
    (decide (1 ≤ ctx ∧ ctx ≤ 1048576), stBadLength),
    (decide (ctx % 64 = 0), stBadFormat),
    (m.z 0x24 4, stBadFormat)] ++ s.ringChecks ring ++ [
    (s.owns m.client 4 mo && s.owns m.client 3 rs && s.owns m.client 1 ic && s.owns m.client 1 oc && s.owns m.client 4 em &&
      s.owns m.client 3 es && s.owns m.client 4 dm && s.owns m.client 3 ds, stRefusedDomain),
    (!s.unloading mo && !s.unloading em && !s.unloading dm && !s.chanTaken ic && !s.chanTaken oc && s.resident (w es) && s.resident (w ds) &&
      (s.nextIdx 2).isSome && ((enc ++ dec).isEmpty || s.admits (enc ++ dec)), stRefusedBeat),
    (s.aboveAdmit, stRefusedPages)])
    (fun s => match s.nextIdx 2 with
      | none => (s, .done stRefusedBeat [])
      | some i =>
        let s1 := s.issue 2 i
        let h := s1.handleOf 2 i
        let x := { newSession i m.client (hIdx mo) (w rs) ctx (s.ringAt ring) s.now with
          inCh := w ic, outCh := w oc, encModel := w em, encState := w es, decModel := w dm, decState := w ds }
        let s2 := s1.onCtrl (fun k => { k with sessions := k.sessions ++ [x] })
        let s3 := setOwnerOf (w rs) (w h) (setOwnerOf (w es) (w h) (setOwnerOf (w ds) (w h) s2))
        (addReservations (enc ++ dec) (startRing ring s3), .done stOk (natLe 4 h))) s
/-- SESSION_OPEN. -/
def execSessionOpen (m : Msg) (s : State) : Host.Outcome State Fault Refusal :=
  .next (withMsg 0x0501 (some 48) false m (sessionOpen m) s)
/-- SESSION_CLOSE. -/
def sessionClose (m : Msg) (s : State) : State × Reply :=
  let h := m.f 0 4
  checked [
    (s.live 2 h, stBadHandle),
    (s.owns m.client 2 h, stRefusedDomain),
    ((s.session (hIdx h)).any (·.closing.isNone), stRefusedBeat)]
    (fun s => match s.session (hIdx h) with
      | none => (s, .done stBadHandle [])
      | some x =>
        ((releaseSession x (BitVec.ofNat 32 h) s).onSession (hIdx h) (fun y => { y with left := 0, closing := some (s.now + 2) }),
          waitFor m 0x0502 h (some (s.now + 2)) 0)) s
/-- SESSION_CLOSE. -/
def execSessionClose (m : Msg) (s : State) : Host.Outcome State Fault Refusal :=
  .next (withMsg 0x0502 (some 4) false m (sessionClose m) s)

/-! ## Pages that come back before a request is checked (R291) -/

/-- Admits work of a session, `n` positions or steps: where it has pages in the CXL tier these come back first. A request of none admits
no work (R17, R490); one that comes during a move waits for its end. -/
def withPages (m : Msg) (op n : Nat) (body : State → State × Reply) (s : State) : State × Reply :=
  let h := m.f 0 4
  let i := hIdx h
  match s.session i with
  | some x =>
    let moving := s.plan.bwork.any (fun b => b.kind == .pageBack && decide (b.obj = i))
    if n ≠ 0 && s.live 2 h && s.owns m.client 2 h && s.inCxl x then
      if !moving && !s.backFits x then (s, .done stRefusedPages [])
      else (addWork { kind := .pageBack, client := m.client, mbox := m.mbox, obj := i, arg := op, model := x.model, beat := s.now, taken := false } s,
        waitFor m op h none 0)
    else body s
  | none => body s

/-! ## PREFILL (R287, R297, R299, R490) -/

/-- Token IDs of a PREFILL: in the payload, or by reference. -/
def State.prefillIds (s : State) (m : Msg) : List Word :=
  let n := m.f 8 4
  if m.refAddr = 0 then wordsOf ((m.payload.drop 16).take (4 * n))
  else if 4 * n ≤ m.refLen then wordsOf (s.refRead m (4 * n)) else []
/-- A session on which work may be admitted: not decoding, faulted, closing or in a prefill. -/
def Session.quiet (x : Session) : Bool := x.state != 2 && x.state != 4 && x.faulted.isNone && x.closing.isNone && x.prefill.isNone
/-- The session's pages of a reuse point attached: one reference each; frame sets that it held for positions not yet written are given up
(R299). -/
def attachNodes (i : Nat) (l : List TreeNode) (s : State) : State :=
  let old := match s.session i with | some x => x.pages | none => []
  let s0 := l.foldl (fun (s : State) (n : TreeNode) => s.onSet n.fs (fun y => { y with refs := y.refs + 1 })) s
  let s1 := old.foldl (fun (s : State) (f : Nat) => unrefSet f s) s0
  let s2 := s1.onPages (fun k => { k with nodes := updAll k.nodes (fun n => l.any (fun q => q.id == n.id)) (fun n => { n with attachedAt := s.now }) })
  s2.onSession i (fun x => { x with pages := l.map (·.fs), positions := 64 * l.length })
/-- A prefill that has been admitted. -/
def startPrefill (m : Msg) (x : Session) (k : Model) (ids : List Word) (s : State) : State :=
  let i := x.idx
  let reuse := (m.f 4 2).testBit 0 && decide (x.positions = 0)
  let mt := if reuse then s.matchTree k.idx k.dom k.keyM (blocksOf (ids.length / 64) ids) none 0 else ([], 0)
  let hit := toReuse mt.1
  let s1 := s.onPages (fun q => { q with hashCollisions := q.hashCollisions + mt.2 })
  let s2 := if hit.isEmpty then s1 else attachNodes i hit s1
  let s3 := match hit.getLast?.bind (·.snapshot) with
    | some o => addWork { kind := .reuse, client := m.client, mbox := 16, obj := i, arg := o, model := k.idx, beat := s.now, taken := false } s2
    | none => s2
  let got := 64 * hit.length
  let n := ids.length - got
  addWork { kind := .prefill, client := m.client, mbox := m.mbox, obj := i, arg := 0, model := k.idx, beat := s.now, taken := false }
    (s3.onSession i (fun y => { y with
      ids := y.ids ++ ids, prefill := some (y.positions, n, got, (m.f 4 2).testBit 1), reused := got, lastActive := s.now }))
/-- PREFILL, its pages in HBM. -/
def prefillMsg (m : Msg) (s : State) : State × Reply :=
  let h := m.f 0 4
  let n := m.f 8 4
  let byRef := decide (m.refAddr ≠ 0)
  let rc := if byRef then s.refChecks m (4 * n) false else ([], [])
  let ids := s.prefillIds m
  let x := (s.session (hIdx h)).getD (newSession 0 0 0 0 0 (s.ringAt 0) 0)
  let k := s.model x.model
  let vocab := match k with | some q => q.vocab | none => 0
  let pub := (m.f 4 2).testBit 1
  checked ([
    (s.live 2 h, stBadHandle),
    (decide (m.f 4 2 < 4), stBadFormat),
    (m.z 6 2, stBadFormat),
    (m.z 0xC 4, stBadFormat)] ++ rc.1 ++ [
    (!byRef || decide (4 * n ≤ m.refLen), stBadLength),
    (ids.all (fun t => decide (t.toNat < vocab)), stBadFormat),
    (decide (n = 0) || !pub || decide ((x.positions + n) % 64 = 0), stBadLength),
    (decide (x.positions + n ≤ x.maxCtx), stBadLength),
    (s.owns m.client 2 h, stRefusedDomain)] ++ rc.2 ++ [
    (decide (n = 0) || (x.quiet && (match k with
      | some q => q.suspended.isNone && q.unloading.isNone && (s.template q .prefill).isSome && s.chainFits q.pkg.prefillChain
      | none => false)), stRefusedBeat),
    (decide (n = 0) || s.aboveAdmit, stRefusedPages)])
    (fun s =>
      if n = 0 then (s, .done stOk (zeros 4))
      else match k with
        | some q => (startPrefill m x q ids s, waitFor m 0x0503 h none 0)
        | none => (s, .done stBadHandle [])) s
/-- The size that the catalogue gives a PREFILL (R466). -/
def prefillPlen (m : Msg) : Nat := if m.refAddr = 0 then 16 + 4 * m.f 8 4 else 16
/-- PREFILL. -/
def execPrefill (m : Msg) (s : State) : Host.Outcome State Fault Refusal :=
  .next (withMsg 0x0503 (some (prefillPlen m)) true m (withPages m 0x0503 (m.f 8 4) (prefillMsg m)) s)
/-- PREFILL_COMPLETE: the last command of the prefill has run; the final completion follows at the next tick. -/
def execPrefillComplete (i : Nat) (status0 : Half) (s : State) : Host.Outcome State Fault Refusal :=
  let status := tableStatus status0
  .next (match s.session i, s.plan.bwork.find? (fun b => b.kind == .prefill && decide (b.obj = i)) with
    | some x, some b =>
      match x.prefill with
      | none => s
      | some p =>
        let s1 := dropWork (· == b) s
        let n := p.1 + p.2.1
        let mine := (x.pages.take (cdiv n 64)).drop (p.1 / 64)
        let s2 := (mine.zipIdx.map (fun q => (q.1, q.2 + p.1 / 64))).foldl (fun (s : State) (q : Nat × Nat) =>
          let fill := min 64 (n - 64 * q.2)
          s.onSet q.1 (fun y => { y with fill := fill })) s1
        let s3 := if status = stOk then s2 else mine.foldl (fun (s : State) (f : Nat) => invalidSet status f s) s2
        let s4 := s3.onSession i (fun y => { y with positions := n, lastStatus := status, lastActive := s.now })
        s4.onCtrl (fun k => { k with
          pend := updAll k.pend (fun q => q.client == b.client && q.mbox == b.mbox) (fun q => { q with
            doneBeat := some (s.now + 1), arg := status.toNat + 65536 * b2n p.2.2.2 }) })
    | _, _ => s)
/-- REUSE_POINT_READY: the snapshot's copy is complete; its node becomes a reuse point at the next tick (R298 4). -/
def execReusePointReady (node : Nat) (s : State) : Host.Outcome State Fault Refusal :=
  let mine := fun (b : BWork) => b.kind == .snapshot && decide (b.obj = node)
  .next (if !s.copyRuns (DcpCopy.isFor mine) then s
    else s.onPlan (fun k => { k with bwork := updAll k.bwork mine (fun b => { b with taken := true }) }))
/-- Nodes whose snapshot has been copied become reuse points at a tick. -/
def reuseTick (s : State) : State :=
  (s.plan.bwork.filter (fun b => b.kind == .snapshot && b.taken)).foldl (fun (s : State) (b : BWork) =>
    (dropWork (· == b) s).onPages (fun k => { k with
      nodes := updFirst k.nodes (fun n => n.id == b.obj && n.snapshot.isSome) (fun n => { n with reusable := true }) })) s

/-! ## DECODE_START, DECODE_STOP (R490) -/

/-- DECODE_START, its pages in HBM. -/
def decodeStart (m : Msg) (s : State) : State × Reply :=
  let h := m.f 0 4
  let n := m.f 4 4
  let x := (s.session (hIdx h)).getD (newSession 0 0 0 0 0 (s.ringAt 0) 0)
  let r := s.newResv m.client (BitVec.ofNat 32 h) .I .decode x.model (s.domainOf m.client) 0
  let able := match s.model x.model with | some k => k.suspended.isNone && k.unloading.isNone | none => false
  checked [
    (s.live 2 h, stBadHandle),
    (decide (n = 0) || decide (x.positions < x.maxCtx), stBadLength),
    (s.owns m.client 2 h, stRefusedDomain),
    (decide (n = 0) || (x.quiet && able && s.resident x.rstate && s.admits [r]), stRefusedBeat),
    (decide (n = 0) || !x.pages.isEmpty || s.aboveAdmit, stRefusedPages)]
    (fun s =>
      if n = 0 then (s, .done stOk [])
      else (addReservations [r] (s.onSession (hIdx h) (fun y => { y with state := 2, left := n, lastActive := s.now })), .done stOk [])) s
/-- DECODE_START. -/
def execDecodeStart (m : Msg) (s : State) : Host.Outcome State Fault Refusal :=
  .next (withMsg 0x0504 (some 8) false m (withPages m 0x0504 (m.f 4 4) (decodeStart m)) s)
/-- DECODE_STOP. -/
def decodeStop (m : Msg) (s : State) : State × Reply :=
  let h := m.f 0 4
  checked [(s.live 2 h, stBadHandle), (s.owns m.client 2 h, stRefusedDomain)]
    (fun s => match s.session (hIdx h) with
      | some x =>
        if x.state = 2 ∨ x.state = 4 then
          ((releaseDecode (hIdx h) s).onSession (hIdx h) (fun y => { y with state := 1, left := 0 }), .done stOk [])
        else (s, .done stOk [])
      | none => (s, .done stOk [])) s
/-- DECODE_STOP. -/
def execDecodeStop (m : Msg) (s : State) : Host.Outcome State Fault Refusal :=
  .next (withMsg 0x0505 (some 4) false m (decodeStop m) s)

/-! ## SESSION_FORK, SESSION_QUERY (R302, R490) -/

/-- A position at which a session may be forked (R302). -/
def forkAt (positions j : Nat) : Bool :=
  decide (j ≤ positions) && (decide (j % 64 = 0) || decide (positions / 64 * 64 < j))
/-- SESSION_FORK. -/
def sessionFork (m : Msg) (s : State) : State × Reply :=
  let h := m.f 0 4
  let j := m.f 4 4
  let rs := m.f 8 4
  let ring := m.f 0x10 8
  let x := (s.session (hIdx h)).getD (newSession 0 0 0 0 0 (s.ringAt 0) 0)
  let recur := match s.model x.model with | some k => !k.pkg.recurrent.isEmpty | none => false
  let stepOk := match s.obj (hIdx rs) with | some o => decide (o.step = j) | none => false
  let able := match s.model x.model with | some k => k.unloading.isNone | none => false
  checked ([
    (s.live 2 h && s.liveOr0 3 rs, stBadHandle),
    (forkAt x.positions j, stBadFormat),
    (if rs = 0 then !recur else s.freeObjOf x.model rs && stepOk, stBadFormat),
    (m.z 0xC 4, stBadFormat)] ++ s.ringChecks ring ++ [
    (s.owns m.client 2 h && s.owns m.client 3 rs, stRefusedDomain),
    (x.state != 2 && x.state != 4 && x.prefill.isNone && x.closing.isNone && able && (s.nextIdx 2).isSome, stRefusedBeat)])
    (fun s => match s.nextIdx 2 with
      | none => (s, .done stRefusedBeat [])
      | some i =>
        let s1 := s.issue 2 i
        let hc := s1.handleOf 2 i
        let pages := x.pages.take (cdiv j 64)
        let c := { newSession i m.client x.model (BitVec.ofNat 32 rs) x.maxCtx (s.ringAt ring) s.now with
          positions := j, ids := x.ids.take j, pages := pages }
        let s2 := pages.foldl (fun (s : State) (f : Nat) => s.onSet f (fun y => { y with refs := y.refs + 1 })) s1
        let s3 := s2.onCtrl (fun k => { k with sessions := k.sessions ++ [c] })
        (startRing ring (setOwnerOf (BitVec.ofNat 32 rs) (BitVec.ofNat 32 hc) s3), .done stOk (natLe 4 hc))) s
/-- SESSION_FORK. -/
def execSessionFork (m : Msg) (s : State) : Host.Outcome State Fault Refusal :=
  .next (withMsg 0x0506 (some 24) false m (sessionFork m) s)
/-- The entries of one page of a session's page table. -/
def State.pageRow (s : State) (x : Session) (layers p : Nat) : List Byte :=
  match (x.pages[p]?).bind s.fset with
  | some f => f.locs.flatMap (fun l => natLe 8 (if l.tier = 0 then 0 else pageEntry f l (min 64 (x.positions - 64 * p))))
  | none => zeros (8 * layers)
/-- Attention layers of a session's model. -/
def State.layersOf (s : State) (x : Session) : Nat := match s.geom x.model with | some g => g.layers | none => 0
/-- SESSION_QUERY. -/
def sessionQuery (m : Msg) (s : State) : State × Reply :=
  let h := m.f 0 4
  let p0 := m.f 4 4
  let n := m.f 8 4
  let x := (s.session (hIdx h)).getD (newSession 0 0 0 0 0 (s.ringAt 0) 0)
  let a := s.layersOf x
  let rc := s.refChecks m (8 * n * a) true
  checked ([
    (s.live 2 h, stBadHandle)] ++ rc.1 ++ [
    (decide (8 * n * a ≤ m.refLen), stBadLength),
    (decide (p0 + n ≤ x.maxCtx / 64), stBadLength),
    (m.z 0xC 4, stBadFormat),
    (s.owns m.client 2 h, stRefusedDomain)] ++ rc.2)
    (fun s =>
      let rows := (List.range n).flatMap (fun i => s.pageRow x a (p0 + i))
      (refWrite m rows s, .done stOk (natLe 1 x.state ++ natLe 1 (lenBucket x.positions) ++ zeros 2 ++ natLe 4 x.positions ++
        natLe 4 x.holds ++ zeros 4))) s
/-- SESSION_QUERY. -/
def execSessionQuery (m : Msg) (s : State) : Host.Outcome State Fault Refusal :=
  .next (withMsg 0x0507 (some 16) true m (sessionQuery m) s)

/-! ## Page moves (R288, R290, R291) -/

/-- PAGE_MOVE_COMPLETE: the copy of a page of an idle session is complete; its entries change at the next tick. -/
def execPageMoveComplete (i p : Nat) (s : State) : Host.Outcome State Fault Refusal :=
  .next (match s.session i with
    | none => s
    | some x => match x.pages[p]? with
      | none => s
      | some f =>
        let mine := fun (b : BWork) => b.kind == .pageMove && decide (b.obj = i ∧ b.arg = f)
        if !s.copyRuns (DcpCopy.isFor mine) then s
        else s.onPlan (fun k => { k with bwork := updAll k.bwork mine (fun b => { b with taken := true }) }))
/-- A move may take effect: its frame set is private still, and its session idle (R289). -/
def State.stillMoves (s : State) (b : BWork) : Bool :=
  match s.session b.obj, s.fset b.arg with
  | some x, some f => s.idleSession x && !f.shared
  | _, _ => false
/-- Completed moves take effect at a tick; one whose frame set has become shared, or whose session has work again, does not. -/
def moveTick (s : State) : State :=
  (s.plan.bwork.filter (fun b => b.kind == .pageMove && b.taken)).foldl (fun (s : State) (b : BWork) =>
    let s1 := dropWork (· == b) s
    if s.stillMoves b then moveSetOut (s.handleOf 2 b.obj) b.arg s1 else s1.onSet b.arg (fun y => { y with moving := false })) s
/-- A request that waited for its session's pages is checked (R291). -/
def checkNow (b : BWork) (s : State) : State :=
  match s.box b.client b.mbox with
  | none => s
  | some bx =>
    let m := msgOf bx
    let r := if b.arg = 0x0503 then prefillMsg m s else decodeStart m s
    match r.2 with
    | .done st reply => completeOwned b.client b.mbox st reply r.1
    | .pending w => r.1.onCtrl (fun k => { k with
        pend := k.pend.filter (fun p => !(p.client == w.client && p.mbox == w.mbox)) ++ [w] })
/-- PAGE_MOVE_BACK_COMPLETE: the pages are in HBM again; the requests that waited for them are checked now, in the order in which they
came (R291). -/
def execPageMoveBackComplete (i : Nat) (s : State) : Host.Outcome State Fault Refusal :=
  .next (match s.session i with
    | some x =>
      let hit := s.plan.bwork.filter (fun b => b.kind == .pageBack && decide (b.obj = i))
      let s0 := dropWork (fun b => b.kind == .pageBack && decide (b.obj = i)) s
      if hit.isEmpty || !s.copyRuns (DcpCopy.isFor (fun b => b.kind == .pageBack && decide (b.obj = i))) then s
      else match backPages x s0 with
      | none => hit.foldl (fun (s : State) (b : BWork) => completeOwned b.client b.mbox stRefusedPages [] s) s0
      | some s1 => hit.foldl (fun (s : State) (b : BWork) => checkNow b s) s1
    | none => s)

/-! ## Token records (R493 to R496, R514) -/

/-- The status of a session's step of the beat: of its first command in plan order that is not OK (R67). -/
def State.stepStatus (s : State) (h : Word) : Half :=
  match s.plan.cur.find? (fun c => c.kind == .decode && c.obj == h && c.status != stOk) with
  | some c => c.status
  | none => stOk
/-- A record written into a session's ring, and WR_IDX advanced; nothing while RD_IDX is invalid (R496). -/
def writeToken (i : Nat) (rec_ : List Byte) (s : State) : State :=
  match s.session i with
  | none => s
  | some x =>
    if !x.ring.valid then s
    else
      let at_ := x.ring.addr + 0x40 + x.ring.wr.toNat % 2 ^ x.ring.sizeLog2 * 16
      let first := !s.ctrl.sessions.any (fun y => y.client == x.client && y.recBeat == some s.now && y.ring.valid)
      let s1 := carveWrite x.ring.addr (natLe 4 (x.ring.wr + 1).toNat) (carveWrite at_ rec_ s)
      let s2 := s1.onSession i (fun y => { y with ring := { y.ring with wr := y.ring.wr + 1 }, recBeat := some s.now })
      let s3 := s2.onBlock x.client (fun b => { b with token := true })
      if first then raiseIrq x.client (·.enToken) 0 s3 else s3
/-- The session's state object was destroyed by force in an earlier beat (R229): no plan of a later beat holds a step of it,
so the step of this beat is the last one. -/
def State.stateGone (s : State) (x : Session) : Bool :=
  x.rstate != 0 && s.ctrl.objs.any (fun o => o.idx == hIdx x.rstate.toNat && o.gone &&
    (match o.freeAt with | some f => decide (f ≤ s.now + 1) | none => false))
/-- TOKEN_RECORD_WRITE: the token of the session's step of this beat. -/
def execTokenRecordWrite (i : Nat) (token : Word) (status : Half) (s : State) : Host.Outcome State Fault Refusal :=
  let h := BitVec.ofNat 32 (s.handleOf 2 i)
  .next (match s.session i with
    | none => s
    | some x =>
      if !s.plan.cur.any (fun c => c.kind == .decode && c.obj == h) || x.recBeat == some s.now then s
      else
        let st := if s.stepStatus h ≠ stOk then s.stepStatus h else tableStatus status
        let tok := if st = stOk then token else 0xFFFFFFFF
        let last := decide (x.left = 1) || (match x.faulted with | some f => decide (f.1 < s.now) | none => false) ||
          s.stateGone x
        let rec_ := natLe 4 tok.toNat ++ natLe 2 st.toNat ++ natLe 2 (b2n last) ++ natLe 4 x.positions ++ natLe 4 s.now
        let s1 := writeToken i rec_ s
        let n := x.positions % 64 + 1
        let s2 := match x.pages[x.positions / 64]? with
          | some f => s1.onSet f (fun y => { y with fill := n })
          | none => s1
        let s3 := s2.onSession i (fun y => { y with
          positions := y.positions + 1, ids := y.ids.take y.positions ++ [tok], left := y.left - 1, lastStatus := st, lastActive := s.now,
          recBeat := some s.now, state := if x.state = 2 ∧ x.left = 1 then 1 else y.state })
        let s4 := if last then releaseDecode i s3 else s3
        if st = stOk then s4 else faultSession st i s4)

/-! ## Telemetry (R496 to R499) -/

/-- One telemetry record: its header and body. -/
def telemBytes (beat : Nat) (e : Nat × List Byte) : List Byte := natLe 2 e.1 ++ natLe 2 64 ++ zeros 4 ++ natLe 8 beat ++ fit 48 e.2
/-- TELEMETRY_WRITE: the records of the beat before, as far as they fit; the others are counted in LOST. -/
def execTelemetryWrite (client : Nat) (s : State) : Host.Outcome State Fault Refusal :=
  .next (match s.ctrl.telems.find? (·.client == client) with
    | none => s
    | some t =>
      let r := t.ring
      let room := if r.valid then 2 ^ r.sizeLog2 - r.unread else 0
      let put := t.ready.take room
      let lost := t.ready.length - put.length
      if t.ready.isEmpty then s
      else
        let s1 := put.zipIdx.foldl (fun (s : State) (e : List Byte × Nat) =>
          carveWrite (r.addr + 0x40 + (r.wr.toNat + e.2) % 2 ^ r.sizeLog2 * 64) e.1 s) s
        let wr := r.wr + BitVec.ofNat 32 put.length
        let holds := r.holds + BitVec.ofNat 32 lost
        let s2 := carveWrite (r.addr + 0x10) (natLe 4 holds.toNat) (if put.isEmpty then s1 else carveWrite r.addr (natLe 4 wr.toNat) s1)
        let s3 := s2.onCtrl (fun k => { k with telems := updAll k.telems (fun q => q.client == client) (fun q => { q with
          ring := { q.ring with wr := wr, holds := holds }, ready := [], lastWritten := some s.now }) })
        if put.isEmpty then s3
        else
          let s4 := s3.onBlock client (fun b => { b with telem := true })
          if t.lastWritten = some s.now then s4 else raiseIrq client (·.enTelem) 0 s4)

/-! ## At each tick -/

/-- RD_IDX of every ring read (R496). -/
def readRings (s : State) : State :=
  let rd := fun (r : RingSt) => { r with rdSnap := BitVec.ofNat 32 (leNat (s.carveRead (r.addr + 4) 4)) }
  s.onCtrl (fun k => { k with
    sessions := k.sessions.map (fun x => { x with ring := rd x.ring }), telems := k.telems.map (fun t => { t with ring := rd t.ring }) })
/-- Publications due at a tick, in ascending session index (R298, R300). -/
def publishTick (s : State) : State :=
  let due := s.ctrl.pend.filter (fun p => p.opcode == 0x0503 && decide (65536 ≤ p.arg) &&
    (match p.doneBeat with | some b => decide (b ≤ s.now) | none => false))
  (sortBy id (due.map (fun p => hIdx p.obj.toNat))).foldl (fun (s : State) (i : Nat) => publish i s) s
/-- Sessions whose close is due. -/
def closeTick (s : State) : State :=
  let due := (s.ctrl.sessions.filter (fun x => match x.closing with | some b => decide (b ≤ s.now) | none => false)).map (·.idx)
  due.foldl (fun (s : State) (i : Nat) => finishClose i s) s

end Sys2Proof.Machine
end

