-- ==== Sys2Proof/Machine/StopExec.lean ====
section
/-! DEFINITION. STOPWORD_START and STOPWORD_STOP (R519 to R522, R525). -/

namespace Sys2Proof.Machine

/-- The port, or PDM clock, of a port channel. -/
def portKey (c : Channel) : Nat := if c.r 1 1 = 2 then c.r 2 1 else 16 + c.r 2 1 / 4
/-- A channel that a detector may read: a port input with single-frame chunks at a hop of 80 (R520). -/
def Channel.stopwordOk (c : Channel) : Bool := c.isIn && !c.net && decide (c.chunk = 1) && decide (c.hop = 80)
/-- Internal samples of a channel at the end of a beat (R419). -/
def State.samplesAt (s : State) (c : Channel) : Nat :=
  match c.startBeat with
  | some b => if b ≤ s.now then c.intBase + c.internal.length + (if c.inBeat = some s.now then 0 else s.beat.cur.period.toNat) else 0
  | none => 0
/-- FIRST_FRAME of the first chunk that a detector admitted now will judge: the first one pushed after this beat (R525, R60). -/
def State.firstFrame (s : State) (c : Channel) : Nat :=
  let n := s.samplesAt c
  if n < c.win then 0 else (n - c.win) / 80 + 1
/-- A path of a slot as it is loaded. -/
def newPath (s : State) (ch st : Nat) : SwPath :=
  { channel := BitVec.ofNat 32 ch, state := BitVec.ofNat 32 st,
    frame := (match s.channel (hIdx ch) with | some c => s.firstFrame c | none => 0), expect := none, deadline := 0, got := 0, clearSeen := false,
    clearSinceHold := false, lastClear := s.now, lost := false }
/-- The sender is bound to the safety domain (R519). -/
def State.isSafety (s : State) (client : Nat) : Bool :=
  s.safe.safetyDomain != 0xFF && decide (s.domainOf client = s.safe.safetyDomain.toNat)
/-- An object of a model. -/
def State.objOf (s : State) (model h : Nat) : Bool := match s.obj (hIdx h) with | some o => decide (o.model = hIdx model) | none => false
/-- STOPWORD_START. -/
def stopwordStart (m : Msg) (s : State) : State × Reply :=
  let mo := m.f 0 4
  let ca := m.f 4 4
  let cb := m.f 8 4
  let sa := m.f 0xC 4
  let sb := m.f 0x10 4
  let k := m.f 0x14 1
  let dom := s.domainOf m.client
  let a := s.channel (hIdx ca)
  let b := s.channel (hIdx cb)
  let r := fun (p : Nat) => s.newResv m.client (BitVec.ofNat 32 (2 * k + p)) .D .stopword (hIdx mo) dom p
  checked [
    (s.live 4 mo && s.live 1 ca && s.live 1 cb && s.live 3 sa && s.live 3 sb, stBadHandle),
    (a.any (·.stopwordOk), stBadFormat),
    (b.any (·.stopwordOk) && decide (a.map portKey ≠ b.map portKey), stBadFormat),
    (s.objOf mo sa, stBadFormat),
    (s.objOf mo sb, stBadFormat),
    (decide (k ≤ 7), stBadLength),
    (m.z 0x15 3, stBadFormat),
    (s.isSafety m.client && s.owns m.client 4 mo && s.owns m.client 1 ca && s.owns m.client 1 cb && s.owns m.client 3 sa &&
      s.owns m.client 3 sb, stRefusedDomain),
    ((s.swSlot k).isNone && decide (2 ≤ (s.svcList .cluster).length) && !s.unloading mo && s.resident (BitVec.ofNat 32 sa) &&
      s.resident (BitVec.ofNat 32 sb) && s.admits [r 0, r 1], stRefusedBeat)]
    (fun s =>
      let slot : SwSlot := {
        slot := k, client := m.client, mbox := m.mbox, model := hIdx mo, running := true, started := false, stopAt := none,
        stopMsg := none, paths := [newPath s ca sa, newPath s cb sb] }
      (addReservations [r 0, r 1] (s.onCtrl (fun c => { c with slots := c.slots ++ [slot] })), waitFor m 0x0611 k none 0)) s
/-- STOPWORD_START. -/
def execStopwordStart (m : Msg) (s : State) : Host.Outcome State Fault Refusal :=
  .next (withMsg 0x0611 (some 24) false m (stopwordStart m) s)
/-- Slots that run beside one. -/
def State.otherSlots (s : State) (k : Nat) : Bool := s.ctrl.slots.any (fun w => decide (w.slot ≠ k) && w.started && w.stopAt.isNone)
/-- STOPWORD_STOP. -/
def stopwordStop (m : Msg) (s : State) : State × Reply :=
  let k := m.f 0 1
  let w := s.swSlot k
  checked [
    (decide (k ≤ 7), stBadLength),
    (m.z 1 3, stBadFormat),
    (s.isSafety m.client && (match w with | some q => decide (q.client = m.client) | none => true), stRefusedDomain),
    ((match w with | some q => q.stopAt.isNone | none => true), stRefusedBeat)]
    (fun s => match w with
      | none => (s, .done stOk [])
      | some q =>
        let s1 := (s.onSwSlot k (fun w => { w with stopAt := some (s.now + 2), stopMsg := some (m.client, m.mbox) })).onPlan (fun p => { p with
          resvs := p.resvs.filter (fun r => !(r.kind == .stopword && decide (r.obj.toNat / 2 = k))) })
        let s2 := if q.started && !s.otherSlots k then assertHold 0x0F 0 0 k s1 else s1
        (if q.started then s2 else completeOwned q.client q.mbox stFenced [] s2, waitFor m 0x0612 k none 0)) s
/-- STOPWORD_STOP. -/
def execStopwordStop (m : Msg) (s : State) : Host.Outcome State Fault Refusal :=
  .next (withMsg 0x0612 (some 4) false m (stopwordStop m) s)
/-- Slots that stop at a tick: SW_RUN cleared, the message that asked for it completed (R521, R522). -/
def stopTick (s : State) : State :=
  let due := s.ctrl.slots.filter (fun w => match w.stopAt with | some b => decide (b ≤ s.now) | none => false)
  let out := due.foldl (fun (s : State) (w : SwSlot) =>
    let s1 := (s.onCtrl (fun c => { c with slots := c.slots.filter (fun q => decide (q.slot ≠ w.slot)) })).onSafe (fun k => { k with
      swRun := k.swRun &&& ~~~(BitVec.ofNat 8 (2 ^ w.slot)) })
    let s2 := if w.started then s1 else completeOwned w.client w.mbox stFenced [] s1
    match w.stopMsg with
    | some p => completeOwned p.1 p.2 stOk [] s2
    | none => s2) s
  if s.safe.swRun ≠ 0 ∧ out.safe.swRun = 0 then assertHold 0x0F 0 0 0xFF out else out

end Sys2Proof.Machine
end

