-- ==== Sys2Proof/Machine/PlanExec.lean ====
section
/-! DEFINITION. Composing a plan (R33, R34, R53 to R63, R78, R255, R267, R284 to R292, R303 to R305, R408, R495). -/

namespace Sys2Proof.Machine

/-! ## Fit restored (R62) -/

/-- The settings of the beat that a plan is for (R40). -/
def State.cfgAt (s : State) (n : Nat) : BeatCfg :=
  if s.beat.applyAt ≠ 0 ∧ s.beat.applyAt.toNat ≤ n then s.beat.next else s.beat.cur
/-- The model of a reservation holds it back (R34). -/
def State.modelHeld (s : State) (r : Resv) : Bool :=
  s.plan.suspendedModels.contains r.model || (match s.model r.model with | some m => m.suspended.isSome | none => true)
/-- A reservation's work goes on, or not. -/
def markResv (r : Resv) (susp : Bool) (s : State) : State :=
  s.onPlan (fun p => { p with resvs := updAll p.resvs (fun x => x.seq == r.seq) (fun x => { x with suspended := susp }) })
/-- The gain or run change that a channel waits with completes with a status. -/
def endPending (st : Half) (i : Nat) (s : State) : State :=
  match (s.channel i).bind (·.pendingCh) with
  | some g => (g.clients.foldl (fun (s : State) (q : Nat × Nat) => complete q.1 q.2 st [] s) s).onChannel i (fun c => { c with pendingCh := none })
  | none => s
/-- The token ring has room for every record not yet written and one more (R495, R496). -/
def State.ringRoom (s : State) (x : Session) : Bool :=
  x.ring.valid && decide (x.ring.unread + s.unwritten x + 1 ≤ 2 ^ x.ring.sizeLog2)
/-- The token record of a session's step that is not planned, with its status: the work's last where it has come to an end (R286, R305),
not so where the session is suspended (R62; DEDUCED, log entry 159). -/
def endRecord (last : Nat) (st : Half) (i : Nat) (s : State) : State :=
  match s.session i with
  | some x =>
    if x.state = 2 ∧ s.ringRoom x = true then
      (writeToken i (natLe 4 0xFFFFFFFF ++ natLe 2 st.toNat ++ natLe 2 last ++ natLe 4 (s.nextPos x) ++ natLe 4 (s.now + 1)) s).onSession i
        (fun y => { y with recBeat := x.recBeat })
    else s
  | none => s
/-- A session or channel suspended with FENCED: its pending steps and work complete so, it keeps its state and pages, its output is at
digital zero (R62). -/
def suspendResv (r : Resv) (s : State) : State :=
  let s1 := markResv r true s
  let i := hIdx r.obj.toNat
  let s2 := match r.kind with
    | .decode => (endRecord 0 stFenced i s1).onSession i (fun x => { x with state := 4, lastStatus := stFenced })
    | .decoder => (endPending stFenced i s1).onChannel i (fun c => { c with zeroed := true })
    | .encode => endPending stFenced i s1
    | _ => s1
  eventRec r.client r.obj stFenced s2
/-- A suspended session or channel resumes. -/
def resumeResv (r : Resv) (s : State) : State :=
  let s1 := markResv r false s
  let s2 := match r.kind with
    | .decode => s1.onSession (hIdx r.obj.toNat) (fun x => { x with state := 2 })
    | _ => s1
  eventRec r.client r.obj stOk s2
/-- The newest admission of a class that R62 may suspend. -/
def State.newest (s : State) (cls : Cls) : Option Resv :=
  (sortBy (·.seq) (s.standing.filter (fun r => r.cls == cls && r.kind != .stopword))).getLast?
/-- Class I sessions, then class D channels, suspended newest first until the standing reservations fit. -/
def suspendUntil (cfg : BeatCfg) : Nat → State → State
  | 0, s => s
  | k + 1, s =>
    if s.resvsFit cfg s.standing then s
    else match s.newest .I with
      | some r => suspendUntil cfg k (suspendResv r s)
      | none => match s.newest .D with
        | some r => suspendUntil cfg k (suspendResv r s)
        | none => s
/-- Suspended work resumes in admission order, up to the first that does not fit; work of a model that is itself suspended is passed
over. -/
def resumeAll (cfg : BeatCfg) (s : State) : State :=
  ((sortBy (·.seq) (s.plan.resvs.filter (·.suspended))).foldl (fun (a : State × Bool) (r : Resv) =>
    if a.2 || a.1.modelHeld r then a
    else if a.1.resvsFit cfg (a.1.standing ++ [r]) then (resumeResv r a.1, false) else (a.1, true)) (s, false)).1
/-- FIT_RESTORE. -/
def restoreFit (cfg : BeatCfg) (s : State) : State :=
  if s.resvsFit cfg s.standing then resumeAll cfg s else suspendUntil cfg s.plan.resvs.length s

/-! ## Reclaim (R288 to R292) -/

/-- A frame set has a frame in a stack. -/
def FrameSet.onStack (x : FrameSet) (k : Nat) : Bool := x.locs.any (fun l => l.tier == 1 && l.stack == k)
/-- Tree nodes that no page table names, of those not yet freed (R301). -/
def State.loose (s : State) (frees : List Nat) : List TreeNode :=
  s.pages.nodes.filter (fun n => !frees.contains n.id && !s.ctrl.sessions.any (fun x => x.pages.contains n.fs))
/-- A node of some, or one above it among them, has a frame in a stack. -/
def State.leadsTo (s : State) (l : List TreeNode) (k : Nat) : Nat → TreeNode → Bool
  | 0, _ => false
  | d + 1, n =>
    (match s.fset n.fs with | some x => x.onStack k | none => false) ||
    (match l.find? (fun m => n.parent == some m.id) with | some m => s.leadsTo l k d m | none => false)
/-- Of these, the leaves whose freeing frees a frame in a stack, or lets a node above them that has one be freed, the least recently
attached first (R288 1). -/
def State.looseLeaf (s : State) (k : Nat) (frees : List Nat) : Option TreeNode :=
  let l := s.loose frees
  (sortBy (fun n => n.attachedAt * 2 ^ 32 + n.id) (l.filter (fun n =>
    !s.pages.nodes.any (fun c => c.parent == some n.id && !frees.contains c.id) && s.leadsTo l k (l.length + 1) n))).head?
/-- Bytes of the CXL share of pool `k` in use, moves in progress included (R275). -/
def State.shareUsed (s : State) (k : Nat) : Nat :=
  (s.pages.sets.map (fun x => (x.locs.filter (fun l => l.stack == k && (l.tier == 2 || (l.tier == 1 && x.moving)))).length *
    s.modelF x.model)).foldl (· + ·) 0
/-- Every pool that holds a frame of the set has room in its own share (R292). -/
def State.shareRoom (s : State) (x : FrameSet) : Bool :=
  (List.range 16).all (fun k =>
    let n := (x.locs.filter (fun l => l.tier == 1 && l.stack == k)).length
    decide (n = 0) || decide (s.shareUsed k + n * s.modelF x.model ≤ (s.ppool k).cxl2M * regionSize))
/-- A private frame set that step 2 may move off a stack. -/
def State.movable (s : State) (k : Nat) (x : FrameSet) : Bool :=
  !x.shared && !x.moving && x.locs.all (fun l => l.tier == 1) && x.onStack k && s.shareRoom x
/-- The frame set that step 2 moves next off a stack: least recently active session, highest page first. -/
def State.nextMove (s : State) (k : Nat) : Option (Session × FrameSet) :=
  (sortBy (fun x => x.lastActive * 2 ^ 20 + x.idx) (s.ctrl.sessions.filter s.idleSession)).findSome? (fun x =>
    ((x.pages.reverse.filterMap s.fset).find? (s.movable k)).map (fun f => (x, f)))
/-- The free level with the frames that are on their way out counted as free (R290). -/
def State.phiSoon (s : State) (k : Nat) (frees : List Nat) : Nat :=
  let gone := (s.pages.nodes.filter (fun n => frees.contains n.id)).map (·.fs)
  (s.onPages (fun p => { p with sets := p.sets.filter (fun x => !x.moving && !gone.contains x.id) })).phi k
/-- Stack `k` reclaimed until φ reaches EVICT_PM: the nodes freed at the tick, and the moves begun. -/
def reclaimStack (k : Nat) : Nat → State × List Nat → State × List Nat
  | 0, a => a
  | n + 1, a =>
    if (a.1.ppool k).size2M = 0 ∨ (a.1.ppool k).evictPm ≤ a.1.phiSoon k a.2 then a
    else match a.1.looseLeaf k a.2 with
      | some q => reclaimStack k n (a.1, a.2 ++ [q.id])
      | none => match a.1.nextMove k with
        | some q => reclaimStack k n (addWork {
            kind := .pageMove, client := q.1.client, mbox := 16, obj := q.1.idx, arg := q.2.id, model := q.2.model, beat := a.1.now,
            taken := false } (a.1.onSet q.2.id (fun x => { x with moving := true })), a.2)
        | none => a
/-- FRAME_RECLAIM on every stack in service. -/
def reclaimAll (s : State) : State × List Nat :=
  (s.svcList .nmu).foldl (fun (a : State × List Nat) (k : Nat) =>
    reclaimStack k (s.pages.nodes.length + s.pages.sets.length) a) (s, [])
/-- Something on a stack can still be reclaimed, or is being (R286). -/
def State.reclaimable (s : State) (k : Nat) : Bool :=
  (s.loose []).any (fun n => match s.fset n.fs with | some x => x.onStack k | none => false) ||
  s.pages.sets.any (fun x => x.moving && x.onStack k) || (s.nextMove k).isSome

/-! ## Frames assigned (R284 to R286) -/

/-- New frame sets at the end of a session's page table until it has `n` pages. -/
def growPages (i layers : Nat) : Nat → State → State
  | 0, s => s
  | k + 1, s =>
    match s.session i with
    | none => s
    | some x =>
      let r := newSet x.model (match s.model x.model with | some m => m.dom | none => 0) x.pages.length layers s
      growPages i layers k (r.1.onSession i (fun y => { y with pages := y.pages ++ [r.2] }))
/-- The frames of some of a session's pages assigned as far as there are any (FRAME_ASSIGN). -/
def assignPages (i : Nat) (pages : List Nat) (s : State) : State :=
  pages.foldl (fun (s : State) (p : Nat) =>
    match (s.session i).bind (fun x => x.pages[p]?) with
    | some f =>
      let missing := match s.fset f with | some y => y.locs.any (fun l => l.tier == 0) | none => false
      if missing then writeTrailers f (s.handleOf 2 i) (assignSet f s).1 else s
    | none => s) s
/-- Stacks on which a frame set lacks its frame. -/
def State.lacking (s : State) (f : Nat) : List Nat :=
  match s.fset f with
  | none => []
  | some x =>
    match s.geom x.model with
    | none => []
    | some g => (x.locs.zipIdx.filter (fun p => p.1.tier == 0)).map (fun p => s.pageStack x.dom g x.page p.2)
/-- What becomes of a session whose frame is missing. -/
inductive FrameFate where
  | ready | hold | stop
  deriving DecidableEq, Repr
/-- The fate of work that writes some frame sets. -/
def State.fate (s : State) (sets : List Nat) : FrameFate :=
  let need := sets.flatMap s.lacking
  if need.isEmpty then .ready else if need.all s.reclaimable then .hold else .stop

/-! ## Decode steps (R285, R303, R305, R495) -/

/-- CONTEXT_LIMIT: sessions that hold MAX_CTX positions end their decode work with BAD_LENGTH (R305). -/
def limitContexts (s : State) : State :=
  (s.ctrl.sessions.filter (fun x => x.state == 2 && decide (x.maxCtx ≤ x.positions))).foldl (fun (s : State) (x : Session) =>
    (releaseDecode x.idx (endRecord 1 stBadLength x.idx s)).onSession x.idx (fun y => { y with state := 1, left := 0, lastStatus := stBadLength })) s
/-- A step held for want of a frame (R285). -/
def holdStep (i : Nat) (s : State) : State :=
  (s.onSession i (fun x => { x with holds := x.holds + 1 })).onPages (fun p => { p with pageHolds := p.pageHolds + 1 })
/-- A step held for want of room in its ring (R495). -/
def holdToken (i : Nat) (s : State) : State :=
  match s.session i with
  | none => s
  | some x =>
    let h := x.ring.holds + 1
    (carveWrite (x.ring.addr + 0x10) (natLe 4 h.toNat) (s.onSession i (fun y => { y with ring := { y.ring with holds := h } }))).onPages
      (fun p => { p with tokenHolds := p.tokenHolds + 1 })
/-- A session decodes on into the next beat: one that is faulted in this beat takes a last step (R514). -/
def State.stepsOn (s : State) (x : Session) : Bool :=
  match x.faulted with
  | some f => decide (f.1 = s.now)
  | none => x.state == 2
/-- A session takes a step in the next beat, if nothing holds it: the sessions that do, so far, are `l`. -/
def stepOne (i : Nat) (a : State × List Nat) : State × List Nat :=
  match a.1.session i with
  | none => a
  | some x =>
    let s := a.1
    let p := s.nextPos x
    if s.stepsOn x = false ∨ x.closing.isSome = true ∨ s.resident x.rstate = false ∨ s.objsLive .decode (BitVec.ofNat 32 (s.handleOf 2 i)) = false ∨ x.left ≤ s.unwritten x ∨
        x.maxCtx ≤ p then a
    else
      let layers := s.layersOf x
      let n := min ((p + 8) / 64 + 1) (x.maxCtx / 64)
      let s1 := if layers = 0 then s else assignPages i (List.range n) (growPages i layers (n - x.pages.length) s)
      if !s.ringRoom x then (holdToken i s1, a.2)
      else match (s1.session i).bind (fun y => y.pages[p / 64]?) with
      | none => (s1, a.2 ++ [i])
      | some f => match s1.fate [f] with
        | .ready => (s1, a.2 ++ [i])
        | .hold => (holdStep i s1, a.2)
        | .stop => (stopSession stPagesExhausted i (endRecord 1 stPagesExhausted i s1), a.2)
/-- The frame set that a session's step of the next beat writes. -/
def State.writes (s : State) (i : Nat) : Option Nat := (s.session i).bind (fun x => x.pages[s.nextPos x / 64]?)
/-- Of some writers, ascending, those that copy (R303): all with a shared set, but for the lowest of a set that is its only
holder once the others have copied. -/
def State.copiers (s : State) (l : List Nat) : List Nat :=
  l.filter (fun i =>
    match s.writes i with
    | none => false
    | some f =>
      let same := l.filter (fun j => s.writes j == some f)
      match s.fset f with
      | some x => decide (1 < x.refs) && !(decide (x.refs = same.length) && same.head? == some i)
      | none => false)
/-- A new frame set on the stacks of another one, if each has a frame. -/
def twinSet (f : Nat) (s : State) : Option (State × Nat) :=
  match s.fset f with
  | none => none
  | some x =>
    let r := newSet x.model x.dom x.page x.locs.length s
    (x.locs.zipIdx.foldl (fun (acc : Option State) (p : FrameLoc × Nat) =>
      acc.bind (fun t => (t.takeFrame p.1.stack x.model x.dom).map (fun q =>
        q.2.onSet r.2 (fun y => { y with
          locs := y.locs.set p.2 { tier := 1, stack := p.1.stack, off := q.1, inv := none, sealed := false } }))))
      (some r.1)).map (fun t => (t, r.2))
/-- Copies for some writers; the first writer without a frame, where there is one. -/
def takeTwins : List Nat → State → List (Nat × Nat × Nat) → Nat ⊕ (State × List (Nat × Nat × Nat))
  | [], s, out => .inr (s, out)
  | i :: r, s, out =>
    match s.writes i with
    | none => takeTwins r s out
    | some f => match twinSet f s with
      | none => .inl i
      | some q => takeTwins r q.1 (out ++ [(i, f, q.2)])
/-- The stacks of a frame set. -/
def State.stacksOf (s : State) (f : Nat) : List Nat :=
  match s.fset f with | some x => (x.locs.map (·.stack)).eraseDups | none => []
/-- A writer held: a decode step is counted, a prefill waits (R285). -/
def holdWriter (i : Nat) (s : State) : State :=
  if (s.session i).any (fun x => x.prefill.isSome) then s else holdStep i s
/-- COPY_ON_WRITE among the writers of a plan: a writer that finds no frame is held or stopped, and the rule is applied again
among the others. -/
def copyWriters : Nat → List Nat → State → State × List Nat × List (Nat × Nat × Nat)
  | 0, _, s => (s, [], [])
  | n + 1, l, s =>
    match takeTwins (s.copiers l) s [] with
    | .inr q => (q.1, l, q.2)
    | .inl i =>
      let f := (s.writes i).getD 0
      let s1 := if (s.stacksOf f).all (fun k => s.reclaimable k || (s.takeFrame k
          (match s.fset f with | some x => x.model | none => 0) (match s.fset f with | some x => x.dom | none => 0)).isSome)
        then holdWriter i s else stopSession stPagesExhausted i (endRecord 1 stPagesExhausted i s)
      copyWriters n (l.filter (fun j => decide (j ≠ i))) s1
/-- The decode steps of the next beat: the state with frames assigned and holds counted, and the sessions. -/
def planSteps (s : State) : State × List Nat :=
  let due := (s.standing.filter (fun r => r.kind == .decode && decide (r.beat < s.now) && !s.modelHeld r)).map (fun r => hIdx r.obj.toNat)
  (sortBy id due).foldl (fun (a : State × List Nat) (i : Nat) => stepOne i a) (s, [])

/-! ## Class B work (R58, R63, R299) -/

/-- A plan in the making: its commands, its page copies, the clients whose class B work is deferred beyond it. -/
structure BPlan where
  cmds : List PCmd
  cows : List (Nat × Nat × Nat)
  blocked : List Nat
/-- Template commands in dependency order. -/
def tOrder : Nat → List TCmd → List TCmd
  | 0, l => l
  | n + 1, l =>
    match l.find? (fun c => c.inputs.all (fun i => !l.any (·.name == i))) with
    | none => l
    | some c => c :: tOrder n (l.filter (fun x => decide (x.name ≠ c.name)))
/-- The page that a KVPUT of a prefill writes; a template whose commands name no tokens writes the last page with its first command. -/
def putPage (first count : Nat) (named : Bool) (t : TCmd) : Option Nat :=
  match t.kv with
  | some q => if attOp t = 0x13 ∧ q.token < count then some ((first + q.token) / 64) else none
  | none => if named then none else some ((first + count - 1) / 64)
/-- The commands of a prefill before the first whose page has no frames: the frames of each page are assigned in the plan that writes
its first position (R284). With them the page that is missing, if one is. -/
def readyPart (i layers first count : Nat) (named : Bool) : List TCmd → State → State × List TCmd × Option Nat
  | [], s => (s, [], none)
  | t :: r, s =>
    match putPage first count named t with
    | none => let q := readyPart i layers first count named r s; (q.1, t :: q.2.1, q.2.2)
    | some p =>
      let have_ := match s.session i with | some x => x.pages.length | none => 0
      let s1 := if layers = 0 then s else assignPages i (List.range (p + 1)) (growPages i layers (p + 1 - have_) s)
      match (s1.session i).bind (fun x => x.pages[p]?) with
      | some f => if (s1.lacking f).isEmpty then
          (let q := readyPart i layers first count named r s1; (q.1, t :: q.2.1, q.2.2)) else (s1, [], some f)
      | none => let q := readyPart i layers first count named r s1; (q.1, t :: q.2.1, q.2.2)
/-- The merge slots that some commands name. -/
def namedMerges (l : List TCmd) : List Nat :=
  (l.filter (fun t => decide (attOp t = 0x11 ∨ attOp t = 0x12))).map (fun t => atMerge t.word)
/-- A part of some commands that takes no stream away from what it serves, and no merge apart. -/
def keepsStreams (l : List TCmd) (n : Nat) : Bool :=
  !(localStreams (l.take n)).any (fun i => (localStreams (l.drop n)).contains i) &&
    !(namedMerges (l.take n)).any (fun i => (namedMerges (l.drop n)).contains i)
/-- The longest part of some commands that fits a plan, from their first on, as its length and the plan with it (R58, R63): of the commands
`rest` those of `l` can be planned. -/
def longestFit (beat : Nat) (cfg : BeatCfg) (s : State) (sofar : List PCmd) (client : Nat) (h : Word) (dom model : Nat)
    (rest l : List TCmd) : Nat → Option (Nat × List PCmd)
  | 0 => none
  | n + 1 =>
    match (if keepsStreams rest (n + 1) then s.addWork false beat cfg sofar client h .prefill dom model (l.take (n + 1)) else none) with
    | some q => some (n + 1, q)
    | none => longestFit beat cfg s sofar client h dom model rest l n
/-- A prefill of which a plan may hold a part: its session, model, template, first position and count. -/
def State.prefillReady (s : State) (b : BWork) : Option (Session × Model × Template × Nat × Nat) :=
  match s.session b.obj, s.model b.model with
  | some x, some m =>
    match x.prefill, s.template m .prefill with
    | some p, some t =>
      if m.suspended.isSome || s.plan.suspendedModels.contains b.model || !s.resident x.rstate ||
        !s.objsLive .prefill (BitVec.ofNat 32 (s.handleOf 2 b.obj)) then none else some (x, m, t, p.1, p.2.1)
    | _, _ => none
  | _, _ => none
/-- Prefills admitted before this beat. -/
def State.prefillsDue (s : State) : List BWork := s.plan.bwork.filter (fun b => b.kind == .prefill && decide (b.beat < s.now))
/-- Sessions whose prefill's next part begins in an open page, which is a write like that of a decode step (R303). -/
def State.openWriters (s : State) : List Nat :=
  (s.prefillsDue.filter (fun b => decide (b.arg = 0) && (match s.prefillReady b with
    | some (x, _, _, first, _) => decide (first % 64 ≠ 0) && (x.pages[first / 64]?).isSome
    | none => false))).map (·.obj)
/-- The reuse point's copy for a session waits, and no part of it is among some commands. -/
def State.reuseOpen (s : State) (i : Nat) (l : List PCmd) : Bool :=
  s.plan.bwork.any (fun q => q.kind == .reuse && decide (q.obj = i)) &&
    !l.any (fun c => match c.copy with | some (.work w) => w.kind == .reuse && decide (w.obj = i) | _ => false)
/-- The next part of a prefill added to a plan, behind the copy of its open page: what its pages and the plan's room allow. Frames are
assigned for what is planned and for the page that is missing (R284). It waits while its first frame is missing (R285), stops where nothing
can be reclaimed (R286), and defers the later work of its client where it does not fit whole (R63). -/
def prefillOne (beat : Nat) (cfg : BeatCfg) (barred : List Nat) (a : State × BPlan) (b : BWork) : State × BPlan :=
  match a.1.prefillReady b with
  | none => a
  | some (x, m, t, first, count) =>
    let s := a.1
    if a.2.blocked.contains b.client || barred.contains b.obj || s.reuseOpen b.obj a.2.cmds then a
    else match backPages x s with
    | none => a
    | some s0 =>
      let rest := (tOrder t.cmds.length t.cmds).drop b.arg
      let named := rest.any (fun t => t.kv.isSome)
      let r := readyPart b.obj (s0.layersOf x) first count named rest s0
      match r.2.1, r.2.2 with
      | [], some f => match r.1.fate [f] with
        | .stop => (stopSession stPagesExhausted b.obj r.1, a.2)
        | _ => (r.1, a.2)
      | l, _ =>
        let sofar := if b.arg = 0 then r.1.pageCopies beat .prefill b.client b.obj a.2.cows a.2.cmds else a.2.cmds
        match longestFit beat cfg r.1 sofar b.client (BitVec.ofNat 32 (r.1.handleOf 2 b.obj)) m.dom b.model rest l l.length with
        | some q => (if q.1 = l.length then r.1 else (readyPart b.obj (s0.layersOf x) first count named (rest.take q.1) s0).1,
            { a.2 with cmds := q.2, blocked := if q.1 < rest.length then a.2.blocked ++ [b.client] else a.2.blocked })
        | none => (s0, { a.2 with blocked := a.2.blocked ++ [b.client] })
/-- Class B work admitted before this beat, each client's in its order. -/
def prefills (beat : Nat) (cfg : BeatCfg) (barred : List Nat) (s : State) (l : List PCmd) (cows : List (Nat × Nat × Nat)) : State × BPlan :=
  s.prefillsDue.foldl (prefillOne beat cfg barred) (s, { cmds := l, cows := cows, blocked := [] })

/-! ## Cross-module transfers (R47, R78) -/

/-- A command moves bytes to or from another module. -/
def crossModule (c : PCmd) : Bool := (List.range 24).any (fun l => usesUnit ⟨.link, l⟩ c)
/-- The module ticks with its chain, or does again (R78). -/
def State.synced (s : State) : Bool :=
  !s.beat.syncLost || (s.beat.locked && !s.beat.holdover && decide (s.beat.misses = 0))
/-- A plan without cross-module transfers: what depends on remote data is invalid with BEAT_OVERRUN (R78). -/
def cutRemote (l : List PCmd) : List PCmd :=
  let gone := (l.filter crossModule).map (·.id)
  (l.filter (fun c => !crossModule c)).map (fun c =>
    if c.t.inputs.any gone.contains then { c with status := stBeatOverrun } else c)
/-- The level of a merge descriptor. -/
def mergeLevel (d : Nat × Nat × Nat × List Byte) : Nat := fld d.2.2.2 6 1
/-- Commands and merge slots without what leaves the module: no cross-module transfer, no merge over a ring; the value commands of such
a merge depend on remote data (R78). -/
def cutMerges (q : List PCmd × List (Nat × Nat × Nat × List Byte)) : List PCmd × List (Nat × Nat × Nat × List Byte) :=
  let ring := (q.2.filter (fun d => decide (mergeLevel d ≠ 0))).map (·.1)
  ((cutRemote q.1).map (fun c => if attOp c.t = 0x12 ∧ ring.contains (atMerge c.t.word) = true then { c with status := stBeatOverrun } else c),
    q.2.filter (fun d => decide (mergeLevel d = 0)))
/-- A plan released under SYNC_LOST: nothing leaves the module, no stream goes to a link (R78). -/
def cutPlan (q : List PCmd × PlanRegs) : List PCmd × PlanRegs :=
  let r := cutMerges (q.1, q.2.merges)
  (r.1, { q.2 with merges := r.2, links := [] })

/-! ## What a plan carries (R255, R267, R344, R408) -/

/-- The templates of the planned pieces of work, in plan order: object, kind, model, domain. -/
def State.workTemplates (s : State) (l : List PCmd) : List (Template × Nat × Nat) :=
  ((l.filter (fun c => !c.blaze)).map (fun c => (c.obj, c.kind, c.model, c.dom))).eraseDups.filterMap (fun w =>
    (s.model w.2.2.1).bind (fun m => (s.template m w.2.1).map (fun t => (t, w.2.2.1, w.2.2.2))))
/-- The merge slots that the planned commands name, numbered in plan order (R304): object, kind, the template's descriptor, and slot,
model, domain, descriptor as the DCP writes it, with SLOT, MODEL and at LEVEL 0 and 1 the module's own ID (R255). -/
def State.mergeTable (s : State) (l : List PCmd) : List (Word × TemplKind × List Byte × Nat × Nat × Nat × List Byte) :=
  (((l.filter (fun c => !c.blaze)).map (fun c => (c.obj, c.kind, c.model, c.dom))).eraseDups.flatMap (fun w =>
    match (s.model w.2.2.1).bind (fun m => s.template m w.2.1) with
    | some t => (t.merges.filter (fun d => l.any (fun c => c.obj == w.1 && c.kind == w.2.1 &&
        decide ((attOp c.t = 0x11 ∨ attOp c.t = 0x12) ∧ atMerge c.t.word = fld d 0 2)))).map (fun d => (w.1, w.2.1, w.2.2.1, w.2.2.2, fit 32 d))
    | none => [])).zipIdx.map (fun p =>
      let d := p.1.2.2.2.2
      let d1 := putBytes (putBytes d 0 (natLe 2 p.2)) 0xB [BitVec.ofNat 8 p.1.2.2.1]
      (p.1.1, p.1.2.1, d, p.2, p.1.2.2.1, p.1.2.2.2.1, if fld d 6 1 = 2 then d1 else putBytes d1 8 (natLe 2 s.links.moduleId.toNat)))
/-- The attention commands of a plan with the slots of a table in place of their templates'. -/
def withMerges (tab : List (Word × TemplKind × List Byte × Nat × Nat × Nat × List Byte)) (l : List PCmd) : List PCmd :=
  l.map (fun c =>
    if attOp c.t = 0x11 ∨ attOp c.t = 0x12 then
      match tab.find? (fun e => e.1 == c.obj && e.2.1 == c.kind && decide (fld e.2.2.1 0 2 = atMerge c.t.word)) with
      | some e => { c with t := { c.t with word := putBytes (fit 64 c.t.word) 0x12 (natLe 2 e.2.2.2.1) } }
      | none => c
    else c)
/-- Link stream entries of the planned egress streams, on the links in service, with their stream numbers (R308, R408). -/
def State.planLinks (s : State) (l : List PCmd) : List (Nat × List Byte) :=
  l.flatMap (fun c => match c.t.engine, (s.model c.model).bind (fun m => s.template m c.kind) with
    | .yarder _, some t =>
      if c.blaze then [] else
      match t.cmds.find? (fun x => decide (x.name = c.tname)) with
      | some x => (t.links.filter (fun e => entryOf e x)).map (fun e =>
          ((s.linkFor e.1).getD e.1, putBytes (putBytes (fit 8 e.2) 0 (natLe 2 c.stream)) 6 (natLe 1 (s.entryFlags c.t.cls e))))
      | none => []
    | _, _ => [])
/-- The shares of a stack (R267): those of reset where they meet the need, else what the commands need. -/
def stackShare (l : List PCmd) (i : Nat) : Nat × Nat × Nat :=
  let g := shareNeed l (.gemv i)
  let a := shareNeed l (.att i)
  if g ≤ 600 ∧ a ≤ 300 then (600, 300, 100) else (g, a, 1000 - g - a)
/-- The modelled power of a plan in W (R561). -/
def State.planW (s : State) (cfg : BeatCfg) (l : List PCmd) : Nat := cdiv (5000 * s.staticW * cfg.pTu + energyOf l) (5000 * cfg.pTu)
/-- The links in service, as a mask. -/
def State.linksServed (s : State) : BitVec 24 :=
  BitVec.ofNat 24 (((List.range 24).filter (fun l => s.svc ⟨.link, l⟩ == .inService)).foldl (fun m l => m + 2 ^ l) 0)
/-- What the plan of some commands carries, with its merge slots. -/
def State.planRegs (s : State) (beat : Nat) (cfg : BeatCfg) (l : List PCmd) (merges : List (Nat × Nat × Nat × List Byte)) (frees : List Nat) (cows : List (Nat × Nat × Nat)) : PlanRegs :=
  { shares := (List.range 16).map (stackShare l), outst := (64, 64, 64), split := (500, 300, 200), merges := merges,
    links := s.planLinks l, modelW := s.planW cfg l, frees := frees, cows := cows, loads := s.loadsFor beat l,
    standby := l.flatMap (fun c => (membersAtRisk l c).map (fun i => (c.stream, i, standbyYard l c i))), served := s.linksServed }

/-! ## What the DCP writes for a plan's commands (R234, R247, R254) -/

/-- Steps that the commands before one in a plan place for an object in a layer. -/
def stepsBefore (h layer : Nat) (before : List PCmd) : Nat :=
  ((before.filter (fun b => isScan b.t && decide (fld b.t.word 6 2 = layer))).map (fun b =>
    ((b.rows.filter (fun d => decide (fld d 0 4 = h))).map (fun d => fld d 4 2)).foldl (· + ·) 0)).foldl (· + ·) 0
/-- The STEP that an object has for a row in a layer, from the STEP at the plan's start: the steps that the commands before the row's place
in that layer since the last ZERO of the object, which sets STEP to 0 (R219, R233, R234). -/
def stepFor (h layer base : Nat) (before : List PCmd) : Nat :=
  before.foldl (fun n b => if zeroes h b then 0 else n + stepsBefore h layer [b]) base
/-- Steps that the parts of a prefill in earlier beats have placed in a layer. -/
def State.stepsPlaced (s : State) (c : PCmd) (layer : Nat) : Nat :=
  match s.plan.bwork.find? (fun b => b.kind == .prefill && decide (b.obj = hIdx c.obj.toNat)), (s.model c.model).bind (fun m => s.template m .prefill) with
  | some b, some t => if c.kind ≠ .prefill then 0 else
      ((((tOrder t.cmds.length t.cmds).take b.arg).filter (fun x => isScan x && decide (fld x.word 6 2 = layer))).map (fun x =>
        scLen (fit 32 x.word))).foldl (· + ·) 0
  | _, _ => 0
/-- The row descriptors of a Scan command: its object in row 0, with the steps that it takes, its first step and its resets; the other
rows are empty (R234). `step` gives the STEP of an object at the plan's start. -/
def State.scanRowsOf (s : State) (step : Nat → Nat) (before : List PCmd) (c : PCmd) : List (List Byte) :=
  let w := fit 32 c.t.word
  match (s.workObjs c.kind c.obj).head?.bind s.obj with
  | none => []
  | some o =>
    let h := s.handleOf 3 o.idx
    let done := stepsBefore h (fld w 6 2) before
    let first := stepFor h (fld w 6 2) (step o.idx) before
    let left := match s.workSession c.kind c.obj with
      | some x => (s.workSpan c.kind x).2 - (done + s.stepsPlaced c (fld w 6 2))
      | none => scLen w
    let v := match scOp w with | 0 => min (scLen w) left | 1 => 1 | _ => 0
    let mask := (List.range 16).map (fun b => BitVec.ofNat 8 (((List.range 8).filter (fun i =>
      decide (8 * b + i < v) && o.resets.contains (first + 8 * b + i))).foldl (fun m i => m + 2 ^ i) 0))
    (natLe 4 h ++ natLe 2 v ++ zeros 2 ++ natLe 8 first ++ mask) :: List.replicate (scRows w - 1) (zeros 32)
/-- The page list of an attention command for a position: the pages of its layer on its stack up to that of the position (R247). -/
def State.pageListOf (s : State) (x : Session) (k layer pos : Nat) : List (List Byte) :=
  (List.range (pos / 64 + 1)).filterMap (fun p => (s.pageLoc x p layer).bind (fun l =>
    if l.tier = 1 ∧ l.stack = k then
      some (natLe 8 l.off ++ natLe 4 (64 * p) ++ natLe 1 (if p < pos / 64 then 64 else pos % 64 + 1) ++ natLe 1 (b2n l.sealed) ++ zeros 2)
    else none))
/-- A key-value or attention command with its frame and slot, or its page list, as the page table has them: PAGES is the list's length,
OPEN_MAX no more, WCET that of the plan (R305; DESIGN CHOICE, log entry 156). -/
def State.kvFill (s : State) (c : PCmd) : PCmd :=
  match s.workSession c.kind c.obj, c.t.kv, c.t.engine with
  | some x, some q, .att k =>
    let pos := (s.workSpan c.kind x).1 + q.token
    let word := fun (w : List Byte) => { c with t := { c.t with word := w } }
    match attOp c.t with
    | 0x13 => match s.pageLoc x (pos / 64) q.layer with
      | some l => word (putBytes (putBytes (fit 32 c.t.word) 8 (natLe 8 l.off)) 1 [BitVec.ofNat 8 (pos % 64)])
      | none => c
    | 0x14 => match s.pageLoc x (pos / 64) q.layer with
      | some l => word (putBytes (fit 32 c.t.word) 8 (natLe 8 l.off))
      | none => c
    | 0x11 | 0x12 =>
      let l := s.pageListOf x k q.layer pos
      let w1 := putBytes (fit 64 c.t.word) 0x10 (natLe 2 l.length)
      let w2 := putBytes w1 0x26 (natLe 2 (min (atOpenMax w1) l.length))
      { word (putBytes w2 0x30 (natLe 4 (max 1 (c.t.wcet / 4)))) with rows := l }
    | _ => c
  | _, _, _ => c
/-- A GEMV command with its tensor's place in the stack, an ATT_SCORE command with the rotary record's (DEDUCED, log entry 81). -/
def State.placeFill (s : State) (c : PCmd) : PCmd :=
  let put := fun (off a : Nat) => { c with t := { c.t with word := putBytes (fit 64 c.t.word) off (natLe 8 (a % 0x2000000000)) } }
  match s.model c.model, c.t.engine with
  | some m, .gemv k => match ((c.t.tensor.bind (fun x => m.stripes[x]?)).getD []).find? (fun q => q.1 == k) with
    | some q => put 8 q.2.1
    | none => c
  | some m, .att k => if attOp c.t = 0x11 ∧ bitsOf (fld c.t.word 1 1) 0 2 ≠ 0 then
      (match m.rotaryAt.find? (inStack k) with | some a => put 0x28 a | none => c) else c
  | _, _ => c
/-- The commands of a plan with what the DCP writes for them. -/
def State.withRows (s : State) (step : Nat → Nat) (l : List PCmd) : List PCmd :=
  l.foldl (fun (acc : List PCmd) (c : PCmd) =>
    acc ++ [if isScan c.t ∧ c.blaze = false then { c with rows := s.scanRowsOf step acc c } else if c.blaze then c else s.placeFill (s.kvFill c)]) []
/-- The STEP of an object: that of the snapshot whose copy into it waits (R299), else its own. -/
def State.stepNow (s : State) (i : Nat) : Nat :=
  let from_ := (s.plan.bwork.find? (fun b => b.kind == .reuse &&
    (match s.session b.obj with | some x => decide (x.rstate ≠ 0 ∧ hIdx x.rstate.toNat = i) | none => false))).map (·.arg)
  match s.obj (from_.getD i) with | some o => o.step | none => 0
/-- The STEP of an object once the released plan has run. -/
def State.stepSoon (s : State) (i : Nat) : Nat :=
  match s.obj i with
  | some o => stepAfter (s.handleOf 3 i) o.layers (s.stepNow i) (s.plan.cur.filter (fun c => c.run == .queued || c.run == .running))
  | none => 0
/-- A page table of a session holds a TIER or FILL value that is reserved (R280). -/
def State.badEntry (s : State) : Bool :=
  s.ctrl.sessions.any (fun x => x.pages.any (fun f => match s.fset f with
    | some y => decide (64 < y.fill) || y.locs.any (fun l => decide (2 < l.tier))
    | none => false))

/-! ## The plan of the next beat -/

/-- Standing work of class D that is planned: admitted before this beat (R60), its model in place, its slot running on. -/
def State.plansResv (s : State) (r : Resv) : Bool :=
  decide (r.beat < s.now) && !s.modelHeld r && s.objsLive r.kind r.obj &&
  (match r.kind with
   | .stopword => match s.swSlot (r.obj.toNat / 2) with
     | some w => match w.stopAt with | some b => decide (s.now + 1 < b) | none => true
     | none => false
   | .decode => false
   | _ => true)
/-- Reservations placed one after another, a session's page copies before its step. Where they do not fit with the copies, the last session
that copies: no rule says which step gives way (DESIGN CHOICE, log entry 177). -/
def State.placeResvs (s : State) (beat : Nat) (cfg : BeatCfg) (cows : List (Nat × Nat × Nat)) (last : Option Nat) :
    List Resv → List PCmd → List PCmd ⊕ Option Nat
  | [], q => .inl q
  | r :: rest, q =>
    let i := hIdx r.obj.toNat
    let copies := r.kind == .decode && cows.any (fun c => decide (c.1 = i))
    let last1 := if copies then some i else last
    match s.addWork false beat cfg (if copies then s.pageCopies beat .decode r.client i cows q else q) r.client r.obj r.kind r.dom r.model (s.workOf r) with
    | some q1 => s.placeResvs beat cfg cows last1 rest q1
    | none => .inr last1
/-- The commands of a plan: classes D and I with their page copies, then class B greedily (R63), the DCP's own copies first, then the blaze
slots (R502). A session whose copy does not fit is held; a prefill that turns out not to be planned is no writer of the plan, and takes no
copy (R303): the plan is composed again without it. -/
def composeCmds (beat : Nat) (cfg : BeatCfg) : Nat → State → List Nat → List Nat → List Nat →
    State × Option (List PCmd × List (Nat × Nat × Nat × List Byte)) × List (Nat × Nat × Nat)
  | 0, s, _, _, _ => (s, none, [])
  | n + 1, s, steps, pre, barred =>
    let w := copyWriters (steps.length + pre.length + 1) (sortBy id (steps ++ pre)) s
    let s0 := w.1
    let hs := (steps.filter w.2.1.contains).map (fun i => BitVec.ofNat 32 (s0.handleOf 2 i))
    let held := barred ++ pre.filter (fun i => !w.2.1.contains i)
    let l := s0.standing.filter (fun r => s0.plansResv r || (r.kind == .decode && hs.contains r.obj))
    match (if (s0.prove beat cfg (s0.blazeCmds beat cfg)).isSome then s0.placeResvs beat cfg w.2.2 none (s0.resvOrder l) [] else .inr none) with
    | .inr (some i) => composeCmds beat cfg n (holdStep i s) (steps.filter (fun j => decide (j ≠ i))) pre barred
    | .inr none => (s0, none, w.2.2)
    | .inl di =>
      let r := prefills beat cfg held s0 (s0.addCopies beat cfg di) w.2.2
      let s1 := r.1
      match (pre.filter (fun i => w.2.2.any (fun c => decide (c.1 = i)))).find? (fun i =>
          !r.2.cmds.any (fun c => c.kind == .prefill && c.obj == BitVec.ofNat 32 (s0.handleOf 2 i))) with
      | some i =>
        let stopped := !(s1.session i).any (fun x => x.prefill.isSome)
        composeCmds beat cfg n (if stopped then stopSession stPagesExhausted i s else s) steps (pre.filter (fun j => decide (j ≠ i))) (barred ++ [i])
      | none =>
        (s1, (s1.prove beat cfg (s1.blazeCmds beat cfg ++ r.2.cmds)).map (fun q =>
          let tab := s1.mergeTable q
          let p := (s1.withRows s1.stepSoon (withMerges tab q), tab.map (fun e => e.2.2.2))
          if s1.synced then p else cutMerges p), r.2.cows)
/-- The plan of beat `n + 1` composed in beat `n`. Without a plan that is proven to fit, none is there at the kerf (R55). -/
def composeNow (s : State) : State :=
  let beat := s.now + 1
  let cfg := s.cfgAt beat
  let s1 := restoreFit cfg (limitContexts (reviewModels s))
  let r := reclaimAll s1
  let st := planSteps r.1
  let pre := st.1.openWriters
  let q := composeCmds beat cfg (st.2.length + pre.length + 1) st.1 st.2 pre []
  match q.2.1 with
  | none => q.1
  | some (l, merges) =>
    refreshCap l (q.1.onPlan (fun p => { p with next := some (beat, l, q.1.planRegs beat cfg l merges r.2 q.2.2) }))
/-- A plan composed; a reserved value found in a page table is a DCP fault instead (R280). -/
def compose (s : State) : State := if s.badEntry then dcpFault s else composeNow s
/-- PLAN_COMPOSE: once in a beat. -/
def execPlanCompose (s : State) : Host.Outcome State Fault Refusal :=
  .next (if !s.beating || !s.beat.ticked || (match s.plan.next with | some n => decide (n.1 = s.now + 1) | none => false) then s
    else compose s)

end Sys2Proof.Machine
end

