-- ==== Sys2Proof/Machine/PowerExec.lean ====
section
/-! DEFINITION. Power: input limits, power-up, power fail, power states, capping, resets, the black box's commits, NOR wear
management, PMBus (R553 to R582, R590, R591). -/

namespace Sys2Proof.Machine

/-! ## Dark states (R557, R570) -/

/-- The module with everything but the always-on island without power: what survives is the island's own, the fuses and
images, the black box and the configuration store. -/
def darkTo (mode : PwrMode) (s : State) : State :=
  { State.reset with
    freeCtr := s.freeCtr, pending := s.pending, bb := s.bb,
    rot := { s.rot with
      released := false, dcpReady := false, recovery := false, challenge := none, staging := none, reply := [], smbusOut := [] },
    safe := { s.safe with resetActive := true, hb := false, aLvl := false, bLvl := false, pulse := false, swRun := 0 },
    power := { s.power with mode := mode, wanted := none },
    pins := { State.reset.pins with gpioIn := s.pins.gpioIn, refclkHold := s.pins.refclkHold } }
/-- The power-fail sequence (R571): the hold, the record, the journal's commit, the snapshot, the anchor, then Off. A
protective shed and an off request run it with their own cause (R554, R560). -/
def powerFailSeq (cause vin pin : Nat) (s : State) : State :=
  let s1 := assertHold 0x0D 0 0 0xFF s
  let s2 := bbAdd 0x03 2 0 0 stOk (natLe 2 vin ++ natLe 2 pin ++ natLe 1 cause) s1
  let s3 := bbCommitAll (writeSnapshot cause 0 (bbCommitAll s2))
  (darkTo .off s3).onPower (fun p => { p with
    vin := BitVec.ofNat 16 vin, failing := true, bankOk := false, rstCause := BitVec.ofNat 8 cause })
/-- The input and the mode let the module run. -/
def State.powered (s : State) : Bool := s.power.mode == .active || s.power.mode == .standby
/-- AUX_3V3 is on (R588): in Active and Standby, through module, warm and compute resets; off in Sleep and Off, and from the detection
step of a power-fail sequence. -/
def State.aux3v3 (s : State) : Bool := s.powered && !s.power.failing
/-- A reset has something to reset: not Sleep, not Off, not a power-fail sequence (R557, R567). -/
def State.canReset (s : State) : Bool := s.powered && !s.power.failing
/-- The start condition holds (R553, R555): the input has been at 50.0 V or more, and no off request stands. -/
def State.mayStart (s : State) : Bool := s.power.mode == .off && decide (50000 ≤ s.power.vin.toNat) && !s.power.statusOff
/-- The power-on reset that ends Off; its cause is that of the sequence before it, or the input (R566). -/
def startUp (s : State) : State :=
  if s.mayStart then fullReset 0 (if s.power.failing then s.power.rstCause.toNat else 1) s else s

/-! ## The input (R553 to R556, R571 to R574) -/

/-- POWER_UP: the start condition is met with an input voltage in mV. -/
def execPowerUp (vin : Nat) (s : State) : Host.Outcome State Fault Refusal :=
  .next (startUp (s.onPower (fun p => { p with vin := BitVec.ofNat 16 vin })))
/-- POWER_FAIL: the input below 46.0 V for 2 µs. In Off the island goes with the input, and with it an off request. -/
def execPowerFail (vin pin : Nat) (s : State) : Host.Outcome State Fault Refusal :=
  .next (if 46000 ≤ vin then s
    else if s.power.mode = .off then s.onPower (fun p => { p with vin := BitVec.ofNat 16 vin, statusOff := false })
    else (powerFailSeq 0x0E vin pin s).onPower (fun p => { p with statusInputBits := p.statusInputBits ||| 0x18 }))
/-- PROTECTIVE_SHED: overvoltage or overcurrent. -/
def execProtectiveShed (vin pin : Nat) (s : State) : Host.Outcome State Fault Refusal :=
  .next (if s.power.mode = .off then s
    else (powerFailSeq 0x0D vin pin s).onPower (fun p => { p with
      statusInputBits := p.statusInputBits ||| (if 62000 < vin then 0x80 else 0x04) }))
/-- VIN_BROWNOUT: the input between 46.0 V and 50.0 V. -/
def execVinBrownout (vin : Nat) (s : State) : Host.Outcome State Fault Refusal :=
  .next (if s.powered = false ∨ vin < 46000 ∨ 50000 ≤ vin then s
    else s.onPower (fun p => { p with
      vin := BitVec.ofNat 16 vin, vinLow := true, statusInputBits := p.statusInputBits ||| 0x20 }))

/-! ## Capping (R562 to R565) -/

/-- The body of a MODEL_HIGH or THERMAL record. -/
def PowerSt.record (p : PowerSt) : List Byte := natLe 2 p.pinW.toNat ++ natLe 2 p.modelW.toNat ++ [p.tempMax]
/-- The thermal cap at a tick with the hottest die at a temperature (R564). -/
def thermalStep (hot : Nat) (s : State) : State :=
  let on := decide (100 ≤ hot) || (s.power.thermalOn && decide (95 ≤ hot))
  let cap := if on then s.power.thermalCap - 200 else min 2400 (s.power.thermalCap + 50)
  let fell := decide (cap < s.power.thermalCap)
  let s1 := s.onPower (fun p => { p with
    thermalOn := on, thermalCap := cap, thermLimit := p.thermLimit || fell,
    statusTempBits := if 100 ≤ hot then p.statusTempBits ||| 0x40 else p.statusTempBits })
  refreshCap s1.plan.cur (if fell then bbAdd 0x81 1 0 0 stOk s1.power.record s1 else s1)
/-- THERMAL_CAP_STEP: die temperatures in °C at a tick. -/
def execThermalCapStep (temps : List Nat) (s : State) : Host.Outcome State Fault Refusal :=
  let hot := temps.foldl max 0
  let s1 := s.onPower (fun p => { p with tempMax := BitVec.ofNat 8 (min 255 hot) })
  .next (if s.powered = false then s
    else if 110 ≤ hot then
      (powerFailSeq 0x0D s.power.vin.toNat s.power.pinW.toNat s1).onPower (fun p => { p with statusTempBits := p.statusTempBits ||| 0x80 })
    else if s.beating && s.beat.enable then thermalStep hot s1 else s1)
/-- MODEL_HIGH: the measured input power of a beat, in W, beside the plan's modelled power. -/
def execModelHigh (measured : Nat) (s : State) : Host.Outcome State Fault Refusal :=
  .next (if !s.beating then s
    else
      let n := if s.power.modelW.toNat * 11 < measured * 10 then s.power.highBeats + 1 else 0
      let s1 := s.onPower (fun p => { p with
        pinW := BitVec.ofNat 16 measured, highBeats := n, modelHigh := p.modelHigh || decide (8 ≤ n) })
      if n = 8 then bbAdd 0x80 1 0 0 stOk s1.power.record s1 else s1)

/-! ## The black box and the NOR (R576, R580, R581) -/

/-- BB_COMMIT: the end of a 1 ms window. The island's clock moves by it while no tick moves it. -/
def execBbCommit (s : State) : Host.Outcome State Fault Refusal :=
  .next (if s.power.mode = .off then s
    else bbCommitAll (if s.beat.ticked then s else s.onPower (fun p => { p with timeUs := p.timeUs + 1000 })))
/-- Erase blocks of a slot of an image type. -/
def slotBlocks (t : Nat) : Nat := slotBytes t / 65536
/-- The image type and slot of a NOR block: the A slots of types 1 to 6, then the B slots; none for the configuration
store's. -/
def slotOfBlock (b : Nat) : Option (Nat × Bool) :=
  let find := fun (o : Nat) => (List.range 6).find? (fun i =>
    let lo := ((List.range i).map (fun j => slotBlocks (j + 1))).foldl (· + ·) 0
    decide (lo ≤ o) && decide (o < lo + slotBlocks (i + 1)))
  if b < 1504 then (find b).map (fun i => (i + 1, false))
  else if b < 3008 then (find (b - 1504)).map (fun i => (i + 1, true)) else none
/-- One block refreshed: a block of an active slot through the refresh buffer, whose record stays until boot (R581). -/
def refreshBlock (b : Nat) (s : State) : State :=
  match slotOfBlock b with
  | none => s
  | some q =>
    let active := (s.rot.img q.1).active == q.2
    s.onPower (fun p =>
      let n := if active then { p.nor.eraseAt p.nor.fewest with refreshBuf := some b } else p.nor
      { p with nor := n.eraseAt b })
/-- NOR_REFRESH: the 30-day read of every block; `corrections` names the blocks in which a codeword needed corrections, and
the most that one needed. -/
def execNorRefresh (corrections : List (Nat × Nat)) (s : State) : Host.Outcome State Fault Refusal :=
  .next (if s.rot.dcpReady = false ∨ s.powered = false then s
    else
      let hit := (corrections.filter (fun c => decide (2 < c.2))).map (·.1)
      (hit.foldl (fun (s : State) (b : Nat) => refreshBlock b s) s).onPower (fun p => { p with
        nor := { p.nor with lastRefresh := p.timeUs } }))

/-! ## Resets (R566 to R570, R590, R591) -/

/-- MRST_N_PULSE: a low pulse of a length in ns, at its rising edge. -/
def execMrstNPulse (ns : Nat) (s : State) : Host.Outcome State Fault Refusal :=
  .next (if 10000 ≤ ns ∧ s.canReset = true then moduleResetTo 0x02 s else s)
/-- Causes that the table *RST_INFO* gives a warm device reset. -/
def warmCauses : List Nat := [0x03, 0x04, 0x05, 0x06, 0x07, 0x0A, 0x0B, 0x0C, 0x10, 0x11, 0x12]
/-- MODULE_RESET: MRST_N or PMBus. -/
def execModuleReset (cause : Nat) (s : State) : Host.Outcome State Fault Refusal :=
  .next (if (cause = 0x02 ∨ cause = 0x03) ∧ s.canReset = true then moduleResetTo cause s else s)
/-- WARM_RESET. -/
def execWarmReset (cause : Nat) (s : State) : Host.Outcome State Fault Refusal :=
  .next (if warmCauses.contains cause && s.canReset then warmResetTo cause s else s)
/-- COMPUTE_RESET: PMBus, a fault of a compute die, a yarder's watchdog. -/
def execComputeReset (cause : Nat) (s : State) : Host.Outcome State Fault Refusal :=
  .next (if (cause = 0x03 ∨ cause = 0x08 ∨ cause = 0x09) ∧ s.canReset = true then computeResetTo cause s else s)
/-- REFCLK_WITHIN_LIMITS: the clock has been good for a time in ms; after 10 ms the reset that its loss caused ends. -/
def execRefclkWithinLimits (ms : Nat) (s : State) : Host.Outcome State Fault Refusal :=
  .next (if ms < 10 then s
    else (s.onPins (fun p => { p with refclkHold := false })).onSafe (fun k => { k with
      refclkOk := true, resetActive := if s.pins.refclkHold then false else k.resetActive }))

/-! ## Power states (R557 to R560) -/

/-- Work that keeps the module in its state (R558). -/
def State.mustStay (s : State) : Bool :=
  !s.plan.resvs.isEmpty || s.safe.swRun != 0 || s.ctrl.slots.any (·.running)
/-- The record of a change of state. -/
def stateRec (old new : Nat) (s : State) : State := bbAdd 0x04 1 0 0 stOk (natLe 1 old ++ natLe 1 new) s
/-- Standby entered: class B work abandoned, engines and Link Dies off, no ticks, the hold (R557 to R559). -/
def enterStandby (s : State) : State :=
  let s1 := enginesReset (endBackground stFenced (stateRec 0 2 s))
  let s2 := assertHold 0x0B 0 0 0xFF (s1.onSafe (fun k => { k with tickLost := true }))
  { s2 with
    plan := { PlanSt.reset with seq := s2.plan.seq, suspendedModels := s2.plan.suspendedModels },
    links := { s2.links with links := s2.links.links.map (fun k => { k with training := false }) },
    beat := { s2.beat.halt with locked := false, holdover := false },
    power := { s2.power with mode := .standby, wanted := none } }
/-- Standby left: the engines come up as after a compute reset (R557). -/
def leaveStandby (s : State) : State :=
  { stateRec 2 0 s with
    links := { s.links with links := s.mapLinks (fun fenced k => { k with training := k.enable && !fenced }) },
    power := { s.power with mode := .active } }
/-- Sleep entered: everything but the island goes dark. -/
def enterSleep (s : State) : State :=
  let old := if s.power.mode = .standby then 2 else 0
  darkTo .sleep (bbCommitAll (assertHold 0x0B 0 0 0xFF (endBackground stFenced (stateRec old 3 s))))
/-- A power state that a tick brings (R558). -/
def takeWanted (s : State) : State :=
  match s.power.wanted with
  | some .standby => enterStandby s
  | some .sleep => enterSleep s
  | _ => s
/-- The island answers PMBus: the input is there, and the module is not in recovery, where only the Root of Trust's SMBus interface answers
(R536). -/
def State.island (s : State) : Bool := !s.rot.recovery && (s.power.mode != .off || decide (46000 ≤ s.power.vin.toNat))
/-- A write of MFR_POWER_STATE that asks for a lower state. -/
def askState (m : PwrMode) (s : State) : State :=
  let s1 := s.onPower (fun p => { p with refusedState := false })
  if s.power.mode = .active then
    (if s.mustStay then s1.onPower (fun p => { p with refusedState := true })
     else s1.onPower (fun p => { p with wanted := some m }))
  else if s.power.mode = .standby ∧ m = .sleep then enterSleep s1
  else s1
/-- POWER_STATE_STANDBY. -/
def execPowerStateStandby (s : State) : Host.Outcome State Fault Refusal := .next (if s.island then askState .standby s else s)
/-- POWER_STATE_SLEEP. -/
def execPowerStateSleep (s : State) : Host.Outcome State Fault Refusal := .next (if s.island then askState .sleep s else s)
/-- POWER_STATE_ACTIVE. -/
def execPowerStateActive (s : State) : Host.Outcome State Fault Refusal :=
  let s1 := s.onPower (fun p => { p with refusedState := false })
  .next (if !s.island then s
    else match s.power.mode with
      | .active => s1.onPower (fun p => { p with wanted := none })
      | .standby => leaveStandby s1
      | .sleep => warmResetTo 0x0C (stateRec 3 0 s1)
      | .off => s1)

/-! ## PMBus -/

/-- The island's answer to a transaction. -/
def pmbus (bytes : List Byte) (s : State) : State := if s.island then s.onPower (fun p => { p with pmbusOut := bytes }) else s
/-- An unsupported command or value sets CML. -/
def pmbusCml (s : State) : State := if s.island then s.onPower (fun p => { p with statusCml := true, pmbusOut := [] }) else s
/-- A value num / den as LINEAR11: an exponent N from −16 to 15, chosen by the part but with a mantissa of at most 1,023, and
the nearest mantissa. -/
def linear11 (q num den : Nat) : Nat :=
  let man := fun (j : Nat) => (num * 2 ^ 17 + den * 2 ^ j) / (2 * den * 2 ^ j)
  let j0 := ((List.range 32).find? (fun j => decide (man j ≤ 1023))).getD 31
  let j := max j0 (min (Config.linearExp q) 31)
  (j + 16) % 32 * 2048 + man j % 2048
/-- STATUS_WORD: OFF, TEMPERATURE, CML, INPUT. -/
def PowerSt.pmStatus (p : PowerSt) : Nat :=
  flag (decide (p.statusInputBits ≠ 0)) 13 + flag (decide (p.mode = .off)) 6 + flag (p.statusInputBits.getLsbD 4) 3 +
    flag (decide (p.statusTempBits ≠ 0)) 2 + flag p.statusCml 1
/-- OPERATION 0x80: Off is left by a power-up, once the start condition holds. -/
def execOperationOn (s : State) : Host.Outcome State Fault Refusal :=
  .next (if s.island && s.power.mode == .off then startUp (s.onPower (fun p => { p with statusOff := false })) else s)
/-- OPERATION 0x00: the power-fail sequence, then Off (R560). -/
def execOperationOff (s : State) : Host.Outcome State Fault Refusal :=
  .next (if !s.island then s
    else if s.power.mode = .off then s.onPower (fun p => { p with statusOff := true })
    else (powerFailSeq 0x0F s.power.vin.toNat s.power.pinW.toNat s).onPower (fun p => { p with statusOff := true }))
/-- CLEAR_FAULTS. -/
def execClearFaults (s : State) : Host.Outcome State Fault Refusal :=
  .next (if s.island then s.onPower (fun p => { p with statusInputBits := 0, statusTempBits := 0, statusCml := false }) else s)
/-- STATUS_WORD. -/
def execStatusWord (s : State) : Host.Outcome State Fault Refusal := .next (pmbus (natLe 2 s.power.pmStatus) s)
/-- STATUS_INPUT. -/
def execStatusInput (s : State) : Host.Outcome State Fault Refusal := .next (pmbus [s.power.statusInputBits] s)
/-- STATUS_TEMPERATURE. -/
def execStatusTemperature (s : State) : Host.Outcome State Fault Refusal := .next (pmbus [s.power.statusTempBits] s)
/-- READ_VIN, in V. -/
def execReadVin (s : State) : Host.Outcome State Fault Refusal := .next (pmbus (natLe 2 (linear11 0 s.power.vin.toNat 1000)) s)
/-- READ_IIN, in A. -/
def execReadIin (s : State) : Host.Outcome State Fault Refusal := .next (pmbus (natLe 2 (linear11 1 s.power.iin.toNat 100)) s)
/-- READ_PIN, in W. -/
def execReadPin (s : State) : Host.Outcome State Fault Refusal := .next (pmbus (natLe 2 (linear11 2 s.power.pinW.toNat 1)) s)
/-- READ_TEMPERATURE_1, in °C. -/
def execReadTemperature1 (s : State) : Host.Outcome State Fault Refusal :=
  .next (pmbus (natLe 2 (linear11 3 s.power.tempMax.toNat 1)) s)
/-- PMBUS_REVISION. -/
def execPmbusRevision (s : State) : Host.Outcome State Fault Refusal := .next (pmbus [0x33] s)
/-- PMBUS_UNSUPPORTED: a command code that the table *Supported PMBus commands* does not list. -/
def execPmbusUnsupported (code : Byte) (s : State) : Host.Outcome State Fault Refusal :=
  let known := [0x01, 0x03, 0x79, 0x7C, 0x7D, 0x88, 0x89, 0x97, 0x8D, 0x98, 0xD0, 0xD1, 0xD2, 0xD3]
  .next (if known.contains code.toNat then s else pmbusCml s)
/-- MFR_POWER_CAP: a write of CAP_W, or a read of the effective cap. -/
def execMfrPowerCap (write : Option Nat) (s : State) : Host.Outcome State Fault Refusal :=
  .next (if !s.island then s
    else match write with
      | some w => writeCap (w % 65536) s
      | none => pmbus (natLe 2 s.power.effective.toNat) s)
/-- MFR_RESET 0x01. -/
def execMfrResetWarm (s : State) : Host.Outcome State Fault Refusal := .next (if s.island && s.canReset then warmResetTo 0x03 s else s)
/-- MFR_RESET 0x02. -/
def execMfrResetModule (s : State) : Host.Outcome State Fault Refusal := .next (if s.island && s.canReset then moduleResetTo 0x03 s else s)
/-- MFR_RESET 0x03. -/
def execMfrResetCompute (s : State) : Host.Outcome State Fault Refusal := .next (if s.island && s.canReset then computeResetTo 0x03 s else s)
/-- MFR_BB_READ: 32 bytes of the MRAM from an offset (R579). -/
def execMfrBbRead (off : Nat) (s : State) : Host.Outcome State Fault Refusal :=
  .next (if off + 32 ≤ 0x1000000 then pmbus (MemOps.readN s.bb.mram off 32) s else pmbusCml s)

end Sys2Proof.Machine
end

