-- ==== Sys2Proof/Machine/TickExec.lean ====
section
/-! DEFINITION. The tick (R38 to R45, R60, R71, R198, R224, R255, R267, R290, R298, R300, R303, R344, R352, R410, R420, R473,
R478, R479, R498, R517, R524, R558). -/

namespace Sys2Proof.Machine

/-! ## When a tick falls, and its number -/

/-- A tick falls at a local time: a master's when its time has come, a follower's when a marker or holdover has announced
it. None falls before the frames of the power-on sequence have run, since no plan may be released before (R507). -/
def State.tickDue (s : State) (t : Nat) : Bool :=
  s.beating && s.beat.enable && s.bootFrame.isNone &&
  (match s.beat.nextTick with
   | some d => !s.beat.master || decide (d ≤ t)
   | none => s.beat.master && s.beat.src == 0)
/-- The time of the tick: the time a master's is due at, the local time on a follower. -/
def BeatSt.tickAt (b : BeatSt) (t : Nat) : Nat := if b.master then b.nextTick.getD t else t
/-- A signed offset in ps of a follower's tick from the marker's time (R44). -/
def BeatSt.offsetOf (b : BeatSt) (t : Nat) : Int :=
  if b.master then 0 else (((t : Int) - (b.nextTick.getD t : Nat)) * 125) / 2
/-- ARMED_CHANGE_APPLY and HOLD_MAX_APPLY at beat `n` (R40, R478). -/
def applyArmed (n : Nat) (b : BeatSt) : BeatSt :=
  let b1 := if b.applyAt ≠ 0 ∧ b.applyAt.toNat ≤ n then { b with cur := b.next, applyAt := 0 } else b
  match b1.armedHoldMax with
  | some h => if h.1 ≤ n then { b1 with holdMax := h.2, armedHoldMax := none } else b1
  | none => b1
/-- A TOPOLOGY whose beat has come (R479): the routes of this module, MASTER and SRC. -/
def applyTopo (n : Nat) (s : State) : State :=
  match s.beat.topo with
  | none => s
  | some t =>
    if n < t.applyBeat then s
    else
      let me := s.links.moduleId.toNat
      let mine := (t.entries.filter (fun e => e.from_ == me)).map (fun e => (e.dest, BitVec.ofNat 24 e.links))
      let here := decide (t.master = me)
      (s.onLinks (fun k => { k with planRoutes := some mine })).onBeat (fun b => { b with
        topo := none, lastMark := none, holdover := b.holdover && !here, master := here, src := if here then BitVec.ofNat 2 t.masterSrc else 2, chainMaster := t.master,
        chainModules := ((t.entries.map (·.from_)).filter (fun x => decide (x ≠ me))).eraseDups })
/-- A chain change that a module has not answered within 2 beats (R478). -/
def chainTimeout (n : Nat) (s : State) : State :=
  match s.beat.change with
  | some c => if c.received + (if s.beat.master then 2 else 4) < n then
      completeOwned c.client c.mbox stTimeout [] (s.onBeat (fun b => { b with change := none })) else s
  | none => s
/-- The Beat Sequencer at the tick of beat `n` at time `t`: what follows is timed from it. A tick of holdover has no marker time to be
measured against: LOCKED and OFFSET_PS stay as they were (R44, R77; DESIGN CHOICE, log entry 147). -/
def tickBeat (n t : Nat) (off : Int) (s : State) : State :=
  let s1 := applyTopo n (s.onBeat (fun b => applyArmed n { b with number := BitVec.ofNat 64 n }))
  s1.onBeat (fun b => { b with
    tickTime := t, ticked := true, fresh := false, markerSeen := false, nextNumber := none, part := .window, clock := 0,
    locked := if b.holdover then b.locked else b.master || decide (off.natAbs ≤ 40000),
    offsetPs := if b.holdover then b.offsetPs else BitVec.ofInt 32 off,
    nextTick := if b.master ∧ b.src = 0 then some (t + b.cur.period16) else none,
    beatOutEdges := if b.beatOutEn then b.beatOutEdges + 1 else b.beatOutEdges })

/-! ## The beat just ended (R71, R498, R499) -/

/-- The per-beat fields of a tally replaced (R71). The table names no value of REFUSED_BEAT_CNT above 0xFFFF: it saturates, as PREEMPT
does (DESIGN CHOICE, log entry 150). -/
def tallyTick (beat : Nat) (t : Tally) : Tally :=
  { beat := BitVec.ofNat 64 beat, waitTotal := BitVec.ofNat 32 (min t.liveWait (2 ^ 32 - 1)),
    waitMax := BitVec.ofNat 32 (min t.liveMax (2 ^ 32 - 1)), preempt := BitVec.ofNat 16 (min t.livePreempt 0xFFFF),
    refusedBeat := BitVec.ofNat 16 (min t.liveRefused 0xFFFF), waitCum := t.waitCum + BitVec.ofNat 64 t.liveWait,
    preemptCum := t.preemptCum + BitVec.ofNat 64 t.livePreempt, liveWait := 0, liveMax := 0, livePreempt := 0, liveRefused := 0 }
/-- The 48 bytes of a tally record. -/
def tallyBytes (h : Word) (t : Tally) : List Byte :=
  natLe 4 h.toNat ++ zeros 4 ++ natLe 8 t.beat.toNat ++ natLe 4 t.waitTotal.toNat ++ natLe 4 t.waitMax.toNat ++
    natLe 2 t.preempt.toNat ++ natLe 2 t.refusedBeat.toNat ++ zeros 4 ++ natLe 8 t.waitCum.toNat ++ natLe 8 t.preemptCum.toNat
/-- The body of a BEAT record. -/
def State.beatBody (s : State) : List Byte :=
  natLe 8 s.beat.statusWord ++ natLe 4 s.pages.pageHolds ++ natLe 4 s.pages.hashCollisions ++ natLe 4 s.pages.tokenHolds
/-- The body of a POOLS record. -/
def State.poolsBody (s : State) : List Byte :=
  (List.range 16).flatMap (fun k => natLe 2 (if s.serves ⟨.nmu, k⟩ then s.phi k else 0xFFFF))
/-- The body of an ADJ record. -/
def State.adjBody (s : State) (c : Channel) : List Byte :=
  natLe 4 (s.handleOf 1 c.idx) ++ natLe 4 (BitVec.ofInt 32 c.adj).toNat ++ natLe 4 c.shortCnt ++ natLe 4 c.dropped
/-- The domains with refusals in the beat: domain, first point, count, first address. -/
def State.refusedDomains (s : State) : List (Nat × Nat × Nat × Nat) :=
  s.mem.refusals.foldl (fun (l : List (Nat × Nat × Nat × Nat)) r =>
    if l.any (fun q => q.1 == r.1) then updFirst l (fun q => q.1 == r.1) (fun q => (q.1, q.2.1, q.2.2.1 + r.2.2.1, q.2.2.2))
    else l ++ [r]) []
/-- The telemetry records of the beat just ended. -/
def telemTick (s : State) : State :=
  let s1 := s.ctrl.tallies.foldl (fun (s : State) (t : Nat × Tally) => telemEvent t.1 1 (tallyBytes (s.block t.1).handle t.2) s) s
  let s2 := telemEvent 0 3 s1.poolsBody (telemEvent 0 2 s1.beatBody s1)
  let s3 := s2.audio.chans.foldl (fun (s : State) (c : Channel) => telemEvent c.client 4 (s.adjBody c) s) s2
  s3.refusedDomains.foldl (fun (s : State) (r : Nat × Nat × Nat × Nat) =>
    telemEvent 0 5 (natLe 1 r.1 ++ natLe 1 r.2.1 ++ zeros 2 ++ natLe 4 r.2.2.1 ++ natLe 8 r.2.2.2) s) s3
/-- The beat that has just ended closed: tallies, records, counts that start anew. -/
def endBeat (s : State) : State :=
  let s1 := s.onCtrl (fun k => { k with tallies := k.tallies.map (fun t => (t.1, tallyTick s.now t.2)) })
  let s2 := telemTick s1
  let s3 := s2.onCtrl (fun k => { k with telems := k.telems.map (fun t => { t with
    ready := t.ready ++ t.events.map (telemBytes s.now), events := [] }) })
  (s3.onMem (fun m => { m with refusals := [] })).onLinks (fun k => { k with links := k.links.map (fun l => { l with naksBeat := 0 }) })

/-! ## The plan released -/

/-- Engines with commands of the safety domain in the released plan. -/
def State.safetyEngines (s : State) : List Engine :=
  if s.safe.safetyDomain = 0xFF then []
  else enginesOf (s.plan.cur.filter (fun c => decide (c.dom = s.safe.safetyDomain.toNat)))
/-- The commands of work over several beats that have ended other than OK, of earlier beats and of the one that ends. -/
def State.carryOn (s : State) : List (Word × Nat × Half) :=
  (s.plan.carry ++ (s.plan.cur.filter (fun c => c.kind == .prefill && !c.blaze && c.outStatus != stOk)).map (fun c => (c.obj, c.tname, c.outStatus))).filter
    (fun e => s.plan.bwork.any (fun b => b.kind == .prefill && BitVec.ofNat 32 (s.handleOf 2 b.obj) == e.1))
/-- A prefill stands after the last of its commands that a plan holds. -/
def State.partDone (s : State) (l : List PCmd) (b : BWork) : BWork :=
  if b.kind ≠ .prefill then b
  else
    let names := (l.filter (fun c => c.kind == .prefill && c.obj == BitVec.ofNat 32 (s.handleOf 2 b.obj))).map (·.tname)
    match (s.model b.model).bind (fun m => s.template m .prefill) with
    | some t => { b with arg := ((tOrder t.cmds.length t.cmds).zipIdx.filter (fun p => names.contains p.1.name)).foldl (fun m p => max m (p.2 + 1)) b.arg }
    | none => b
/-- The plan of beat `n` becomes the released one; without one, nothing runs. -/
def releasePlan (n : Nat) (s : State) : State :=
  let q0 : List PCmd × PlanRegs := match s.plan.next with
    | some x => if x.1 = n then x.2 else ([], { PlanRegs.empty with served := s.linksServed })
    | none => ([], { PlanRegs.empty with served := s.linksServed })
  let q := if s.synced then q0 else cutPlan q0
  (s.onPlan (fun p => { p with
    cur := q.1, curRegs := q.2, next := none, queueOf := [], safetyPrev := s.safetyEngines, carry := s.carryOn })).onYard (fun k => { k with
      yards := k.yards.map (fun y => { y with spent := [] }) })
/-- The lists of a page copy: positions 0 to FILL − 1 of every head, keys and values, of the old frame and of the new one (R303, R311). -/
def putLists (c : PCmd) (s : State) : State :=
  match c.copy with
  | some (.page i src dst a) =>
    match s.session i, (s.fset src).bind (·.locs[a]?), (s.fset dst).bind (·.locs[a]?), s.geom c.model with
    | some x, some l, some l', some g =>
      let fill := min 64 (x.positions - 64 * ((s.fset dst).map (·.page)).getD 0)
      let one := fun (f : FrameLoc) => descBytes (frameAddr f) (fill * g.d * 2) (2 * g.heads) (g.d * 128)
      let w := fit 64 c.t.word
      putMem (fld w 0x18 8) (one l') (putMem (fld w 8 8) (one l) s)
    | _, _, _, _ => putMem (fld c.t.word 8 8) (zeros 96) s
  | _ => s
/-- What the DCP writes for the commands of the released plan, with the pages and steps as they are at the tick; the parts of prefills
that it holds are on their way (R234, R247, R254). -/
def fillPlan (s : State) : State :=
  let l := (s.onPlan (fun p => { p with cur := [] })).withRows s.stepNow s.plan.cur
  (l.foldl (fun (s : State) (c : PCmd) => putLists c s) s).onPlan (fun p => { p with cur := l, bwork := p.bwork.map (s.partDone l) })
/-- The background tasks of beat `n` (table *Background tasks*): scrub of every stack that is not fenced and of every slice, one
stack, link and port in rotation, the delay measurement every 64 beats, telemetry. -/
def State.bgTasks (n : Nat) (s : State) : List BgTask :=
  let up := fun (k : UnitKind) (i : Nat) => s.svc ⟨k, i⟩ == .inService || s.svc ⟨k, i⟩ == .moving
  ((List.range 16).filter (fun k => s.svc ⟨.nmu, k⟩ != .fenced)).map BgTask.scrub ++
    (if up .nmu s.units.calStack then [.stackCal s.units.calStack] else []) ++ (List.range 16).map BgTask.lcScrub ++
    (if up .link s.units.calLink then [.linkCal s.units.calLink] else []) ++
    (if up .cxl s.units.calCxl then [.cxlCal s.units.calCxl] else []) ++
    (if n % 64 = 0 then ((List.range 24).filter (fun l => (s.link l).up)).map BgTask.delay else []) ++ [.telemetry]
/-- The background tasks of the beat that begins, and the rotations moved on (R72). -/
def bgTick (n : Nat) (s : State) : State :=
  (s.onPlan (fun p => { p with bgDue := s.bgTasks n })).onUnits (fun u => { u with
    calStack := (u.calStack + 1) % 16, calLink := (u.calLink + 1) % 24, calCxl := (u.calCxl + 1) % 4 })
/-- Commands of units that a fault has fenced are dropped (R32). -/
def dropFenced (s : State) : State :=
  let units := s.plan.droppedUnits
  if units.isEmpty then s
  else abandonCmds (fun c => units.any (fun u => usesUnit u c)) stFenced 0x09 (s.onPlan (fun p => { p with droppedUnits := [] }))
/-- A merge slot as the plan's descriptor sets it up (R255). -/
def mergeOf (d : Nat × Nat × Nat × List Byte) : MergeSlot :=
  let w := d.2.2.2
  { slot := fld w 0 2, rows := fld w 2 1, d64 := fld w 3 1, stkMask := fld w 4 2, level := fld w 6 1, modules := fld w 7 1,
    root := fld w 8 2 % 4096, outFp32 := (fld w 0xA 1).testBit 0, model := fld w 0xB 1, outAddr := fld w 0x10 8,
    deadline := fld w 0x18 4, tag := BitVec.ofNat 32 (fld w 0x1C 4), dom := d.2.2.1, pairs := [], parts := [], bcast := none,
    bcastStatus := stOk, toRoot := [], sent := [], out := none, outStatus := stOk }
/-- A link stream entry; none where a reserved bit is set (R408). -/
def linkEntryOf (b0 : List Byte) : Option LinkStream :=
  let b := fit 8 b0
  if fld b 4 2 < 4096 ∧ fld b 6 1 < 4 ∧ fld b 7 1 = 0 then
    some { stream := fld b 0 2, dstream := fld b 2 2, dest := fld b 4 2, comp := (fld b 6 1).testBit 0, urg := (fld b 6 1).testBit 1 }
  else none
/-- Of a mask of links, those that the plan routes over: in service when it was composed (R31, R36), and not fenced by a fault since
(R32). -/
def State.servedLinks (s : State) (m : BitVec 24) : BitVec 24 :=
  BitVec.ofNat 24 (((List.range 24).filter (fun l => m.getLsbD l && s.plan.curRegs.served.getLsbD l && s.svc ⟨.link, l⟩ != .fenced)).foldl
    (fun m l => m + 2 ^ l) 0)
/-- SHARE_LOAD: NMU_SHARE, YARD_OUTST, YARD_SPLIT, DLK_ROUTE, the link stream entries and the merge slots from the plan (R255,
R267, R344, R410). -/
def loadRegs (s : State) : State :=
  let r := s.plan.curRegs
  let s1 := s.onNmus (fun l => l.zipIdx.map (fun p => match r.shares[p.2]? with
    | some q => { p.1 with gemvPm := BitVec.ofNat 10 q.1, attPm := BitVec.ofNat 10 q.2.1, ifPm := BitVec.ofNat 10 q.2.2 }
    | none => p.1))
  let s2 := s1.onYard (fun k => { k with
    yards := k.yards.map (fun y => { y with
      outD := BitVec.ofNat 7 r.outst.1, outI := BitVec.ofNat 7 r.outst.2.1, outB := BitVec.ofNat 7 r.outst.2.2 }),
    readPm := BitVec.ofNat 10 r.split.1, writePm := BitVec.ofNat 10 r.split.2.1, remotePm := BitVec.ofNat 10 r.split.2.2 })
  let s3 := s2.onLinks (fun k => { k with
    routes := (match k.planRoutes with
      | some l => l.map (fun r => (r.1, s.servedLinks r.2))
      | none => k.routes),
    links := k.links.zipIdx.map (fun p => { p.1 with
      streams := (r.links.filter (fun e => decide (e.1 = p.2))).filterMap (fun e => linkEntryOf e.2) }) })
  (s3.onMerges (fun _ => r.merges.map mergeOf)).onPower (fun p => { p with modelW := BitVec.ofNat 16 r.modelW })

/-! ## Pages at the tick (R281, R300, R303) -/

/-- A page copy of the plan: the session's table names the new set, which will hold the positions of the old one once the plan's copy commands
have run (R303). -/
def takeCow (c : Nat × Nat × Nat) (s : State) : State :=
  match s.session c.1, s.fset c.2.1, s.fset c.2.2 with
  | some x, some a, some b =>
    match x.pages.idxOf? c.2.1, s.geom a.model with
    | some p, some _ =>
      let fill := min 64 (x.positions - 64 * p)
      let s2 := s.onSet c.2.2 (fun y => { y with fill := fill, invalid := a.invalid, locs := (b.locs.zip a.locs).map (fun l => { l.1 with inv := l.2.inv }) })
      writeTrailers c.2.2 (s.handleOf 2 c.1) (unrefSet c.2.1 (s2.onSession c.1 (fun y => { y with pages := y.pages.set p c.2.2 })))
    | _, _ => freeSet c.2.2 s
  | _, _, _ => freeSet c.2.2 s
/-- Nodes on an invalid page leave the tree with what hangs below them (R281). -/
def State.deadNodes (s : State) : List Nat :=
  s.pages.nodes.foldl (fun (d : List Nat) (n : TreeNode) =>
    if !s.setValid n.fs || (match n.parent with | some q => d.contains q | none => false) then d ++ [n.id] else d) []
/-- TREE_UPDATE: frees, then publications (R300). -/
def treeTick (s : State) : State :=
  let frees := s.plan.curRegs.frees
  let dead := s.deadNodes
  publishTick (reuseTick (dropTree (fun n => dead.contains n.id ||
    (frees.contains n.id && !s.ctrl.sessions.any (fun x => x.pages.contains n.fs))) s))

/-! ## What comes due -/

/-- Reservations of sessions whose last step has run, or had its time to, are released (R514). -/
def releaseFaulted (s : State) : State :=
  (s.ctrl.sessions.filter (fun x => match x.faulted with | some f => decide (f.1 + 2 ≤ s.now) | none => false)).foldl
    (fun (s : State) (x : Session) => releaseDecode x.idx s) s

/-- Fences that messages asked for (R31): a data move that still runs is waited for. -/
def fencesDue (s : State) : State :=
  (s.units.fences.filter (fun f => decide (f.2.1 ≤ s.now) && s.svc f.1 == .moving &&
      (match f.1.kind with
       | .nmu => f.2.2 && (s.slicesIn f.1.index).isEmpty
       | .cxl => f.2.2
       | _ => true))).foldl (fun (s : State) (f : UnitId × Nat × Bool) => finishFence f.1 f.2.2 true s) s
/-- A message whose beat has come completes. -/
def finishMsg (p : PendMsg) (s : State) : State :=
  match p.opcode.toNat with
  | 0x0103 => completeOwned p.client p.mbox stOk (natLe 8 p.arg) s
  | 0x0503 =>
    let i := hIdx p.obj.toNat
    let got := match s.session i with | some x => x.reused | none => 0
    completeOwned p.client p.mbox (BitVec.ofNat 16 p.arg) (natLe 4 got) (s.onSession i (fun x => { x with prefill := none }))
  | _ => completeOwned p.client p.mbox stOk [] s
/-- Messages whose beat has come. -/
def finishMsgs (s : State) : State :=
  (s.ctrl.pend.filter (fun p => match p.doneBeat with | some b => decide (b ≤ s.now) | none => false)).foldl
    (fun (s : State) (p : PendMsg) => finishMsg p s) s
/-- What is left of a client goes with its handle and its page (R473). -/
def sweepClient (i : Nat) (s : State) : State :=
  let s1 := ((s.ctrl.sessions.filter (·.client == i)).map (·.idx)).foldl (fun (s : State) (k : Nat) => finishClose k s) s
  let s2 := ((s1.audio.chans.filter (·.client == i)).map (·.idx)).foldl (fun (s : State) (k : Nat) => removeChan k s) s1
  let s3 := ((s2.ctrl.models.filter (·.client == i)).map (·.idx)).foldl (fun (s : State) (k : Nat) => finishUnload k s) s2
  let s4 := ((s3.ctrl.tsets.filter (·.client == i)).map (·.idx)).foldl (fun (s : State) (k : Nat) => dropTset k s) s3
  let s5 := (s4.mem.runs.filter (fun r => decide (r.2.2 = i))).foldl
    (fun (s : State) (r : Nat × Nat × Nat) => releaseRegions (r.1 / regionSize) r.2.1 s) s4
  let s6 := s5.onMem (fun m => { m with runs := m.runs.filter (fun r => decide (r.2.2 ≠ i)) })
  (s6.onCtrl (fun k => { k with
    blocks := kdel k.blocks i, boxes := k.boxes.filter (fun b => decide (b.client ≠ i)), tallies := kdel k.tallies i,
    telems := k.telems.filter (fun t => decide (t.client ≠ i)) })).retire 7 i
/-- Clients whose beat has come. -/
def closeClients (s : State) : State :=
  let due := s.ctrl.closingClients.filter (fun c => decide (c.2.1 ≤ s.now))
  let s1 := s.onCtrl (fun k => { k with closingClients := k.closingClients.filter (fun c => decide (s.now < c.2.1)) })
  due.foldl (fun (s : State) (c : Nat × Nat × Nat × Nat) => completeOwned c.2.2.1 c.2.2.2 stOk [] (sweepClient c.1 s)) s1
/-- LC_PART takes effect (R352): what stood in ways that leave the window is discarded. -/
def windowTick (s : State) : State :=
  match s.mem.winNext with
  | none => s
  | some w =>
    let lo := 0x080000000000 + w.toNat * 0x2000000
    let n := (s.mem.winWays.toNat - w.toNat) * 0x2000000
    windowParts (s.onMem (fun m => { m with
      winWays := w, winNext := none, dev := MemOps.clear m.dev lo n,
      poisoned := m.poisoned.filter (fun a => decide (¬ (lo ≤ a * 32 ∧ a * 32 < lo + n))),
      lines := if s.mem.winWays.toNat < w.toNat then [] else m.lines }))
/-- VERDICT_EXPECT_LOAD (R524, R525): the chunks of a path pushed and not yet judged, where the plan runs its detector; their deadline
is that of the detector's last command, which writes the verdict (R523). -/
def expectFor (s : State) (slot path : Nat) (q : SwPath) : SwPath :=
  let mine := s.plan.cur.filter (fun c => c.kind == .stopword && decide (c.obj.toNat = 2 * slot + path))
  let next := match s.channel (hIdx q.channel.toNat) with | some c => c.nextChunk | none => 0
  { q with
    got := 0, expect := if mine ≠ [] ∧ q.frame < next then some (q.frame, next - q.frame) else none,
    deadline := (mine.map (s.dueBy s.beat.cur)).foldl max 0 }
/-- The Safety Monitor at a tick: expectations, the heartbeat (R517), a test pulse's start (R518). -/
def safetyTick (s : State) : State :=
  let a := decide (s.now % 1024 = 0)
  let b := decide (s.now % 1024 = 512)
  (s.onCtrl (fun k => { k with slots := k.slots.map (fun w => { w with
    paths := w.paths.zipIdx.map (fun p => expectFor s w.slot p.2 p.1) }) })).onSafe (fun k => { k with
      hb := if k.refclkOk then !k.hb else k.hb, tickLost := false, blazeBoot := 96, pulse := !k.hold && (a || b),
      aLvl := !k.hold && !a, bLvl := !k.hold && !b })

/-! ## TICK -/

/-- The tick of beat `n` at time `t`. -/
def tickNow (n t : Nat) (off : Int) (s : State) : State :=
  let s1 := tickBeat n t off (if s.beat.ticked then endBeat s else s)
  let s2 := bgTick n (s1.onPower (fun p => let q := { p with timeUs := t / t16Us }; if q.nor.stored = q.cfg then q else saveCfg q))
  let s3 := loadRegs (dropFenced (releasePlan n s2))
  let s4 := fillPlan (treeTick (s3.plan.curRegs.cows.foldl (fun (s : State) (c : Nat × Nat × Nat) => takeCow c s) (moveTick s3)))
  let s5 := objTick (fencesDue (chainTimeout n (readRings (switchTables (releaseFaulted s4)))))
  let s6 := closeInputs (afeTick t (stopTick s5))
  let s7 := closeClients (finishMsgs (unloadTick (closeTick s6)))
  takeWanted (safetyTick (windowTick s7))
/-- TICK at a local time. -/
def execTick (t : Nat) (s : State) : Host.Outcome State Fault Refusal :=
  let d := s.beat.tickAt t
  .next (if s.tickDue t then tickNow (s.beat.numberAt d) d (s.beat.offsetOf d) s else s)

end Sys2Proof.Machine
end

