-- ==== Sys2Proof/Machine/Dispatch.lean ====
section
/-! DEFINITION. One arm for each command: the call of its meaning. -/

namespace Sys2Proof.Machine

def exec (i : Instr) (s : State) : Host.Outcome State Fault Refusal :=
  match i with
  | .tick t => Sys2Proof.Machine.execTick t s
  | .planCompose => Sys2Proof.Machine.execPlanCompose s
  | .beatInEdge t => Sys2Proof.Machine.execBeatInEdge t s
  | .beatInTimeout => Sys2Proof.Machine.execBeatInTimeout s
  | .beatEnable dom t => Sys2Proof.Machine.execBeatEnable dom t s
  | .beatApplyWrite dom v => Sys2Proof.Machine.execBeatApplyWrite dom v s
  | .markerSend t => Sys2Proof.Machine.execMarkerSend t s
  | .markerReceive l r t => Sys2Proof.Machine.execMarkerReceive l r t s
  | .markerMissing => Sys2Proof.Machine.execMarkerMissing s
  | .execWindowEnd => Sys2Proof.Machine.execExecWindowEnd s
  | .kerfStart => Sys2Proof.Machine.execKerfStart s
  | .commandStart e t => Sys2Proof.Machine.execCommandStart e t s
  | .watchdogTrip e => Sys2Proof.Machine.execWatchdogTrip e s
  | .matmul c w ecc => Sys2Proof.Machine.execMatmul c w ecc s
  | .arrayStall c cycles => Sys2Proof.Machine.execArrayStall c cycles s
  | .veprog c w ecc => Sys2Proof.Machine.execVeprog c w ecc s
  | .nop c f => Sys2Proof.Machine.execNop c f s
  | .add c f => Sys2Proof.Machine.execAdd c f s
  | .sub c f => Sys2Proof.Machine.execSub c f s
  | .mul c f => Sys2Proof.Machine.execMul c f s
  | .fma c f => Sys2Proof.Machine.execFma c f s
  | .max c f => Sys2Proof.Machine.execMax c f s
  | .min c f => Sys2Proof.Machine.execMin c f s
  | .abs c f => Sys2Proof.Machine.execAbs c f s
  | .neg c f => Sys2Proof.Machine.execNeg c f s
  | .ceq c f => Sys2Proof.Machine.execCeq c f s
  | .clt c f => Sys2Proof.Machine.execClt c f s
  | .cle c f => Sys2Proof.Machine.execCle c f s
  | .cun c f => Sys2Proof.Machine.execCun c f s
  | .sel c f => Sys2Proof.Machine.execSel c f s
  | .cvt c f => Sys2Proof.Machine.execCvt c f s
  | .pack c f => Sys2Proof.Machine.execPack c f s
  | .unpk c f => Sys2Proof.Machine.execUnpk c f s
  | .lqu8 c f => Sys2Proof.Machine.execLqu8 c f s
  | .lqs8 c f => Sys2Proof.Machine.execLqs8 c f s
  | .ldq c f => Sys2Proof.Machine.execLdq c f s
  | .perm c f => Sys2Proof.Machine.execPerm c f s
  | .shuf c f => Sys2Proof.Machine.execShuf c f s
  | .iadd c f => Sys2Proof.Machine.execIadd c f s
  | .iand c f => Sys2Proof.Machine.execIand c f s
  | .ior c f => Sys2Proof.Machine.execIor c f s
  | .ixor c f => Sys2Proof.Machine.execIxor c f s
  | .ishl c f => Sys2Proof.Machine.execIshl c f s
  | .ishr c f => Sys2Proof.Machine.execIshr c f s
  | .iota c f => Sys2Proof.Machine.execIota c f s
  | .mand c f => Sys2Proof.Machine.execMand c f s
  | .mor c f => Sys2Proof.Machine.execMor c f s
  | .mxor c f => Sys2Proof.Machine.execMxor c f s
  | .mnot c f => Sys2Proof.Machine.execMnot c f s
  | .ld c f => Sys2Proof.Machine.execLd c f s
  | .st c f => Sys2Proof.Machine.execSt c f s
  | .rsum c f => Sys2Proof.Machine.execRsum c f s
  | .rmax c f => Sys2Proof.Machine.execRmax c f s
  | .rmin c f => Sys2Proof.Machine.execRmin c f s
  | .ramax c f => Sys2Proof.Machine.execRamax c f s
  | .rugo c f => Sys2Proof.Machine.execRugo c f s
  | .ruPass c => Sys2Proof.Machine.execRuPass c s
  | .ruwait c f => Sys2Proof.Machine.execRuwait c f s
  | .rurd c f => Sys2Proof.Machine.execRurd c f s
  | .rufin c f => Sys2Proof.Machine.execRufin c f s
  | .sfn c f => Sys2Proof.Machine.execSfn c f s
  | .smov c f => Sys2Proof.Machine.execSmov c f s
  | .sadd c f => Sys2Proof.Machine.execSadd c f s
  | .sget c f => Sys2Proof.Machine.execSget c f s
  | .tin c f => Sys2Proof.Machine.execTin c f s
  | .tout c f => Sys2Proof.Machine.execTout c f s
  | .loop c f => Sys2Proof.Machine.execLoop c f s
  | .endl c f => Sys2Proof.Machine.execEndl c f s
  | .ska c f => Sys2Proof.Machine.execSka c f s
  | .skn c f => Sys2Proof.Machine.execSkn c f s
  | .endP c f => Sys2Proof.Machine.execEndP c f s
  | .scanChunk c w ecc => Sys2Proof.Machine.execScanChunk c w ecc s
  | .scanStep c w ecc => Sys2Proof.Machine.execScanStep c w ecc s
  | .scanZero c w => Sys2Proof.Machine.execScanZero c w s
  | .sfuBankLoad c tset image => Sys2Proof.Machine.execSfuBankLoad c tset image s
  | .gemv n w sym => Sys2Proof.Machine.execGemv n w sym s
  | .attScore n w sym => Sys2Proof.Machine.execAttScore n w sym s
  | .attValue n w sym => Sys2Proof.Machine.execAttValue n w sym s
  | .kvput n w sym => Sys2Proof.Machine.execKvput n w sym s
  | .kvseal n w sym => Sys2Proof.Machine.execKvseal n w sym s
  | .mergeContribution slot src d => Sys2Proof.Machine.execMergeContribution slot src d s
  | .mergeDeadline slot => Sys2Proof.Machine.execMergeDeadline slot s
  | .stream y w => Sys2Proof.Machine.execStream y w s
  | .copy y w => Sys2Proof.Machine.execCopy y w s
  | .descriptorFetch y r => Sys2Proof.Machine.execDescriptorFetch y r s
  | .tileDeliver y num => Sys2Proof.Machine.execTileDeliver y num s
  | .transferComplete y num idx sym => Sys2Proof.Machine.execTransferComplete y num idx sym s
  | .skidPush y num => Sys2Proof.Machine.execSkidPush y num s
  | .faultFence u lost sliceSaved => Sys2Proof.Machine.execFaultFence u lost sliceSaved s
  | .fenceDataMoveComplete u fault sliceSaved => Sys2Proof.Machine.execFenceDataMoveComplete u fault sliceSaved s
  | .relayComplete => Sys2Proof.Machine.execRelayComplete s
  | .unitReturn u => Sys2Proof.Machine.execUnitReturn u s
  | .patrolScrub n corrected uncorrectable => Sys2Proof.Machine.execPatrolScrub n corrected uncorrectable s
  | .lcPatrolScrub n corrected uncorrectable => Sys2Proof.Machine.execLcPatrolScrub n corrected uncorrectable s
  | .stackCalibration n => Sys2Proof.Machine.execStackCalibration n s
  | .linkCalibration l => Sys2Proof.Machine.execLinkCalibration l s
  | .cxlCalibration p => Sys2Proof.Machine.execCxlCalibration p s
  | .catchUpCalibration u => Sys2Proof.Machine.execCatchUpCalibration u s
  | .telemetrySampling vin iin pin temps => Sys2Proof.Machine.execTelemetrySampling vin iin pin temps s
  | .linkDelayMeasurement l t => Sys2Proof.Machine.execLinkDelayMeasurement l t s
  | .regionRetire region => Sys2Proof.Machine.execRegionRetire region s
  | .blazeFrame sigs expected invalid => Sys2Proof.Machine.execBlazeFrame sigs expected invalid s
  | .selfTestSlice e start tests => Sys2Proof.Machine.execSelfTestSlice e start tests s
  | .lockstepTest pass => Sys2Proof.Machine.execLockstepTest pass s
  | .latentCheck now => Sys2Proof.Machine.execLatentCheck now s
  | .tokenRecordWrite session token status => Sys2Proof.Machine.execTokenRecordWrite session token status s
  | .telemetryWrite client => Sys2Proof.Machine.execTelemetryWrite client s
  | .mailboxWriteDrop client mbox => Sys2Proof.Machine.execMailboxWriteDrop client mbox s
  | .clientCreate m => Sys2Proof.Machine.execClientCreate m s
  | .clientDestroy m => Sys2Proof.Machine.execClientDestroy m s
  | .beatConfig m => Sys2Proof.Machine.execBeatConfig m s
  | .topology m => Sys2Proof.Machine.execTopology m s
  | .poolConfig m => Sys2Proof.Machine.execPoolConfig m s
  | .fence m => Sys2Proof.Machine.execFence m s
  | .unfence m test => Sys2Proof.Machine.execUnfence m test s
  | .portgroupConfig m => Sys2Proof.Machine.execPortgroupConfig m s
  | .portgroupArm m => Sys2Proof.Machine.execPortgroupArm m s
  | .telemetryConfig m => Sys2Proof.Machine.execTelemetryConfig m s
  | .faultClear m => Sys2Proof.Machine.execFaultClear m s
  | .memAlloc m => Sys2Proof.Machine.execMemAlloc m s
  | .memFree m => Sys2Proof.Machine.execMemFree m s
  | .memCopy m => Sys2Proof.Machine.execMemCopy m s
  | .memCopyComplete client mbox status => Sys2Proof.Machine.execMemCopyComplete client mbox status s
  | .modelLoad m pkg => Sys2Proof.Machine.execModelLoad m pkg s
  | .modelLoadComplete client mbox => Sys2Proof.Machine.execModelLoadComplete client mbox s
  | .modelUnload m => Sys2Proof.Machine.execModelUnload m s
  | .modelSetTables m => Sys2Proof.Machine.execModelSetTables m s
  | .tsetCreate m => Sys2Proof.Machine.execTsetCreate m s
  | .tsetDestroy m => Sys2Proof.Machine.execTsetDestroy m s
  | .tsetDestroyComplete tset => Sys2Proof.Machine.execTsetDestroyComplete tset s
  | .stateCreate m => Sys2Proof.Machine.execStateCreate m s
  | .stateDestroy m => Sys2Proof.Machine.execStateDestroy m s
  | .pinnedDestroy obj => Sys2Proof.Machine.execPinnedDestroy obj s
  | .stateSwap m => Sys2Proof.Machine.execStateSwap m s
  | .swapCopyStart obj => Sys2Proof.Machine.execSwapCopyStart obj s
  | .swapCopyComplete obj refused newHandle => Sys2Proof.Machine.execSwapCopyComplete obj refused newHandle s
  | .stateReset m => Sys2Proof.Machine.execStateReset m s
  | .stateCopy m => Sys2Proof.Machine.execStateCopy m s
  | .stateCopyComplete client mbox => Sys2Proof.Machine.execStateCopyComplete client mbox s
  | .sessionOpen m => Sys2Proof.Machine.execSessionOpen m s
  | .sessionClose m => Sys2Proof.Machine.execSessionClose m s
  | .prefill m => Sys2Proof.Machine.execPrefill m s
  | .prefillComplete session status => Sys2Proof.Machine.execPrefillComplete session status s
  | .reusePointReady node => Sys2Proof.Machine.execReusePointReady node s
  | .decodeStart m => Sys2Proof.Machine.execDecodeStart m s
  | .decodeStop m => Sys2Proof.Machine.execDecodeStop m s
  | .sessionFork m => Sys2Proof.Machine.execSessionFork m s
  | .sessionQuery m => Sys2Proof.Machine.execSessionQuery m s
  | .pageMoveComplete session page => Sys2Proof.Machine.execPageMoveComplete session page s
  | .pageMoveBackComplete session => Sys2Proof.Machine.execPageMoveBackComplete session s
  | .channelOpen m => Sys2Proof.Machine.execChannelOpen m s
  | .channelClose m => Sys2Proof.Machine.execChannelClose m s
  | .channelStart m => Sys2Proof.Machine.execChannelStart m s
  | .channelStop m => Sys2Proof.Machine.execChannelStop m s
  | .channelMute m => Sys2Proof.Machine.execChannelMute m s
  | .channelUnmute m => Sys2Proof.Machine.execChannelUnmute m s
  | .channelGain m => Sys2Proof.Machine.execChannelGain m s
  | .zeroCrossingApply ch => Sys2Proof.Machine.execZeroCrossingApply ch s
  | .zcTimeout ch => Sys2Proof.Machine.execZcTimeout ch s
  | .stopwordStart m => Sys2Proof.Machine.execStopwordStart m s
  | .stopwordStop m => Sys2Proof.Machine.execStopwordStop m s
  | .afeInputProcess ch => Sys2Proof.Machine.execAfeInputProcess ch s
  | .afeOutputProcess ch => Sys2Proof.Machine.execAfeOutputProcess ch s
  | .trigInEdge t => Sys2Proof.Machine.execTrigInEdge t s
  | .groupStart g => Sys2Proof.Machine.execGroupStart g s
  | .slip p cause => Sys2Proof.Machine.execSlip p cause s
  | .slipRejoin p => Sys2Proof.Machine.execSlipRejoin p s
  | .clkLost g => Sys2Proof.Machine.execClkLost g s
  | .verdictWrite dom slot path vrec status => Sys2Proof.Machine.execVerdictWrite dom slot path vrec status s
  | .verdictDeadline slot path => Sys2Proof.Machine.execVerdictDeadline slot path s
  | .verdictStarvation slot path => Sys2Proof.Machine.execVerdictStarvation slot path s
  | .safeAckEdge lowMs highMs => Sys2Proof.Machine.execSafeAckEdge lowMs highMs s
  | .testPulse channelB readLow readHigh => Sys2Proof.Machine.execTestPulse channelB readLow readHigh s
  | .tickLoss => Sys2Proof.Machine.execTickLoss s
  | .refclkLoss => Sys2Proof.Machine.execRefclkLoss s
  | .frameEgress l => Sys2Proof.Machine.execFrameEgress l s
  | .epochRollover l space => Sys2Proof.Machine.execEpochRollover l space s
  | .frameStream l r => Sys2Proof.Machine.execFrameStream l r s
  | .frameWrite l r => Sys2Proof.Machine.execFrameWrite l r s
  | .frameRead l r => Sys2Proof.Machine.execFrameRead l r s
  | .frameReadData l r => Sys2Proof.Machine.execFrameReadData l r s
  | .frameWriteDone l r => Sys2Proof.Machine.execFrameWriteDone l r s
  | .ack l r => Sys2Proof.Machine.execAck l r s
  | .ackTimer l => Sys2Proof.Machine.execAckTimer l s
  | .nak l r => Sys2Proof.Machine.execNak l r s
  | .delayReq l r t2 t3 => Sys2Proof.Machine.execDelayReq l r t2 t3 s
  | .delayResp l head rest cw t4 => Sys2Proof.Machine.execDelayResp l head rest cw t4 s
  | .corrupt l r => Sys2Proof.Machine.execCorrupt l r s
  | .hello l r => Sys2Proof.Machine.execHello l r s
  | .helloRepeat l => Sys2Proof.Machine.execHelloRepeat l s
  | .keyed l r => Sys2Proof.Machine.execKeyed l r s
  | .linkTrainingComplete l lanesOk => Sys2Proof.Machine.execLinkTrainingComplete l lanesOk s
  | .laneLoss l => Sys2Proof.Machine.execLaneLoss l s
  | .dlkEnable dom l => Sys2Proof.Machine.execDlkEnable dom l s
  | .dlkRetrain dom l => Sys2Proof.Machine.execDlkRetrain dom l s
  | .nmuShareWrite dom n v => Sys2Proof.Machine.execNmuShareWrite dom n v s
  | .yardOutstWrite dom y v => Sys2Proof.Machine.execYardOutstWrite dom y v s
  | .yardSplitWrite dom v => Sys2Proof.Machine.execYardSplitWrite dom v s
  | .lcPartWrite dom v => Sys2Proof.Machine.execLcPartWrite dom v s
  | .regionTagWrite dom region v => Sys2Proof.Machine.execRegionTagWrite dom region v s
  | .pwrCapWrite dom v => Sys2Proof.Machine.execPwrCapWrite dom v s
  | .gpioCtrlWrite dom v => Sys2Proof.Machine.execGpioCtrlWrite dom v s
  | .registerWrite dom addr v => Sys2Proof.Machine.execRegisterWrite dom addr v s
  | .powerUp vin => Sys2Proof.Machine.execPowerUp vin s
  | .boot katOk cxl => Sys2Proof.Machine.execBoot katOk cxl s
  | .trialTimeout => Sys2Proof.Machine.execTrialTimeout s
  | .powerFail vin pin => Sys2Proof.Machine.execPowerFail vin pin s
  | .protectiveShed vin pin => Sys2Proof.Machine.execProtectiveShed vin pin s
  | .vinBrownout vin => Sys2Proof.Machine.execVinBrownout vin s
  | .thermalCapStep temps => Sys2Proof.Machine.execThermalCapStep temps s
  | .modelHigh measured => Sys2Proof.Machine.execModelHigh measured s
  | .bbCommit => Sys2Proof.Machine.execBbCommit s
  | .norRefresh corrections => Sys2Proof.Machine.execNorRefresh corrections s
  | .drbgReseed entropy => Sys2Proof.Machine.execDrbgReseed entropy s
  | .mrstNPulse ns => Sys2Proof.Machine.execMrstNPulse ns s
  | .moduleReset cause => Sys2Proof.Machine.execModuleReset cause s
  | .warmReset cause => Sys2Proof.Machine.execWarmReset cause s
  | .computeReset cause => Sys2Proof.Machine.execComputeReset cause s
  | .operationOn => Sys2Proof.Machine.execOperationOn s
  | .operationOff => Sys2Proof.Machine.execOperationOff s
  | .clearFaults => Sys2Proof.Machine.execClearFaults s
  | .statusWord => Sys2Proof.Machine.execStatusWord s
  | .statusInput => Sys2Proof.Machine.execStatusInput s
  | .statusTemperature => Sys2Proof.Machine.execStatusTemperature s
  | .readVin => Sys2Proof.Machine.execReadVin s
  | .readIin => Sys2Proof.Machine.execReadIin s
  | .readPin => Sys2Proof.Machine.execReadPin s
  | .readTemperature1 => Sys2Proof.Machine.execReadTemperature1 s
  | .pmbusRevision => Sys2Proof.Machine.execPmbusRevision s
  | .pmbusUnsupported code => Sys2Proof.Machine.execPmbusUnsupported code s
  | .powerStateActive => Sys2Proof.Machine.execPowerStateActive s
  | .powerStateStandby => Sys2Proof.Machine.execPowerStateStandby s
  | .powerStateSleep => Sys2Proof.Machine.execPowerStateSleep s
  | .mfrPowerCap write => Sys2Proof.Machine.execMfrPowerCap write s
  | .mfrResetWarm => Sys2Proof.Machine.execMfrResetWarm s
  | .mfrResetModule => Sys2Proof.Machine.execMfrResetModule s
  | .mfrResetCompute => Sys2Proof.Machine.execMfrResetCompute s
  | .mfrBbRead off => Sys2Proof.Machine.execMfrBbRead off s
  | .getCerts payload => Sys2Proof.Machine.execGetCerts payload s
  | .attest payload => Sys2Proof.Machine.execAttest payload s
  | .stageBegin payload => Sys2Proof.Machine.execStageBegin payload s
  | .stageData payload => Sys2Proof.Machine.execStageData payload s
  | .stageEnd payload => Sys2Proof.Machine.execStageEnd payload s
  | .commit payload => Sys2Proof.Machine.execCommit payload s
  | .stageAbort payload => Sys2Proof.Machine.execStageAbort payload s
  | .keyEnroll payload => Sys2Proof.Machine.execKeyEnroll payload s
  | .debugChallenge payload => Sys2Proof.Machine.execDebugChallenge payload s
  | .debugUnlock payload => Sys2Proof.Machine.execDebugUnlock payload s
  | .rotReplyRead off => Sys2Proof.Machine.execRotReplyRead off s
  | .chainChangeCheck cfg holdMax => Sys2Proof.Machine.execChainChangeCheck cfg holdMax s
  | .chainChangeAnswer modul accept => Sys2Proof.Machine.execChainChangeAnswer modul accept s
  | .groupFrame g rx pdm => Sys2Proof.Machine.execGroupFrame g rx pdm s
  | .refclkWithinLimits ms => Sys2Proof.Machine.execRefclkWithinLimits ms s
  | .errorInterrupt unit => Sys2Proof.Machine.execErrorInterrupt unit s
  | .accessFault core addr write => Sys2Proof.Machine.execAccessFault core addr write s
  | .mailboxReservedOpcode opcode m => Sys2Proof.Machine.execMailboxReservedOpcode opcode m s
  | .rotReservedOperation op => Sys2Proof.Machine.execRotReservedOperation op s

end Sys2Proof.Machine
end

