-- ==== Sys2Proof/WellFormed.lean ====
section
/-! DEFINITION. Which commands are well formed: unit numbers that the module has, words as long as their engine's command
word, message and frame fields within the widths of their records. `exec` is total and takes every other command as well:
one that names no unit of the module changes nothing. -/

namespace Sys2Proof

/-- An engine of the module: 8 clusters, 16 stacks with two NMU engines each, 32 yarders (table *Module configuration*). -/
def Engine.wf : Engine → Bool
  | .cluster c => decide (c < 8)
  | .gemv s => decide (s < 16)
  | .att s => decide (s < 16)
  | .yarder y => decide (y < 32)

/-- A unit of table *Fence units* (R481). -/
def UnitId.wf (u : UnitId) : Bool :=
  decide (u.index < (match u.kind with
    | .cluster => 8 | .nmu => 16 | .link => 24 | .cxl => 4 | .sap => 4 | .pdm => 8))

/-- A row of the checker table (R509). -/
def Checker.wf : Checker → Bool
  | .clusterEcc c => decide (c < 8)
  | .clusterSfu c => decide (c < 8)
  | .clusterWd c => decide (c < 8)
  | .nmuWd s => decide (s < 16)
  | .nmuEcc s => decide (s < 16)
  | .nmuFw s => decide (s < 16)
  | .yarderWd y => decide (y < 32)
  | .sliceFw i => decide (i < 16)
  | .sliceEcc i => decide (i < 16)
  | .cxlFw p => decide (p < 4)
  | .cxlPoison p => decide (p < 4)
  | .linkFw l => decide (l < 24)
  | .linkFrame l => decide (l < 24)
  | .comparator => true
  | .afe => true
  | .monitor => true
  | .lockstep => true

/-- A command word of `n` bytes. -/
def wordWf (n : Nat) (w : List Byte) : Bool := decide (w.length = n)

/-- The operand fields of a VE instruction word on a cluster: the MSK field is three bits and every register field five
by their types, so the cluster alone is checked (R161). -/
def veWf (c : Nat) : Bool := decide (c < 8)

/-- A message as a client can write it: a client of the module, one of its 16 mailboxes, a payload within PLEN (R458). -/
def Msg.wf (m : Msg) : Bool :=
  decide (m.client < 256) && decide (m.mbox < 16) && decide (m.plen < 2 ^ 16) && decide (m.refLen < 2 ^ 32) &&
  decide (m.payload.length ≤ 4032)

/-- A trained port has a RATE and a WIDTH of the table (R376). -/
def UnitTest.wf (t : UnitTest) : Bool := decide (t.code / 4 < 3) && decide (t.code % 4 < 3)

/-- A merge contribution: a stack of the module, or a module ID of 12 bits (R255). -/
def MergeSrc.wf : MergeSrc → Bool
  | .stack i => decide (i < 16)
  | .modul id => decide (id < 0xFFF)

/-- A frame as it leaves FEC: a body of LEN bytes, at most 16,384, and a 16-byte tag (R380). -/
def Frame.wf (f : Frame) : Bool :=
  decide (f.body.length ≤ 16384) && decide (f.body.length = f.len.toNat) && decide (f.tag.length = 16)

/-- A frame from the lanes: codewords of 544 symbols, and words with as many symbols in error as the code of the memories knows. -/
def RxFrame.wf (r : RxFrame) : Bool := r.fr.wf && r.cw.all (fun n => decide (n ≤ 544)) && decide (r.sym ≤ 3)

/-- A register write: one of the 64 domains and a value by type. -/
def domWf (dom : Nat) : Bool := decide (dom < 64)

/-- A well-formed command. -/
def Instr.wf : Instr → Bool
  | .tick _ => true
  | .planCompose => true
  | .beatInEdge _ => true
  | .beatInTimeout => true
  | .beatEnable dom _ => domWf dom
  | .beatApplyWrite dom _ => domWf dom
  | .markerSend _ => true
  | .markerReceive l r _ => decide (l < 24) && r.wf
  | .markerMissing => true
  | .execWindowEnd => true
  | .kerfStart => true
  | .commandStart e _ => e.wf
  | .watchdogTrip e => e.wf
  | .matmul c w _ => decide (c < 8) && wordWf 32 w
  | .arrayStall c _ => decide (c < 8)
  | .veprog c w _ => decide (c < 8) && wordWf 32 w
  | .nop c _ => veWf c
  | .add c _ => veWf c
  | .sub c _ => veWf c
  | .mul c _ => veWf c
  | .fma c _ => veWf c
  | .max c _ => veWf c
  | .min c _ => veWf c
  | .abs c _ => veWf c
  | .neg c _ => veWf c
  | .ceq c _ => veWf c
  | .clt c _ => veWf c
  | .cle c _ => veWf c
  | .cun c _ => veWf c
  | .sel c _ => veWf c
  | .cvt c _ => veWf c
  | .pack c _ => veWf c
  | .unpk c _ => veWf c
  | .lqu8 c _ => veWf c
  | .lqs8 c _ => veWf c
  | .ldq c _ => veWf c
  | .perm c _ => veWf c
  | .shuf c _ => veWf c
  | .iadd c _ => veWf c
  | .iand c _ => veWf c
  | .ior c _ => veWf c
  | .ixor c _ => veWf c
  | .ishl c _ => veWf c
  | .ishr c _ => veWf c
  | .iota c _ => veWf c
  | .mand c _ => veWf c
  | .mor c _ => veWf c
  | .mxor c _ => veWf c
  | .mnot c _ => veWf c
  | .ld c _ => veWf c
  | .st c _ => veWf c
  | .rsum c _ => veWf c
  | .rmax c _ => veWf c
  | .rmin c _ => veWf c
  | .ramax c _ => veWf c
  | .rugo c _ => veWf c
  | .ruPass c => veWf c
  | .ruwait c _ => veWf c
  | .rurd c _ => veWf c
  | .rufin c _ => veWf c
  | .sfn c _ => veWf c
  | .smov c _ => veWf c
  | .sadd c _ => veWf c
  | .sget c _ => veWf c
  | .tin c _ => veWf c
  | .tout c _ => veWf c
  | .loop c _ => veWf c
  | .endl c _ => veWf c
  | .ska c _ => veWf c
  | .skn c _ => veWf c
  | .endP c _ => veWf c
  | .scanChunk c w _ => decide (c < 8) && wordWf 32 w
  | .scanStep c w _ => decide (c < 8) && wordWf 32 w
  | .scanZero c w => decide (c < 8) && wordWf 32 w
  | .sfuBankLoad c _ image => decide (c < 8) && wordWf 66560 image
  | .gemv s w sym => decide (s < 16) && wordWf 64 w && decide (sym ≤ 3)
  | .attScore s w sym => decide (s < 16) && wordWf 64 w && decide (sym ≤ 3)
  | .attValue s w sym => decide (s < 16) && wordWf 64 w && decide (sym ≤ 3)
  | .kvput s w sym => decide (s < 16) && wordWf 32 w && decide (sym ≤ 3)
  | .kvseal s w sym => decide (s < 16) && wordWf 32 w && decide (sym ≤ 3)
  | .mergeContribution slot src _ => decide (slot < 1024) && src.wf
  | .mergeDeadline slot => decide (slot < 1024)
  | .stream y w => decide (y < 32) && wordWf 64 w
  | .copy y w => decide (y < 32) && wordWf 64 w
  | .descriptorFetch y r => decide (y < 32) && decide (r.num < 4096) && decide (r.sym ≤ 3)
  | .tileDeliver y num => decide (y < 32) && decide (num < 4096)
  | .transferComplete y num _ sym => decide (y < 32) && decide (num < 4096) && decide (sym ≤ 3)
  | .skidPush y num => decide (y < 32) && decide (num < 4096)
  | .faultFence u _ _ => u.wf
  | .fenceDataMoveComplete u _ _ => u.wf
  | .relayComplete => true
  | .unitReturn u => u.wf
  | .patrolScrub s _ _ => decide (s < 16)
  | .lcPatrolScrub i _ _ => decide (i < 16)
  | .stackCalibration s => decide (s < 16)
  | .linkCalibration l => decide (l < 24)
  | .cxlCalibration p => decide (p < 4)
  | .catchUpCalibration u => u.wf
  | .telemetrySampling _ _ _ temps => temps.all (fun (x : Nat) => decide (x < 256))
  | .linkDelayMeasurement l _ => decide (l < 24)
  | .regionRetire _ => true
  | .blazeFrame sigs expected _ => decide (sigs.length = expected.length)
  | .selfTestSlice e _ tests => (match e with | some e => e.wf | none => true) && tests.all (fun (x : Checker × Bool) => x.1.wf)
  | .lockstepTest _ => true
  | .latentCheck _ => true
  | .tokenRecordWrite session _ _ => decide (session < 65536)
  | .telemetryWrite client => decide (client < 256)
  | .mailboxWriteDrop client mbox => decide (client < 256) && decide (mbox < 16)
  | .clientCreate m => m.wf
  | .clientDestroy m => m.wf
  | .beatConfig m => m.wf
  | .topology m => m.wf
  | .poolConfig m => m.wf
  | .fence m => m.wf
  | .unfence m t => m.wf && t.wf
  | .portgroupConfig m => m.wf
  | .portgroupArm m => m.wf
  | .telemetryConfig m => m.wf
  | .faultClear m => m.wf
  | .memAlloc m => m.wf
  | .memFree m => m.wf
  | .memCopy m => m.wf
  | .memCopyComplete client mbox _ => decide (client < 256) && decide (mbox < 16)
  | .modelLoad m pkg => m.wf && decide (pkg.header.length % 64 = 0)
  | .modelLoadComplete client mbox => decide (client < 256) && decide (mbox < 16)
  | .modelUnload m => m.wf
  | .modelSetTables m => m.wf
  | .tsetCreate m => m.wf
  | .tsetDestroy m => m.wf
  | .tsetDestroyComplete tset => decide (tset < 65536)
  | .stateCreate m => m.wf
  | .stateDestroy m => m.wf
  | .pinnedDestroy obj => decide (obj < 65536)
  | .stateSwap m => m.wf
  | .swapCopyStart obj => decide (obj < 65536)
  | .swapCopyComplete obj _ _ => decide (obj < 65536)
  | .stateReset m => m.wf
  | .stateCopy m => m.wf
  | .stateCopyComplete client mbox => decide (client < 256) && decide (mbox < 16)
  | .sessionOpen m => m.wf
  | .sessionClose m => m.wf
  | .prefill m => m.wf
  | .prefillComplete session _ => decide (session < 65536)
  | .reusePointReady _ => true
  | .decodeStart m => m.wf
  | .decodeStop m => m.wf
  | .sessionFork m => m.wf
  | .sessionQuery m => m.wf
  | .pageMoveComplete session _ => decide (session < 65536)
  | .pageMoveBackComplete session => decide (session < 65536)
  | .channelOpen m => m.wf
  | .channelClose m => m.wf
  | .channelStart m => m.wf
  | .channelStop m => m.wf
  | .channelMute m => m.wf
  | .channelUnmute m => m.wf
  | .channelGain m => m.wf
  | .zeroCrossingApply ch => decide (ch < 65536)
  | .zcTimeout ch => decide (ch < 65536)
  | .stopwordStart m => m.wf
  | .stopwordStop m => m.wf
  | .afeInputProcess ch => decide (ch < 65536)
  | .afeOutputProcess ch => decide (ch < 65536)
  | .trigInEdge _ => true
  | .groupStart g => decide (g < 16)
  | .slip p _ => decide (p < 4)
  | .slipRejoin p => decide (p < 4)
  | .clkLost g => decide (g < 16)
  | .verdictWrite dom slot path vrec _ => domWf dom && decide (slot < 8) && decide (path < 2) && wordWf 16 vrec
  | .verdictDeadline slot path => decide (slot < 8) && decide (path < 2)
  | .verdictStarvation slot path => decide (slot < 8) && decide (path < 2)
  | .safeAckEdge _ _ => true
  | .testPulse _ _ _ => true
  | .tickLoss => true
  | .refclkLoss => true
  | .frameEgress l => decide (l < 24)
  | .epochRollover l space => decide (l < 24) && decide (space < 2)
  | .frameStream l r => decide (l < 24) && r.wf
  | .frameWrite l r => decide (l < 24) && r.wf
  | .frameRead l r => decide (l < 24) && r.wf
  | .frameReadData l r => decide (l < 24) && r.wf
  | .frameWriteDone l r => decide (l < 24) && r.wf
  | .ack l r => decide (l < 24) && r.wf
  | .ackTimer l => decide (l < 24)
  | .nak l r => decide (l < 24) && r.wf
  | .delayReq l r _ _ => decide (l < 24) && r.wf
  | .delayResp l head rest cw _ => decide (l < 24) && decide (head.length = 12) && decide (20 ≤ rest.length) && (rxOf head rest cw).wf
  | .corrupt l r => decide (l < 24) && r.wf
  | .hello l r => decide (l < 24) && r.wf
  | .helloRepeat l => decide (l < 24)
  | .keyed l r => decide (l < 24) && r.wf
  | .linkTrainingComplete l _ => decide (l < 24)
  | .laneLoss l => decide (l < 24)
  | .dlkEnable dom l => domWf dom && decide (l < 24)
  | .dlkRetrain dom l => domWf dom && decide (l < 24)
  | .nmuShareWrite dom s _ => domWf dom && decide (s < 16)
  | .yardOutstWrite dom y _ => domWf dom && decide (y < 32)
  | .yardSplitWrite dom _ => domWf dom
  | .lcPartWrite dom _ => domWf dom
  | .regionTagWrite dom _ _ => domWf dom
  | .pwrCapWrite dom _ => domWf dom
  | .gpioCtrlWrite dom _ => domWf dom
  | .registerWrite dom addr _ => domWf dom && decide (addr % 8 = 0)
  | .powerUp _ => true
  | .boot _ cxl => decide (cxl.length ≤ 4)
  | .trialTimeout => true
  | .powerFail _ _ => true
  | .protectiveShed _ _ => true
  | .vinBrownout _ => true
  | .thermalCapStep temps => temps.all (fun (x : Nat) => decide (x < 256))
  | .modelHigh _ => true
  | .bbCommit => true
  | .norRefresh _ => true
  | .drbgReseed _ => true
  | .mrstNPulse _ => true
  | .moduleReset cause => decide (cause < 256)
  | .warmReset cause => decide (cause < 256)
  | .computeReset cause => decide (cause < 256)
  | .operationOn => true
  | .operationOff => true
  | .clearFaults => true
  | .statusWord => true
  | .statusInput => true
  | .statusTemperature => true
  | .readVin => true
  | .readIin => true
  | .readPin => true
  | .readTemperature1 => true
  | .pmbusRevision => true
  | .pmbusUnsupported _ => true
  | .powerStateActive => true
  | .powerStateStandby => true
  | .powerStateSleep => true
  | .mfrPowerCap write => (match write with | some v => decide (v < 65536) | none => true)
  | .mfrResetWarm => true
  | .mfrResetModule => true
  | .mfrResetCompute => true
  | .mfrBbRead off => decide (off < 2 ^ 32)
  | .getCerts _ => true
  | .attest _ => true
  | .stageBegin _ => true
  | .stageData _ => true
  | .stageEnd _ => true
  | .commit _ => true
  | .stageAbort _ => true
  | .keyEnroll _ => true
  | .debugChallenge _ => true
  | .debugUnlock _ => true
  | .rotReplyRead _ => true
  | .chainChangeCheck _ _ => true
  | .chainChangeAnswer modul _ => decide (modul < 0xFFF)
  | .groupFrame g rx pdm => decide (g < 16) && rx.frames.all (fun (x : Nat × List Word) => decide (x.1 < 4)) &&
      pdm.all (fun (x : Nat × List Bool) => decide (x.1 < 8))
  | .refclkWithinLimits _ => true
  | .errorInterrupt unit => decide (unit < 18)
  | .accessFault core _ _ => decide (core < 16)
  | .mailboxReservedOpcode _ m => m.wf
  | .rotReservedOperation _ => true

end Sys2Proof
end

