-- ==== Sys2Proof/Safety.lean ====
section
/-! DEFINITION. What a safe run of the module is, in the terms that statements use: runs of steps, the canonical form of
every store of bytes, and the shape of the state that the module's configuration fixes. -/

namespace Sys2Proof.Machine

/-- A run of `n` steps: the state it ends in, if no step of it stops. -/
def runSteps : Nat → State → Option State
  | 0, s => some s
  | n + 1, s =>
    match step s with
    | .next t => runSteps n t
    | .fault _ => none
    | .refused _ => none

/-- A run is safe for `n` steps when none of them stops. -/
def SafeFor (n : Nat) (s : State) : Prop := ∃ t, runSteps n s = some t

/-- Device memory (HBM, the Landing Cache window, CXL) is in the canonical form. -/
def State.devWf (s : State) : Bool := Memory.wf s.mem.dev

/-- Every store of bytes is in the canonical form: device memory, the NMUs' activation and score buffers, the clusters'
tiles, the black box's MRAM and the Root of Trust's staging area. -/
def State.storesWf (s : State) : Bool :=
  s.devWf && s.nmus.all (fun k => Memory.wf k.act && Memory.wf k.actDom && Memory.wf k.scoreBuf) &&
  s.clusters.all (fun k => k.ve.tiles.all (fun t => Memory.wf t.mem)) && Memory.wf s.bb.mram &&
  (match s.rot.staging with | some g => Memory.wf g.data | none => true)

/-! ## What every step keeps -/

/-- A Vector Engine's registers have their numbers and lengths (R156), and its tiles are in the canonical form. -/
structure VeSt.Ok (k : VeSt) : Prop where
  vregs : k.v.length = 16
  lanes : ∀ r ∈ k.v, r.length = 1024
  masks : k.m.length = 8
  scalars : k.s.length = 16
  tiles : k.tiles.length = 4
  bytes : ∀ t ∈ k.tiles, Memory.wf t.mem = true

/-- The clusters: eight of them. -/
def ClustersOk (l : List ClusterSt) : Prop := l.length = 8 ∧ ∀ k ∈ l, k.ve.Ok

/-- An NMU's buffers are in the canonical form. -/
def NmuSt.Ok (k : NmuSt) : Prop := Memory.wf k.act = true ∧ Memory.wf k.actDom = true ∧ Memory.wf k.scoreBuf = true

/-- The NMUs: sixteen of them. -/
def NmusOk (l : List NmuSt) : Prop := l.length = 16 ∧ ∀ k ∈ l, k.Ok

/-- Device memory is in the canonical form, and LC_PART stands at a legal value (R352). -/
structure MemSt.Ok (m : MemSt) : Prop where
  bytes : Memory.wf m.dev = true
  ports : m.cxl.length = 4
  ways : m.winWays.toNat ≤ 20
  next : ∀ w, m.winNext = some w → w.toNat ≤ 20

/-- A yarder's outstanding transfers stand at legal values (R343). -/
def YarderSt.Ok (k : YarderSt) : Prop := outOk k.outD.toNat = true ∧ outOk k.outI.toNat = true ∧ outOk k.outB.toNat = true

/-- The yarders, and the skid queues with at most 64 entries each (R306). -/
structure YardSt.Ok (k : YardSt) : Prop where
  yarders : k.yards.length = 32
  legal : ∀ y ∈ k.yards, y.Ok
  split : k.readPm.toNat + k.writePm.toNat + k.remotePm.toNat ≤ 1000
  queues : k.skids.length = 256
  room : ∀ q ∈ k.skids, q.entries.length ≤ skidCap

/-- What a plan loads at its tick is legal (R337, R343). -/
def PlanRegs.Ok (r : PlanRegs) : Prop :=
  outOk r.outst.1 = true ∧ outOk r.outst.2.1 = true ∧ outOk r.outst.2.2 = true ∧ r.split.1 + r.split.2.1 + r.split.2.2 ≤ 1000

/-- The released plan and the one for the next beat load legal values. -/
structure PlanSt.Ok (p : PlanSt) : Prop where
  cur : p.curRegs.Ok
  next : ∀ x, p.next = some x → x.2.2.Ok

/-- The links: twenty-four of them. -/
def LinksSt.Ok (k : LinksSt) : Prop := k.links.length = 24

/-- The audio ports, PDM clocks, PLLs and groups have their numbers. -/
structure AudioSt.Ok (a : AudioSt) : Prop where
  saps : a.saps.length = 4
  pdms : a.pdms.length = 4
  plls : a.plls.length = 2
  groups : a.groups.length = 16

/-- While the hold is asserted both outputs are low and no test pulse runs (R515, R518). -/
def SafeSt.Ok (k : SafeSt) : Prop := k.hold = true → k.aLvl = false ∧ k.bLvl = false ∧ k.pulse = false

/-- The Root of Trust's staging area is in the canonical form; its image types and customer key slots have their numbers. -/
structure RotSt.Ok (r : RotSt) : Prop where
  images : r.imgs.length = 6
  keys : r.cust.length = 2
  bytes : ∀ g, r.staging = some g → Memory.wf g.data = true

/-- CAP_W is legal, in the register and in the configuration store (R562). -/
def PowerSt.Ok (p : PowerSt) : Prop := capOk p.capW.toNat = true ∧ capOk p.cfg.capW = true

/-- The black box's MRAM is in the canonical form. -/
def BbSt.Ok (b : BbSt) : Prop := Memory.wf b.mram = true

/-- What holds of the state after reset, and what every step keeps. -/
structure State.Inv (s : State) : Prop where
  clusters : ClustersOk s.clusters
  nmus : NmusOk s.nmus
  plan : s.plan.Ok
  mem : s.mem.Ok
  yard : s.yard.Ok
  links : s.links.Ok
  audio : s.audio.Ok
  safe : s.safe.Ok
  rot : s.rot.Ok
  power : s.power.Ok
  bb : s.bb.Ok

/-- What a later Root of Trust may not have lost of an earlier one: the device secret, the root key and the revoked keys stand,
no anti-rollback count has fallen, no customer key has changed once enrolled, and none that was revoked is valid again. -/
structure RotLe (a b : RotSt) : Prop where
  uds : b.uds = a.uds
  root : b.rootPub = a.rootPub
  revoked : b.revoked = a.revoked
  fused : ∀ t, (a.img t).fused ≤ (b.img t).fused
  enrolled : ∀ (i : Nat) (k : CustKey), a.cust[i]? = some k → ∃ k' : CustKey, b.cust[i]? = some k' ∧ (k.hash ≠ none → k'.hash = k.hash) ∧ (k.revoked = true → k'.revoked = true)

/-! ## Words for the Vector Engine -/

/-- Lane `i` of source A, as FP32 or I32. -/
def VeSt.laneA (k : VeSt) (f : VEWord) (i : Nat) : Word := (k.vr f.va.toNat).getD i 0
/-- Lane `i` of source B: with SB the scalar, in every lane (R161). -/
def VeSt.laneB (k : VeSt) (f : VEWord) (i : Nat) : Word :=
  if f.imm.getLsbD 28 then k.sr (f.vb.toNat % 16) else (k.vr f.vb.toNat).getD i 0
/-- Lane `i` of source C. -/
def VeSt.laneC (k : VeSt) (f : VEWord) (i : Nat) : Word := (k.vr f.vc.toNat).getD i 0
/-- Element `i` of source A, as BF16 (R157). -/
def VeSt.elemA (k : VeSt) (f : VEWord) (i : Nat) : Half := (elems (k.vr f.va.toNat)).getD i 0
/-- Element `i` of source B: with SB the scalar, rounded once to BF16 (R161). -/
def VeSt.elemB (k : VeSt) (f : VEWord) (i : Nat) : Half :=
  if f.imm.getLsbD 28 then toB16 (dec32 (k.sr (f.vb.toNat % 16))) else (elems (k.vr f.vb.toNat)).getD i 0
/-- Element `i` of source C. -/
def VeSt.elemC (k : VeSt) (f : VEWord) (i : Nat) : Half := (elems (k.vr f.vc.toNat)).getD i 0

/-- The state with cluster `c`'s V[VD] replaced and its program moved on by one instruction, and nothing else changed. -/
def State.veWrote (s : State) (c : Nat) (f : VEWord) (v : List Word) : State :=
  s.onVe c (fun k => { k with v := k.v.set f.vd.toNat v, pc := k.pc + 1 })

/-- `v` is V[VD] after 32-bit results under the write mask (R165): an enabled lane has its result, a disabled one keeps its
value or, with ZM, becomes +0. -/
def VeSt.Merged32 (k : VeSt) (f : VEWord) (res : Nat → Word) (v : List Word) : Prop :=
  v.length = 1024 ∧ ∀ i < 1024,
    v.getD i 0 = if (k.wm f).getLsbD i then res i else if f.zm then 0 else (k.vr f.vd.toNat).getD i 0
/-- `v` is V[VD] after 16-bit results under the write mask (R157, R165). -/
def VeSt.Merged16 (k : VeSt) (f : VEWord) (res : Nat → Half) (v : List Word) : Prop :=
  v.length = 1024 ∧ ∀ i < 2048,
    (elems v).getD i 0 = if (k.wm f).getLsbD i then res i else if f.zm then 0 else (elems (k.vr f.vd.toNat)).getD i 0

/-- The instruction `i` completes: it writes 32-bit results to V[VD] of cluster `c` and moves on; all else stays. -/
def Writes32 (i : Instr) (c : Nat) (f : VEWord) (s : State) (res : Nat → Word) : Prop :=
  ∃ v, (s.cluster c).ve.Merged32 f res v ∧ exec i s = .next (s.veWrote c f v)
/-- The instruction `i` completes: it writes 16-bit results to V[VD] of cluster `c` and moves on; all else stays. -/
def Writes16 (i : Instr) (c : Nat) (f : VEWord) (s : State) (res : Nat → Half) : Prop :=
  ∃ v, (s.cluster c).ve.Merged16 f res v ∧ exec i s = .next (s.veWrote c f v)
/-- The instruction `i` completes: it writes the first `n` bits of M[VD] under the write mask (R158, R165), a write to M0 being
discarded (R156), and moves on; all else stays. -/
def WritesMask (i : Instr) (c : Nat) (f : VEWord) (s : State) (n : Nat) (res : Nat → Bool) : Prop :=
  let k := (s.cluster c).ve
  let d := f.vd.toNat % 8
  ∃ m : BitVec 2048,
    (∀ j < 2048, m.getLsbD j =
      if n ≤ j then (k.mr d).getLsbD j else if (k.wm f).getLsbD j then res j else if f.zm then false else (k.mr d).getLsbD j) ∧
    exec i s = .next (s.onVe c (fun k => { k with m := if d = 0 then k.m else k.m.set d m, pc := k.pc + 1 }))
/-- The instruction `i` completes: it writes S[VD[3:0]] of cluster `c` and moves on; all else stays. -/
def WritesScalar (i : Instr) (c : Nat) (f : VEWord) (s : State) (w : Word) : Prop :=
  exec i s = .next (s.onVe c (fun k => { k with s := k.s.set (f.vd.toNat % 16) w, pc := k.pc + 1 }))

/-- The clusters are whole, the Vector Engine of cluster `c` may run (R29, R160, R231), and it takes an instruction of opcode
`op` with the fields `f` (R182). -/
def VeTakes (s : State) (c op : Nat) (f : VEWord) : Prop :=
  ClustersOk s.clusters ∧ s.veFree c = true ∧ veWordOk op f = true

/-- The instructions of the Vector Engine as rows, with their opcodes (table *VE opcodes*). -/
def veRows : List ((Nat → VEWord → Instr) × Nat) :=
  [(Instr.nop, 0x00), (Instr.add, 0x01), (Instr.sub, 0x02), (Instr.mul, 0x03), (Instr.fma, 0x04),
   (Instr.max, 0x05), (Instr.min, 0x06), (Instr.abs, 0x07), (Instr.neg, 0x08), (Instr.ceq, 0x10),
   (Instr.clt, 0x11), (Instr.cle, 0x12), (Instr.cun, 0x13), (Instr.sel, 0x14), (Instr.cvt, 0x20),
   (Instr.pack, 0x21), (Instr.unpk, 0x22), (Instr.lqu8, 0x23), (Instr.lqs8, 0x24), (Instr.ldq, 0x25),
   (Instr.perm, 0x30), (Instr.shuf, 0x31), (Instr.iadd, 0x40), (Instr.iand, 0x41), (Instr.ior, 0x42),
   (Instr.ixor, 0x43), (Instr.ishl, 0x44), (Instr.ishr, 0x45), (Instr.iota, 0x46), (Instr.mand, 0x50),
   (Instr.mor, 0x51), (Instr.mxor, 0x52), (Instr.mnot, 0x53), (Instr.ld, 0x60), (Instr.st, 0x61),
   (Instr.rsum, 0x70), (Instr.rmax, 0x71), (Instr.rmin, 0x72), (Instr.ramax, 0x73), (Instr.rugo, 0x78),
   (Instr.ruwait, 0x79), (Instr.rurd, 0x7A), (Instr.rufin, 0x7B), (Instr.sfn, 0x7C), (Instr.smov, 0x80),
   (Instr.sadd, 0x81), (Instr.sget, 0x82), (Instr.tin, 0x90), (Instr.tout, 0x91), (Instr.loop, 0xF0),
   (Instr.endl, 0xF1), (Instr.ska, 0xF2), (Instr.skn, 0xF3), (Instr.endP, 0xFF)]

/-! ## Words for messages -/

/-- A message reaches its checks: the application cores run, its mailbox is the client's, its block is bound, and its header
passes the checks of R466. -/
def MsgReady (_op : Nat) (plen : Option Nat) (ref : Bool) (m : Msg) (s : State) : Prop :=
  s.coresUp = true ∧ ((s.box m.client m.mbox).map (·.own)).getD false = false ∧ (s.block m.client).bound = true ∧
  headerFail plen ref m = none
/-- The state with the message in its mailbox and the mailbox the DCP's, ACC_BEAT at the present beat (R464, R465). -/
def State.taking (op : Nat) (m : Msg) (s : State) : State :=
  s.onCtrl (fun k => { k with
    boxes := k.boxes.filter (fun b => !(b.client == m.client && b.mbox == m.mbox)) ++ [{
      client := m.client
      mbox := m.mbox
      own := true
      opcode := BitVec.ofNat 16 op
      status := ((s.box m.client m.mbox).map (·.status)).getD 0
      seq := m.seq
      plen := m.plen
      rlen := ((s.box m.client m.mbox).map (·.rlen)).getD 0
      refAddr := m.refAddr
      refLen := m.refLen
      refSpace := m.refSpace
      rsvd1D := m.rsvd1D
      rsvd30 := m.rsvd30
      accBeat := s.beat.number
      doneBeat := ((s.box m.client m.mbox).map (·.doneBeat)).getD 0
      payload := m.payload.take 4032 }] })
/-- An operand by reference of `n` bytes passes its checks: in the carve-out it lies inside it (R467), elsewhere its client's
domain may read or write it. -/
def RefOk (m : Msg) (n : Nat) (write : Bool) (s : State) : Prop :=
  if m.refSpace = 1 then inCarve m.refAddr.toNat n = true
  else n = 0 ∨ s.rangePasses (s.domainOf m.client) write m.refAddr.toNat n = true
/-- The answer OK with a reply, after the effect `u`. -/
def Answers (i : Instr) (m : Msg) (s : State) (reply : List Byte) (u : State) : Prop :=
  exec i s = .next (complete m.client m.mbox stOk reply u)
/-- The interim answer after the effect `u`: the final one waits for a beat or an event of an object. -/
def Waits (i : Instr) (m : Msg) (s : State) (op obj : Nat) (beat : Option Nat) (arg : Nat) (u : State) : Prop :=
  exec i s = .next (interim m.client m.mbox (u.onCtrl (fun k => { k with
    pend := k.pend ++ [⟨m.client, m.mbox, BitVec.ofNat 16 op, BitVec.ofNat 32 obj, beat, arg⟩] })))

/-- Class B work that a message asks for, not begun (R63). -/
def msgWork (m : Msg) (kind : BKind) (obj arg model : Nat) (a : State) : State :=
  addWork { kind := kind, client := m.client, mbox := m.mbox, obj := obj, arg := arg, model := model, beat := a.now, taken := false } a

/-! ## What each message asks for (chapters 14 and 15): the conditions on its payload and the state under which its checks pass -/

/-- CLIENT_CREATE (R471, R473): a domain that the system client may give, and a client index to give, `i`. -/
def ClientCreateOk (m : Msg) (i : Nat) (a : State) : Prop :=
  m.f 0 1 < 64 ∧ m.z 1 3 = true ∧ m.sys = true ∧ 2 ≤ m.f 0 1 ∧ (a.parts = 1 ∨ m.f 0 1 < 2 + a.parts) ∧ a.nextIdx 7 = some i
/-- CLIENT_DESTROY (R473): another client than the system client, not closing. -/
def ClientDestroyOk (m : Msg) (a : State) : Prop :=
  a.hValid 7 (m.f 0 4) = true ∧ m.sys = true ∧ hIdx (m.f 0 4) ≠ 0 ∧ ∀ c ∈ a.ctrl.closingClients, c.1 ≠ hIdx (m.f 0 4)
/-- FAULT_CLEAR (R492): a channel or session of the client, no fault of which persists. -/
def FaultClearOk (m : Msg) (a : State) : Prop :=
  let k := if hKind (m.f 0 4) = 1 then 1 else 2
  a.live k (m.f 0 4) = true ∧ a.owns m.client k (m.f 0 4) = true ∧ ∀ c ∈ a.faultChans (m.f 0 4), a.persists c = none
/-- BEAT_CONFIG (R41, R42, R478): settings inside the limits that every admitted reservation fits, on the master, with no other
change waiting. -/
def BeatConfigOk (m : Msg) (a : State) : Prop :=
  m.f 0 2 ≤ 256 ∧ m.f 2 2 ≤ 1000 ∧ m.f 4 2 ≤ 1000 ∧ m.f 6 2 ≤ 500 ∧ (cfgOf m).ok = true ∧ 1 ≤ m.f 8 1 ∧ m.f 8 1 ≤ 8 ∧
  m.z 9 7 = true ∧ m.sys = true ∧ a.beat.master = true ∧ a.beat.change = none ∧ a.beat.applyAt = 0 ∧ a.changeFits (cfgOf m) = true
/-- A change of the chain's settings that waits for every module's answer (R43). -/
def chainAsked (m : Msg) (a : State) : State := a.onBeat (fun k => { k with change := some {
  client := m.client, mbox := m.mbox, cfg := cfgOf m, holdMax := BitVec.ofNat 4 (m.f 8 1), received := a.now, waiting := k.chainModules } })
/-- The entries of a TOPOLOGY (table *TOPOLOGY entry*). -/
def topoEntries (m : Msg) (a : State) : List RouteEntry :=
  let bytes := a.refRead m (8 * m.f 0xC 4)
  (List.range (m.f 0xC 4)).map (fun i => {
    from_ := fld bytes (8 * i) 2 % 4096
    dest := fld bytes (8 * i + 2) 2 % 4096
    links := fld bytes (8 * i + 4) 4 % 2 ^ 24 })
/-- TOPOLOGY (R411, R479): readable entries without reserved bits, loops or a way to the master longer than the links, for a beat at least
four away. -/
def TopologyOk (m : Msg) (a : State) : Prop :=
  let n := m.f 0xC 4
  let bytes := a.refRead m (8 * n)
  RefOk m m.refLen false a ∧ m.f 8 2 < 4096 ∧ m.f 0xA 1 ≤ 1 ∧ m.z 0xB 1 = true ∧ n ≠ 0 ∧ 8 * n ≤ m.refLen ∧
  (∀ i < n, fld bytes (8 * i) 2 < 4096 ∧ fld bytes (8 * i + 2) 2 < 4096 ∧ fld bytes (8 * i + 4) 4 < 2 ^ 24) ∧
  topoOk (topoEntries m a) (m.f 8 2) true = true ∧ m.sys = true ∧ a.beat.topo = none ∧ a.now + 4 ≤ m.f 0 8
/-- The routes recorded for their beat. -/
def topoAsked (m : Msg) (a : State) : State := a.onBeat (fun b => { b with topo := some {
  client := m.client, mbox := m.mbox, applyBeat := m.f 0 8, master := m.f 8 2, masterSrc := m.f 0xA 1, entries := topoEntries m a } })
/-- POOL_CONFIG (R275, R480) of a stack in service, whose regions `r` are free. -/
def PoolConfigOk (m : Msg) (r : List (Nat × Nat)) (a : State) : Prop :=
  let k := hIdx (m.f 0 4)
  a.hValid 5 (m.f 0 4) = true ∧ m.f 4 4 ≠ 0 ∧ m.f 4 4 ≤ a.poolMost k ∧ m.f 0xE 2 ≤ 500 ∧ m.f 0xC 2 ≤ m.f 0xE 2 ∧ m.sys = true ∧
  a.inSvc ⟨.nmu, k⟩ = true ∧ a.poolRuns k (m.f 4 4) = some r
/-- FENCE and UNFENCE (R481): the system client names a unit of the module, LOST only where the unit holds data. -/
def FenceNames (lost : Bool) (m : Msg) : Prop :=
  let u := unitOfMsg m
  (unitOfCode (m.f 0 1)).isSome = true ∧ u.index < unitCount u.kind ∧ m.f 2 2 ≤ 1 ∧
  (m.f 2 2 = 1 → lost = true ∧ (u.kind = .nmu ∨ u.kind = .cxl)) ∧ m.z 4 4 = true ∧ m.sys = true
/-- A unit that may leave (R29, R350): another cluster or NMU stays, and what the unit holds fits elsewhere. -/
def FenceFits (m : Msg) (a : State) : Prop :=
  let u := unitOfMsg m
  a.svc u = .inService ∧ (u.kind = .cluster ∨ u.kind = .nmu → ∃ i ∈ a.svcList u.kind, i ≠ u.index) ∧
  (m.f 2 2 = 1 → a.sliceFits u = true) ∧ (m.f 2 2 = 0 → a.dataFits u = true)
/-- A unit on its way out at the beat two after; one with data to keep has it moved first (R29, R31). -/
def fenceAsked (m : Msg) (a : State) : State :=
  let u := unitOfMsg m
  let b := (a.setSvc u .moving).onUnits (fun k => { k with fences := k.fences ++ [(u, a.now + 2, m.f 2 2 == 1)] })
  if (u.kind = .nmu ∨ u.kind = .cxl) ∧ m.f 2 2 = 0 then msgWork m .dataMove (unitCode u.kind * 256 + u.index) 0 0 b else b
/-- A unit on its way back: what it still needs before it returns (R36). -/
def unfenceAsked (u : UnitId) (t : UnitTest) (a : State) : State :=
  (trainedPort u t (a.setSvc u .returning)).onUnits (fun k => { k with
    returns := k.returns ++ [(u, u.kind != .nmu && u.kind != .link && u.kind != .cxl, u.kind != .nmu)]
    relayDue := k.relayDue || u.kind == .nmu })
/-- MEM_ALLOC (R483): a tier, a stack or port and a kind that exist. -/
def MemAllocNames (m : Msg) : Prop :=
  1 ≤ m.f 0 1 ∧ m.f 0 1 ≤ 2 ∧ m.f 1 1 < (if m.f 0 1 = 1 then 16 else 4) ∧ 1 ≤ m.f 2 1 ∧ m.f 2 1 ≤ 2 ∧ m.z 3 1 = true
/-- The free run that MEM_ALLOC takes, `r`: of a stack or port in service that the client's domain may use (R351, R483). -/
def MemAllocRun (m : Msg) (r : Nat) (a : State) : Prop :=
  let dom := a.domainOf m.client
  let i := m.f 1 1
  if m.f 0 1 = 1 then i ∈ a.stksFor dom [i] ∧ a.inSvc ⟨.nmu, i⟩ = true ∧ a.stackRun i (m.f 4 4) = some r
  else (a.partOf dom = none ∨ (a.portRange dom i).1 ≠ (a.portRange dom i).2) ∧ a.inSvc ⟨.cxl, i⟩ = true ∧
    a.portRun dom i (m.f 4 4) = some r
/-- MEM_COPY (R484): each end inside the carve-out, or open to the client's domain. -/
def MemCopyOk (m : Msg) (a : State) : Prop :=
  let n := m.f 0x10 8
  let dom := a.domainOf m.client
  m.f 0x18 1 ≤ 3 ∧ m.z 0x19 7 = true ∧
  (if (m.f 0x18 1).testBit 0 then n = 0 ∨ inCarve (m.f 0 8) n = true else a.rangePasses dom false (m.f 0 8) n = true) ∧
  (if (m.f 0x18 1).testBit 1 then n = 0 ∨ inCarve (m.f 8 8) n = true else a.rangePasses dom true (m.f 8 8) n = true)
/-- STATE_CREATE (R217, R487): a shape within the limits that the model has, for an owner of the client. -/
def StateCreateOk (m : Msg) (x : Model) (a : State) : Prop :=
  let k := if hKind (m.f 4 4) = 2 then 2 else 1
  a.live 4 (m.f 0 4) = true ∧ a.liveOr0 k (m.f 4 4) = true ∧ 1 ≤ m.f 8 1 ∧ m.f 8 1 ≤ 64 ∧ 1 ≤ m.f 9 1 ∧ m.f 9 1 ≤ 8 ∧
  1 ≤ m.f 0xA 1 ∧ m.f 0xA 1 ≤ 8 ∧ m.f 0xB 1 ≤ 1 ∧ 1 ≤ m.f 0xC 2 ∧ m.f 0xC 2 ≤ 256 ∧
  bodyBytes (m.f 8 1) (m.f 9 1) (m.f 0xA 1) (m.f 0xC 2) ≤ 2 ^ 30 ∧ m.z 0xE 2 = true ∧ a.model (hIdx (m.f 0 4)) = some x ∧
  (∃ g ∈ x.pkg.recurrent, g.heads = m.f 8 1 ∧ g.dk16 = m.f 9 1 ∧ g.dv16 = m.f 0xA 1 ∧ g.layers = m.f 0xC 2 ∧ g.decayVec = decide (m.f 0xB 1 = 1)) ∧
  a.owns m.client 4 (m.f 0 4) = true ∧ a.owns m.client k (m.f 4 4) = true ∧ a.unloading (m.f 0 4) = false
/-- A message names a state object of its client, `o`. -/
def NamesObj (m : Msg) (o : StateObj) (a : State) : Prop :=
  a.live 3 (m.f 0 4) = true ∧ a.owns m.client 3 (m.f 0 4) = true ∧ a.obj (hIdx (m.f 0 4)) = some o
/-- Regions of a state object (R217). -/
def StateObj.regions (o : StateObj) : Nat := objRegions o.heads o.dk16 o.dv16 o.layers
/-- The steps that a STATE_RESET names (R230). -/
def resetSteps (m : Msg) : List Nat := ((List.range 128).filter (fun i => (m.f 0x10 16).testBit i)).map (m.f 8 8 + ·)
/-- STATE_RESET (R230): steps that no plan has placed yet. -/
def StateResetOk (m : Msg) (o : StateObj) (a : State) : Prop :=
  NamesObj m o a ∧ m.f 4 1 ≤ 128 ∧ m.z 5 3 = true ∧ m.f 0x10 16 < 2 ^ m.f 4 1 ∧ (∀ x ∈ resetSteps m, a.lastPlaced o < (x : Int))
/-- STATE_SWAP (R223, R487): another tier, or another module, for an object with no other transfer. -/
def StateSwapOk (m : Msg) (o : StateObj) (a : State) : Prop :=
  NamesObj m o a ∧ 1 ≤ m.f 4 1 ∧ m.f 4 1 ≤ 3 ∧ m.z 5 1 = true ∧ m.f 6 2 < 4096 ∧ (m.f 4 1 = 3 → m.f 6 2 ≠ a.links.moduleId.toNat) ∧
  o.swap = none ∧ o.destroying = none ∧ o.copies = 0
/-- A swap asked for, its target at a region (R223). -/
def swapAsked (m : Msg) (lo : Nat) (a : State) : State := a.onObj (hIdx (m.f 0 4)) (fun o => { o with swap := some {
  dest := m.f 4 1, modul := m.f 6 2, client := m.client, mbox := m.mbox, target := lo * regionSize, copying := false, copied := none,
  newHandle := BitVec.ofNat 32 (m.f 0 4) } })
/-- MODEL_LOAD (R181, R485): a package that passes its checks with a table set of the client, readable, with an index, a place for its
programs and queues left, and work that the beat can hold. -/
def ModelLoadOk (m : Msg) (pkg : Package) (place : Nat) (a : State) : Prop :=
  let h := m.f 0 4
  a.live 8 h = true ∧ m.refLen ≠ 0 ∧ m.refSpace = 0 ∧ firstSome (pkg.tensors.flatMap (fun t => t.map regionFail)) = none ∧
  m.f 4 4 ≤ 1 ∧ pkgFail m.refLen (m.f 4 4 == 1) (a.tsetImg (hIdx h)) pkg = none ∧ a.owns m.client 8 h = true ∧
  a.rangePasses (a.domainOf m.client) false m.refAddr.toNat m.refLen = true ∧ a.tsetDoomed (hIdx h) = false ∧
  (a.nextIdx 4).isSome = true ∧ a.vePlace (pkgClusters pkg) (pkgProgram pkg).length = some place ∧
  (∀ q ∈ a.queuePlace pkg, q.2 < 256) ∧ a.chainFits pkg.loadChain = true
/-- A model as its load records it (R181, R294, R485). -/
def loadingModel (m : Msg) (pkg : Package) (place : Nat) (a : State) : Model where
  idx := a.loadIdx
  client := m.client
  dom := a.domainOf m.client
  loaded := false
  unloading := none
  tset := hIdx (m.f 0 4)
  nextTset := none
  kvFp8 := m.f 4 4 == 1
  vocab := fld pkg.header 4 4
  pkg := pkg
  stripes := []
  veBase := (pkgClusters pkg).map (fun c => (c, place, (pkgProgram pkg).length))
  suspended := none
  keyM := BitVec.ofNat 128 (leNat (a.rand 16).1)
  queues := a.queuePlace pkg
  rotaryAt := []
/-- MODEL_SET_TABLES (R198): a set of the client that holds every table the model names. -/
def SetTablesOk (m : Msg) (x : Model) (a : State) : Prop :=
  let img := a.tsetImg (hIdx (m.f 4 4))
  a.live 4 (m.f 0 4) = true ∧ a.live 8 (m.f 4 4) = true ∧ a.model (hIdx (m.f 0 4)) = some x ∧
  tsCompat img = tsCompat (a.tsetImg x.tset) ∧ (pkgSlots x.pkg).all (tsHas img) = true ∧
  (pkgNeedsExp x.pkg = true → tsExpSlot img ≠ 0xFF) ∧ a.owns m.client 4 (m.f 0 4) = true ∧ a.owns m.client 8 (m.f 4 4) = true ∧
  a.unloading (m.f 0 4) = false ∧ a.tsetDoomed (hIdx (m.f 4 4)) = false ∧ x.nextTset = none
/-- The class D reservations that a SESSION_OPEN asks for: its encoder's and its decoder's (R57). -/
def openResvs (m : Msg) (a : State) : List Resv :=
  let ic := m.f 8 4
  let oc := m.f 0xC 4
  let w := BitVec.ofNat 32
  let enc := if ic = 0 then [] else [a.newResv m.client (w ic) .D .encode (hIdx (m.f 0x10 4)) (a.domainOf m.client) 0]
  enc ++ (if oc = 0 then [] else [a.newResv m.client (w oc) .D .decoder (hIdx (m.f 0x18 4)) (a.domainOf m.client) enc.length])
/-- SESSION_OPEN (R489): live handles of the client, a free state object where the model is recurrent, whole audio sides, a ring, an index
`i`, and reservations that fit. -/
def SessionOpenOk (m : Msg) (i : Nat) (a : State) : Prop :=
  let mo := m.f 0 4
  let rs := m.f 4 4
  let ic := m.f 8 4
  let oc := m.f 0xC 4
  let em := m.f 0x10 4
  let es := m.f 0x14 4
  let dm := m.f 0x18 4
  let ds := m.f 0x1C 4
  (∀ p ∈ [(4, mo), (3, rs), (1, ic), (1, oc), (4, em), (3, es), (4, dm), (3, ds)], a.liveOr0 p.1 p.2 = true ∧ a.owns m.client p.1 p.2 = true) ∧
  a.live 4 mo = true ∧ (if rs = 0 then (a.model (hIdx mo)).all (fun x => x.pkg.recurrent.isEmpty) = true else a.freeObjOf mo rs = true) ∧
  a.sideOk ic em es true = true ∧ a.sideOk oc dm ds false = true ∧ 1 ≤ m.f 0x20 4 ∧ m.f 0x20 4 ≤ 1048576 ∧ m.f 0x20 4 % 64 = 0 ∧
  m.z 0x24 4 = true ∧ firstFail (a.ringChecks (m.f 0x28 8)) = none ∧ a.unloading mo = false ∧ a.unloading em = false ∧
  a.unloading dm = false ∧ a.chanTaken ic = false ∧ a.chanTaken oc = false ∧ a.resident (BitVec.ofNat 32 es) = true ∧
  a.resident (BitVec.ofNat 32 ds) = true ∧ a.nextIdx 2 = some i ∧ (openResvs m a = [] ∨ a.admits (openResvs m a) = true) ∧ a.aboveAdmit = true
/-- The session that a SESSION_OPEN makes, idle with nothing written (R489). -/
def openedSession (m : Msg) (i : Nat) (a : State) : Session :=
  let w := fun (o : Nat) => BitVec.ofNat 32 (m.f o 4)
  { newSession i m.client (hIdx (m.f 0 4)) (w 4) (m.f 0x20 4) (a.ringAt (m.f 0x28 8)) a.now with
    inCh := w 8, outCh := w 0xC, encModel := w 0x10, encState := w 0x14, decModel := w 0x18, decState := w 0x1C }
/-- A message names a session of its client, `x`. -/
def NamesSession (m : Msg) (x : Session) (a : State) : Prop :=
  a.live 2 (m.f 0 4) = true ∧ a.owns m.client 2 (m.f 0 4) = true ∧ a.session (hIdx (m.f 0 4)) = some x
/-- SESSION_FORK (R302, R490): at a block's end or in the last block, a free state object at that step, a ring, an index `i`. -/
def SessionForkOk (m : Msg) (x : Session) (k : Model) (i : Nat) (a : State) : Prop :=
  let j := m.f 4 4
  let rs := m.f 8 4
  NamesSession m x a ∧ a.liveOr0 3 rs = true ∧ forkAt x.positions j = true ∧ a.model x.model = some k ∧ (rs = 0 → k.pkg.recurrent = []) ∧
  (rs ≠ 0 → a.freeObjOf x.model rs = true ∧ (a.obj (hIdx rs)).any (fun o => decide (o.step = j)) = true) ∧ m.z 0xC 4 = true ∧
  firstFail (a.ringChecks (m.f 0x10 8)) = none ∧ a.owns m.client 3 rs = true ∧ x.state ≠ 2 ∧ x.state ≠ 4 ∧ x.prefill = none ∧
  x.closing = none ∧ k.unloading = none ∧ a.nextIdx 2 = some i
/-- The child of a fork at position `j`: the parent's pages up to it, and its token IDs (R302). -/
def forkedSession (m : Msg) (x : Session) (i : Nat) (a : State) : Session :=
  { newSession i m.client x.model (BitVec.ofNat 32 (m.f 8 4)) x.maxCtx (a.ringAt (m.f 0x10 8)) a.now with
    positions := m.f 4 4, ids := x.ids.take (m.f 4 4), pages := x.pages.take (cdiv (m.f 4 4) 64) }
/-- SESSION_QUERY (R490): rows inside MAX_CTX and an operand that takes them. -/
def SessionQueryOk (m : Msg) (x : Session) (a : State) : Prop :=
  let n := 8 * m.f 8 4 * a.layersOf x
  NamesSession m x a ∧ RefOk m n true a ∧ n ≤ m.refLen ∧ m.f 4 4 + m.f 8 4 ≤ x.maxCtx / 64 ∧ m.z 0xC 4 = true
/-- PREFILL (R490): token IDs of the vocabulary, within MAX_CTX, whole blocks where they are to be published. -/
def PrefillOk (m : Msg) (x : Session) (k : Model) (a : State) : Prop :=
  let n := m.f 8 4
  NamesSession m x a ∧ a.model x.model = some k ∧ m.f 4 2 < 4 ∧ m.z 6 2 = true ∧ m.z 0xC 4 = true ∧
  (m.refAddr ≠ 0 → RefOk m (4 * n) false a ∧ 4 * n ≤ m.refLen) ∧ (∀ t ∈ a.prefillIds m, t.toNat < k.vocab) ∧
  ((m.f 4 2).testBit 1 = true → n = 0 ∨ (x.positions + n) % 64 = 0) ∧ x.positions + n ≤ x.maxCtx
/-- A session that may be given work (R287, R305, R490): idle, its model in service. -/
def MayWork (x : Session) (k : Model) (a : State) : Prop :=
  x.quiet = true ∧ a.model x.model = some k ∧ k.suspended = none ∧ k.unloading = none

/-- CHANNEL_OPEN (R422, R491): a record that passes its checks in the client's domain, with an index `i` left. -/
def ChannelOpenOk (m : Msg) (i : Nat) (a : State) : Prop :=
  let r := fit 64 m.payload
  let inp := fld r 0 1 == 1
  let slot := 64 * cdiv (64 + fld r 0x20 1 * fld r 0x1E 1 * (if (fld r 0x1F 1).testBit 1 then 4 else 2)) 64
  firstFail (a.recordChecks r) = none ∧ fld r 7 1 = a.domainOf m.client ∧
  (inp = true → a.rangePasses (fld r 7 1) true (fld r 0x30 8) (slot * fld r 0x38 2) = true) ∧ a.nextChan inp = some i
/-- CHANNEL_CTRL with the operation `op` (R440, R491): an output channel of the client without a fault, a gain from 0 to 16 for GAIN. -/
def ChannelCtrlOk (m : Msg) (op : Nat) (c : Channel) (a : State) : Prop :=
  let h := m.f 0 4
  let g := dec32 (BitVec.ofNat 32 (m.f 8 4))
  a.live 1 h = true ∧ a.owns m.client 1 h = true ∧ a.channel (hIdx h) = some c ∧ c.isIn = false ∧ m.f 4 1 = op ∧ m.z 5 3 = true ∧
  (op = 5 ∨ m.f 8 4 = 0) ∧ fvFinite g = true ∧ fvLt g fvZero = false ∧ fvLt (fvInt 16) g = false ∧ c.faultStatus = none
/-- PORTGROUP_CONFIG (R445, R482): legal members, none of which a channel uses, of a group that is not armed. -/
def PortgroupOk (m : Msg) (a : State) : Prop :=
  let old := a.group (m.f 0 1)
  m.f 0 1 ≤ 15 ∧ m.f 1 1 ≤ 1 ∧ m.f 2 1 ≤ 1 ∧ m.f 3 1 ≤ 1 ∧ a.pgFormat m = true ∧ m.sys = true ∧
  (∀ c ∈ a.audio.chans, ¬(c.r 1 1 = 2 ∧ (m.f 4 1 ||| old.saps).testBit (c.r 2 1) = true) ∧
    ¬(c.r 1 1 = 3 ∧ (m.f 5 1 ||| old.pdms).testBit (c.r 2 1 / 4) = true)) ∧ old.armedFrom = none
/-- The group that a PORTGROUP_CONFIG sets up, neither armed nor running (R482). -/
def groupOfMsg (m : Msg) : GroupSt where
  exists_ := true
  pll := m.f 1 1
  slave := m.f 2 1 == 1
  trigIn := m.f 3 1 == 1
  saps := m.f 4 1
  pdms := m.f 5 1
  refSap := m.f 6 1
  armedFrom := none
  armMsg := none
  trigAt := none
  running := false
  frame := 0

/-- The two reservations of a STOPWORD_START, one for each path (R57, R520). -/
def swResvs (m : Msg) (a : State) : List Resv :=
  [0, 1].map (fun p => a.newResv m.client (BitVec.ofNat 32 (2 * m.f 0x14 1 + p)) .D .stopword (hIdx (m.f 0 4)) (a.domainOf m.client) p)
/-- STOPWORD_START (R519 to R521): from the safety domain, on two channels of different ports, with state objects of the model, a free slot,
two clusters in service and reservations that fit. -/
def StopwordOk (m : Msg) (ca cb : Channel) (a : State) : Prop :=
  let mo := m.f 0 4
  (∀ p ∈ [(4, mo), (1, m.f 4 4), (1, m.f 8 4), (3, m.f 0xC 4), (3, m.f 0x10 4)], a.live p.1 p.2 = true ∧ a.owns m.client p.1 p.2 = true) ∧
  a.channel (hIdx (m.f 4 4)) = some ca ∧ a.channel (hIdx (m.f 8 4)) = some cb ∧ ca.stopwordOk = true ∧ cb.stopwordOk = true ∧
  portKey ca ≠ portKey cb ∧ a.objOf mo (m.f 0xC 4) = true ∧ a.objOf mo (m.f 0x10 4) = true ∧ m.f 0x14 1 ≤ 7 ∧ m.z 0x15 3 = true ∧
  a.isSafety m.client = true ∧ a.swSlot (m.f 0x14 1) = none ∧ 2 ≤ (a.svcList .cluster).length ∧ a.unloading mo = false ∧
  a.resident (BitVec.ofNat 32 (m.f 0xC 4)) = true ∧ a.resident (BitVec.ofNat 32 (m.f 0x10 4)) = true ∧ a.admits (swResvs m a) = true
/-- The slot of a STOPWORD_START, whose two paths wait for their first clear verdicts (R520, R525). -/
def startedSlot (m : Msg) (a : State) : SwSlot where
  slot := m.f 0x14 1
  client := m.client
  mbox := m.mbox
  model := hIdx (m.f 0 4)
  running := true
  started := false
  stopAt := none
  stopMsg := none
  paths := [newPath a (m.f 4 4) (m.f 0xC 4), newPath a (m.f 8 4) (m.f 0x10 4)]

/-- The lanes and the mask that LQU8 leaves (R110, R166): the code in the low byte of each enabled lane, free where there is none in
range; marked the enabled lanes without one. -/
def Lqu8Writes (k : VeSt) (f : VEWord) (v : List Word) (m : BitVec 2048) : Prop :=
  let d := f.imm.toNat % 8
  let q := fun i => codeU8 (dec32 (k.laneA f i)) (dec32 ((k.vr f.vb.toNat).getD i 0)) (k.laneC f i).toInt
  let out := fun i => match q i with | none => true | some x => decide (x < 0 ∨ 255 < x)
  v.length = 1024 ∧
  (∀ i < 1024,
    if (k.wm f).getLsbD i then
      (v.getD i 0).toNat / 256 = ((k.vr f.vd.toNat).getD i 0).toNat / 256 ∧
      (∀ x, q i = some x → 0 ≤ x → x ≤ 255 → ((v.getD i 0).toNat % 256 : Nat) = x)
    else v.getD i 0 = if f.zm then 0 else (k.vr f.vd.toNat).getD i 0) ∧
  (∀ j < 2048, m.getLsbD j =
    if 1024 ≤ j then (k.mr d).getLsbD j else if (k.wm f).getLsbD j then out j else if f.zm then false else (k.mr d).getLsbD j)
/-- The lanes that LQS8 leaves (R111, R166). -/
def Lqs8Writes (k : VeSt) (f : VEWord) (v : List Word) : Prop :=
  v.length = 1024 ∧
  (∀ i < 1024,
    if (k.wm f).getLsbD i then
      (v.getD i 0).toNat / 256 = ((k.vr f.vd.toNat).getD i 0).toNat / 256 ∧
      (∀ x, codeS8 (dec32 (k.laneA f i)) (dec32 (k.laneB f i)) = some x → ((v.getD i 0).toNat % 256 : Nat) = x % 256)
    else v.getD i 0 = if f.zm then 0 else (k.vr f.vd.toNat).getD i 0)

/-! ## The safety monitor, links and the Root of Trust -/

/-- What a verdict that SAFETY_DOMAIN writes does on a running path: judged in the order malformed, status, stop, clear (R520, R523, R524). -/
def verdictTaken (slot path : Nat) (q : SwPath) (w : List Byte) (st : Half) (s : State) : State :=
  let r := fit 16 w
  let s1 := s.onSwPath slot path (fun q => { q with got := q.got + 1 })
  let s2 := s1.onSwPath slot path (fun q => { q with frame := q.frame + 1 })
  if verdictOk q path r = false then assertHold 0x03 0 0 slot s1
  else if st ≠ stOk then assertHold 0x04 0 0 slot s2
  else if fld r 4 2 = 0xA55A then assertHold 0x01 0 0 slot s2
  else clearVerdict slot path s2
/-- STOPWORD_STOP of a running slot that its client owns: at the next beat but one; the last running slot asserts the hold (R516). -/
def slotStopping (k : Nat) (m : Msg) (a : State) : State :=
  let b := (a.onSwSlot k (fun w => { w with stopAt := some (a.now + 2), stopMsg := some (m.client, m.mbox) })).onPlan (fun p => { p with
    resvs := p.resvs.filter (fun r => !(r.kind == .stopword && decide (r.obj.toNat / 2 = k))) })
  if a.otherSlots k then b else assertHold 0x0F 0 0 k b
/-- A blaze frame judged (R502, R507): a pass counts for its unit, a wrong or late signature fails it. -/
def blazeJudged (r : Nat) (sigs exps : List Word) (bad : Bool) (s : State) : State :=
  let u := blazeUnitOf r
  let s1 := s.onSafe (fun k => { k with blazeUnit := BitVec.ofNat 8 r, blazeBoot := match s.bootFrame with
    | some f => f + 1
    | none => k.blazeBoot })
  let others := s.safe.blazed.filter (fun x => decide (x ≠ r))
  if sigs = exps ∧ bad = false then s1.onSafe (fun k => { k with
    blazePasses := k.blazePasses + 1, blazed := others ++ [r], servedSafety := k.servedSafety.filter (fun x => decide (x ≠ u)) })
  else blazeFail u sigs exps (match s.bootFrame with
    | some f => f % 4
    | none => s.beat.number.toNat / 24 % 4) (s1.onSafe (fun k => { k with
    blazeFails := satInc k.blazeFails, blazeMismatch := k.blazeMismatch || decide (sigs ≠ exps), blazeLate := k.blazeLate || bad,
    blazed := others }))
/-- A slice of an engine's self-test at a time (R509): the tests that fit in 50 µs run before the tick, or the slice is deferred. -/
def sliceRun (e : Option Engine) (t : Nat) (tests : List (Checker × Bool)) (s : State) : State :=
  let fits := sliceFit 50 tests
  let stop := t + (fits.map (fun t => checkerLen t.1)).foldl (· + ·) 0 * 16000
  let busy : Bool := match e with | some x => s.engineBusy x | none => false
  if busy = true ∨ s.beat.tickTime + s.beat.cur.period16 < stop then s.onSafe (fun k => { k with deferrals := satInc k.deferrals })
  else fits.foldl (fun (s : State) (x : Checker × Bool) => checkerResult t x.1 x.2 s) s
/-- The latent-fault check (R511): every checker of this module in which no test has passed in time is dated, counted and reacted to. -/
def latentFound (t : Nat) (s : State) : State :=
  let here := allCheckers.filter s.checkerIn
  let bad := here.filter (s.latentAt t)
  bad.foldl (fun (s : State) (c : Checker) => latentReact c s) (s.onSafe (fun k => { k with
    lastPass := here.map (fun c => (c, if bad.contains c then t else (kget k.lastPass c).getD t)), failedTests := [],
    latent := satAdd k.latent bad.length, latentSeen := k.latentSeen || !bad.isEmpty }))
/-- A HELLO whose chain and signature verify and whose shared secret is `z` (R402, R403): kept, the keys derived, KEYED sent. -/
def helloTaken (l : Nat) (f : Frame) (z : List Byte) (s : State) : State :=
  let b := f.body
  let peer := fld b 0 2
  let pn := (b.drop 8).take 16
  let own := (s.link l).nonce
  sendFrame l (mkFrame 8 false false 0 peer 0xFFFF (ctlBody 6 0 0 0 0)) (s.onLink l (fun k => { k with
    peerHello := some b, prk := hkdfExtract (if s.links.moduleId.toNat < peer then own ++ pn else pn ++ own) z,
    peerId := BitVec.ofNat 12 peer, ephPriv := 0, keyedSent := true }))
/-- The secret shared with the sender of a HELLO whose chain and signature verify and that is another module with an ID (R402). -/
def helloSecret (l : Nat) (f : Frame) (s : State) : Option (List Byte) :=
  let b := f.body
  (chainKey s.rot.rootPub (b.drop 0x98)).bind (fun key =>
    if ecdsaVerify key (b.take 0x58) ((b.drop 0x58).take 64) = true ∧ fld b 0 2 ≠ s.links.moduleId.toNat ∧ fld b 0 2 ≠ 0xFFF
    then ecdh (s.link l).ephPriv ((b.drop 0x18).take 64) else none)
/-- A frame fails FEC or its CRC (R379, R390). -/
def rxBad (r : RxFrame) : Bool := r.cw.any (fun n => decide (15 < n)) || decide (frCrc r.fr ≠ r.fr.crc)
/-- A link with a frame's uncorrectable codewords counted (R417). -/
def rxCounted (l : Nat) (r : RxFrame) (s : State) : State :=
  s.onLink l (fun k => { k with fecUncorr := satAdd k.fecUncorr (r.cw.countP (fun n => decide (15 < n))) })
/-- What a link does with a data frame (R379, R383, R386 to R388, R390, R404): its FEC, CRC, number, tag and form judged in this order; one that
passes is accepted, acknowledged after sixteen, and delivered. -/
def frameTaken (l : Nat) (r : RxFrame) (s : State) : State :=
  let f := r.fr
  let n := (s.link l).rxEpoch.getD 0 0
  let f1 : Frame := { f with body := frCrypt (s.rxKey l 0 n) n f }
  let s0 := rxCounted l r s
  let s1 := s0.onLink l (acceptSeq 0)
  if rxBad r = true ∨ f.seq ≠ (s.link l).rxSeq.getD 0 0 then sendNak l s0
  else if frTag (s.rxKey l 0 n) n f ≠ f.tag then tagFail l f s0
  else if dataFrameBad f1 = true ∨ frSpace f1 ≠ 0 then fenceByFault ⟨.link, l⟩ s0
  else deliver l f1 r.sym (if 16 ≤ (s1.link l).sinceAck then sendAck l s1 else s1)
/-- What a link does with a frame of the control space (R379, R382, R384, R387, R390, R404): dropped where it fails FEC, CRC, number or tag; a fence
where its form is broken; else `act` on its body for the class and TYPE named, its number taken. -/
def ctlTaken (l : Nat) (r : RxFrame) (cls type : Nat) (act : List Byte → State → State) (s : State) : State :=
  let f := r.fr
  let q := (s.link l).rxSeq.getD 1 0
  let n := (s.link l).rxEpoch.getD 1 0 + (if f.seq.toNat < q.toNat then 1 else 0)
  let f1 : Frame := { f with body := frCrypt (s.rxKey l 1 n) n f }
  let s0 := rxCounted l r s
  if rxBad r = true ∨ 2 ^ 31 ≤ (f.seq - q).toNat ∨ frTag (s.rxKey l 1 n) n f ≠ f.tag then s0
  else if ctlFrameBad f1 = true then fenceByFault ⟨.link, l⟩ s0
  else if frClass f1 ≠ cls ∨ (cls = 8 ∧ fld f1.body 0 1 ≠ type) then s0
  else act f1.body (s0.onLink l (fun k => { k with
    rxSeq := k.rxSeq.set 1 (f.seq + 1), rxEpoch := k.rxEpoch.set 1 (n + (if f.seq = 0xFFFFFFFF then 1 else 0)) }))
/-- What a link that waits for KEYED does with a frame of the control space (R382, R403). -/
def keyedTaken (l : Nat) (r : RxFrame) (s : State) : State :=
  let f := r.fr
  let q := (s.link l).rxSeq.getD 1 0
  let n := (s.link l).rxEpoch.getD 1 0 + (if f.seq.toNat < q.toNat then 1 else 0)
  let f1 : Frame := { f with body := frCrypt (s.rxKey l 1 n) n f }
  let s0 := rxCounted l r s
  if rxBad r = true ∨ 2 ^ 31 ≤ (f.seq - q).toNat ∨ frTag (s.rxKey l 1 n) n f ≠ f.tag then s0
  else if ctlFrameBad f1 = true then fenceByFault ⟨.link, l⟩ s0
  else if frClass f1 = 8 ∧ f.seq = 0 ∧ f1.body = ctlBody 6 0 0 0 0 then
    s0.onLink l (fun k => { acceptCtl 0 k with keyedGot := true, keyed := true, up := true, training := false })
  else s0
/-- What COMMIT does to a type on trial (R539, R540). -/
def committed (t : Nat) (s : State) : State :=
  let v := imgSvn (s.rot.img t).trialSlot
  bbAdd 0x61 1 0 0 stOk (natLe 1 t ++ natLe 1 v ++ natLe 1 1) (s.onRot (fun r => r.onImg t (fun i => { i with
    trial := false, active := !i.active, committedSvn := v, fused := max i.fused v })))
/-- A staged image in its inactive slot, pending where it verified (R538, R541). -/
def stagedImage (g : Staging) (s : State) : State :=
  let img := MemOps.readN g.data 0 g.total
  let st := verifyImage s.rot g.type img
  let a := s.onRot (fun r => { r.onImg g.type (fun i => { setTrialSlot (some img) i with pending := st == stOk }) with staging := none })
  rotReply st [] (if st = stOk then bbAdd 0x61 1 0 0 stOk (natLe 1 g.type ++ natLe 1 (fld img 4 1) ++ natLe 1 0) a else a)
/-- An unlock token that names this device, holds the standing challenge and verifies under the root key (R550, R551). -/
def tokenOk (w : List Byte) (s : State) : Bool :=
  let pub := (w.drop 0x20).take 64
  decide (fld w 8 8 = s.rot.deviceId.toNat) && decide (s.rot.challenge = some ((w.drop 0x10).take 16)) &&
  ecdsaVerify s.rot.rootPub pub ((w.drop 0x60).take 64) && ecdsaVerify pub (w.take 0xA0) ((w.drop 0xA0).take 64)

end Sys2Proof.Machine
end

