-- ==== Sys2Proof/Certificates/Slice0/Obligations.lean ====
section
/-! DEFINITION. The statements about the model that the provers prove. -/

open Sys2Proof Sys2Proof.Machine

/-- R463. -/
def Obligations.StepRunsFrontCommand : Prop :=
 (∀ (c : Instr) (s : State), step { s with pending := c :: s.pending } = exec c s) ∧
 (∀ s : State, s.pending = [] → step s = .next s)

/-- R156, R306, R343, R352, R515, R562. -/
def Obligations.ResetInv : Prop :=
 State.reset.Inv

/-- R156, R306, R337, R343, R352, R515, R518, R562. -/
def Obligations.StepKeepsInv : Prop :=
 ∀ s t : State, s.Inv → step s = .next t → t.Inv

/-- R515, R516, R592. -/
def Obligations.HoldLatched : Prop :=
 ∀ (c : Instr) (s t : State), exec c s = .next t → s.safe.hold → t.safe.hold = false →
  (∃ lo hi : Nat, c = .safeAckEdge lo hi ∧ 20 ≤ lo ∧ 20 ≤ hi) ∧ s.causePresent = false ∧ s.safe.swRun ≠ 0 ∧ s.allClear = true

/-- R161, R162, R165, R157, R158. -/
def Obligations.VeArith : Prop :=
 ∀ p ∈ ([(Instr.add, 0x01, fvAdd, fun a b => a + b), (Instr.sub, 0x02, fvSub, fun a b => a - b), (Instr.mul, 0x03, fvMul, fun a b => a * b),
   (Instr.max, 0x05, fvMax, fun a b => if a.toInt < b.toInt then b else a),
   (Instr.min, 0x06, fvMin, fun a b => if b.toInt < a.toInt then b else a)] :
   List ((Nat → VEWord → Instr) × Nat × (Fv → Fv → Fv) × (Word → Word → Word))),
  ∀ (c : Nat) (f : VEWord) (s : State), VeTakes s c p.2.1 f →
   let k := (s.cluster c).ve
   (f.fmt = 1 → Writes16 (p.1 c f) c f s (fun i => toB16 (p.2.2.1 (decB16 (k.elemA f i)) (decB16 (k.elemB f i))))) ∧
   (f.fmt = 3 → Writes32 (p.1 c f) c f s (fun i => p.2.2.2 (k.laneA f i) (k.laneB f i))) ∧
   (f.fmt ≠ 1 → f.fmt ≠ 3 → Writes32 (p.1 c f) c f s (fun i => to32 (p.2.2.1 (dec32 (k.laneA f i)) (dec32 (k.laneB f i)))))

/-- R162, R165. -/
def Obligations.VeFmaAbsNeg : Prop :=
 ∀ (c : Nat) (f : VEWord) (s : State),
  let k := (s.cluster c).ve
  (VeTakes s c 0x04 f →
   (f.fmt = 1 → Writes16 (.fma c f) c f s (fun i =>
    toB16 (fvAdd (fvMul (decB16 (k.elemA f i)) (decB16 (k.elemB f i))) (decB16 (k.elemC f i))))) ∧
   (f.fmt ≠ 1 → Writes32 (.fma c f) c f s (fun i => fma32 (k.laneA f i) (k.laneB f i) (k.laneC f i)))) ∧
  (∀ p ∈ ([(Instr.abs, 0x07, fvAbs), (Instr.neg, 0x08, fvNeg)] : List ((Nat → VEWord → Instr) × Nat × (Fv → Fv))),
   VeTakes s c p.2.1 f →
    (f.fmt = 1 → Writes16 (p.1 c f) c f s (fun i => toB16 (p.2.2 (decB16 (k.elemA f i))))) ∧
    (f.fmt ≠ 1 → Writes32 (p.1 c f) c f s (fun i => to32 (p.2.2 (dec32 (k.laneA f i))))))

/-- R156, R158, R162, R165, R166. -/
def Obligations.VeCompare : Prop :=
 ∀ p ∈ ([(Instr.ceq, 0x10, fvEq, fun a b => a == b), (Instr.clt, 0x11, fvLt, fun a b => decide (a.toInt < b.toInt)),
   (Instr.cle, 0x12, fun a b => fvLt a b || fvEq a b, fun a b => decide (a.toInt ≤ b.toInt)),
   (Instr.cun, 0x13, fun a b => fvIsNan a || fvIsNan b, fun _ _ => false)] :
   List ((Nat → VEWord → Instr) × Nat × (Fv → Fv → Bool) × (Word → Word → Bool))),
  ∀ (c : Nat) (f : VEWord) (s : State), VeTakes s c p.2.1 f →
   let k := (s.cluster c).ve
   (f.fmt = 1 → WritesMask (p.1 c f) c f s 2048 (fun i => p.2.2.1 (decB16 (k.elemA f i)) (decB16 (k.elemB f i)))) ∧
   (f.fmt = 3 → WritesMask (p.1 c f) c f s 1024 (fun i => p.2.2.2 (k.laneA f i) (k.laneB f i))) ∧
   (f.fmt ≠ 1 → f.fmt ≠ 3 → WritesMask (p.1 c f) c f s 1024 (fun i => p.2.2.1 (dec32 (k.laneA f i)) (dec32 (k.laneB f i))))

/-- R156, R162, R165. -/
def Obligations.VeMasksOnMasks : Prop :=
 ∀ p ∈ ([(Instr.mand, 0x50, fun a b => a && b), (Instr.mor, 0x51, fun a b => a || b), (Instr.mxor, 0x52, fun a b => a != b),
   (Instr.mnot, 0x53, fun a _ => !a)] : List ((Nat → VEWord → Instr) × Nat × (Bool → Bool → Bool))),
  ∀ (c : Nat) (f : VEWord) (s : State), VeTakes s c p.2.1 f →
   let k := (s.cluster c).ve
   WritesMask (p.1 c f) c f s 2048 (fun i =>
    p.2.2 ((k.mr (f.va.toNat % 8)).getLsbD i) ((k.mr (f.vb.toNat % 8)).getLsbD i))

/-- R158, R162, R165. -/
def Obligations.VeSelectPermute : Prop :=
 ∀ (c : Nat) (f : VEWord) (s : State),
  let k := (s.cluster c).ve
  (VeTakes s c 0x14 f →
   (f.fmt = 1 → Writes16 (.sel c f) c f s (fun i =>
    if (k.mr (f.imm.toNat % 8)).getLsbD i then k.elemA f i else k.elemB f i)) ∧
   (f.fmt ≠ 1 → Writes32 (.sel c f) c f s (fun i =>
    if (k.mr (f.imm.toNat % 8)).getLsbD i then k.laneA f i else k.laneB f i))) ∧
  (VeTakes s c 0x30 f →
   (f.fmt = 1 → Writes16 (.perm c f) c f s (fun i =>
    k.elemA f (((elems (k.vr f.vb.toNat)).getD i 0).toNat % 2048))) ∧
   (f.fmt ≠ 1 → Writes32 (.perm c f) c f s (fun i => k.laneA f (((k.vr f.vb.toNat).getD i 0).toNat % 1024)))) ∧
  (VeTakes s c 0x46 f → Writes32 (.iota c f) c f s (fun i => BitVec.ofNat 32 i))

/-- R110, R111, R112, R162, R165, R166. -/
def Obligations.VeConvert : Prop :=
 (∀ (c : Nat) (f : VEWord) (s : State),
   let k := (s.cluster c).ve
   let dq := fun i => if f.imm.getLsbD 0 then linkDecode (dec32 (k.laneB f i)) (sInt 8 ((k.laneA f i).toNat % 256))
    else linkDecode (dec32 (k.laneB f i)) ((((k.laneA f i).toNat % 256 : Nat) : Int) - ((k.laneC f i).toNat % 256 : Nat))
   (VeTakes s c 0x20 f → Writes32 (.cvt c f) c f s (fun i =>
    if f.imm.getLsbD 0 then to32 (fvInt (k.laneA f i).toInt) else toI32 (k.laneA f i))) ∧
   (VeTakes s c 0x21 f → Writes16 (.pack c f) c f s (fun i =>
    let w := if i < 1024 then k.laneA f i else (k.vr f.vb.toNat).getD (i - 1024) 0
    if f.fmt = 1 then toB16 (dec32 w) else toF16 (dec32 w))) ∧
   (VeTakes s c 0x22 f → Writes32 (.unpk c f) c f s (fun i =>
    let h := k.elemA f (if f.imm.getLsbD 0 then 1024 + i else i)
    enc32 (if f.fmt = 1 then decB16 h else decF16 h))) ∧
   (VeTakes s c 0x25 f →
    (f.fmt = 1 → ∃ v, v.length = 1024 ∧
     (∀ i < 2048, (elems v).getD i 0 =
      if decide (1024 ≤ i) = f.imm.getLsbD 1 then
       (if (k.wm f).getLsbD i then toB16 (dq (i % 1024)) else if f.zm then 0 else (elems (k.vr f.vd.toNat)).getD i 0)
      else (elems (k.vr f.vd.toNat)).getD i 0) ∧
     exec (.ldq c f) s = .next (s.veWrote c f v)) ∧
    (f.fmt ≠ 1 → Writes32 (.ldq c f) c f s (fun i => to32 (dq i))))) ∧
 (∀ (c : Nat) (f : VEWord) (s : State),
   let k := (s.cluster c).ve
   let d := f.imm.toNat % 8
   (VeTakes s c 0x23 f → ∃ v m, Lqu8Writes k f v m ∧ exec (.lqu8 c f) s = .next (s.onVe c (fun k => { k with
    v := k.v.set f.vd.toNat v, m := if d = 0 then k.m else k.m.set d m, pc := k.pc + 1 }))) ∧
   (VeTakes s c 0x24 f → ∃ v, Lqs8Writes k f v ∧ exec (.lqs8 c f) s = .next (s.veWrote c f v)))

/-- R162, R165. -/
def Obligations.VeShuffle : Prop :=
 ∀ (c : Nat) (f : VEWord) (s : State), VeTakes s c 0x31 f →
  let k := (s.cluster c).ve
  let pat := f.imm.toNat % 16
  let amt := f.imm.toNat / 16 % 4096
  let src : Nat → Nat → Option (Bool × Nat) := fun e i =>
   if pat = 0 then some (false, (i + amt) % e) else if pat = 1 then some (false, e - 1 - i)
   else if pat = 2 then some (decide (i % 2 = 1), i / 2)
   else if pat = 3 then (if 2 * i < e then some (false, 2 * i) else none)
   else if pat = 4 then (if 2 * i + 1 < e then some (false, 2 * i + 1) else none)
   else if amt < e then some (false, amt) else none
  ∃ free : Nat → Word,
   (f.fmt = 1 → ∃ v, k.Merged16 f (fun i => match src 2048 i with
     | some (b, j) => (elems (k.vr (if b then f.vb.toNat else f.va.toNat))).getD j 0
     | none => BitVec.ofNat 16 (free i).toNat) v ∧ exec (.shuf c f) s = .next (s.veWrote c f v)) ∧
   (f.fmt ≠ 1 → ∃ v, k.Merged32 f (fun i => match src 1024 i with
     | some (b, j) => (k.vr (if b then f.vb.toNat else f.va.toNat)).getD j 0
     | none => BitVec.ofNat 32 (free i).toNat) v ∧ exec (.shuf c f) s = .next (s.veWrote c f v))

/-- R161, R162, R165. -/
def Obligations.VeIntegers : Prop :=
 ∀ p ∈ ([(Instr.iadd, 0x40, fun a b => a + b), (Instr.iand, 0x41, fun a b => a &&& b), (Instr.ior, 0x42, fun a b => a ||| b),
   (Instr.ixor, 0x43, fun a b => a ^^^ b), (Instr.ishl, 0x44, fun a b => a <<< (b.toNat % 32)),
   (Instr.ishr, 0x45, fun a b => a >>> (b.toNat % 32))] : List ((Nat → VEWord → Instr) × Nat × (Word → Word → Word))),
  ∀ (c : Nat) (f : VEWord) (s : State), VeTakes s c p.2.1 f →
   Writes32 (p.1 c f) c f s (fun i => p.2.2 ((s.cluster c).ve.laneA f i) ((s.cluster c).ve.laneB f i))

/-- R162, R164, R165, R157, R179. -/
def Obligations.VeTileAccess : Prop :=
 ∀ (c : Nat) (f : VEWord) (s : State),
  let k := (s.cluster c).ve
  let n := f.imm.toNat
  let t := n / 2 ^ 27 % 4
  let a := (n / 2 ^ 11 % 2 ^ 12 + (k.sr (n / 2 ^ 23 % 16)).toNat) * 64 % 2 ^ 18
  let byte := fun j => (MemOps.read (k.tile t).mem ((a + j) % 2 ^ 18)).toNat
  (VeTakes s c 0x60 f → (k.tile t).draining = false →
   (f.fmt = 1 ∨ f.fmt = 2 → Writes16 (.ld c f) c f s (fun i => BitVec.ofNat 16 (byte (2 * i) + 256 * byte (2 * i + 1)))) ∧
   (f.fmt = 4 → Writes32 (.ld c f) c f s (fun i => BitVec.ofNat 32 (byte i))) ∧
   (f.fmt = 5 → Writes32 (.ld c f) c f s (fun i =>
    BitVec.ofInt 32 (if byte i < 128 then (byte i : Int) else (byte i : Int) - 256))) ∧
   (f.fmt ≠ 1 → f.fmt ≠ 2 → f.fmt ≠ 4 → f.fmt ≠ 5 → Writes32 (.ld c f) c f s (fun i =>
    BitVec.ofNat 32 (byte (4 * i) + 256 * byte (4 * i + 1) + 65536 * byte (4 * i + 2) + 16777216 * byte (4 * i + 3))))) ∧
  (VeTakes s c 0x61 f → (k.tile t).draining = false → k.passReads t = false →
   let w := if f.fmt = 1 ∨ f.fmt = 2 then 2 else if f.fmt = 4 ∨ f.fmt = 5 then 1 else 4
   let e := if f.fmt = 1 ∨ f.fmt = 2 then 2048 else 1024
   ∃ m : Mem,
    (∀ i < e, ∀ b < w, (k.wm f).getLsbD i → (MemOps.read m ((a + (w * i + b)) % 2 ^ 18)).toNat =
     (if w = 2 then ((elems (k.vr f.vd.toNat)).getD i 0).toNat else ((k.vr f.vd.toNat).getD i 0).toNat) / 256 ^ b % 256) ∧
    (∀ x, (∀ i < e, ∀ b < w, (k.wm f).getLsbD i → x ≠ (a + (w * i + b)) % 2 ^ 18) →
     MemOps.read m x = MemOps.read (k.tile t).mem x) ∧
    exec (.st c f) s = .next (s.onVe c (fun k => { k with
     tiles := k.tiles.modify t (fun x => { x with mem := m }), pc := k.pc + 1 })))

/-- R162, R167, R168, R169. -/
def Obligations.VeLaneTree : Prop :=
 ∀ p ∈ ([(Instr.rsum, 0x70, laneSum), (Instr.rmax, 0x71, laneMax), (Instr.rmin, 0x72, laneMin), (Instr.ramax, 0x73, laneArgMax)] :
   List ((Nat → VEWord → Instr) × Nat × ((Nat → Bool) → List Word → Word))),
  ∀ (c : Nat) (f : VEWord) (s : State), VeTakes s c p.2.1 f →
   let k := (s.cluster c).ve
   WritesScalar (p.1 c f) c f s (p.2.2 (fun i => (k.wm f).getLsbD i) (k.vr f.va.toNat))

/-- R162, R170, R174, R179. -/
def Obligations.VeReduction : Prop :=
 ∀ (c : Nat) (f : VEWord) (s : State),
  let k := (s.cluster c).ve
  let n := f.imm.toNat
  (VeTakes s c 0x78 f → k.ru.queue.length < 4 →
   exec (.rugo c f) s = .next (s.onVe c (fun k => { k with
    ru := { k.ru with queue := k.ru.queue ++ [⟨n / 2 ^ 27 % 4, BitVec.ofNat 4 (n / 2 ^ 23 % 16),
     n / 2 ^ 15 % 2 ^ 8, n / 2 ^ 6 % 2 ^ 9, n.testBit 5, decide (f.fmt = 1)⟩] },
    pc := k.pc + 1 }))) ∧
  (VeTakes s c 0x79 f → k.ru.queue = [] → k.ru.running = none →
   exec (.ruwait c f) s = .next (s.onVe c (fun k => { k with pc := k.pc + 1 }))) ∧
  (VeTakes s c 0x7B f → k.ru.queue = [] → k.ru.running = none →
   let rows := k.ru.rows.map k.ru.finRow
   exec (.rufin c f) s = .next (s.onCluster c (fun q => { q with
    ve := { q.ve with ru := { k.ru with fin := some rows }, pc := q.ve.pc + 1 }
    veRegs := { q.veRegs with var1Clamp := q.veRegs.var1Clamp || rows.any (fun r => r.flags.getLsbD 0) } })))

/-- R162, R165, R170, R171, R174, R175, R179. -/
def Obligations.ReductionUnit : Prop :=
 (∀ (c : Nat) (s : State) (p : RuPass) (r : List RuPass), s.veFree c →
   let k := (s.cluster c).ve
   let cnt := fun (i old : Nat) => if p.stats.getLsbD i ∧ p.w ≠ 0 then (if p.clr then 0 else old) + p.w else old
   k.ru.running = none → k.ru.queue = p :: r → ((k.tile p.tile).held = true ∨ k.tileMap / 4 ^ p.tile % 4 ≠ 1) →
   ∃ (u : RuSt) (st : Half) (nf : Bool) (fr : Nat),
    exec (.ruPass c) s = .next ({ s with freeCtr := fr }.onCluster c (fun q => { q with
     ve := { q.ve with ru := u, status := st }, veRegs := { q.veRegs with nonfinite := nf } })) ∧
    u.queue = r ∧ u.running = none ∧ u.fin = k.ru.fin ∧
    u.nSum = cnt 0 k.ru.nSum ∧ u.nSq = cnt 1 k.ru.nSq ∧ u.nD2 = cnt 2 k.ru.nD2 ∧ u.nSm = cnt 3 k.ru.nSm) ∧
 (∀ (c : Nat) (f : VEWord) (s : State), VeTakes s c 0x7A f →
   let k := (s.cluster c).ve
   let i := f.imm.toNat % 16
   let stat := fun j => match k.ru.fin with
    | none => if 512 ≤ j then 0 else nan32
    | some rows => match rows[j]?, k.ru.rows[j]? with
     | some r, some q => q.live i (r.get i)
     | _, _ => 0
   k.ru.queue = [] → k.ru.running = none →
   ∃ v, k.Merged32 f (fun j => if i = 9 then (if 512 ≤ j then 0 else ruFlags k.ru j) else stat j) v ∧
    exec (.rurd c f) s = .next (s.veWrote c f v)) ∧
 (∀ (r : RuRow) (i : Nat) (v : Word), r.live i v =
   if (i = 1 ∧ r.markSum) ∨ (i = 2 ∧ r.markSq) ∨ (i = 3 ∧ (r.markSum ∨ r.markSq)) ∨ (i = 4 ∧ (r.markSum ∨ r.markD2)) then nan32 else v)

/-- R162, R187, R165. -/
def Obligations.VeSpecialFunction : Prop :=
 ∀ (c : Nat) (f : VEWord) (s : State), VeTakes s c 0x7C f →
  let k := (s.cluster c).ve
  let bank := s.sfuBank c
  let func := f.imm.toNat % 32
  func < 16 ∨ (bank.valid ∧ tsHas bank.image (func - 16)) →
  (f.fmt ≠ 1 → Writes32 (.sfn c f) c f s (fun i => enc32 (sfnVal bank.image func false (dec32 (k.laneA f i))))) ∧
  (f.fmt = 1 → ∃ v, v.length = 1024 ∧
   (∀ i < 2048, (elems v).getD i 0 =
    if decide (1024 ≤ i) = f.imm.getLsbD 5 then
     (if (k.wm f).getLsbD i then encB16 (sfnVal bank.image func true (decB16 (k.elemA f i)))
      else if f.zm then 0 else (elems (k.vr f.vd.toNat)).getD i 0)
    else (elems (k.vr f.vd.toNat)).getD i 0) ∧
   exec (.sfn c f) s = .next (s.veWrote c f v))

/-- R162. -/
def Obligations.VeScalars : Prop :=
 ∀ (c : Nat) (f : VEWord) (s : State),
  let k := (s.cluster c).ve
  (VeTakes s c 0x00 f → exec (.nop c f) s = .next (s.onVe c (fun k => { k with pc := k.pc + 1 }))) ∧
  (VeTakes s c 0x80 f → WritesScalar (.smov c f) c f s (f.imm.signExtend 32)) ∧
  (VeTakes s c 0x81 f → WritesScalar (.sadd c f) c f s (k.sr (f.va.toNat % 16) + k.sr (f.vb.toNat % 16))) ∧
  (VeTakes s c 0x82 f → WritesScalar (.sget c f) c f s (k.laneA f (f.imm.toNat % 1024)))

/-- R162, R179, R324. -/
def Obligations.VeTileStreams : Prop :=
 ∀ (c : Nat) (f : VEWord) (s : State),
  let k := (s.cluster c).ve
  let t := f.imm.toNat % 4
  (VeTakes s c 0x90 f → ¬((k.tile t).held ∧ k.ru.names t) → (k.tile t).arrived →
   ∃ u, exec (.tin c f) s = .next u ∧
    (((u.cluster c).ve).tile t).held ∧ (((u.cluster c).ve).tile t).arrived = false ∧
    (((u.cluster c).ve).tile t).mem = (k.tile t).mem ∧ (u.cluster c).ve.pc = k.pc + 1 ∧
    (u.cluster c).ve.v = k.v ∧ (u.cluster c).ve.m = k.m ∧ (u.cluster c).ve.s = k.s ∧ (u.cluster c).outb = (s.cluster c).outb) ∧
  (VeTakes s c 0x91 f → k.ru.names t = false → (k.tile t).draining = false →
   exec (.tout c f) s = .next (s.onCluster c (fun q => { q with
    outUnit := kset q.outUnit k.outStream 2
    outb := outPut k.outStream (MemOps.readN (k.tile t).mem 0 (2 ^ 18)) k.status q.outb
    ve := { q.ve with
     tiles := q.ve.tiles.modify t (fun x => { x with draining := true })
     drains := q.ve.drains ++ [t]
     pc := q.ve.pc + 1 } })))

/-- R156, R162, R185. -/
def Obligations.VeControl : Prop :=
 ∀ (c : Nat) (f : VEWord) (s : State),
  let k := (s.cluster c).ve
  let n := f.imm.toNat
  (VeTakes s c 0xF0 f → n % 2 ^ 13 ≠ 0 → k.loops.length < 4 →
   exec (.loop c f) s = .next (s.onVe c (fun k => { k with pc := k.pc + 1, loops := (k.pc + 1, n % 2 ^ 13) :: k.loops }))) ∧
  (VeTakes s c 0xF0 f → n % 2 ^ 13 = 0 → ∀ p, afterEndl k 8192 (k.pc + 1) 0 = some p →
   exec (.loop c f) s = .next (s.onVe c (fun k => { k with pc := p }))) ∧
  (VeTakes s c 0xF1 f → ∀ p m r, k.loops = (p, m) :: r →
   exec (.endl c f) s = .next (s.onVe c (fun k => if m ≤ 1 then { k with pc := k.pc + 1, loops := r }
    else { k with pc := p, loops := (p, m - 1) :: r }))) ∧
  (VeTakes s c 0xF2 f → exec (.ska c f) s = .next (s.onVe c (fun k => { k with
   pc := if k.mr (n / 2 ^ 8 % 8) ≠ 0 then k.pc + 1 + n % 2 ^ 8 else k.pc + 1 }))) ∧
  (VeTakes s c 0xF3 f → exec (.skn c f) s = .next (s.onVe c (fun k => { k with
   pc := if k.mr (n / 2 ^ 8 % 8) = 0 then k.pc + 1 + n % 2 ^ 8 else k.pc + 1 }))) ∧
  (VeTakes s c 0xFF f → exec (.endP c f) s = .next (planDone (.cluster c) k.status (s.onCluster c (fun q => { q with
   veRegs := { q.veRegs with lastStatus := k.status, lastTag := k.tag, count := q.veRegs.count + 1, busy := false },
   inb := q.inb.filter (fun b => !(b.num == k.inStream && b.tiles.isEmpty))
   outb := if k.status = stOk then q.outb else updAll q.outb (fun b => b.num == k.outStream)
    (fun b => { b with
     status := if b.status = stOk then k.status else b.status
     flaws := if b.status = stOk then [(0, b.size, k.status)] else b.flaws }) }))))

/-- R159. -/
def Obligations.VeProgramStart : Prop :=
 ∀ (c : Nat) (w : List Byte) (s : State),
  ClustersOk s.clusters → s.veFree c → w.length = 32 → veCmdFail 8192 w = none → (s.cluster c).veRegs.busy = false →
  ((s.cluster c).inb.find? (fun b => b.num == fld w 8 2)) = none →
  (s.cluster c).ve.instr (fld w 4 2) = BitVec.ofNat 64 (0xFF * 2 ^ 56) →
  ∃ q : ClusterSt, exec (.veprog c w false) s = .next (planDone (.cluster c) stOk (s.onCluster c (fun _ => q))) ∧
   (∀ i < 16, q.ve.vr i = List.replicate 1024 0) ∧ (∀ i, 1 ≤ i → i < 8 → q.ve.mr i = 0) ∧ (∀ i < 14, q.ve.sr i = 0) ∧
   q.ve.sr 14 = BitVec.ofNat 32 (fld w 0x10 4) ∧ q.ve.sr 15 = BitVec.ofNat 32 (fld w 0x14 4) ∧
   q.veRegs.busy = false ∧ q.veRegs.lastStatus = stOk ∧ q.veRegs.lastTag = BitVec.ofNat 32 (fld w 0x1C 4) ∧
   q.veRegs.count = (s.cluster c).veRegs.count + 1 ∧ q.arr = (s.cluster c).arr ∧ q.sfu = (s.cluster c).sfu ∧
   q.scan = (s.cluster c).scan

/-- R142, R144, R145, R147, R155. -/
def Obligations.ArrayCommand : Prop :=
 (∀ (c : Nat) (w : List Byte) (s : State),
  let k := s.cluster c
  let acts := bufBytes k.inb (fld w 0x12 2)
  let codes := bufBytes k.inb (fld w 0x10 2)
  s.clusterUp c → k.veRegs.busy = false → k.scan.busy = false → k.arrRun = none → w.length = 32 →
  arrWordFail w = none → arrEmpty w = false → arrCodeBytes w ≤ codes.length → arrActBytes w ≤ acts.length →
  bufStatus k.inb (fld w 0x10 2) = stOk → bufStatus k.inb (fld w 0x12 2) = stOk →
  ∃ q : ClusterSt, exec (.matmul c w false) s = .next (planDone (.cluster c) stOk (s.onCluster c (fun _ => q))) ∧
   q.ve = k.ve ∧ q.veRegs = k.veRegs ∧ q.sfu = k.sfu ∧ q.scan = k.scan ∧
   q.arr.lastStatus = stOk ∧ q.arr.lastTag = BitVec.ofNat 32 (fld w 0x1C 4) ∧ q.arr.count = k.arr.count + 1 ∧ q.arr.busy = false ∧
   q.arr.stall = k.arr.stall ∧
   q.outb = outPut (fld w 0x14 2) (arrDrain w codes acts) stOk k.outb ∧
   q.inb = bufFree (bufFree k.inb (fld w 0x10 2)) (fld w 0x12 2)) ∧
 (∀ (c n : Nat) (s : State), s.clusterUp c →
  exec (.arrayStall c n) s = .next (s.onCluster c (fun k => { k with
   arr := { k.arr with stalled := true, stall := k.arr.stall + BitVec.ofNat 64 n } })))

/-- R195, R197. -/
def Obligations.SfuBankLoads : Prop :=
 ∀ (c : Nat) (tset : Word) (image : List Byte) (s : State), s.clusterUp c → (s.loadDue c tset).isSome →
  let ts := s.ctrl.tsets.find? (fun t => s.handleOf 8 t.idx == tset.toNat)
  let data := fit 66496 (if (s.cluster c).sfu.arrived = [] then image else (s.cluster c).sfu.arrived)
  let good : Bool := match ts with
   | some t => decide ((crc32c data).toNat = fld t.image 0x38 4)
   | none => false
  ∃ b : SfuBank,
   exec (.sfuBankLoad c tset image) s = .next ((s.onPlan (fun p => { p with curRegs := { p.curRegs with
    loads := updFirst p.curRegs.loads (fun x => some x == s.loadDue c tset) (fun x => { x with done := true, failed := !good }) } })).onCluster c (fun k =>
    { k with sfu := { k.sfu with
     bankA := if k.sfu.active then b else k.sfu.bankA, bankB := if k.sfu.active then k.sfu.bankB else b,
     loadErr := k.sfu.loadErr || !good, loads := k.sfu.loads + 1, loading := false, arrived := [] } })) ∧
   (good = false → b = .empty) ∧
   (∀ t, ts = some t → good → b.set = tset ∧ b.valid ∧ b.image = t.image.take 64 ++ data)

/-- R205, R212, R231, R233, R237, R238, R239, R240. -/
def Obligations.ScanCommands : Prop :=
 ∀ (c : Nat) (w : List Byte) (s : State), w.length = 32 →
  let k := s.cluster c
  let r0 : ScanRun := { word := w, ecc := [], row := 0, buf := .none 4 (fld w 0xA 2), sbuf := .none 5 (fld w 0xC 2) }
  let r : ScanRun := { r0 with buf := r0.buf.take k.inb, sbuf := r0.sbuf.take k.inb }
  let u := scanTake c r0 (s.onCluster c (fun k => { k with scanRun := some r0 }))
  let q := scanOne c r u
  let k' := q.s.cluster c
  c < 8 → s.clusterUp c → k.arr.busy = false → k.veRegs.busy = false → k.scanRun = none → scanWordFail true w = none → scRows w = 1 →
  u.rowWaits c r = false → s.runningCmd (.cluster c) = none → q.bad = false →
  ∀ p ∈ ([(Instr.scanChunk c w [], 0), (Instr.scanStep c w [], 1), (Instr.scanZero c w, 2)] : List (Instr × Nat)), scOp w = p.2 →
   ∃ x y : ClusterSt, exec p.1 s = .next (planDone (.cluster c) stOk ((rowDone c 0 q.st (q.s.onCluster c (fun _ => y))).onCluster c (fun _ => x))) ∧
    x.scan.count = k'.scan.count + 1 ∧ x.scan.rows = k'.scan.rows + 1 ∧ x.scan.busy = false ∧ x.scanRun = none ∧
    x.scan.lastTag = BitVec.ofNat 32 (fld w 0x1C 4) ∧ x.scan.lastStatus = stOk ∧
    x.scan.invalidRow = (k'.scan.invalidRow || q.st != stOk) ∧ x.scan.gone = (k'.scan.gone || q.st == stStateGone) ∧
    x.scan.domFault = (k'.scan.domFault || q.dom) ∧ x.scan.eccUe = (k'.scan.eccUe || q.ue) ∧
    (fld w 0xA 2 ≠ fld w 0xC 2 → k.inb.all (fun b => b.num != fld w 0xA 2 || b.ep == 4) →
     bufBytes x.inb (fld w 0xA 2) = (bufBytes k.inb (fld w 0xA 2)).drop (scRowBytes w)) ∧
    x.outb = (if p.2 = 2 then k'.outb else outPut (fld w 0xE 2) q.out q.st k'.outb) ∧
    x.ve = k'.ve ∧ x.arr = k'.arr ∧ x.veRegs = k'.veRegs ∧ x.sfu = k'.sfu

/-- R242, R243, R260, R264, R266. -/
def Obligations.GemvCompletes : Prop :=
 ∀ (k : Nat) (w : List Byte) (s : State), w.length = 64 → s.nmuUp k →
  let dom := fld w 2 1 % 64
  let o := fld w 8 8
  let h := (List.range 64).map (fun i => BitVec.ofNat 8 (s.nmuByte k dom (o + i)))
  let g : GvIn := ⟨w, h, fun i => s.nmuByte k dom (o + i), s.actByte k dom⟩
  gemvFail k w (some h) = none → gvEmpty w = false → s.runStatus (.gemv k) = stOk →
  (∀ r ∈ (o, 64) :: gvRanges w h, s.rangePasses dom false (stackBase k + r.1) r.2 ∧
   s.rangePoisoned (stackBase k + r.1) r.2 = false) →
  (∀ r ∈ gvActs w h, ∀ j < r.2, (s.nmu k).actPasses dom (r.1 + j)) →
  ∃ n : NmuSt, exec (.gemv k w 0) s = .next (planDone (.gemv k) stOk (s.onNmu k (fun _ => n))) ∧
   n.outb = outPut (fld w 0x1E 2) g.drain stOk (s.nmu k).outb ∧ n.act = (s.nmu k).act ∧ n.scoreBuf = (s.nmu k).scoreBuf ∧
   n.gemvCount = (s.nmu k).gemvCount + 1 ∧ n.gemvTag = BitVec.ofNat 32 (fld w 0x24 4) ∧ n.gemvBusy = false ∧
   n.lastStatus = stOk ∧ n.attCount = (s.nmu k).attCount ∧ n.attBusy = (s.nmu k).attBusy

/-- R247, R249, R250, R251, R252, R256, R264, R266. -/
def Obligations.AttentionCompletes : Prop :=
 ∀ (k : Nat) (w : List Byte) (s : State), w.length = 64 → NmusOk s.nmus → s.nmuUp k → atRows w ≠ 0 →
  attFail w (s.fp8 (fld w 7 1)) = none → s.attBad k w (s.fp8 (fld w 7 1)) = false →
  let done := fun (st : Half) (u : State) => (u.nmu k).attCount = (s.nmu k).attCount + 1 ∧ (u.nmu k).attBusy = false ∧
   (u.nmu k).attTag = BitVec.ofNat 32 (fld w 0x34 4) ∧ (u.nmu k).lastStatus = st
  let clean := fun (l : List (Nat × Nat × Bool)) => s.runStatus (.att k) = stOk ∧
   (∀ p ∈ s.attPages k w, s.pageStatus k p.frame = stOk) ∧
   ∀ r ∈ l, s.rangePasses (fld w 2 1 % 64) r.2.2 (stackBase k + r.1) r.2.1 ∧
    s.rangePoisoned (stackBase k + r.1) r.2.1 = false
  (fld w 0 1 = 0x11 →
   let l := (s.attScores k w).flatMap (fun r => r.flatMap bytesOfWords)
   let after := fun (st : Half) (u : State) =>
    (∀ j < l.length, u.scoreByte k (atScoreOff w + j) = (l.getD j 0).toNat) ∧
    (∀ a, ¬(atScoreOff w ≤ a ∧ a < atScoreOff w + l.length) → u.scoreByte k a = s.scoreByte k a) ∧ done st u
   (s.attScores k w).length = atRows w ∧ (s.attStats k w).length = atRows w ∧
   (∀ sym : Nat, ∃ t, exec (.attScore k w sym) s = .next t) ∧
   (∃ (st : Half) (u : State), exec (.attScore k w 0) s =
     .next (planDone (.att k) st (mergeTake (atMerge w) (.stack k) (.pairs (s.attStats k w) st) u)) ∧ after st u) ∧
   (clean (s.scoreReads k w) → (∀ r ∈ scoreActs w, ∀ j < r.2, (s.nmu k).actPasses (fld w 2 1 % 64) (r.1 + j)) →
    ∃ u : State, exec (.attScore k w 0) s =
     .next (planDone (.att k) stOk (mergeTake (atMerge w) (.stack k) (.pairs (s.attStats k w) stOk) u)) ∧ after stOk u)) ∧
  (fld w 0 1 = 0x12 → ∀ (m : MergeSlot) (b : List (Word × Word)), s.merge (atMerge w) = some m → m.bcast = some b →
   let after := fun (st : Half) (u : State) => (u.nmu k).scoreBuf = (s.nmu k).scoreBuf ∧ done st u
   (s.attRowsOut k w b).length = atRows w ∧
   (∀ sym : Nat, ∃ t, exec (.attValue k w sym) s = .next t) ∧
   (∃ (st : Half) (u : State), exec (.attValue k w 0) s =
     .next (planDone (.att k) st (mergeTake (atMerge w) (.stack k) (.partials (s.attRowsOut k w b) st) u)) ∧ after st u) ∧
   (clean (attRanges w (s.attPages k w) 1) → s.rangePoisoned (stackBase k + (spillRange w).1) (spillRange w).2 = false →
    m.bcastStatus = stOk → ∃ u : State, exec (.attValue k w 0) s =
     .next (planDone (.att k) stOk (mergeTake (atMerge w) (.stack k) (.partials (s.attRowsOut k w b) stOk) u)) ∧ after stOk u))

/-- R115, R116, R254, R264, R273. -/
def Obligations.KeyValueWrites : Prop :=
 ∀ (k : Nat) (w : List Byte) (s : State), w.length = 32 → s.Inv → s.nmuUp k → kvFail w = none → s.runStatus (.att k) = stOk →
  let dom := fld w 2 1 % 64
  let base := stackBase k + fld w 8 8
  let d := kvD w
  let t := kvH w * d * 256
  (fld w 0 1 = 0x13 →
   let at_ := fun (i j : Nat) => base + (i * 64 + fld w 1 1) * d * 2 + j
   s.frameSealed k (fld w 8 8) = false → (∀ j < 4 * (kvH w * d), (s.nmu k).actPasses dom (fld w 0x10 4 + j)) →
   (∀ i < 2 * kvH w, s.rangePasses dom true (at_ i 0) (2 * d)) →
   (∀ i < 2 * kvH w, ∀ j < 2 * d, s.passes dom true (at_ i j)) →
   ∃ u : State, exec (.kvput k w 0) s = .next u ∧
    (∀ i < 2 * kvH w, ∀ j < 2 * d,
     MemOps.read u.mem.dev (at_ i j) = MemOps.read (s.nmu k).act (fld w 0x10 4 + i * 2 * d + j)) ∧
    (∀ a, (∀ i < 2 * kvH w, ∀ j < 2 * d, a ≠ at_ i j) → MemOps.read u.mem.dev a = MemOps.read s.mem.dev a) ∧
    (u.nmu k).attCount = (s.nmu k).attCount + 1 ∧ (u.nmu k).act = (s.nmu k).act ∧ u.clusters = s.clusters) ∧
  (fld w 0 1 = 0x14 → s.frameSealed k (fld w 8 8) = false → s.frameBf16 k (fld w 8 8) = false →
   (∀ a, base ≤ a → a < base + t + 128 → s.passes dom false a ∧ s.passes dom true a) →
   s.rangePasses dom false base (t + 128) → s.rangePasses dom true base (t / 2) →
   s.rangePasses dom true (base + t) 128 → s.rangePoisoned base (t + 128) = false →
   ∃ u : State, exec (.kvseal k w 0) s = .next u ∧
    (∀ j < t / 2, MemOps.read u.mem.dev (base + j) =
     (sealBody (kvH w) d (fun i => s.nmuByte k dom (fld w 8 8 + i))).1.getD j 0) ∧
    (MemOps.read u.mem.dev (base + t + 5)).toNat = 64 ∧ (MemOps.read u.mem.dev (base + t + 6)).getLsbD 0 ∧
    (∀ a, ¬(base ≤ a ∧ a < base + t / 2) → ¬(base + t ≤ a ∧ a < base + t + 128) →
     MemOps.read u.mem.dev a = MemOps.read s.mem.dev a) ∧
    (u.nmu k).attCount = (s.nmu k).attCount + 1 ∧ u.clusters = s.clusters)

/-- R255, R256, R258. -/
def Obligations.MergeStage : Prop :=
 (∀ (slot i : Nat) (l : List (Word × Word)) (st : Half) (s : State) (m : MergeSlot),
  s.merge slot = some m → m.level = 0 → m.stkMask.testBit i → i < 16 →
  (∀ j ∈ m.stks, s.svc ⟨.nmu, j⟩ ≠ .fenced) → m.pairOf (.stack i) = none → m.bcast = none → m.out = none →
  let p := m.pairs ++ [(MergeSrc.stack i, l, tableStatus st)]
  let own := m.stks.filterMap (fun j => (p.find? (fun q => q.1 == .stack j)).map (·.2))
  ((∃ j ∈ m.stks, p.find? (fun q => q.1 == .stack j) = none) →
   exec (.mergeContribution slot (.stack i) (.pairs l st)) s = .next (setMerge { m with pairs := p } s)) ∧
  ((∀ j ∈ m.stks, (p.find? (fun q => q.1 == .stack j)).isSome) →
   ∃ (u : State) (m' : MergeSlot), exec (.mergeContribution slot (.stack i) (.pairs l st)) s = .next u ∧
    u.merge slot = some m' ∧ m'.pairs = p ∧ m'.bcastStatus = firstBad (own.map (·.2)) ∧
    m'.bcast = some ((List.range m.rows).map (fun r =>
     let q := mergePair ((s.mergeExp m.model).exp s.freeCtr) ((own.map (·.1)).map (fun c => c.getD r (negInf32, 0)))
     (q.1, mergeR q))))) ∧
 (∀ (slot : Nat) (s : State) (m : MergeSlot), s.merge slot = some m → m.out = none → m.bcastStatus = stOk →
  ∃ (u : State) (m' : MergeSlot), exec (.mergeDeadline slot) s = .next u ∧ u.merge slot = some m' ∧
   m'.out.isSome ∧ m'.bcast.isSome ∧ m'.pairs = m.pairs ∧ m'.parts = m.parts ∧
   m'.outStatus = (if m.stks.any (fun i => s.svc ⟨.nmu, i⟩ == .fenced) then stFenced else stBeatOverrun) ∧
   u.mem = s.mem ∧ u.clusters = s.clusters ∧ u.nmus = s.nmus)

/-- R307, R310, R311, R313, R316, R317. -/
def Obligations.YarderStarts : Prop :=
 ∀ p ∈ ([(Instr.stream, false), (Instr.copy, true)] : List ((Nat → List Byte → Instr) × Bool)),
  ∀ (y : Nat) (w : List Byte) (s : State), w.length = 64 → s.yardUp y → yIsCopy w = p.2 →
   yardWordFail y w = none → egressBad w s = false → s.mayMove y (yNum w) →
   (fld w 0x10 2 = 0 → ∃ u : State, exec (p.1 y w) s = .next (planDoneStream y (yNum w) stOk (endEndpoint y (newCtx y w s) u)) ∧
    u = s.onYarder y (fun k => { k with
     ctxs := k.ctxs.filter (fun x => !(x.num == yNum w))
     lastStatus := stOk
     lastTag := BitVec.ofNat 32 (fld w 0x2C 4)
     count := k.count + 1 })) ∧
   (fld w 0x10 2 ≠ 0 → s.ctx y (yNum w) = none → s.ctxsUsed y < 16 → skidIn w = none →
    exec (p.1 y w) s = .next (pump y (yNum w) (fetchFirst y (yNum w) (fetchFirst y (yNum w) ((freshBufs (newCtx y w s) (freshIngress w s)).onYarder y (fun k => { k with
     ctxs := k.ctxs.filter (fun x => !(x.num == yNum w)) ++ [{ newCtx y w s with started := true }] }))))))

/-- R318, R319, R321, R341. -/
def Obligations.YarderTransfers : Prop :=
 (∀ (y num sym : Nat) (s : State) (c : StreamCtx) (l : ListSt), s.yardUp y → s.ctx y num = some c → c.wr = none →
  c.rd = some l → l.wants → (c.started = true ∨ l.bursts = 0) →
  ∀ c', (fetchBurst y false l c sym s).2 = some c' →
   exec (.descriptorFetch y ⟨num, sym⟩) s = .next (pump y num ((fetchBurst y false l c sym s).1.onCtx y num (fun _ => c'))) ∧
   (c'.rd.map (·.bursts)) = some (l.bursts + 1)) ∧
 (∀ (y num idx sym : Nat) (s : State) (c : StreamCtx) (x : Xfer), s.yardUp y → s.ctx y num = some c →
  c.xfers.find? (fun x => x.idx == idx && !x.done) = some x → x.zero = false → s.isLocal x.addr →
  let a := devAddr x.addr
  (x.write → c.behind x = false → (yIsCopy c.word = true ∨ verdictPlace a x.len = none) →
   s.rangePasses c.dom true a x.data.length → (x.acc → s.rangePoisoned a x.data.length = false) →
   exec (.transferComplete y num idx sym) s = .next (pump y num (doneXfer y num idx x.data stOk
    (if x.acc then s.onDev (fun m => accWrite m a x.data)
     else clearPoison a x.data.length (s.onDev (fun m => MemOps.writeN m a x.data)))))) ∧
  (x.write = false → eccLost sym = false → s.readPasses c.dom a x.len → s.rangePoisoned a x.len = false →
   ∃ u : State, exec (.transferComplete y num idx sym) s =
     .next (pump y num (doneXfer y num idx (MemOps.readN s.mem.dev a x.len) stOk u)) ∧
    u.mem.dev = s.mem.dev ∧ u.yard = s.yard ∧ u.clusters = s.clusters))

/-- R306, R322, R323, R329, R333. -/
def Obligations.YarderTiles : Prop :=
 ∀ (y num : Nat) (s : State) (c : StreamCtx), s.yardUp y → s.ctx y num = some c →
  (c.started → yIsCopy c.word = false → yWrites c.word = false →
   let n := min (s.tileBytes c) (stagedLen c.staged)
   n ≠ 0 → s.tileRoom c n → (n = s.tileBytes c ∨ (c.listsEnd ∧ c.xfers = [])) →
   exec (.tileDeliver y num) s = .next (pump y num (giveTile c c.donePos (headStaged n c.staged) (s.onCtx y num (fun c => { c with
    staged := (takeStaged n c.staged).2.2, donePos := c.donePos + n }))))) ∧
  (c.started → yIsCopy c.word = false → yWrites c.word →
   cdiv (stagedLen c.staged + ((c.xfers.filter (·.write)).map (·.len)).foldl (· + ·) 0) (yTile c.word) < yLead c.word →
   (takeTile y c s).1 ≠ [] →
   exec (.tileDeliver y num) s = .next (pump y num ((takeTile y c s).2.onCtx y num (fun c' => { c' with
    staged := c'.staged ++ (takeTile y c s).1
    status := if c'.status = stOk && !s.rowStream y c' then firstBad ((takeTile y c s).1.map (·.2)) else c'.status })))) ∧
  (∀ (q : Nat) (o : Owed) (r : List Owed), skidOut c.word = some q → c.owed = o :: r → o.upto ≤ c.donePos →
   (s.skid q).room →
   exec (.skidPush y num) s = .next (pump y num ((s.onSkid q (SkidQ.push o.addr o.len o.status)).onCtx y num (fun c => { c with
    owed := r, pushed := c.pushed + 1 }))))

/-- R29, R32, R36, R73, R98. -/
def Obligations.FencesAndReturns : Prop :=
 ∀ s : State, s.beating →
  (∀ (u : UnitId) (lost saved : Bool), exec (.faultFence u lost saved) s = .next (faultFenceUnit u lost saved s)) ∧
  (∀ (u : UnitId) (fault saved : Bool) (f : UnitId × Nat × Bool), s.units.fences.find? (fun f => f.1 == u) = some f →
   (fault ∨ f.2.2 ∨ s.copyRuns (· == .move u)) → exec (.fenceDataMoveComplete u fault saved) s = .next (finishFence u (fault || f.2.2) saved (s.onPlan (fun p => { p with
    bwork := p.bwork.filter (fun b => !(b.kind == .dataMove && b.obj == unitCode u.kind * 256 + u.index)) })))) ∧
  (s.units.relayDue → s.copyRuns (· == .relay) → ∃ v : State, exec .relayComplete s = .next (v.onUnits (fun k => { k with
   relayDue := false, returns := k.returns.map (fun r => (r.1, r.2.1, true)) })) ∧ v = relayAll s) ∧
  (∀ u : UnitId, s.units.returns.find? (fun r => r.1 == u) = some (u, true, true) → s.svc u = .returning →
   ∃ v : State, exec (.unitReturn u) s = .next (reviewModels (completeUnfences u stOk
     (bbAdd 0x11 1 (unitCode u.kind) u.index stOk (natLe 1 0) v))) ∧
    v.svc u = .inService ∧ (∀ x ∈ v.units.returns, x.1 ≠ u)) ∧
  (∀ u : UnitId, s.svc u = .returning → s.beat.part = .background → exec (.catchUpCalibration u) s = .next (s.onUnits (fun k => { k with
   returns := updAll k.returns (fun r => r.1 == u) (fun r => (r.1, true, r.2.2)) })))

/-- R46, R72, R590. -/
def Obligations.CalibrationRotation : Prop :=
 ∀ s : State,
  (∀ i, s.bgRuns (.stackCal i) → s.plan.bgDue.contains (.scrub i) = false →
   exec (.stackCalibration i) s = .next (bgDone (.stackCal i) s)) ∧
  (∀ l, s.bgRuns (.linkCal l) → exec (.linkCalibration l) s = .next (bgDone (.linkCal l) s)) ∧
  (∀ p, s.bgRuns (.cxlCal p) → exec (.cxlCalibration p) s = .next (bgDone (.cxlCal p) s)) ∧
  (∀ (vin iin pin : Nat) (l : List Nat), s.bgRuns .telemetry → exec (.telemetrySampling vin iin pin l) s =
   .next ((bgDone .telemetry s).onPower (fun p => { p with
    vin := BitVec.ofNat 16 vin, iin := BitVec.ofNat 16 iin, pinW := BitVec.ofNat 16 pin, tempMax := BitVec.ofNat 8 (l.foldl max 0) }))) ∧
  (∀ n, let u := bgTick n s
   u.units.calStack = (s.units.calStack + 1) % 16 ∧ u.units.calLink = (s.units.calLink + 1) % 24 ∧
   u.units.calCxl = (s.units.calCxl + 1) % 4 ∧ ∀ t, bgDone t u = u.onPlan (fun p => { p with bgDue := (s.bgTasks n).filter (fun x => decide (x ≠ t)) }))

/-- R362, R363, R364, R365. -/
def Obligations.ScrubAndRetire : Prop :=
 ∀ s : State, s.beating →
  (∀ (k : Nat) (ce : List Nat), k < 16 → s.bgRuns (.scrub k) →
   ∃ u : State, exec (.patrolScrub k ce []) s = .next u ∧
    u.scrubAt k = (s.scrubAt k + 0x1000000) % 0x1400000000 ∧
    (∀ i < 32, i ≠ k → u.scrubAt i = s.scrubAt i) ∧
    u.mem.dev = s.mem.dev ∧ u.mem.poisoned = s.mem.poisoned ∧ u.clusters = s.clusters ∧ u.units = s.units) ∧
  (∀ (i : Nat) (ce : List Nat), i < 16 → s.bgRuns (.lcScrub i) →
   ∃ u : State, exec (.lcPatrolScrub i ce []) s = .next u ∧
    u.scrubAt (16 + i) = (s.scrubAt (16 + i) + 0x400000) % 0x2800000 ∧
    (∀ j < 32, j ≠ 16 + i → u.scrubAt j = s.scrubAt j) ∧
    u.mem.dev = s.mem.dev ∧ u.mem.poisoned = s.mem.poisoned ∧ u.clusters = s.clusters ∧ u.units = s.units) ∧
  (∀ (r k : Nat), stackOfAddr (r * regionSize) = some k → 16 ≤ s.ceWords r → r ∉ s.power.cfg.retired →
   let u := bbAdd 0x31 2 0 0 stOk (natLe 8 (r * regionSize)) (s.onPower (fun p => saveCfg { p with
    cfg := { p.cfg with retired := p.cfg.retired ++ [r] } }))
   let v := moveRegion r u
   u.power.cfg.retired = s.power.cfg.retired ++ [r] ∧ u.mem.dev = s.mem.dev ∧
   exec (.regionRetire r) s = .next (if 64 < (v.power.cfg.retired.filter (fun q => stackOfAddr (q * regionSize) == some k)).length
    then fenceByFault ⟨.nmu, k⟩ v else v))

/-- R502, R506, R509, R511, R512, R515, R516, R518, R520, R521, R523, R524. -/
def Obligations.SafetyMonitor : Prop :=
 (∀ (m : Msg) (s : State) (ca cb : Channel), MsgReady 0x0611 (some 24) false m s → let a := s.taking 0x0611 m
  StopwordOk m ca cb a → Waits (.stopwordStart m) m s 0x0611 (m.f 0x14 1) none 0
   (addReservations (swResvs m a) (a.onCtrl (fun c => { c with slots := c.slots ++ [startedSlot m a] })))) ∧
 (∀ (m : Msg) (s : State), MsgReady 0x0612 (some 4) false m s → let a := s.taking 0x0612 m
  let k := m.f 0 1
  k ≤ 7 → m.z 1 3 → a.isSafety m.client →
  (a.swSlot k = none → Answers (.stopwordStop m) m s [] a) ∧
  (∀ q, a.swSlot k = some q → q.client = m.client → q.stopAt = none → q.started →
   Waits (.stopwordStop m) m s 0x0612 k none 0 (slotStopping k m a))) ∧
 (∀ (dom slot path : Nat) (w : List Byte) (st : Half) (s : State), slot < 8 → path < 2 →
  (s.safe.safetyDomain = 0xFF ∨ dom ≠ s.safe.safetyDomain.toNat →
   exec (.verdictWrite dom slot path w st) s = .next (s.onSafe (fun k => { k with foreign := satInc k.foreign }))) ∧
  (∀ (k : SwSlot) (q : SwPath), s.safe.safetyDomain ≠ 0xFF → dom = s.safe.safetyDomain.toNat → s.swSlot slot = some k → k.paths[path]? = some q →
   exec (.verdictWrite dom slot path w st) s = .next (verdictTaken slot path q w st s))) ∧
 (∀ (slot path : Nat) (s : State) (k : SwSlot) (q : SwPath), s.swSlot slot = some k → k.paths[path]? = some q →
  (∀ e, q.expect = some e → let s1 := s.onBeat (fun b => { b with clock := max b.clock q.deadline })
   exec (.verdictDeadline slot path) s = .next (if q.got < e.2 then assertHold 0x02 0 0 slot s1 else s1)) ∧
  exec (.verdictStarvation slot path) s =
   .next (if q.lastClear + s.starveLimit < s.beat.number.toNat then assertHold 0x02 0 0 slot s else s)) ∧
 (∀ (lo hi : Nat) (s : State),
  exec (.safeAckEdge lo hi) s = .next (if 20 ≤ lo ∧ 20 ≤ hi ∧ s.safe.hold ∧ s.causePresent = false ∧ s.allClear = true
   then releaseHold s else s)) ∧
 (∀ (chB lo hi : Bool) (s : State),
  (s.safe.hold → exec (.testPulse chB lo hi) s = .next s) ∧
  (s.safe.hold = false → s.beat.number.toNat % 1024 = (if chB then 512 else 0) → exec (.testPulse chB lo hi) s = .next (
   if lo = false ∧ hi = true then s.onSafe (fun k => { k with pulse := false, aLvl := true, bLvl := true })
   else assertHold 0x0E 0 0 0xFF (s.onSafe (fun k => { k with outFail := true }))))) ∧
 (∀ s : State, exec .tickLoss s = .next (assertHold 0x0B 0 0 0xFF (s.onSafe (fun k => { k with tickLost := true }))) ∧
  (s.power.failing = false → exec .refclkLoss s = .next (((moduleResetTo 0x02 (assertHold 0x0B 0 0 0xFF (s.onSafe (fun k => { k with
   refclkOk := false, hb := false })))).onPins (fun p => { p with refclkHold := true })).onSafe (fun k => { k with
   refclkOk := false, resetActive := true })))) ∧
 (∀ (sigs exps : List Word) (bad : Bool) (s : State), let r := match s.bootFrame with
   | some f => f / 4
   | none => s.beat.number.toNat % 24
  s.serves (blazeUnitOf r) → s.power.mode = .active → s.rot.dcpReady → (s.beat.ticked → s.beat.part = .window) →
  exec (.blazeFrame sigs exps bad) s = .next (blazeJudged r sigs exps bad s)) ∧
 (∀ (e : Option Engine) (t : Nat) (tests : List (Checker × Bool)) (s : State), s.rot.dcpReady →
  s.beat.ticked → s.beat.part = .kerf → (∀ u, e.bind engineUnit = some u → s.serves u) →
  exec (.selfTestSlice e t tests) s = .next (sliceRun e t tests s)) ∧
 (∀ (ok : Bool) (s : State), s.rot.dcpReady →
  exec (.lockstepTest ok) s = .next (checkerResult s.beat.tickTime .lockstep ok s)) ∧
 (∀ (t : Nat) (s : State), s.rot.dcpReady → (∀ c ∈ allCheckers, s.checkerIn c → s.latentAt t c → checkerUnit c ≠ none) →
  exec (.latentCheck t) s = .next (latentFound t s))

/-- R38, R40, R44, R49, R55, R64, R65, R76, R77, R413, R414, R606. -/
def Obligations.BeatRows : Prop :=
 (∀ (t : Nat) (s : State), s.tickDue t → let d := s.beat.tickAt t
  exec (.tick t) s = .next (tickNow (s.beat.numberAt d) d (s.beat.offsetOf d) s)) ∧
 (∀ (n t : Nat) (off : Int) (s : State), s.beat.topo = none → let u := tickBeat n t off s
  u.beat.number = BitVec.ofNat 64 n ∧ u.beat.tickTime = t ∧ u.beat.ticked ∧
  (s.beat.applyAt ≠ 0 → s.beat.applyAt.toNat ≤ n → u.beat.cur = s.beat.next ∧ u.beat.applyAt = 0) ∧
  (s.beat.applyAt = 0 ∨ n < s.beat.applyAt.toNat → u.beat.cur = s.beat.cur ∧ u.beat.applyAt = s.beat.applyAt)) ∧
 (∀ (t : Nat) (s : State), s.onBeatIn →
  exec (.beatInEdge t) s = .next (s.onBeat (beatInEdge t)) ∧ exec .beatInTimeout s = .next (s.onBeat beatInTimeout)) ∧
 (∀ (t : Nat) (s : State), exec (.beatEnable 0 t) s = .next (s.onBeat (enableAt t))) ∧
 (∀ (v : Dword) (s : State),
  exec (.beatApplyWrite 0 v) s = .next (if v = 0 ∨ s.beat.number.toNat + 1 < v.toNat ∧ s.beat.next.ok = true
   then s.onBeat (fun b => { b with applyAt := v, armedHoldMax := none }) else beatCfgErr s)) ∧
 (∀ (t d : Nat) (s : State), s.beating → s.beat.enable → s.beat.master → s.beat.dueAt = some d →
  exec (.markerSend t) s = .next (sendMarkers s.upLinks (Marker.mk (BitVec.ofNat 64 (s.beat.numberAt d)) (BitVec.ofNat 64 d)
   (BitVec.ofNat 64 t) s.links.moduleId 0 0) s)) ∧
 (∀ (l : Nat) (r : RxFrame) (t : Nat) (s : State), s.linkUp l →
  exec (.markerReceive l r t) s = .next (ctlTaken l r 9 0 (fun b u => let mk := markerOf b
   if u.beating = true ∧ u.beat.enable = true ∧ u.beat.master = false ∧ u.beat.markerSeen = false ∧ u.markerOk l mk = true
   then markerTake l mk t u else u) s)) ∧
 (∀ mk : Marker, mk.hops < 256 → markerOf (markerBody mk) = { mk with rsvd := 0 }) ∧
 (∀ s : State, s.beating → s.beat.enable → s.beat.master = false → s.beat.markerSeen = false → s.beat.ticked →
  s.beat.nextTick = none → exec .markerMissing s = .next (s.onBeat holdOver)) ∧
 (∀ s : State, s.beating → s.beat.ticked →
  (s.plan.next = none → exec .planCompose s = .next (compose s)) ∧
  ((∀ c ∈ s.plan.cur, c.over) → exec .execWindowEnd s = .next ((s.onBeat (fun b => { b with part := .background })).onPlan
   (fun p => { p with incomplete := [] }))) ∧
  ((∀ c ∈ s.plan.cur, c.run ≠ .running) →
   let u := (closeBackground (s.onBeat (fun b => { b with part := .kerf }))).onPlan (fun p => { p with incomplete := [] })
   let v := u.onBeat (fun b => { b with planMiss := true })
   (∀ n, s.plan.next = some n → n.1 = s.beat.number.toNat + 1 → exec .kerfStart s = .next u) ∧
   (s.plan.next = none → exec .kerfStart s = .next (warmResetTo 0x05 (bbAdd 0x71 2 0 0 stOk (natLe 8 v.beat.statusWord) v))))) ∧
 (∀ (e : Engine) (t : Nat) (s : State), s.engineUp e → s.beat.ticked → s.atRest e →
  let now := s.beat.sinceTick t
  let s1 := contextFree e (boundary e now (s.onBeat (fun b => { b with clock := max b.clock now })))
  (s.beat.part ≠ .window ∨ s.beat.cur.eTu ≤ now ∨ s1.nextCmd now e = none → exec (.commandStart e t) s = .next s1) ∧
  ∀ c, s.beat.part = .window → now < s.beat.cur.eTu → s1.nextCmd now e = some c → exec (.commandStart e t) s = .next (startCmd now c s1)) ∧
 (∀ (e : Engine) (s : State), s.engineUp e → s.engineBusy e →
  exec (.watchdogTrip e) s =
   .next (engineFault e (overrunNow (abandonCmds (fun c => c.t.engine == e && c.run == .running) stBeatOverrun 0x09 s))))

/-- R30, R267, R337, R343, R352, R366, R368, R370, R376, R562, R594, R605. -/
def Obligations.RegisterWrites : Prop :=
 (∀ (i y dom : Nat) (v : Dword) (s : State), i < 16 → y < 32 → let f := fun (o w : Nat) => bitsOf v.toNat o w
  let sum := f 0 10 + f 16 10 + f 32 10
  exec (.nmuShareWrite dom i v) s = .next (if dom ≠ 0 then refuseReg dom (0x30020 + i * 0x1000) s else s.onNmu i (fun k =>
   if 1000 < sum then { k with cfgErr := true } else { k with
    gemvPm := BitVec.ofNat 10 (f 0 10), attPm := BitVec.ofNat 10 (f 16 10), ifPm := BitVec.ofNat 10 (f 32 10) })) ∧
  exec (.yardOutstWrite dom y v) s = .next (if dom ≠ 0 then refuseReg dom (0x40020 + y * 0x1000) s else s.onYarder y (fun k =>
   if outOk (f 0 7) = false ∨ outOk (f 8 7) = false ∨ outOk (f 16 7) = false then { k with cfgErr := true } else { k with
    outD := BitVec.ofNat 7 (f 0 7), outI := BitVec.ofNat 7 (f 8 7), outB := BitVec.ofNat 7 (f 16 7) })) ∧
  exec (.yardSplitWrite dom v) s = .next (if dom ≠ 0 then refuseReg dom 0x60000 s else s.onYard (fun k =>
   if 1000 < sum then { k with splitErr := true } else { k with
    splitErr := w1c k.splitErr v.toNat 63, readPm := BitVec.ofNat 10 (f 0 10), writePm := BitVec.ofNat 10 (f 16 10), remotePm := BitVec.ofNat 10 (f 32 10) })) ∧
  exec (.lcPartWrite dom v) s = .next (if dom ≠ 0 then refuseReg dom 0x70000 s else s.onMem (fun m =>
   if 20 < f 0 5 then { m with lcCfgErr := true } else { m with
    lcCfgErr := w1c m.lcCfgErr v.toNat 8, winNext := some (BitVec.ofNat 5 (f 0 5)) })) ∧
  exec (.pwrCapWrite dom v) s = .next (if dom ≠ 0 then refuseReg dom 0xE0010 s
   else if capOk (f 0 16) = true then (writeCap (f 0 16) s).onPower (fun p => { p with capErr := w1c p.capErr v.toNat 32 })
   else s.onPower (fun p => { p with capErr := true })) ∧
  exec (.gpioCtrlWrite dom v) s = .next (if 1 < dom then refuseReg dom 0xF0000 s else s.onPins (fun p => { p with
   gpioOe := BitVec.ofNat 4 (f 4 4), gpioOut := BitVec.ofNat 4 (f 0 4) }))) ∧
 (∀ (region dom : Nat) (v : Half) (s : State), let n := v.toNat
  exec (.regionTagWrite dom region v) s = .next (if dom ≠ 0 then refuseReg dom (0x10000000 + 2 * region) s
   else if s.tagged region = false ∨ bitsOf n 14 2 = 3 then s.onMem (fun m => { m with violCfgErr := true })
   else if s.namesRegion region then s
   else s.onMem (fun m => { m with lines := m.lines.filter (fun l => decide (l.line * 256 / regionSize ≠ region))
                                   tags := kset m.tags region (mkTag (bitsOf n 14 2) (bitsOf n 13 1) (bitsOf n 0 6)) }))) ∧
 (∀ (dom o : Nat) (v : Dword) (s : State), o < 0x100000000 → (s.regAt o).isSome → ¬(0xC1000 ≤ o ∧ o < 0xC1200) →
  exec (.registerWrite dom (ctrlBase + o) v) s = .next (if mayWrite dom o then regEffect o v s else refuseReg dom o s)) ∧
 (∀ (core addr : Nat) (write : Bool) (s : State), core < 16 → s.coresUp → s.coreMay addr = false →
  exec (.accessFault core addr write) s = .next (coreFault addr write s)) ∧
 (∀ (n : Nat) (s : State), n < 18 → s.coresUp →
  exec (.errorInterrupt n) s = .next (s.onCtrl (fun k => { k with irqs := k.irqs ++ [{ addr := n, data := 0, kind := 2 }] })))

/-- R535, R536, R539, R553, R554, R564, R565, R567, R571, R576, R581, R590. -/
def Obligations.PowerBootAndResets : Prop :=
 (∀ (vin : Nat) (s : State), let a := s.onPower (fun p => { p with vin := BitVec.ofNat 16 vin })
  (s.power.mode = .off → 50000 ≤ vin → vin < 65536 → s.power.statusOff = false →
   exec (.powerUp vin) s = .next (fullReset 0 (if s.power.failing then s.power.rstCause.toNat else 1) a)) ∧
  (s.power.mode ≠ .off → exec (.powerUp vin) s = .next a)) ∧
 (∀ (vin pin : Nat) (s : State), s.power.mode ≠ .off →
  (vin < 46000 → exec (.powerFail vin pin) s = .next ((powerFailSeq 0x0E vin pin s).onPower (fun p => { p with
   statusInputBits := p.statusInputBits ||| 0x18 }))) ∧
  exec (.protectiveShed vin pin) s = .next ((powerFailSeq 0x0D vin pin s).onPower (fun p => { p with
   statusInputBits := p.statusInputBits ||| (if 62000 < vin then 0x80 else 0x04) })) ∧
  (s.powered → 46000 ≤ vin → vin < 50000 → exec (.vinBrownout vin) s = .next (s.onPower (fun p => { p with
   vin := BitVec.ofNat 16 vin, vinLow := true, statusInputBits := p.statusInputBits ||| 0x20 })))) ∧
 (∀ (cause vin pin : Nat) (s : State), let u := powerFailSeq cause vin pin s
  u.power.mode = .off ∧ u.power.failing ∧ u.safe.hold ∧ u.safe.aLvl = false ∧ u.safe.bLvl = false ∧
  u.rot.released = false ∧ u.rot.uds = s.rot.uds ∧ u.rot.imgs = s.rot.imgs ∧ u.plan.cur = []) ∧
 (∀ (temps : List Nat) (s : State), let hot := temps.foldl max 0
  let a := s.onPower (fun p => { p with tempMax := BitVec.ofNat 8 (min 255 hot) })
  (s.powered → 110 ≤ hot → exec (.thermalCapStep temps) s =
   .next ((powerFailSeq 0x0D s.power.vin.toNat s.power.pinW.toNat a).onPower (fun p => { p with statusTempBits := p.statusTempBits ||| 0x80 }))) ∧
  (s.beating → s.powered → s.beat.enable → hot < 110 → exec (.thermalCapStep temps) s = .next (thermalStep hot a))) ∧
 (∀ (w : Nat) (s : State), s.beating →
  let n := if s.power.modelW.toNat * 11 < w * 10 then s.power.highBeats + 1 else 0
  n ≠ 8 → exec (.modelHigh w) s = .next (s.onPower (fun p => { p with
   pinW := BitVec.ofNat 16 w, highBeats := n, modelHigh := p.modelHigh || decide (8 ≤ n) }))) ∧
 (∀ s : State, s.power.mode ≠ .off → exec .bbCommit s =
  .next (bbCommitAll (if s.beat.ticked then s else s.onPower (fun p => { p with timeUs := p.timeUs + 1000 })))) ∧
 (∀ (l : List (Nat × Nat)) (s : State), s.rot.dcpReady → s.powered → exec (.norRefresh l) s =
  .next ((((l.filter (fun c => decide (2 < c.2))).map (·.1)).foldl (fun (s : State) (b : Nat) => refreshBlock b s) s).onPower (fun p => { p with
   nor := { p.nor with lastRefresh := p.timeUs } }))) ∧
 (∀ (n cause : Nat) (s : State), s.canReset →
  exec (.mrstNPulse n) s = .next (if 10000 ≤ n then moduleResetTo 0x02 s else s) ∧
  (cause = 0x02 ∨ cause = 0x03 → exec (.moduleReset cause) s = .next (moduleResetTo cause s)) ∧
  (cause ∈ warmCauses → exec (.warmReset cause) s = .next (warmResetTo cause s)) ∧
  (cause = 0x03 ∨ cause = 0x08 ∨ cause = 0x09 → exec (.computeReset cause) s = .next (computeResetTo cause s))) ∧
 (∀ (ms : Nat) (s : State), 10 ≤ ms → exec (.refclkWithinLimits ms) s = .next ((s.onPins (fun p => { p with refclkHold := false })).onSafe (fun k => { k with
  refclkOk := true, resetActive := if s.pins.refclkHold then false else k.resetActive }))) ∧
 (∀ (cxl : List (Nat × Nat × Nat × Nat)) (s : State), s.rot.released → s.rot.dcpReady = false → s.rot.recovery = false →
  s.pins.refclkHold = false → s.power.mode = .active →
  exec (.boot false cxl) s = .next (enterRecovery 0 stIntegrityFail s) ∧
  ∃ u : State, u.rot.idPriv = identityOf s.rot.uds ∧ u.rot.uds = s.rot.uds ∧ let v := bootTypes 6 1 u
   exec (.boot true cxl) s = .next (if v.rot.recovery then v else
    cxl.foldl (fun (s : State) (p : Nat × Nat × Nat × Nat) => trainCxl p s) (v.onRot (fun r => { r with dcpReady := true })))) ∧
 (∀ s : State, s.rot.released → s.rot.dcpReady = false → (∃ i ∈ s.rot.imgs, i.trial) →
  exec .trialTimeout s = .next (warmRun 0x0B s))

/-- R557, R558, R560, R562, R567, R579, R582. -/
def Obligations.PmbusRows : Prop :=
 (∀ p ∈ ([(Instr.statusWord, fun s => natLe 2 s.power.pmStatus), (Instr.statusInput, fun s => [s.power.statusInputBits]),
   (Instr.statusTemperature, fun s => [s.power.statusTempBits]), (Instr.readVin, fun s => natLe 2 (linear11 0 s.power.vin.toNat 1000)),
   (Instr.readIin, fun s => natLe 2 (linear11 1 s.power.iin.toNat 100)), (Instr.readPin, fun s => natLe 2 (linear11 2 s.power.pinW.toNat 1)),
   (Instr.readTemperature1, fun s => natLe 2 (linear11 3 s.power.tempMax.toNat 1)), (Instr.pmbusRevision, fun _ => [0x33]),
   (Instr.mfrPowerCap none, fun s => natLe 2 s.power.effective.toNat)] : List (Instr × (State → List Byte))),
  ∀ s : State, s.island → exec p.1 s = .next (s.onPower (fun k => { k with pmbusOut := p.2 s }))) ∧
 (∀ s : State, s.island →
  exec .clearFaults s = .next (s.onPower (fun p => { p with statusInputBits := 0, statusTempBits := 0, statusCml := false })) ∧
  (∀ code : Byte, code.toNat ∉ [0x01, 0x03, 0x79, 0x7C, 0x7D, 0x88, 0x89, 0x97, 0x8D, 0x98, 0xD0, 0xD1, 0xD2, 0xD3] →
   exec (.pmbusUnsupported code) s = .next (s.onPower (fun p => { p with statusCml := true, pmbusOut := [] }))) ∧
  (∀ w : Nat, w < 65536 → exec (.mfrPowerCap (some w)) s = .next (writeCap w s)) ∧
  (∀ off : Nat, exec (.mfrBbRead off) s = .next (s.onPower (fun p => if off + 32 ≤ 0x1000000
   then { p with pmbusOut := MemOps.readN s.bb.mram off 32 } else { p with statusCml := true, pmbusOut := [] })))) ∧
 (∀ s : State, s.island → s.canReset → exec .mfrResetWarm s = .next (warmResetTo 0x03 s) ∧
  exec .mfrResetModule s = .next (moduleResetTo 0x03 s) ∧ exec .mfrResetCompute s = .next (computeResetTo 0x03 s)) ∧
 (∀ s : State, s.island → let a := s.onPower (fun p => { p with refusedState := false })
  (s.power.mode = .active →
   exec .powerStateActive s = .next (a.onPower (fun p => { p with wanted := none })) ∧
   ∀ p ∈ [(Instr.powerStateStandby, PwrMode.standby), (Instr.powerStateSleep, PwrMode.sleep)], exec p.1 s = .next (a.onPower (fun k =>
    if s.mustStay then { k with refusedState := true } else { k with wanted := some p.2 }))) ∧
  (s.power.mode = .standby → exec .powerStateActive s = .next (leaveStandby a) ∧ exec .powerStateSleep s = .next (enterSleep a)) ∧
  (s.power.mode = .sleep → exec .powerStateActive s = .next (warmResetTo 0x0C (stateRec 3 0 a)))) ∧
 (∀ s : State, s.island →
  (s.power.mode ≠ .off → exec .operationOff s = .next ((powerFailSeq 0x0F s.power.vin.toNat s.power.pinW.toNat s).onPower (fun p => { p with
   statusOff := true }))) ∧
  (s.power.mode = .off → 50000 ≤ s.power.vin.toNat → exec .operationOn s =
   .next (fullReset 0 (if s.power.failing then s.power.rstCause.toNat else 1) (s.onPower (fun p => { p with statusOff := false })))))

/-- R531, R538, R539, R540, R541, R544, R545, R546, R548, R549, R551. -/
def Obligations.RootOfTrustRows : Prop :=
 (∀ s : State, s.rotUp → exec (.getCerts []) s = .next (rotReply stOk s.chain s) ∧
  exec (.stageAbort []) s = .next (rotReply stOk [] (s.onRot (fun r => { r with staging := none }))) ∧
  exec (.debugChallenge []) s = .next (rotReply stOk (s.rand 16).1 ((s.rand 16).2.onRot (fun k => { k with challenge := some (s.rand 16).1 }))) ∧
  ∀ p ∈ [Instr.getCerts, Instr.stageEnd, Instr.stageAbort, Instr.debugChallenge], ∀ w : List Byte, w ≠ [] →
   exec (p w) s = .next (rotReply stBadLength [] s)) ∧
 (∀ (w : List Byte) (s : State), s.rotUp → w.length = 32 → let m := s.report w
  exec (.attest w) s = .next (rotReply stOk (m ++ (identitySign m s).1) (identitySign m s).2)) ∧
 (∀ (w : List Byte) (s : State), s.rotUp → w.length = 5 → let t := fld w 0 1
  1 ≤ t → t ≤ 6 → fld w 1 4 ≠ 0 → s.rot.staging = none → s.rot.anyTrial = false →
  exec (.stageBegin w) s = .next (rotReply stOk [] (s.onRot (fun r => { r.onImg t (fun i => { setTrialSlot none i with pending := false }) with
   staging := some { type := t, total := fld w 1 4, data := [], have_ := [] } })))) ∧
 (∀ (w : List Byte) (s : State) (g : Staging), s.rotUp → 5 ≤ w.length → w.length ≤ 228 → s.rot.staging = some g →
  fld w 0 4 + (w.length - 4) ≤ g.total → fld w 0 4 + (w.length - 4) ≤ slotBytes g.type →
  exec (.stageData w) s = .next (rotReply stOk [] (s.onRot (fun r => { r with staging := some { g with
   data := MemOps.writeN g.data (fld w 0 4) (w.drop 4), have_ := insertBy (·.1) (fld w 0 4, (w.drop 4).length) g.have_ } })))) ∧
 (∀ (s : State) (g : Staging), s.rotUp → s.rot.staging = some g → g.total ≤ covered g.have_ →
  exec (.stageEnd []) s = .next (stagedImage g s)) ∧
 (∀ (w : List Byte) (s : State), s.rotUp → w.length = 1 → let t := fld w 0 1
  1 ≤ t → t ≤ 6 → exec (.commit w) s = .next (rotReply stOk [] (if (s.rot.img t).trial then committed t s else s))) ∧
 (∀ (w : List Byte) (s : State) (k : CustKey), s.rotUp → w.length = 129 → fld w 0 1 = 0 → s.rot.cust[0]? = some k → k.hash = none →
  let key := (w.drop 1).take 64
  let a := s.onRot (fun r => { r with cust := r.cust.modify 0 (fun k => { k with hash := some (digestOf key) }) })
  let g := identitySign (natLe 8 s.rot.deviceId.toNat ++ natLe 1 0 ++ key) a
  exec (.keyEnroll w) s = .next (rotReply stOk g.1 g.2)) ∧
 (∀ (w : List Byte) (s : State) (k : CustKey) (h : BitVec 256), s.rotUp → w.length = 129 → fld w 0 1 = 0 → s.rot.cust[0]? = some k →
  k.hash = some h → exec (.keyEnroll w) s = .next (rotReply stRefusedDomain [] s)) ∧
 (∀ (w : List Byte) (s : State), s.rotUp → w.length = 224 →
  fld w 0 2 = 1 → fld w 2 2 < 8 → allZero w 4 4 →
  let a := s.onRot (fun k => { k with challenge := none })
  exec (.debugUnlock w) s = .next (if tokenOk w s then rotReply stOk [] (bbAdd 0x62 1 0 0 stOk (natLe 2 (fld w 2 2))
   (a.onRot (fun k => { k with debugPending := some (BitVec.ofNat 16 (fld w 2 2)) }))) else rotReply stIntegrityFail [] a)) ∧
 (∀ (off : Nat) (s : State), s.rotUp → off < 65536 → exec (.rotReplyRead off) s = .next (s.onRot (fun r => { r with
  smbusOut := ((natLe 2 r.replyStatus.toNat ++ natLe 2 r.reply.length ++ r.reply).drop off).take 240 }))) ∧
 (∀ (op : Byte) (s : State), s.rotUp → op.toNat ∉ [0x01, 0x02, 0x10, 0x11, 0x12, 0x13, 0x14, 0x20, 0x30, 0x31, 0x80] →
  exec (.rotReservedOperation op) s = .next (rotReply stBadFormat [] s)) ∧
 (∀ (e : List Byte) (s : State), s.rotUp →
  exec (.drbgReseed e) s = .next (s.onRot (fun r => { r with drbg := drbgReseed r.drbg e })))

/-- R382, R383, R336, R385, R386, R387, R390, R404. -/
def Obligations.LinkFrames : Prop :=
 (∀ (l : Nat) (s : State), s.linkUp l → exec (.frameEgress l) s = .next (frameOut l s) ∧
  (∀ (p : Nat) (q : EgressItem × List EgressItem), 1 ≤ p → p ≤ 3 → (∀ e ∈ (s.link l).egress, e.prio = 0 ∨ p ≤ e.prio) →
   takeFirst (fun (e : EgressItem) => e.prio == p) (s.link l).egress = some q → frameOut l s = sendItem l q.1 q.2 s) ∧
  ((∀ e ∈ (s.link l).egress, e.prio = 0 ∨ 4 ≤ e.prio) →
   (∀ q, takeFirst (fun (e : EgressItem) => e.prio == 4 && e.src == none) (s.link l).egress = some q → frameOut l s = sendItem l q.1 q.2 s) ∧
   (takeFirst (fun (e : EgressItem) => e.prio == 4 && e.src == none) (s.link l).egress = none →
    ∀ n ∈ s.egressNums l true, (∀ m ∈ s.egressNums l true, m ≠ n →
      s.urgBytes n * s.rateOf m < s.urgBytes m * s.rateOf n ∨ (s.urgBytes n * s.rateOf m = s.urgBytes m * s.rateOf n ∧ n < m)) →
     frameOut l s = sendNum l 4 n s))) ∧
 (∀ (l sp : Nat) (s : State), exec (.epochRollover l sp) s = .next (s.onLink l (fun k =>
  if k.txWrap.getD sp false then { k with txEpoch := k.txEpoch.modify sp (· + 1), txWrap := k.txWrap.set sp false } else k))) ∧
 (∀ c ∈ ([Instr.frameStream, Instr.frameWrite, Instr.frameRead, Instr.frameReadData, Instr.frameWriteDone] : List (Nat → RxFrame → Instr)),
  ∀ (l : Nat) (r : RxFrame) (s : State), s.linkUp l → exec (c l r) s = .next (frameTaken l r s))

/-- R378, R386, R387, R389, R400, R402, R403, R405, R415. -/
def Obligations.LinkControlAndBringUp : Prop :=
 (∀ (l : Nat) (r : RxFrame) (s : State), s.linkUp l →
  exec (.ack l r) s = .next (ctlTaken l r 8 1 (fun b u => u.onLink l (fun k => { k with
   sent := k.sent.filter (fun e => !decide ((BitVec.ofNat 32 (fld b 4 4) - e.fr.seq).toNat < 2 ^ 31)) })) s) ∧
  exec (.nak l r) s = .next (ctlTaken l r 8 2 (fun b u => countNak l (u.onLink l (fun k => { k with
   egress := k.egress.filter (fun e => !e.replayed) ++
    (k.sent.filter (fun e => decide ((e.fr.seq - BitVec.ofNat 32 (fld b 4 4)).toNat < 2 ^ 31))).map (fun e => EgressItem.mk 3 e.fr true none) }))) s)) ∧
 (∀ (l : Nat) (s : State), s.linkUp l → 0 < (s.link l).sinceAck → exec (.ackTimer l) s = .next (sendAck l s)) ∧
 (∀ (l t1 t2 t3 : Nat) (r : RxFrame) (s : State), s.linkUp l →
  exec (.delayReq l r t2 t3) s = .next (ctlTaken l r 8 3 (fun b u => queueCtl l 1 4 0 (fld b 8 8) t2 t3 u) s) ∧
  (s.bgRuns (.delay l) → exec (.linkDelayMeasurement l t1) s = .next (queueCtl l 1 3 0 t1 0 0
   ((bgDone (.delay l) s).onLink l (fun k => { k with delayT1 := t1 })))) ∧
  (∀ (head rest : List Byte) (cw : List Nat) (t4 : Nat), exec (.delayResp l head rest cw t4) s =
   .next (ctlTaken l (rxOf head rest cw) 8 4 (fun b u => if fld b 8 8 = (u.link l).delayT1 then u.onLink l (fun k => { k with
    oneWay := BitVec.ofInt 32 ((((t4 : Int) - (fld b 8 8 : Nat)) - ((fld b 0x18 8 : Nat) - (fld b 0x10 8 : Nat) : Int)) / 2) }) else u) s)) ∧
  exec (.corrupt l r) s = .next (ctlTaken l r 8 5 (fun _ u => fenceByFault ⟨.link, l⟩ u) s)) ∧
 (∀ (l : Nat) (s : State), (s.link l).up →
  exec (.laneLoss l) s = .next (fenceByFault ⟨.link, l⟩ (s.onLink l (fun k => { k with laneFail := true })))) ∧
 (∀ (l : Nat) (s : State), s.linkMay l → (s.link l).up = false → (s.link l).training →
  ∀ ok, exec (.linkTrainingComplete l ok) s = .next (if ok then makeHello l s
   else s.onLink l (fun k => { k with laneFail := true, training := false }))) ∧
 (∀ (l : Nat) (s : State), s.linkMay l → (s.link l).training → (s.link l).helloOut ≠ [] → (s.link l).keyedGot = false →
  exec (.helloRepeat l) s = .next (s.onLink l (fun k => { k with wire := k.wire ++ [helloFrame k.helloOut] }))) ∧
 (∀ (l : Nat) (r : RxFrame) (s : State), s.linkMay l →
  ((s.link l).training → (s.link l).helloOut ≠ [] → (s.link l).peerHello = none → rxBad r = false → helloOk r.fr →
   exec (.hello l r) s = .next (match helloSecret l r.fr (rxCounted l r s) with
    | some z => helloTaken l r.fr z (rxCounted l r s)
    | none => (rxCounted l r s).onLink l (fun k => { k with peerFail := true, training := false }))) ∧
  ((s.link l).up = false → (s.link l).keyedSent → exec (.keyed l r) s = .next (keyedTaken l r s))) ∧
 (∀ (l : Nat) (s : State), l < 24 →
  ∀ dom, let no := refuse 0x3C dom 2 true (dlkCtrl l) s
   exec (.dlkEnable dom l) s = .next (if dom = 0 then enableLink l s else no) ∧
   exec (.dlkRetrain dom l) s = .next (if dom = 0 then retrainLink l s else no))

/-- R420, R422, R423, R440, R441, R442, R491. -/
def Obligations.ChannelsLive : Prop :=
 (∀ (m : Msg) (s : State) (i : Nat), MsgReady 0x0601 (some 64) false m s → let a := s.taking 0x0601 m
  ChannelOpenOk m i a → Answers (.channelOpen m) m s (natLe 4 ((a.issue 1 i).handleOf 1 i)) ((a.issue 1 i).onAudio (fun k => { k with
   chans := insertBy (·.idx) (a.newChannel i m.client (fit 64 m.payload)) k.chans }))) ∧
 (∀ (m : Msg) (s : State) (c : Channel), MsgReady 0x0602 (some 4) false m s → let a := s.taking 0x0602 m
  let h := m.f 0 4
  a.live 1 h → a.owns m.client 1 h → a.chanNamed h = false → a.channel (hIdx h) = some c → c.closing = none →
  Waits (.channelClose m) m s 0x0602 h none 0 ((loseChannel 0 0 (hIdx h) a).onChannel (hIdx h) (fun c =>
   if c.isIn then { c with closing := some (m.client, m.mbox), closeAt := some (a.now + 2) }
   else mergeChange none (some false) none true [] a.now { c with closing := some (m.client, m.mbox) }))) ∧
 (∀ p ∈ ([(Instr.channelStart, 1, some true, none), (Instr.channelStop, 2, some false, none), (Instr.channelMute, 3, none, some true),
   (Instr.channelUnmute, 4, none, some false), (Instr.channelGain, 5, none, none)] : List ((Msg → Instr) × Nat × Option Bool × Option Bool)),
  ∀ (m : Msg) (s : State) (c : Channel), MsgReady 0x0603 (some 12) false m s → let a := s.taking 0x0603 m
   let h := m.f 0 4
   ChannelCtrlOk m p.2.1 c a →
   Waits (p.1 m) m s 0x0603 h none p.2.1 (a.onChannel (hIdx h) (mergeChange (if p.2.1 = 5 then some (BitVec.ofNat 32 (m.f 8 4)) else none)
    p.2.2.1 p.2.2.2 false [(m.client, m.mbox)] a.now))) ∧
 (∀ (i : Nat) (s : State) (c : Channel) (g : GainChange), s.channel i = some c → c.pendingCh = some g → g.due s.now →
  exec (.zeroCrossingApply i) s = .next (applyChange i s) ∧
  exec (.zcTimeout i) s = .next ((applyChange i s).onAudio (fun a => { a with zcTimeout := a.zcTimeout || decide (c.r 0x21 1 ≠ 0) }))) ∧
 (∀ (i : Nat) (s : State) (c : Channel), s.channel i = some c → s.beatOpen c →
  (c.isIn → s.queueTurn c → exec (.afeInputProcess i) s = .next (inputBeat i s)) ∧
  (c.isIn = false → exec (.afeOutputProcess i) s = .next (outputBeat i (c.net || (s.sap (c.r 2 1)).running) s)))

/-- R445, R446, R447, R448, R449, R451, R452, R482. -/
def Obligations.PortsAndGroups : Prop :=
 (∀ (m : Msg) (s : State), MsgReady 0x0108 (some 0x48) false m s → let a := s.taking 0x0108 m
  let g := m.f 0 1
  a.audio.Ok → PortgroupOk m a → ∃ u : State, Answers (.portgroupConfig m) m s (natLe 4 (u.handleOf 6 g)) u ∧ u.group g = groupOfMsg m ∧
   (∀ p ∈ pgSaps m, u.sap p = sapSet g (pgSap m p) (a.sap p)) ∧
   (∀ c ∈ pgPdms m, u.audio.pdms[c]? = (a.audio.pdms[c]?).map (pdmSet g (pgPdm m c)))) ∧
 (∀ (m : Msg) (s : State), MsgReady 0x0109 (some 4) false m s → let a := s.taking 0x0109 m
  let g := hIdx (m.f 0 4)
  a.hValid 6 (m.f 0 4) → m.sys → (a.group g).armedFrom = none → (a.group g).running = false →
  Waits (.portgroupArm m) m s 0x0109 (m.f 0 4) none 0 (a.onGroup g (fun k => { k with
   armedFrom := some (a.now + 2), armMsg := some (m.client, m.mbox) }))) ∧
 (∀ (t : Nat) (s : State), s.rot.dcpReady → ∃ u : State, exec (.trigInEdge t) s = .next u ∧
  u.audio.trigCount = s.audio.trigCount + 1 ∧ u.audio.chans = s.audio.chans ∧ u.audio.saps = (rejoinTrig true s).audio.saps ∧
  ∀ (g : Nat) (k : GroupSt), s.audio.groups[g]? = some k → u.audio.groups[g]? = some (match k.armedFrom with
   | some b => if k.trigIn ∧ k.trigAt = none ∧ b ≤ s.now then { k with trigAt := some t } else k
   | none => k)) ∧
 (∀ (g : Nat) (s : State), s.rot.dcpReady → (s.group g).trigAt.isSome → (s.group g).armedFrom.isSome →
  exec (.groupStart g) s = .next (startGroup g s)) ∧
 (∀ (p cause : Nat) (s : State), s.rot.dcpReady → (s.sap p).running → (cause = 2 → (s.sap p).master = false) →
  exec (.slip p cause) s = .next (slipSap p cause s)) ∧
 (∀ (p : Nat) (s : State), s.rot.dcpReady → (s.sap p).rearmed → (s.sap p).rejoinDue → s.serves ⟨.sap, p⟩ → ∃ u : State, exec (.slipRejoin p) s = .next u ∧
   u.audio.saps = s.audio.saps.modify p (fun k => { k with running := true, rearmed := false, rejoinDue := false, rx := [], tx := txFill k, primed := false, acc := 0 }) ∧
   u.audio.chans = s.audio.chans) ∧
 (∀ (g : Nat) (s : State), let k := s.group g
  s.rot.dcpReady → k.exists_ → k.slave → k.running →
  exec (.clkLost g) s = .next (((List.range 4).filter (fun p => k.saps.testBit p && (s.sap p).running)).foldl
   (fun (s : State) (p : Nat) => slipSap p 3 s) ((s.onSap k.refSap (fun p => { p with clkLost := true })).onAudio (fun a => { a with
    plls := a.plls.modify k.pll (fun l => { l with hold := true }) })))) ∧
 (∀ (g : Nat) (rx : PinFrames) (pdm : List (Nat × List Bool)) (s : State), let k := s.group g
  s.rot.dcpReady → k.exists_ → k.running →
  exec (.groupFrame g rx pdm) s = .next (((pdm.filter (fun q => decide (q.1 < 8) && k.pdms.testBit (q.1 / 2))).foldl
   (fun (s : State) (q : Nat × List Bool) => pdmLine q.1 q.2 s)
   (((List.range 4).filter (fun p => k.saps.testBit p)).foldl (fun (t : State) (p : Nat) => sapFrame p
     (if k.slave then (s.audio.plls.getD k.pll .reset).adj else 0) (if k.slave then rx.span else 2 ^ 32) ((kget rx.frames p).getD []) t) s)).onGroup g
    (fun k => { k with frame := k.frame + 1 }))) ∧
 (∀ (p span : Nat) (adj : Int) (frame : List Word) (s : State), p < s.audio.saps.length → (s.sap p).running →
  (64 ≤ (s.sap p).rx.length → sapFrame p adj span frame s = sapStopped p (slipSap p 0 s)) ∧
  ((s.sap p).rx.length < 64 → (s.sap p).tx = [] → sapFrame p adj span frame s = sapStopped p (slipSap p 1 s)) ∧
  ((s.sap p).rx.length < 64 → ∀ (t : List Word) (r : List (List Word)), (s.sap p).tx = t :: r →
   ((sapFrame p adj span frame s).sap p).pins = [t] ∧ ((sapFrame p adj span frame s).sap p).running ∧
   ((sapFrame p adj span frame s).sap p).rx.length ≤ 64 ∧ ((sapFrame p adj span frame s).sap p).tx.length ≤ max 64 r.length ∧
   ((s.sap p).acc + ((span : Int) + (span : Int) * adj / 2 ^ 32).toNat < 2 ^ 32 →
    ((sapFrame p adj span frame s).sap p).rx = (s.sap p).rx ++ [frame])))

/-- R470, R471, R473, R492, R497. -/
def Obligations.ClientMessages : Prop :=
 (∀ (m : Msg) (s : State) (i : Nat), MsgReady 0x0101 (some 4) false m s → let a := s.taking 0x0101 m
  let b := a.issue 7 i
  ClientCreateOk m i a → Answers (.clientCreate m) m s (natLe 4 (b.handleOf 7 i)) ((b.onBlock i (fun k => { k with
   bound := true, domain := BitVec.ofNat 6 (m.f 0 1), handle := BitVec.ofNat 32 (b.handleOf 7 i) })).onCtrl (fun k => { k with
   tallies := kset k.tallies i .zero }))) ∧
 (∀ (m : Msg) (s : State), MsgReady 0x0102 (some 4) false m s → let a := s.taking 0x0102 m
  ClientDestroyOk m a → Waits (.clientDestroy m) m s 0x0102 (m.f 0 4) none 0 ((shutClient (hIdx (m.f 0 4)) a).onCtrl (fun k => { k with
   closingClients := k.closingClients ++ [(hIdx (m.f 0 4), a.now + 2, m.client, m.mbox)] }))) ∧
 (∀ (m : Msg) (s : State), MsgReady 0x0110 (some 16) false m s → m.z 9 3 → let a := s.taking 0x0110 m
  let b := a.onCtrl (fun k => { k with telems := k.telems.filter (fun t => decide (t.client ≠ m.client)) })
  (m.f 0 8 = 0 → m.f 0xC 4 = 0 → Answers (.telemetryConfig m) m s [] b) ∧
  (m.f 0 8 ≠ 0 ∨ m.f 0xC 4 ≠ 0 → 6 ≤ m.f 8 1 → m.f 8 1 ≤ 16 → inCarve (m.f 0 8) (64 + 2 ^ m.f 8 1 * 64) →
   Answers (.telemetryConfig m) m s [] (startRing (m.f 0 8) (b.onCtrl (fun k => { k with telems := k.telems ++ [{
    client := m.client, ring := a.newRing (m.f 0 8) (m.f 8 1), mask := BitVec.ofNat 32 (m.f 0xC 4), events := [], ready := []
    lastWritten := none }] }))))) ∧
 (∀ (m : Msg) (s : State), MsgReady 0x0111 (some 4) false m s → let a := s.taking 0x0111 m
  FaultClearOk m a → Answers (.faultClear m) m s [] ((a.faultChans (m.f 0 4)).foldl (fun (s : State) (c : Nat) =>
   s.onChannel c (fun c => { c with faultStatus := none })) a))

/-- R29, R36, R41, R42, R43, R275, R411, R478, R479, R480, R481. -/
def Obligations.SystemMessages : Prop :=
 (∀ (m : Msg) (s : State), MsgReady 0x0103 (some 16) false m s → let a := s.taking 0x0103 m
  BeatConfigOk m a →
  (a.beat.chainModules = [] → Waits (.beatConfig m) m s 0x0103 0 (some (a.now + 4)) (a.now + 4)
   (armChange (cfgOf m) (BitVec.ofNat 4 (m.f 8 1)) (a.now + 4) a)) ∧
  (a.beat.chainModules ≠ [] → Waits (.beatConfig m) m s 0x0103 0 none (a.now + 4) (chainAsked m a))) ∧
 (∀ (m : Msg) (s : State), MsgReady 0x0104 (some 16) true m s → let a := s.taking 0x0104 m
  TopologyOk m a → Waits (.topology m) m s 0x0104 0 (some (m.f 0 8)) 0 (topoAsked m a)) ∧
 (∀ (v : Dword) (h : Nat) (s : State), s.beat.master = false → s.coresUp →
  let ok := (cfgOfReg v.toNat).ok && decide (1 ≤ h ∧ h ≤ 8) && s.changeFits (cfgOfReg v.toNat)
  exec (.chainChangeCheck v h) s = .next (s.onBeat (fun b => { b with
   answers := b.answers ++ [(b.chainMaster, ok)]
   change := if ok then some {
    client := 0, mbox := 16, cfg := cfgOfReg v.toNat, holdMax := BitVec.ofNat 4 h, received := s.now, waiting := [b.chainMaster] } else none }))) ∧
 (∀ (n : Nat) (s : State) (ch : ChainChange), s.beat.change = some ch → n ∈ ch.waiting →
  let rest := ch.waiting.filter (fun x => decide (x ≠ n))
  exec (.chainChangeAnswer n false) s =
   .next (completeOwned ch.client ch.mbox stRefusedBeat [] (s.onBeat (fun b => { b with change := none }))) ∧
  (rest ≠ [] → exec (.chainChangeAnswer n true) s = .next (s.onBeat (fun b => { b with change := some { ch with waiting := rest } }))) ∧
  (rest = [] → ∃ u : State, exec (.chainChangeAnswer n true) s = .next u ∧
   u.beat = { (armChange ch.cfg ch.holdMax (ch.received + 4) s).beat with change := none } ∧
   ∀ p ∈ u.ctrl.pend, p.client = ch.client → p.mbox = ch.mbox → p.doneBeat = some (ch.received + 4))) ∧
 (∀ (m : Msg) (s : State) (r : List (Nat × Nat)), MsgReady 0x0105 (some 16) false m s → let a := s.taking 0x0105 m
  PoolConfigOk m r a → Answers (.poolConfig m) m s [] (a.onPool (hIdx (m.f 0 4)) (fun p => { p with
   size2M := m.f 4 4, cxl2M := m.f 8 4, admitPm := m.f 0xC 2, evictPm := m.f 0xE 2, runs := r }))) ∧
 (∀ (m : Msg) (s : State), MsgReady 0x0106 (some 8) false m s → let a := s.taking 0x0106 m
  let u := unitOfMsg m
  FenceNames true m → (a.svc u ≠ .inService → Answers (.fence m) m s (zeros 8) a) ∧
   (FenceFits m a → Waits (.fence m) m s 0x0106 0 none (unitCode u.kind * 256 + u.index) (fenceAsked m a))) ∧
 (∀ (m : Msg) (s : State) (t : UnitTest), MsgReady 0x0107 (some 8) false m s → let a := s.taking 0x0107 m
  let u := unitOfMsg m
  FenceNames false m →
  (a.svc u = .inService → Answers (.unfence m t) m s (zeros 8) a) ∧
  (a.svc u = .returning → Waits (.unfence m t) m s 0x0107 0 none (unitCode u.kind * 256 + u.index) a) ∧
  (a.svc u = .fenced → (∀ f ∈ a.units.fences, f.1 ≠ u) →
   (testOk u t = true → Waits (.unfence m t) m s 0x0107 0 none (unitCode u.kind * 256 + u.index) (unfenceAsked u t a)) ∧
   (testOk u t = false → ∃ v : State, exec (.unfence m t) s = .next (completeUnfences u stIntegrityFail v) ∧ v.svc u = .fenced ∧
    (u.kind = .cxl → 600 < t.slowest → u.index < v.mem.cxl.length → (v.mem.cxl.getD u.index .down).latFail = true))))

/-- R16, R17, R341, R348, R351, R483, R484. -/
def Obligations.MemoryMessages : Prop :=
 (∀ (m : Msg) (s : State), MsgReady 0x0201 (some 8) false m s → let a := s.taking 0x0201 m
  let dom := a.domainOf m.client
  let n := m.f 4 4
  MemAllocNames m → (n = 0 → Answers (.memAlloc m) m s (zeros 8) a) ∧
  (∀ r, n ≠ 0 → MemAllocRun m r a → Answers (.memAlloc m) m s (natLe 8 (r * regionSize))
   ((assignRegions r n (mkTag (m.f 2 1) 0 dom) dom a).onMem (fun k => { k with runs := k.runs ++ [(r * regionSize, n, m.client)] })))) ∧
 (∀ (m : Msg) (s : State), MsgReady 0x0202 (some 16) false m s → m.z 0xC 4 → let a := s.taking 0x0202 m
  (m.f 8 4 = 0 → Answers (.memFree m) m s [] a) ∧
  (∀ r, m.f 8 4 ≠ 0 → m.f 0 8 % regionSize = 0 → a.runWith (m.f 0 8) (m.f 8 4) = some r → r.2.2 = m.client →
   Answers (.memFree m) m s [] ((releaseRegions (m.f 0 8 / regionSize) (m.f 8 4) a).onMem (fun k => { k with
    runs := k.runs.flatMap (fun q => if q == r then splitRun (m.f 0 8) (m.f 8 4) q else [q]) })))) ∧
 (∀ (m : Msg) (s : State), MsgReady 0x0203 (some 32) false m s → let a := s.taking 0x0203 m
  MemCopyOk m a → (m.f 0x10 8 = 0 → Answers (.memCopy m) m s [] a) ∧
   (m.f 0x10 8 ≠ 0 → Waits (.memCopy m) m s 0x0203 0 none 0 (msgWork m .memCopy 0 0 0 a))) ∧
 (∀ (c b : Nat) (st : Half) (s : State), (∃ w ∈ s.plan.bwork, w.kind = .memCopy ∧ w.client = c ∧ w.mbox = b) →
  let mine : BWork → Bool := fun w => w.kind == .memCopy && w.client == c && w.mbox == b
  let s1 := dropWork mine s
  s.copyRuns (DcpCopy.isFor mine) →
  (tableStatus st ≠ stOk → exec (.memCopyComplete c b st) s = .next (completeOwned c b (tableStatus st) [] s1)) ∧
  (∀ bx, st = stOk → s.box c b = some bx → fld bx.payload 0x18 1 = 0 →
   let src := fld bx.payload 0 8
   let dst := fld bx.payload 8 8
   let n := fld bx.payload 0x10 8
   s.rangePasses (s.domainOf c) false src n → s.rangePasses (s.domainOf c) true dst n → s.rangePoisoned src n = false →
   exec (.memCopyComplete c b st) s = .next (completeOwned c b stOk [] (copyMem src dst n s1))))

/-- R217, R228, R229, R230, R487, R488. -/
def Obligations.StateObjectMessages : Prop :=
 (∀ (m : Msg) (s : State) (i : Nat) (u : State) (x : Model), MsgReady 0x0401 (some 16) false m s → let a := s.taking 0x0401 m
  StateCreateOk m x a → newObj m.client (a.domainOf m.client) (hIdx (m.f 0 4)) (BitVec.ofNat 32 (m.f 4 4)) (m.f 8 1) (m.f 9 1)
   (m.f 0xA 1) (m.f 0xC 2) (m.f 0xB 1 == 1) a = some (i, u) →
  Answers (.stateCreate m) m s (natLe 4 (u.handleOf 3 i)) u) ∧
 (∀ (m : Msg) (s : State) (o : StateObj), MsgReady 0x0402 (some 8) false m s → let a := s.taking 0x0402 m
  let i := hIdx (m.f 0 4)
  NamesObj m o a → (m.f 4 4 = 1 → Answers (.stateDestroy m) m s [] (forceDestroy i a)) ∧
  (m.f 4 4 = 0 → o.swap = none → o.destroying = none → o.copies = 0 → o.owner = 0 →
   (a.pinned i = false → Answers (.stateDestroy m) m s [] (dropObj i a)) ∧
   (a.pinned i → Waits (.stateDestroy m) m s 0x0402 (m.f 0 4) none 0
    (a.onObj i (fun o => { o with destroying := some (m.client, m.mbox) }))))) ∧
 (∀ (i c b : Nat) (s : State) (o : StateObj), s.obj i = some o → o.destroying = some (c, b) → s.pinned i = false →
  exec (.pinnedDestroy i) s = .next (completeOwned c b stOk [] (dropObj i s))) ∧
 (∀ (m : Msg) (s : State) (o : StateObj), MsgReady 0x0404 (some 32) false m s → let a := s.taking 0x0404 m
  StateResetOk m o a → Answers (.stateReset m) m s [] (a.onObj (hIdx (m.f 0 4)) (fun o => { o with
   resets := o.resets ++ (resetSteps m).filter (fun x => !o.resets.contains x) }))) ∧
 (∀ (m : Msg) (s : State) (o : StateObj) (q : Nat × Nat), MsgReady 0x0405 (some 8) false m s → let a := s.taking 0x0405 m
  let i := hIdx (m.f 0 4)
  let dom := a.domainOf m.client
  NamesObj m o a → m.z 4 4 → o.swap = none → o.destroying = none → (a.nextIdx 3).isSome →
  a.anyStackRun dom o.regions = some q → Waits (.stateCopy m) m s 0x0405 (m.f 0 4) none 0 (msgWork m .stateCopy i (q.2 * regionSize) o.model
   ((holdObj (copyOwner m.client m.mbox) dom q.2 o.regions a).onObj i (fun o => { o with copies := o.copies + 1 })))) ∧
 (∀ (c b : Nat) (s : State) (w : BWork) (o : StateObj) (j : Nat),
  s.plan.bwork.find? (fun w => w.kind == .stateCopy && w.client == c && w.mbox == b && w.taken) = some w →
  s.obj w.obj = some o → s.nextIdx 3 = some j → s.copyRuns (DcpCopy.isFor w.same) → let head := MemOps.readN s.mem.dev w.arg 64
  let s1 := ((dropWork (· == w) s).onObj w.obj (fun o => { o with copies := o.copies - 1 })).issue 3 j
  let h := BitVec.ofNat 32 (s1.handleOf 3 j)
  exec (.stateCopyComplete c b) s = .next (completeOwned c b stOk (natLe 4 h.toNat) (syncObj j
   ((s1.onMem (fun k => { k with held := updAll k.held (fun q => q.2.2 == copyOwner c b) (fun q => (q.1, q.2.1, h)) })).onCtrl (fun k =>
    { k with objs := k.objs ++ [{ freshObj j c o.model 0 o.heads o.dk16 o.dv16 o.layers o.decayVec w.arg with
     step := fld head 0x18 8, invalid := if fld head 2 1 % 2 = 1 then some (BitVec.ofNat 16 (fld head 0x14 2)) else none }] })))))

/-- R222, R223, R224, R225, R227. -/
def Obligations.StateObjectSwaps : Prop :=
 (∀ (m : Msg) (s : State) (o : StateObj), MsgReady 0x0403 (some 8) false m s → let a := s.taking 0x0403 m
  let i := hIdx (m.f 0 4)
  let dom := a.domainOf m.client
  StateSwapOk m o a → (m.f 4 1 = tierOf o → Answers (.stateSwap m) m s (natLe 4 (m.f 0 4)) a) ∧
  (m.f 4 1 ≠ tierOf o → (tierOf o = 2 ∨ a.reservedObj i = false) → a.swaps < 64 →
   (m.f 4 1 = 3 → Waits (.stateSwap m) m s 0x0403 (m.f 0 4) none 0 (swapAsked m 0 a)) ∧
   (∀ q, m.f 4 1 ≠ 3 → (if m.f 4 1 = 1 then a.anyStackRun dom o.regions else a.anyPortRun dom o.regions) = some q →
    Waits (.stateSwap m) m s 0x0403 (m.f 0 4) none 0 (swapAsked m q.2 (holdObj (swapOwner i) dom q.2 o.regions a))))) ∧
 (∀ (i : Nat) (s : State), s.pinned i = false →
  exec (.swapCopyStart i) s = .next (s.onObj i (fun o => { o with swap := o.swap.map (fun w => { w with copying := true }) }))) ∧
 (∀ (i : Nat) (s : State), s.pinned i → exec (.swapCopyStart i) s = .next s) ∧
 (∀ (i : Nat) (h : Word) (s : State) (o : StateObj) (w : SwapSt), s.obj i = some o → o.swap = some w → w.copying → w.copied = none →
  exec (.swapCopyComplete i true h) s =
   .next (completeOwned w.client w.mbox stFenced [] ((releaseHeld (swapOwner i) s).onObj i (fun o => { o with swap := none }))) ∧
  (s.copyRuns (· == .swap i) → exec (.swapCopyComplete i false h) s = .next (s.onObj i (fun o => { o with
   swap := some { w with copied := some s.now, newHandle := if w.dest = 3 then h else w.newHandle } }))))

/-- R181, R189, R190, R192, R198, R294, R485, R486. -/
def Obligations.ModelMessages : Prop :=
 (∀ (m : Msg) (pkg : Package) (s : State) (place : Nat), MsgReady 0x0301 (some 8) true m s → let a := s.taking 0x0301 m
  ModelLoadOk m pkg place a → Waits (.modelLoad m pkg) m s 0x0301 0 none 0 (msgWork m .modelLoad a.loadIdx 0 a.loadIdx
   ((a.rand 16).2.onCtrl (fun k => { k with models := k.models ++ [loadingModel m pkg place a] })))) ∧
 (∀ (c b : Nat) (s : State) (w : BWork) (x : Model) (i : Nat),
  s.plan.bwork.find? (fun w => w.kind == .modelLoad && w.client == c && w.mbox == b) = some w → s.model w.obj = some x → s.nextIdx 4 = some i →
  s.copyRuns (DcpCopy.isFor w.same) →
  let s1 := (dropLoad w.obj (dropWork (· == w) s)).issue 4 i
  let owner := BitVec.ofNat 32 (s1.handleOf 4 i)
  let stks := s.stripeStks x.dom (s.svcList .nmu)
  (∀ q t, placeModel owner x.dom stks x.pkg s1 = some q → placeRotary owner x.dom stks x.pkg q.2 = some t →
   let y : Model := { x with
    idx := i, loaded := true, stripes := q.1, rotaryAt := t.1
    pkg := rebasePkg (match x.veBase with | [] => 0 | p :: _ => p.2.1) x.queues x.pkg }
   exec (.modelLoadComplete c b) s = .next (reviewModels (completeOwned c b stOk (natLe 4 owner.toNat) (relayAgain
    (setExp i (BitVec.ofNat 32 (s.handleOf 8 x.tset)) (writePrograms y (t.2.onCtrl (fun k => { k with models := k.models ++ [y] })))))))) ∧
  (placeModel owner x.dom stks x.pkg s1 = none →
   exec (.modelLoadComplete c b) s = .next (completeOwned c b stRefusedPages [] (dropLoad w.obj (dropWork (· == w) s))))) ∧
 (∀ (m : Msg) (s : State), MsgReady 0x0302 (some 4) false m s → let a := s.taking 0x0302 m
  let i := hIdx (m.f 0 4)
  a.live 4 (m.f 0 4) → a.owns m.client 4 (m.f 0 4) → a.unloading (m.f 0 4) = false → a.modelBusy i = false →
  Waits (.modelUnload m) m s 0x0302 (m.f 0 4) (some (a.now + 2)) 0 (dropWork (fun b => decide (b.model = i) && (b.kind == .reuse || b.kind == .snapshot))
   (a.onModel i (fun k => { k with unloading := some (a.now + 2) })))) ∧
 (∀ (m : Msg) (s : State) (x : Model), MsgReady 0x0303 (some 8) false m s → let a := s.taking 0x0303 m
  SetTablesOk m x a → Waits (.modelSetTables m) m s 0x0303 (m.f 0 4) (some (a.now + 2)) 0
   (a.onModel (hIdx (m.f 0 4)) (fun k => { k with nextTset := some (hIdx (m.f 4 4), a.now + 2) }))) ∧
 (∀ (m : Msg) (s : State) (i : Nat), MsgReady 0x0311 (some 0) true m s → let a := s.taking 0x0311 m
  let img := a.refRead m 0x10400
  let b := (a.issue 8 i).onCtrl (fun k => { k with tsets := k.tsets ++ [{ idx := i, client := m.client, image := img, destroying := none }] })
  let dom := a.domainOf m.client
  m.refLen = 0x10400 → RefOk m 0x10400 false a → tsetFail img = none → a.nextIdx 8 = some i → (placeStripe 0 dom none img a).isSome →
  ∀ q, placeStripe (BitVec.ofNat 32 (b.handleOf 8 i)) dom none img b = some q → Answers (.tsetCreate m) m s (natLe 4 (b.handleOf 8 i)) q.2) ∧
 (∀ (m : Msg) (s : State), MsgReady 0x0312 (some 4) false m s → let a := s.taking 0x0312 m
  let i := hIdx (m.f 0 4)
  a.live 8 (m.f 0 4) → a.owns m.client 8 (m.f 0 4) → a.tsetDoomed i = false →
  (a.tsetNamed i = false → Answers (.tsetDestroy m) m s [] (dropTset i a)) ∧
  (a.tsetNamed i → Waits (.tsetDestroy m) m s 0x0312 (m.f 0 4) none 0 (a.onCtrl (fun k => { k with
   tsets := updAll k.tsets (·.idx == i) (fun t => { t with destroying := some (m.client, m.mbox) }) })))) ∧
 (∀ (i : Nat) (s : State) (t : Tset) (w : Nat × Nat), s.tset i = some t → t.destroying = some w → s.tsetNamed i = false →
  exec (.tsetDestroyComplete i) s = .next (completeOwned w.1 w.2 stOk [] (dropTset i s)))

/-- R302, R474, R489, R490, R493. -/
def Obligations.SessionMessages : Prop :=
 (∀ (m : Msg) (s : State) (i : Nat), MsgReady 0x0501 (some 48) false m s → let a := s.taking 0x0501 m
  let b := a.issue 2 i
  let h := b.handleOf 2 i
  let own := fun (o : Nat) => setOwnerOf (BitVec.ofNat 32 (m.f o 4)) (BitVec.ofNat 32 h)
  SessionOpenOk m i a → Answers (.sessionOpen m) m s (natLe 4 h) (addReservations (openResvs m a) (startRing (m.f 0x28 8)
   (own 4 (own 0x14 (own 0x1C (b.onCtrl (fun k => { k with sessions := k.sessions ++ [openedSession m i a] })))))))) ∧
 (∀ (m : Msg) (s : State) (x : Session), MsgReady 0x0502 (some 4) false m s → let a := s.taking 0x0502 m
  let h := m.f 0 4
  NamesSession m x a → x.closing = none → Waits (.sessionClose m) m s 0x0502 h (some (a.now + 2)) 0
   ((releaseSession x (BitVec.ofNat 32 h) a).onSession (hIdx h) (fun y => { y with left := 0, closing := some (a.now + 2) }))) ∧
 (∀ (m : Msg) (s : State) (x : Session) (k : Model) (i : Nat), MsgReady 0x0506 (some 24) false m s → let a := s.taking 0x0506 m
  let b := a.issue 2 i
  let h := b.handleOf 2 i
  SessionForkOk m x k i a → Answers (.sessionFork m) m s (natLe 4 h) (startRing (m.f 0x10 8) (setOwnerOf (BitVec.ofNat 32 (m.f 8 4)) (BitVec.ofNat 32 h)
   (((x.pages.take (cdiv (m.f 4 4) 64)).foldl (fun (s : State) (f : Nat) => s.onSet f (fun y => { y with refs := y.refs + 1 })) b).onCtrl (fun q =>
    { q with sessions := q.sessions ++ [forkedSession m x i a] }))))) ∧
 (∀ (m : Msg) (s : State) (x : Session), MsgReady 0x0507 (some 16) true m s → let a := s.taking 0x0507 m
  SessionQueryOk m x a → Answers (.sessionQuery m) m s
   (natLe 1 x.state ++ natLe 1 (lenBucket x.positions) ++ zeros 2 ++ natLe 4 x.positions ++ natLe 4 x.holds ++ zeros 4)
   (refWrite m ((List.range (m.f 8 4)).flatMap (fun i => a.pageRow x (a.layersOf x) (m.f 4 4 + i))) a))

/-- R16, R17, R57, R291, R297, R299, R490. -/
def Obligations.DecodingMessages : Prop :=
 (∀ (m : Msg) (s : State) (x : Session) (k : Model), MsgReady 0x0503 (some (prefillPlen m)) true m s → let a := s.taking 0x0503 m
  PrefillOk m x k a → (m.f 8 4 = 0 → Answers (.prefill m) m s (zeros 4) a) ∧
  (m.f 8 4 ≠ 0 → a.inCxl x = false → MayWork x k a → (a.template k .prefill).isSome → a.chainFits k.pkg.prefillChain →
   a.aboveAdmit → Waits (.prefill m) m s 0x0503 (m.f 0 4) none 0 (startPrefill m x k (a.prefillIds m) a))) ∧
 (∀ (m : Msg) (s : State) (x : Session), MsgReady 0x0504 (some 8) false m s → let a := s.taking 0x0504 m
  let r := a.newResv m.client (BitVec.ofNat 32 (m.f 0 4)) .I .decode x.model (a.domainOf m.client) 0
  NamesSession m x a → (m.f 4 4 = 0 → Answers (.decodeStart m) m s [] a) ∧
  (∀ k : Model, m.f 4 4 ≠ 0 → a.inCxl x = false → x.positions < x.maxCtx → MayWork x k a → a.resident x.rstate →
   a.admits [r] → (x.pages ≠ [] ∨ a.aboveAdmit) → Answers (.decodeStart m) m s []
    (addReservations [r] (a.onSession (hIdx (m.f 0 4)) (fun y => { y with state := 2, left := m.f 4 4, lastActive := a.now }))))) ∧
 (∀ p ∈ ([(0x0503, Instr.prefill, prefillPlen, true, 8), (0x0504, Instr.decodeStart, fun _ => 8, false, 4)] :
   List (Nat × (Msg → Instr) × (Msg → Nat) × Bool × Nat)),
  ∀ (m : Msg) (s : State) (x : Session), MsgReady p.1 (some (p.2.2.1 m)) p.2.2.2.1 m s → let a := s.taking p.1 m
  let i := hIdx (m.f 0 4)
  NamesSession m x a → m.f p.2.2.2.2 4 ≠ 0 → a.inCxl x → ((∃ b ∈ a.plan.bwork, b.kind = .pageBack ∧ b.obj = i) ∨ a.backFits x) →
  Waits (p.2.1 m) m s p.1 (m.f 0 4) none 0 (msgWork m .pageBack i p.1 x.model a)) ∧
 (∀ (m : Msg) (s : State) (x : Session), MsgReady 0x0505 (some 4) false m s → let a := s.taking 0x0505 m
  let i := hIdx (m.f 0 4)
  NamesSession m x a → Answers (.decodeStop m) m s [] (if x.state = 2 ∨ x.state = 4 then
   (releaseDecode i a).onSession i (fun y => { y with state := 1, left := 0 }) else a))

/-- R290, R291, R298, R490. -/
def Obligations.SessionEvents : Prop :=
 (∀ (i : Nat) (st : Half) (s : State) (x : Session) (b : BWork) (p : Nat × Nat × Nat × Bool), s.session i = some x →
  s.plan.bwork.find? (fun b => b.kind == .prefill && decide (b.obj = i)) = some b → x.prefill = some p →
  ∃ u : State, exec (.prefillComplete i st) s = .next u ∧ u.plan.bwork = (s.plan.bwork.filter (fun q => !(q == b))) ∧
   (∀ y ∈ u.ctrl.sessions, y.idx = i → y.positions = p.1 + p.2.1 ∧ y.lastStatus = tableStatus st) ∧
   (∀ q ∈ u.ctrl.pend, q.client = b.client → q.mbox = b.mbox →
    q.doneBeat = some (s.now + 1) ∧ q.arg = (tableStatus st).toNat + 65536 * b2n p.2.2.2)) ∧
 (∀ (n : Nat) (s : State), let mine : BWork → Bool := fun b => b.kind == .snapshot && decide (b.obj = n)
  s.copyRuns (DcpCopy.isFor mine) → exec (.reusePointReady n) s = .next (s.onPlan (fun k => { k with
   bwork := updAll k.bwork mine (fun b => { b with taken := true }) }))) ∧
 (∀ (i p f : Nat) (s : State) (x : Session), s.session i = some x → x.pages[p]? = some f →
  let mine : BWork → Bool := fun b => b.kind == .pageMove && decide (b.obj = i ∧ b.arg = f)
  s.copyRuns (DcpCopy.isFor mine) → exec (.pageMoveComplete i p) s = .next (s.onPlan (fun k => { k with
   bwork := updAll k.bwork mine (fun b => { b with taken := true }) }))) ∧
 (∀ (i : Nat) (s : State) (x : Session), s.session i = some x →
  let hit := s.plan.bwork.filter (fun b => b.kind == .pageBack && decide (b.obj = i))
  let s0 := dropWork (fun b => b.kind == .pageBack && decide (b.obj = i)) s
  hit ≠ [] → s.copyRuns (DcpCopy.isFor (fun b => b.kind == .pageBack && decide (b.obj = i))) → exec (.pageMoveBackComplete i) s = .next (match backPages x s0 with
   | none => hit.foldl (fun (s : State) (b : BWork) => completeOwned b.client b.mbox stRefusedPages [] s) s0
   | some s1 => hit.foldl (fun (s : State) (b : BWork) => checkNow b s) s1))

/-- R67, R462, R466, R494, R496, R497, R498. -/
def Obligations.RecordsToClients : Prop :=
 (∀ (i : Nat) (tok : Word) (s : State) (x : Session), let h := BitVec.ofNat 32 (s.handleOf 2 i)
  s.session i = some x → (∃ c ∈ s.plan.cur, c.kind = .decode ∧ c.obj = h) → x.recBeat ≠ some s.now → s.stepStatus h = stOk →
  x.left ≠ 1 → x.faulted = none → s.stateGone x = false →
  let s1 := writeToken i (natLe 4 tok.toNat ++ natLe 2 stOk.toNat ++ natLe 2 0 ++ natLe 4 x.positions ++ natLe 4 s.now) s
  let s2 := match x.pages[x.positions / 64]? with
   | some f => s1.onSet f (fun y => { y with fill := x.positions % 64 + 1 })
   | none => s1
  exec (.tokenRecordWrite i tok stOk) s = .next (s2.onSession i (fun y => { y with
   positions := y.positions + 1, ids := y.ids.take y.positions ++ [tok], left := y.left - 1, lastStatus := stOk, lastActive := s.now
   recBeat := some s.now, state := y.state }))) ∧
 (∀ (i : Nat) (s : State) (x : Session), s.session i = some x → x.ring.valid → (∃ y ∈ s.ctrl.sessions, y.client = x.client ∧
   y.recBeat = some s.now ∧ y.ring.valid) →
  ∀ rec_ : List Byte, writeToken i rec_ s = ((carveWrite x.ring.addr (natLe 4 (x.ring.wr + 1).toNat)
   (carveWrite (x.ring.addr + 0x40 + x.ring.wr.toNat % 2 ^ x.ring.sizeLog2 * 16) rec_ s)).onSession i (fun y => { y with
    ring := { y.ring with wr := y.ring.wr + 1 }, recBeat := some s.now })).onBlock x.client (fun b => { b with token := true })) ∧
 (∀ (c : Nat) (s : State) (t : Telem), s.ctrl.telems.find? (·.client == c) = some t → t.ready ≠ [] →
  let r := t.ring
  let n := min (if r.valid then 2 ^ r.sizeLog2 - r.unread else 0) t.ready.length
  ∃ u : State, exec (.telemetryWrite c) s = .next u ∧ ∀ q ∈ u.ctrl.telems, q.client = c → q.ready = [] ∧ q.lastWritten = some s.now ∧
   q.ring.wr = r.wr + BitVec.ofNat 32 n ∧ q.ring.holds = r.holds + BitVec.ofNat 32 (t.ready.length - n)) ∧
 (∀ (c b : Nat) (s : State), s.boxOwned c b →
  exec (.mailboxWriteDrop c b) s = .next (s.onBlock c (fun k => { k with wrDrop := true }))) ∧
 (∀ (op : Half) (m : Msg) (s : State), let n := { m with plen := min m.plen 4032 }
  op.toNat ∉ knownOps → MsgReady op.toNat none true n s → exec (.mailboxReservedOpcode op m) s =
   .next ((complete m.client m.mbox stBadFormat [] (s.taking op.toNat n)).onBox m.client m.mbox (fun b => { b with plen := m.plen })))

/-- R168. -/
def Obligations.LaneTreeDisabled : Prop :=
 ∀ (en : Nat → Bool) (v : List Word), v.length = 1024 →
  let put := fun (w : Word) => v.zipIdx.map (fun p => if en p.2 then p.1 else w)
  laneSum en v = laneSum (fun _ => true) (put 0) ∧
  laneMax en v = laneMax (fun _ => true) (put 0xFF800000) ∧
  laneMin en v = laneMin (fun _ => true) (put 0x7F800000) ∧
  (∀ w : Word, laneArgMax en v = laneArgMax en (put w)) ∧
  ((∀ i < 1024, en i = false) → laneArgMax en v = 0xFFFFFFFF)

/-- R306, R327, R332. -/
def Obligations.SkidQueueOrder : Prop :=
 ∀ (q : SkidQ) (addr len n : Nat) (st : Half),
  (q.entries.length < skidCap → ∃ e : SkidEntry, (SkidQ.push addr len st q).entries = q.entries ++ [e] ∧
   e.addr = addr % 2 ^ 60 ∧ e.len = len % 2 ^ 32 ∧ e.status = st) ∧
  (skidCap ≤ q.entries.length → (SkidQ.push addr len st q).entries = q.entries) ∧
  (q.late = [] → (SkidQ.pop n q).entries = q.entries.drop n) ∧
  (q.entries.length ≤ skidCap → ∃ new : List SkidEntry, (SkidQ.pop n q).entries = q.entries.drop n ++ new ∧
   new.length + (SkidQ.pop n q).late.length = q.late.length ∧ (SkidQ.pop n q).entries.length ≤ skidCap ∧
   ((SkidQ.pop n q).late = [] ∨ (SkidQ.pop n q).entries.length = skidCap)) ∧
  (SkidQ.place addr st q).entries.length + (SkidQ.place addr st q).late.length = q.entries.length + q.late.length + 1

/-- R440, R441. -/
def Obligations.PendingChangeMerges : Prop :=
 ∀ (c : Channel) (g1 g2 : Option Word) (r1 r2 m1 m2 : Option Bool) (x1 x2 : Bool) (q1 q2 : List (Nat × Nat)) (n1 n2 : Nat),
  c.pendingCh = none →
  let d := mergeChange g2 r2 m2 x2 q2 n2 (mergeChange g1 r1 m1 x1 q1 n1 c)
  (∃ g : GainChange, d.pendingCh = some g ∧ g.beat = n1 + 2 ∧ g.s0 = none ∧ g.clients = q1 ++ q2 ∧ g.closing = (x1 || x2)) ∧
  d.change.pendingCh = none ∧
  d.change.gain = (g2.getD (g1.getD c.gain)) ∧ d.change.running = (r2.getD (r1.getD c.running)) ∧
  d.change.muted = (m2.getD (m1.getD c.muted)) ∧
  d.change.applied = (if d.change.running ∧ d.change.muted = false then d.change.gain else 0) ∧
  d.change.record = c.record ∧ d.change.idx = c.idx ∧ d.change.hist = c.hist

/-- R380, R386, R403, R404. -/
def Obligations.LinkSendsInOrder : Prop :=
 ∀ (l : Nat) (f : Frame) (s : State), l < s.links.links.length → frSpace f ≤ 1 → (s.link l).txSeq.length = 2 →
  (s.link l).txWrap.getD (frSpace f) false = false →
  let sp := frSpace f
  let n := (s.link l).txEpoch.getD sp 0
  let t := sendFrame l f s
  ∃ g : Frame, (t.link l).wire = (s.link l).wire ++ [g] ∧ g.seq = (s.link l).txSeq.getD sp 0 ∧ g.crc = frCrc g ∧
   g.ctl = f.ctl ∧ g.dest = f.dest ∧ g.len = f.len ∧
   g.tag = frTag (s.txKey l sp n) n g ∧
   (t.link l).txSeq.getD sp 0 = (s.link l).txSeq.getD sp 0 + 1 ∧
   (t.link l).sent.map (·.fr) = (s.link l).sent.map (·.fr) ++ (if sp = 0 then [g] else []) ∧
   (∀ j, j ≠ l → t.link j = s.link j)

/-- R183. -/
def Obligations.VeBadWord : Prop :=
 ∀ p ∈ veRows, ∀ (c : Nat) (f : VEWord) (s : State),
  ClustersOk s.clusters → s.veFree c → veWordOk p.2 f = false →
  ∃ q : ClusterSt, exec (p.1 c f) s = .next (dcpFault (planDone (.cluster c) stBadFormat (s.onCluster c (fun _ => q)))) ∧
   q.veRegs.busy = false ∧ q.veRegs.lastStatus = stBadFormat ∧ q.veRegs.lastTag = (s.cluster c).ve.tag ∧
   q.veRegs.count = (s.cluster c).veRegs.count + 1 ∧
   bufStatus q.outb (s.cluster c).ve.outStream ≠ stOk ∧
   (bufStatus (s.cluster c).outb (s.cluster c).ve.outStream = stOk → bufStatus q.outb (s.cluster c).ve.outStream = stBadFormat)

/-- R457, R462, R466. -/
def Obligations.MessageTaken : Prop :=
 ∀ p ∈ ([(Instr.clientCreate, 0x0101, some 4, false), (Instr.clientDestroy, 0x0102, some 4, false), (Instr.poolConfig, 0x0105, some 16, false),
   (Instr.memAlloc, 0x0201, some 8, false), (Instr.memFree, 0x0202, some 16, false), (Instr.memCopy, 0x0203, some 32, false),
   (Instr.stateCreate, 0x0401, some 16, false), (Instr.stateSwap, 0x0403, some 8, false), (Instr.sessionOpen, 0x0501, some 48, false),
   (Instr.sessionQuery, 0x0507, some 16, true), (Instr.channelOpen, 0x0601, some 64, false),
   (Instr.stopwordStart, 0x0611, some 24, false)] : List ((Msg → Instr) × Nat × Option Nat × Bool)),
  ∀ (m : Msg) (s : State), s.coresUp →
   (s.boxOwned m.client m.mbox → exec (p.1 m) s = .next (s.onBlock m.client (fun b => { b with wrDrop := true }))) ∧
   (s.boxOwned m.client m.mbox = false → (s.block m.client).bound = false →
    exec (p.1 m) s = .next (complete m.client m.mbox stBadHandle [] (s.taking p.2.1 m))) ∧
   (∀ st, s.boxOwned m.client m.mbox = false → (s.block m.client).bound → headerFail p.2.2.1 p.2.2.2 m = some st →
    exec (p.1 m) s = .next (complete m.client m.mbox st [] (s.taking p.2.1 m)))
end

