-- ==== Sys2Proof/Laws/Memory.lean ====
section
/-! SUPPORT. The laws of a store of bytes: every memory operation keeps the canonical form, a byte written reads back,
and every byte elsewhere reads as before. -/

namespace Sys2Proof.Machine

/-! ## The canonical form -/

theorem wfFrom_mono {m : Mem} {lo lo' : Nat} (h : MemOps.wfFrom lo m = true) (hl : lo' ≤ lo) : MemOps.wfFrom lo' m = true := by
  cases m with
  | nil => rfl
  | cons c m =>
    obtain ⟨a, b⟩ := c
    simp only [MemOps.wfFrom, Bool.and_eq_true, decide_eq_true_eq] at h ⊢
    exact ⟨⟨by omega, h.1.2⟩, h.2⟩

theorem wfFrom_cons {m : Mem} {lo a : Nat} {b : Byte} (ha : lo ≤ a) (hb : b ≠ 0) (h : MemOps.wfFrom (a + 1) m = true) :
    MemOps.wfFrom lo ((a, b) :: m) = true := by
  simp only [MemOps.wfFrom, Bool.and_eq_true, decide_eq_true_eq]
  exact ⟨⟨ha, hb⟩, h⟩

theorem wfFrom_write {m : Mem} {lo : Nat} (x : Nat) (v : Byte) (h : MemOps.wfFrom lo m = true) (hx : lo ≤ x) :
    MemOps.wfFrom lo (MemOps.write m x v) = true := by
  induction m generalizing lo with
  | nil =>
    unfold MemOps.write
    split
    · rfl
    · next hv => exact wfFrom_cons hx hv rfl
  | cons c m ih =>
    obtain ⟨a, b⟩ := c
    simp only [MemOps.wfFrom, Bool.and_eq_true, decide_eq_true_eq] at h
    unfold MemOps.write
    split
    · next hlt => exact wfFrom_cons h.1.1 h.1.2 (ih h.2 (by omega))
    · split
      · next hne heq =>
        subst heq
        split
        · exact wfFrom_mono h.2 (by omega)
        · next hv => exact wfFrom_cons hx hv h.2
      · next hnlt hne =>
        split
        · exact wfFrom_cons h.1.1 h.1.2 h.2
        · next hv => exact wfFrom_cons hx hv (wfFrom_cons (by omega) h.1.2 h.2)

theorem wfFrom_filter {m : Mem} {lo : Nat} (p : Nat × Byte → Bool) (h : MemOps.wfFrom lo m = true) :
    MemOps.wfFrom lo (m.filter p) = true := by
  induction m generalizing lo with
  | nil => rfl
  | cons c m ih =>
    obtain ⟨a, b⟩ := c
    simp only [MemOps.wfFrom, Bool.and_eq_true, decide_eq_true_eq] at h
    by_cases hp : p (a, b) = true
    · rw [List.filter_cons_of_pos hp]; exact wfFrom_cons h.1.1 h.1.2 (ih h.2)
    · rw [List.filter_cons_of_neg hp]; exact wfFrom_mono (ih h.2) (by omega)

theorem wf_write {m : Mem} (x : Nat) (v : Byte) (h : Memory.wf m = true) : Memory.wf (MemOps.write m x v) = true :=
  wfFrom_write x v h (Nat.zero_le x)

theorem wf_filter {m : Mem} (p : Nat × Byte → Bool) (h : Memory.wf m = true) : Memory.wf (m.filter p) = true :=
  wfFrom_filter p h

theorem wf_clear {m : Mem} (a n : Nat) (h : Memory.wf m = true) : Memory.wf (MemOps.clear m a n) = true :=
  wf_filter _ h

/-- A fold whose every step keeps the form keeps it. -/
theorem wf_foldl {α : Type} (f : Mem → α → Mem) (hf : ∀ m x, Memory.wf m = true → Memory.wf (f m x) = true) (l : List α)
    {m : Mem} (h : Memory.wf m = true) : Memory.wf (l.foldl f m) = true := by
  induction l generalizing m with
  | nil => exact h
  | cons x l ih => exact ih (hf m x h)

theorem wf_writeN {m : Mem} (a : Nat) (l : List Byte) (h : Memory.wf m = true) : Memory.wf (MemOps.writeN m a l) = true := by
  induction l generalizing m a with
  | nil => exact h
  | cons b l ih => exact ih (a + 1) (wf_write a b h)

theorem wf_copy {m : Mem} (from_ : Mem) (src dst n : Nat) (h : Memory.wf m = true) :
    Memory.wf (MemOps.copy from_ m src dst n) = true :=
  wf_foldl _ (fun _ _ h => wf_write _ _ h) _ (wf_clear dst n h)

/-! ## Reads after writes -/

theorem read_cons (a x : Nat) (b : Byte) (m : Mem) :
    MemOps.read ((a, b) :: m) x = if a = x then b else if x < a then 0 else MemOps.read m x := rfl

theorem read_below {m : Mem} {lo x : Nat} (h : MemOps.wfFrom lo m = true) (hx : x < lo) : MemOps.read m x = 0 := by
  cases m with
  | nil => rfl
  | cons c m =>
    obtain ⟨a, b⟩ := c
    simp only [MemOps.wfFrom, Bool.and_eq_true, decide_eq_true_eq] at h
    rw [read_cons, if_neg (by omega), if_pos (by omega)]

theorem read_write_from {m : Mem} {lo : Nat} (x y : Nat) (v : Byte) (h : MemOps.wfFrom lo m = true) :
    MemOps.read (MemOps.write m x v) y = if y = x then v else MemOps.read m y := by
  induction m generalizing lo with
  | nil =>
    unfold MemOps.write
    split
    · next hv => rw [hv]; split <;> rfl
    · rw [read_cons]
      by_cases hy : y = x
      · rw [if_pos hy.symm, if_pos hy]
      · rw [if_neg (Ne.symm hy), if_neg hy]; split <;> rfl
  | cons c m ih =>
    obtain ⟨a, b⟩ := c
    simp only [MemOps.wfFrom, Bool.and_eq_true, decide_eq_true_eq] at h
    unfold MemOps.write
    split
    · next hlt =>
      rw [read_cons, read_cons, ih h.2]
      by_cases hay : a = y
      · rw [if_pos hay, if_neg (by omega), if_pos hay]
      · rw [if_neg hay, if_neg hay]
        by_cases hya : y < a
        · rw [if_pos hya, if_pos hya, if_neg (by omega)]
        · rw [if_neg hya, if_neg hya]
    · split
      · next hne heq =>
        subst heq
        split
        · next hv =>
          rw [read_cons]
          by_cases hy : y = a
          · rw [if_pos hy, hv, read_below h.2 (by omega)]
          · rw [if_neg hy, if_neg (Ne.symm hy)]
            by_cases hya : y < a
            · rw [if_pos hya, read_below h.2 (by omega)]
            · rw [if_neg hya]
        · rw [read_cons, read_cons]
          by_cases hy : y = a
          · rw [if_pos hy.symm, if_pos hy]
          · rw [if_neg (Ne.symm hy), if_neg hy, if_neg (Ne.symm hy)]
      · next hnlt hne =>
        have hxa : x < a := by omega
        split
        · next hv =>
          by_cases hy : y = x
          · rw [if_pos hy, hv, hy, read_cons, if_neg hne, if_pos hxa]
          · rw [if_neg hy]
        · rw [read_cons x]
          by_cases hy : y = x
          · rw [if_pos hy.symm, if_pos hy]
          · rw [if_neg (Ne.symm hy), if_neg hy]
            by_cases hyx : y < x
            · rw [if_pos hyx, read_cons, if_neg (by omega), if_pos (by omega)]
            · rw [if_neg hyx]

/-- A byte written reads back, and every other byte reads as before. -/
theorem read_write {m : Mem} (x y : Nat) (v : Byte) (h : Memory.wf m = true) :
    MemOps.read (MemOps.write m x v) y = if y = x then v else MemOps.read m y :=
  read_write_from x y v h

/-- Bytes written read back in their order, and every byte outside them reads as before. -/
theorem read_writeN {m : Mem} (a : Nat) (l : List Byte) (y : Nat) (h : Memory.wf m = true) :
    MemOps.read (MemOps.writeN m a l) y = if a ≤ y ∧ y < a + l.length then l.getD (y - a) 0 else MemOps.read m y := by
  induction l generalizing m a with
  | nil => rw [if_neg (by simp)]; rfl
  | cons b l ih =>
    rw [MemOps.writeN, ih (a + 1) (wf_write a b h), read_write a y b h, List.length_cons]
    by_cases hy : y = a
    · subst hy
      rw [if_neg (by omega), if_pos rfl, if_pos (by omega)]
      simp
    · by_cases hin : a + 1 ≤ y ∧ y < a + 1 + l.length
      · rw [if_pos hin, if_pos (by omega), (by omega : y - a = (y - (a + 1)) + 1), List.getD_cons_succ]
      · rw [if_neg hin, if_neg hy, if_neg (by omega)]

theorem read_filter_from {m : Mem} {lo : Nat} (p : Nat × Byte → Bool) (y : Nat) (h : MemOps.wfFrom lo m = true)
    (hp : ∀ b, p (y, b) = true) : MemOps.read (m.filter p) y = MemOps.read m y := by
  induction m generalizing lo with
  | nil => rfl
  | cons c m ih =>
    obtain ⟨a, b⟩ := c
    simp only [MemOps.wfFrom, Bool.and_eq_true, decide_eq_true_eq] at h
    by_cases hc : p (a, b) = true
    · rw [List.filter_cons_of_pos hc, read_cons, read_cons, ih h.2]
    · have hay : ¬ a = y := fun e => by subst e; exact hc (hp b)
      rw [List.filter_cons_of_neg hc, read_cons, if_neg hay, ih h.2]
      split
      · exact read_below h.2 (by omega)
      · rfl

/-- A clear leaves every byte outside its range. -/
theorem read_clear_out {m : Mem} (a n y : Nat) (h : Memory.wf m = true) (hy : ¬ (a ≤ y ∧ y < a + n)) :
    MemOps.read (MemOps.clear m a n) y = MemOps.read m y :=
  read_filter_from _ y h (fun _ => decide_eq_true hy)

end Sys2Proof.Machine
end

