-- ==== Sys2Proof/Laws/Kept.lean ====
section
/-! SUPPORT. What every operation keeps: the queue, the latched hold, the fuses, the invariant. The lemmas are stated so that
they chain backwards: `Kept s₀ s` before an operation gives `Kept s₀ (operation s)` after it. -/

namespace Sys2Proof.Machine

theorem RotLe.refl (a : RotSt) : RotLe a a :=
  ⟨rfl, rfl, rfl, fun _ => Nat.le_refl _, fun _ k h => ⟨k, h, fun _ => rfl, id⟩⟩

theorem RotLe.trans {a b c : RotSt} (h : RotLe a b) (g : RotLe b c) : RotLe a c where
  uds := g.uds.trans h.uds
  root := g.root.trans h.root
  revoked := g.revoked.trans h.revoked
  fused t := Nat.le_trans (h.fused t) (g.fused t)
  enrolled i k e := by
    obtain ⟨k', e', hk, rk⟩ := h.enrolled i k e
    obtain ⟨k'', e'', hk', rk'⟩ := g.enrolled i k' e'
    refine ⟨k'', e'', fun n => ?_, fun r => rk' (rk r)⟩
    rw [hk' (by rw [hk n]; exact n), hk n]

/-- What an operation keeps, seen from an earlier state. -/
structure Kept (s₀ s : State) : Prop where
  queue : s.pending = s₀.pending
  latch : s₀.safe.hold = true → s.safe.hold = true
  fuses : RotLe s₀.rot s.rot
  inv : s₀.Inv → s.Inv

theorem Kept.refl (s : State) : Kept s s := ⟨rfl, id, RotLe.refl _, id⟩

theorem Kept.trans {a b c : State} (h : Kept a b) (g : Kept b c) : Kept a c :=
  ⟨g.queue.trans h.queue, fun x => g.latch (h.latch x), h.fuses.trans g.fuses, fun x => g.inv (h.inv x)⟩

variable {s₀ s : State}

/-! ## The parts that nothing constrains -/

theorem kept_onBeat (f : BeatSt → BeatSt) (h : Kept s₀ s) : Kept s₀ (s.onBeat f) :=
  ⟨h.queue, h.latch, h.fuses, fun i => let j := h.inv i; ⟨j.1, j.2, j.3, j.4, j.5, j.6, j.7, j.8, j.9, j.10, j.11⟩⟩
theorem kept_onMerges (f : List MergeSlot → List MergeSlot) (h : Kept s₀ s) : Kept s₀ (s.onMerges f) :=
  ⟨h.queue, h.latch, h.fuses, fun i => let j := h.inv i; ⟨j.1, j.2, j.3, j.4, j.5, j.6, j.7, j.8, j.9, j.10, j.11⟩⟩
theorem kept_onPages (f : PagesSt → PagesSt) (h : Kept s₀ s) : Kept s₀ (s.onPages f) :=
  ⟨h.queue, h.latch, h.fuses, fun i => let j := h.inv i; ⟨j.1, j.2, j.3, j.4, j.5, j.6, j.7, j.8, j.9, j.10, j.11⟩⟩
theorem kept_onCtrl (f : CtrlSt → CtrlSt) (h : Kept s₀ s) : Kept s₀ (s.onCtrl f) :=
  ⟨h.queue, h.latch, h.fuses, fun i => let j := h.inv i; ⟨j.1, j.2, j.3, j.4, j.5, j.6, j.7, j.8, j.9, j.10, j.11⟩⟩
theorem kept_onPins (f : PinsSt → PinsSt) (h : Kept s₀ s) : Kept s₀ (s.onPins f) :=
  ⟨h.queue, h.latch, h.fuses, fun i => let j := h.inv i; ⟨j.1, j.2, j.3, j.4, j.5, j.6, j.7, j.8, j.9, j.10, j.11⟩⟩
theorem kept_onUnits (f : UnitsSt → UnitsSt) (h : Kept s₀ s) : Kept s₀ (s.onUnits f) :=
  ⟨h.queue, h.latch, h.fuses, fun i => let j := h.inv i; ⟨j.1, j.2, j.3, j.4, j.5, j.6, j.7, j.8, j.9, j.10, j.11⟩⟩
theorem kept_freeCtr (n : Nat) (h : Kept s₀ s) : Kept s₀ { s with freeCtr := n } :=
  ⟨h.queue, h.latch, h.fuses, fun i => let j := h.inv i; ⟨j.1, j.2, j.3, j.4, j.5, j.6, j.7, j.8, j.9, j.10, j.11⟩⟩

/-! ## The parts that the invariant constrains -/

theorem kept_onPlan (f : PlanSt → PlanSt) (hf : s.plan.Ok → (f s.plan).Ok) (h : Kept s₀ s) : Kept s₀ (s.onPlan f) :=
  ⟨h.queue, h.latch, h.fuses, fun i => let j := h.inv i; ⟨j.1, j.2, hf j.3, j.4, j.5, j.6, j.7, j.8, j.9, j.10, j.11⟩⟩
theorem kept_onClusters (f : List ClusterSt → List ClusterSt) (hf : ClustersOk s.clusters → ClustersOk (f s.clusters))
    (h : Kept s₀ s) : Kept s₀ (s.onClusters f) :=
  ⟨h.queue, h.latch, h.fuses, fun i => let j := h.inv i; ⟨hf j.1, j.2, j.3, j.4, j.5, j.6, j.7, j.8, j.9, j.10, j.11⟩⟩
theorem kept_onNmus (f : List NmuSt → List NmuSt) (hf : NmusOk s.nmus → NmusOk (f s.nmus)) (h : Kept s₀ s) : Kept s₀ (s.onNmus f) :=
  ⟨h.queue, h.latch, h.fuses, fun i => let j := h.inv i; ⟨j.1, hf j.2, j.3, j.4, j.5, j.6, j.7, j.8, j.9, j.10, j.11⟩⟩
theorem kept_onYard (f : YardSt → YardSt) (hf : s.yard.Ok → (f s.yard).Ok) (h : Kept s₀ s) : Kept s₀ (s.onYard f) :=
  ⟨h.queue, h.latch, h.fuses, fun i => let j := h.inv i; ⟨j.1, j.2, j.3, j.4, hf j.5, j.6, j.7, j.8, j.9, j.10, j.11⟩⟩
theorem kept_onMem (f : MemSt → MemSt) (hf : s.mem.Ok → (f s.mem).Ok) (h : Kept s₀ s) : Kept s₀ (s.onMem f) :=
  ⟨h.queue, h.latch, h.fuses, fun i => let j := h.inv i; ⟨j.1, j.2, j.3, hf j.4, j.5, j.6, j.7, j.8, j.9, j.10, j.11⟩⟩
theorem kept_onLinks (f : LinksSt → LinksSt) (hf : s.links.Ok → (f s.links).Ok) (h : Kept s₀ s) : Kept s₀ (s.onLinks f) :=
  ⟨h.queue, h.latch, h.fuses, fun i => let j := h.inv i; ⟨j.1, j.2, j.3, j.4, j.5, hf j.6, j.7, j.8, j.9, j.10, j.11⟩⟩
theorem kept_onAudio (f : AudioSt → AudioSt) (hf : s.audio.Ok → (f s.audio).Ok) (h : Kept s₀ s) : Kept s₀ (s.onAudio f) :=
  ⟨h.queue, h.latch, h.fuses, fun i => let j := h.inv i; ⟨j.1, j.2, j.3, j.4, j.5, j.6, hf j.7, j.8, j.9, j.10, j.11⟩⟩
theorem kept_onSafe (f : SafeSt → SafeSt) (hl : s.safe.hold = true → (f s.safe).hold = true) (hf : s.safe.Ok → (f s.safe).Ok)
    (h : Kept s₀ s) : Kept s₀ (s.onSafe f) :=
  ⟨h.queue, fun x => hl (h.latch x), h.fuses, fun i => let j := h.inv i; ⟨j.1, j.2, j.3, j.4, j.5, j.6, j.7, hf j.8, j.9, j.10, j.11⟩⟩
theorem kept_onRot (f : RotSt → RotSt) (hl : RotLe s.rot (f s.rot)) (hf : s.rot.Ok → (f s.rot).Ok)
    (h : Kept s₀ s) : Kept s₀ (s.onRot f) :=
  ⟨h.queue, h.latch, h.fuses.trans hl, fun i => let j := h.inv i; ⟨j.1, j.2, j.3, j.4, j.5, j.6, j.7, j.8, hf j.9, j.10, j.11⟩⟩
theorem kept_onPower (f : PowerSt → PowerSt) (hf : s.power.Ok → (f s.power).Ok) (h : Kept s₀ s) : Kept s₀ (s.onPower f) :=
  ⟨h.queue, h.latch, h.fuses, fun i => let j := h.inv i; ⟨j.1, j.2, j.3, j.4, j.5, j.6, j.7, j.8, j.9, hf j.10, j.11⟩⟩
theorem kept_onBb (f : BbSt → BbSt) (hf : s.bb.Ok → (f s.bb).Ok) (h : Kept s₀ s) : Kept s₀ (s.onBb f) :=
  ⟨h.queue, h.latch, h.fuses, fun i => let j := h.inv i; ⟨j.1, j.2, j.3, j.4, j.5, j.6, j.7, j.8, j.9, j.10, hf j.11⟩⟩

/-! ## Lists -/

theorem mem_modify {α : Type} {l : List α} {i : Nat} {f : α → α} {x : α} (h : x ∈ l.modify i f) : x ∈ l ∨ ∃ y ∈ l, x = f y := by
  induction l generalizing i with
  | nil => simp at h
  | cons a l ih =>
    cases i with
    | zero =>
      simp only [List.modify_zero_cons, List.mem_cons] at h
      rcases h with h | h
      · exact .inr ⟨a, by simp, h⟩
      · exact .inl (by simp [h])
    | succ i =>
      simp only [List.modify_succ_cons, List.mem_cons] at h
      rcases h with h | h
      · exact .inl (by simp [h])
      · rcases ih h with h | ⟨y, hy, e⟩
        · exact .inl (by simp [h])
        · exact .inr ⟨y, by simp [hy], e⟩

theorem all_modify {α : Type} {P : α → Prop} {l : List α} (i : Nat) {f : α → α} (hl : ∀ x ∈ l, P x) (hf : ∀ x, P x → P (f x)) :
    ∀ x ∈ l.modify i f, P x := by
  intro x hx
  rcases mem_modify hx with h | ⟨y, hy, e⟩
  · exact hl x h
  · rw [e]; exact hf y (hl y hy)

theorem kept_foldl {α : Type} (f : State → α → State) (hf : ∀ s x, Kept s₀ s → Kept s₀ (f s x)) (l : List α) (h : Kept s₀ s) :
    Kept s₀ (l.foldl f s) := by
  induction l generalizing s with
  | nil => exact h
  | cons x l ih => exact ih (hf s x h)

theorem kept_foldl1 {α β : Type} (f : State × β → α → State × β) (hf : ∀ p x, Kept s₀ p.1 → Kept s₀ (f p x).1) (l : List α)
    {p : State × β} (h : Kept s₀ p.1) : Kept s₀ (l.foldl f p).1 := by
  induction l generalizing p with
  | nil => exact h
  | cons x l ih => exact ih (hf p x h)

theorem kept_fst {β : Type} {p : State × β} {t : State} {x : β} (e : p = (t, x)) (h : Kept s₀ p.1) : Kept s₀ t := by
  rw [e] at h; exact h
theorem kept_snd {β : Type} {p : β × State} {t : State} {x : β} (e : p = (x, t)) (h : Kept s₀ p.2) : Kept s₀ t := by
  rw [e] at h; exact h
theorem kept_trd {β γ : Type} {p : β × γ × State} {t : State} {x : β} {y : γ} (e : p = (x, y, t)) (h : Kept s₀ p.2.2) :
    Kept s₀ t := by
  rw [e] at h; exact h

/-! ## Operations that may have no answer -/

/-- What the state beside a value keeps. -/
def SndKept (s₀ : State) {α : Type} (q : α × State) : Prop := Kept s₀ q.2
/-- What the state before a value keeps. -/
def FstKept (s₀ : State) {α : Type} (q : State × α) : Prop := Kept s₀ q.1
/-- Every value that a partial operation may answer has a property. -/
def OptAll {α : Type} (P : α → Prop) (o : Option α) : Prop := ∀ x, o = some x → P x
theorem optAll_some {α : Type} {P : α → Prop} {a : α} (h : P a) : OptAll P (some a) := fun _ e => by cases e; exact h
theorem optAll_none {α : Type} {P : α → Prop} : OptAll P (none : Option α) := fun _ e => by cases e
theorem optAll_map {α β : Type} {P : β → Prop} {o : Option α} {f : α → β} (h : OptAll (fun a => P (f a)) o) : OptAll P (o.map f) :=
  fun x e => by obtain ⟨a, e', rfl⟩ := Option.map_eq_some_iff.1 e; exact h a e'
theorem optAll_bind {α β : Type} {P : β → Prop} {o : Option α} {f : α → Option β} (h : OptAll (fun a => OptAll P (f a)) o) :
    OptAll P (o.bind f) :=
  fun x e => by obtain ⟨a, e', e''⟩ := Option.bind_eq_some_iff.1 e; exact h a e' x e''
theorem optAll_any {α : Type} {P : α → Prop} {o : Option α} (h : ∀ a, P a) : OptAll P o := fun x _ => h x
theorem optAll_mono {α : Type} {P Q : α → Prop} {o : Option α} (h : OptAll P o) (g : ∀ a, P a → Q a) : OptAll Q o := fun x e => g x (h x e)
theorem optAll_foldl {α β : Type} {P : β → Prop} (f : Option β → α → Option β) (hf : ∀ o x, OptAll P o → OptAll P (f o x)) (l : List α)
    {o : Option β} (h : OptAll P o) : OptAll P (l.foldl f o) := by
  induction l generalizing o with
  | nil => exact h
  | cons x l ih => exact ih (hf o x h)
theorem optKept_elim {o : Option State} {t : State} (e : o = some t) (h : OptAll (Kept s₀) o) : Kept s₀ t := h t e
theorem optSnd_elim {α : Type} {o : Option (α × State)} {x : α} {t : State} (e : o = some (x, t)) (h : OptAll (SndKept s₀) o) :
    Kept s₀ t := h _ e
theorem optSnd_elim' {α : Type} {o : Option (α × State)} {q : α × State} (e : o = some q) (h : OptAll (SndKept s₀) o) :
    Kept s₀ q.2 := h _ e
theorem optFst_elim {α : Type} {o : Option (State × α)} {x : α} {t : State} (e : o = some (t, x)) (h : OptAll (FstKept s₀) o) :
    Kept s₀ t := h _ e
theorem optFst_elim' {α : Type} {o : Option (State × α)} {q : State × α} (e : o = some q) (h : OptAll (FstKept s₀) o) :
    Kept s₀ q.1 := h _ e

/-! ## One of several -/

theorem kept_onCluster (c : Nat) (f : ClusterSt → ClusterSt) (hf : ∀ k : ClusterSt, k.ve.Ok → (f k).ve.Ok) (h : Kept s₀ s) :
    Kept s₀ (s.onCluster c f) :=
  kept_onClusters _ (fun i => ⟨(List.length_modify ..).trans i.1, all_modify (P := fun k : ClusterSt => k.ve.Ok) c i.2 hf⟩) h
theorem kept_onNmu (i : Nat) (f : NmuSt → NmuSt) (hf : ∀ k, k.Ok → (f k).Ok) (h : Kept s₀ s) : Kept s₀ (s.onNmu i f) :=
  kept_onNmus _ (fun j => ⟨(List.length_modify ..).trans j.1, all_modify i j.2 hf⟩) h
theorem kept_onYarder (y : Nat) (f : YarderSt → YarderSt) (hf : ∀ k, k.Ok → (f k).Ok) (h : Kept s₀ s) :
    Kept s₀ (s.onYarder y f) :=
  kept_onYard _ (fun j => ⟨(List.length_modify ..).trans j.1, all_modify y j.2 hf, j.3, j.4, j.5⟩) h
theorem kept_onLink (l : Nat) (f : LinkSt → LinkSt) (h : Kept s₀ s) : Kept s₀ (s.onLink l f) :=
  kept_onLinks _ (fun j => (List.length_modify ..).trans j) h
theorem kept_onDev (f : Mem → Mem) (hf : Memory.wf s.mem.dev = true → Memory.wf (f s.mem.dev) = true) (h : Kept s₀ s) :
    Kept s₀ (s.onDev f) :=
  kept_onMem _ (fun j => ⟨hf j.1, j.2, j.3, j.4⟩) h

end Sys2Proof.Machine
end

