-- ==== Sys2Proof/Laws/State.lean ====
section
/-! SUPPORT. What each update of a part of the state does to each field of it: one lemma for each pair, true by `rfl`, so
that no proof unfolds a record update. -/

namespace Sys2Proof.Machine

/-! ## onBeat -/

@[simp] theorem State.onBeat_beat (f : BeatSt → BeatSt) (s : State) : (s.onBeat f).beat = f s.beat := rfl
@[simp] theorem State.onBeat_plan (f : BeatSt → BeatSt) (s : State) : (s.onBeat f).plan = s.plan := rfl
@[simp] theorem State.onBeat_clusters (f : BeatSt → BeatSt) (s : State) : (s.onBeat f).clusters = s.clusters := rfl
@[simp] theorem State.onBeat_nmus (f : BeatSt → BeatSt) (s : State) : (s.onBeat f).nmus = s.nmus := rfl
@[simp] theorem State.onBeat_merges (f : BeatSt → BeatSt) (s : State) : (s.onBeat f).merges = s.merges := rfl
@[simp] theorem State.onBeat_pages (f : BeatSt → BeatSt) (s : State) : (s.onBeat f).pages = s.pages := rfl
@[simp] theorem State.onBeat_yard (f : BeatSt → BeatSt) (s : State) : (s.onBeat f).yard = s.yard := rfl
@[simp] theorem State.onBeat_mem (f : BeatSt → BeatSt) (s : State) : (s.onBeat f).mem = s.mem := rfl
@[simp] theorem State.onBeat_links (f : BeatSt → BeatSt) (s : State) : (s.onBeat f).links = s.links := rfl
@[simp] theorem State.onBeat_audio (f : BeatSt → BeatSt) (s : State) : (s.onBeat f).audio = s.audio := rfl
@[simp] theorem State.onBeat_ctrl (f : BeatSt → BeatSt) (s : State) : (s.onBeat f).ctrl = s.ctrl := rfl
@[simp] theorem State.onBeat_safe (f : BeatSt → BeatSt) (s : State) : (s.onBeat f).safe = s.safe := rfl
@[simp] theorem State.onBeat_rot (f : BeatSt → BeatSt) (s : State) : (s.onBeat f).rot = s.rot := rfl
@[simp] theorem State.onBeat_power (f : BeatSt → BeatSt) (s : State) : (s.onBeat f).power = s.power := rfl
@[simp] theorem State.onBeat_bb (f : BeatSt → BeatSt) (s : State) : (s.onBeat f).bb = s.bb := rfl
@[simp] theorem State.onBeat_pins (f : BeatSt → BeatSt) (s : State) : (s.onBeat f).pins = s.pins := rfl
@[simp] theorem State.onBeat_units (f : BeatSt → BeatSt) (s : State) : (s.onBeat f).units = s.units := rfl
@[simp] theorem State.onBeat_freeCtr (f : BeatSt → BeatSt) (s : State) : (s.onBeat f).freeCtr = s.freeCtr := rfl
@[simp] theorem State.onBeat_pending (f : BeatSt → BeatSt) (s : State) : (s.onBeat f).pending = s.pending := rfl

/-! ## onPlan -/

@[simp] theorem State.onPlan_beat (f : PlanSt → PlanSt) (s : State) : (s.onPlan f).beat = s.beat := rfl
@[simp] theorem State.onPlan_plan (f : PlanSt → PlanSt) (s : State) : (s.onPlan f).plan = f s.plan := rfl
@[simp] theorem State.onPlan_clusters (f : PlanSt → PlanSt) (s : State) : (s.onPlan f).clusters = s.clusters := rfl
@[simp] theorem State.onPlan_nmus (f : PlanSt → PlanSt) (s : State) : (s.onPlan f).nmus = s.nmus := rfl
@[simp] theorem State.onPlan_merges (f : PlanSt → PlanSt) (s : State) : (s.onPlan f).merges = s.merges := rfl
@[simp] theorem State.onPlan_pages (f : PlanSt → PlanSt) (s : State) : (s.onPlan f).pages = s.pages := rfl
@[simp] theorem State.onPlan_yard (f : PlanSt → PlanSt) (s : State) : (s.onPlan f).yard = s.yard := rfl
@[simp] theorem State.onPlan_mem (f : PlanSt → PlanSt) (s : State) : (s.onPlan f).mem = s.mem := rfl
@[simp] theorem State.onPlan_links (f : PlanSt → PlanSt) (s : State) : (s.onPlan f).links = s.links := rfl
@[simp] theorem State.onPlan_audio (f : PlanSt → PlanSt) (s : State) : (s.onPlan f).audio = s.audio := rfl
@[simp] theorem State.onPlan_ctrl (f : PlanSt → PlanSt) (s : State) : (s.onPlan f).ctrl = s.ctrl := rfl
@[simp] theorem State.onPlan_safe (f : PlanSt → PlanSt) (s : State) : (s.onPlan f).safe = s.safe := rfl
@[simp] theorem State.onPlan_rot (f : PlanSt → PlanSt) (s : State) : (s.onPlan f).rot = s.rot := rfl
@[simp] theorem State.onPlan_power (f : PlanSt → PlanSt) (s : State) : (s.onPlan f).power = s.power := rfl
@[simp] theorem State.onPlan_bb (f : PlanSt → PlanSt) (s : State) : (s.onPlan f).bb = s.bb := rfl
@[simp] theorem State.onPlan_pins (f : PlanSt → PlanSt) (s : State) : (s.onPlan f).pins = s.pins := rfl
@[simp] theorem State.onPlan_units (f : PlanSt → PlanSt) (s : State) : (s.onPlan f).units = s.units := rfl
@[simp] theorem State.onPlan_freeCtr (f : PlanSt → PlanSt) (s : State) : (s.onPlan f).freeCtr = s.freeCtr := rfl
@[simp] theorem State.onPlan_pending (f : PlanSt → PlanSt) (s : State) : (s.onPlan f).pending = s.pending := rfl

/-! ## onClusters -/

@[simp] theorem State.onClusters_beat (f : List ClusterSt → List ClusterSt) (s : State) : (s.onClusters f).beat = s.beat := rfl
@[simp] theorem State.onClusters_plan (f : List ClusterSt → List ClusterSt) (s : State) : (s.onClusters f).plan = s.plan := rfl
@[simp] theorem State.onClusters_clusters (f : List ClusterSt → List ClusterSt) (s : State) : (s.onClusters f).clusters = f s.clusters := rfl
@[simp] theorem State.onClusters_nmus (f : List ClusterSt → List ClusterSt) (s : State) : (s.onClusters f).nmus = s.nmus := rfl
@[simp] theorem State.onClusters_merges (f : List ClusterSt → List ClusterSt) (s : State) : (s.onClusters f).merges = s.merges := rfl
@[simp] theorem State.onClusters_pages (f : List ClusterSt → List ClusterSt) (s : State) : (s.onClusters f).pages = s.pages := rfl
@[simp] theorem State.onClusters_yard (f : List ClusterSt → List ClusterSt) (s : State) : (s.onClusters f).yard = s.yard := rfl
@[simp] theorem State.onClusters_mem (f : List ClusterSt → List ClusterSt) (s : State) : (s.onClusters f).mem = s.mem := rfl
@[simp] theorem State.onClusters_links (f : List ClusterSt → List ClusterSt) (s : State) : (s.onClusters f).links = s.links := rfl
@[simp] theorem State.onClusters_audio (f : List ClusterSt → List ClusterSt) (s : State) : (s.onClusters f).audio = s.audio := rfl
@[simp] theorem State.onClusters_ctrl (f : List ClusterSt → List ClusterSt) (s : State) : (s.onClusters f).ctrl = s.ctrl := rfl
@[simp] theorem State.onClusters_safe (f : List ClusterSt → List ClusterSt) (s : State) : (s.onClusters f).safe = s.safe := rfl
@[simp] theorem State.onClusters_rot (f : List ClusterSt → List ClusterSt) (s : State) : (s.onClusters f).rot = s.rot := rfl
@[simp] theorem State.onClusters_power (f : List ClusterSt → List ClusterSt) (s : State) : (s.onClusters f).power = s.power := rfl
@[simp] theorem State.onClusters_bb (f : List ClusterSt → List ClusterSt) (s : State) : (s.onClusters f).bb = s.bb := rfl
@[simp] theorem State.onClusters_pins (f : List ClusterSt → List ClusterSt) (s : State) : (s.onClusters f).pins = s.pins := rfl
@[simp] theorem State.onClusters_units (f : List ClusterSt → List ClusterSt) (s : State) : (s.onClusters f).units = s.units := rfl
@[simp] theorem State.onClusters_freeCtr (f : List ClusterSt → List ClusterSt) (s : State) : (s.onClusters f).freeCtr = s.freeCtr := rfl
@[simp] theorem State.onClusters_pending (f : List ClusterSt → List ClusterSt) (s : State) : (s.onClusters f).pending = s.pending := rfl

/-! ## onNmus -/

@[simp] theorem State.onNmus_beat (f : List NmuSt → List NmuSt) (s : State) : (s.onNmus f).beat = s.beat := rfl
@[simp] theorem State.onNmus_plan (f : List NmuSt → List NmuSt) (s : State) : (s.onNmus f).plan = s.plan := rfl
@[simp] theorem State.onNmus_clusters (f : List NmuSt → List NmuSt) (s : State) : (s.onNmus f).clusters = s.clusters := rfl
@[simp] theorem State.onNmus_nmus (f : List NmuSt → List NmuSt) (s : State) : (s.onNmus f).nmus = f s.nmus := rfl
@[simp] theorem State.onNmus_merges (f : List NmuSt → List NmuSt) (s : State) : (s.onNmus f).merges = s.merges := rfl
@[simp] theorem State.onNmus_pages (f : List NmuSt → List NmuSt) (s : State) : (s.onNmus f).pages = s.pages := rfl
@[simp] theorem State.onNmus_yard (f : List NmuSt → List NmuSt) (s : State) : (s.onNmus f).yard = s.yard := rfl
@[simp] theorem State.onNmus_mem (f : List NmuSt → List NmuSt) (s : State) : (s.onNmus f).mem = s.mem := rfl
@[simp] theorem State.onNmus_links (f : List NmuSt → List NmuSt) (s : State) : (s.onNmus f).links = s.links := rfl
@[simp] theorem State.onNmus_audio (f : List NmuSt → List NmuSt) (s : State) : (s.onNmus f).audio = s.audio := rfl
@[simp] theorem State.onNmus_ctrl (f : List NmuSt → List NmuSt) (s : State) : (s.onNmus f).ctrl = s.ctrl := rfl
@[simp] theorem State.onNmus_safe (f : List NmuSt → List NmuSt) (s : State) : (s.onNmus f).safe = s.safe := rfl
@[simp] theorem State.onNmus_rot (f : List NmuSt → List NmuSt) (s : State) : (s.onNmus f).rot = s.rot := rfl
@[simp] theorem State.onNmus_power (f : List NmuSt → List NmuSt) (s : State) : (s.onNmus f).power = s.power := rfl
@[simp] theorem State.onNmus_bb (f : List NmuSt → List NmuSt) (s : State) : (s.onNmus f).bb = s.bb := rfl
@[simp] theorem State.onNmus_pins (f : List NmuSt → List NmuSt) (s : State) : (s.onNmus f).pins = s.pins := rfl
@[simp] theorem State.onNmus_units (f : List NmuSt → List NmuSt) (s : State) : (s.onNmus f).units = s.units := rfl
@[simp] theorem State.onNmus_freeCtr (f : List NmuSt → List NmuSt) (s : State) : (s.onNmus f).freeCtr = s.freeCtr := rfl
@[simp] theorem State.onNmus_pending (f : List NmuSt → List NmuSt) (s : State) : (s.onNmus f).pending = s.pending := rfl

/-! ## onMerges -/

@[simp] theorem State.onMerges_beat (f : List MergeSlot → List MergeSlot) (s : State) : (s.onMerges f).beat = s.beat := rfl
@[simp] theorem State.onMerges_plan (f : List MergeSlot → List MergeSlot) (s : State) : (s.onMerges f).plan = s.plan := rfl
@[simp] theorem State.onMerges_clusters (f : List MergeSlot → List MergeSlot) (s : State) : (s.onMerges f).clusters = s.clusters := rfl
@[simp] theorem State.onMerges_nmus (f : List MergeSlot → List MergeSlot) (s : State) : (s.onMerges f).nmus = s.nmus := rfl
@[simp] theorem State.onMerges_merges (f : List MergeSlot → List MergeSlot) (s : State) : (s.onMerges f).merges = f s.merges := rfl
@[simp] theorem State.onMerges_pages (f : List MergeSlot → List MergeSlot) (s : State) : (s.onMerges f).pages = s.pages := rfl
@[simp] theorem State.onMerges_yard (f : List MergeSlot → List MergeSlot) (s : State) : (s.onMerges f).yard = s.yard := rfl
@[simp] theorem State.onMerges_mem (f : List MergeSlot → List MergeSlot) (s : State) : (s.onMerges f).mem = s.mem := rfl
@[simp] theorem State.onMerges_links (f : List MergeSlot → List MergeSlot) (s : State) : (s.onMerges f).links = s.links := rfl
@[simp] theorem State.onMerges_audio (f : List MergeSlot → List MergeSlot) (s : State) : (s.onMerges f).audio = s.audio := rfl
@[simp] theorem State.onMerges_ctrl (f : List MergeSlot → List MergeSlot) (s : State) : (s.onMerges f).ctrl = s.ctrl := rfl
@[simp] theorem State.onMerges_safe (f : List MergeSlot → List MergeSlot) (s : State) : (s.onMerges f).safe = s.safe := rfl
@[simp] theorem State.onMerges_rot (f : List MergeSlot → List MergeSlot) (s : State) : (s.onMerges f).rot = s.rot := rfl
@[simp] theorem State.onMerges_power (f : List MergeSlot → List MergeSlot) (s : State) : (s.onMerges f).power = s.power := rfl
@[simp] theorem State.onMerges_bb (f : List MergeSlot → List MergeSlot) (s : State) : (s.onMerges f).bb = s.bb := rfl
@[simp] theorem State.onMerges_pins (f : List MergeSlot → List MergeSlot) (s : State) : (s.onMerges f).pins = s.pins := rfl
@[simp] theorem State.onMerges_units (f : List MergeSlot → List MergeSlot) (s : State) : (s.onMerges f).units = s.units := rfl
@[simp] theorem State.onMerges_freeCtr (f : List MergeSlot → List MergeSlot) (s : State) : (s.onMerges f).freeCtr = s.freeCtr := rfl
@[simp] theorem State.onMerges_pending (f : List MergeSlot → List MergeSlot) (s : State) : (s.onMerges f).pending = s.pending := rfl

/-! ## onPages -/

@[simp] theorem State.onPages_beat (f : PagesSt → PagesSt) (s : State) : (s.onPages f).beat = s.beat := rfl
@[simp] theorem State.onPages_plan (f : PagesSt → PagesSt) (s : State) : (s.onPages f).plan = s.plan := rfl
@[simp] theorem State.onPages_clusters (f : PagesSt → PagesSt) (s : State) : (s.onPages f).clusters = s.clusters := rfl
@[simp] theorem State.onPages_nmus (f : PagesSt → PagesSt) (s : State) : (s.onPages f).nmus = s.nmus := rfl
@[simp] theorem State.onPages_merges (f : PagesSt → PagesSt) (s : State) : (s.onPages f).merges = s.merges := rfl
@[simp] theorem State.onPages_pages (f : PagesSt → PagesSt) (s : State) : (s.onPages f).pages = f s.pages := rfl
@[simp] theorem State.onPages_yard (f : PagesSt → PagesSt) (s : State) : (s.onPages f).yard = s.yard := rfl
@[simp] theorem State.onPages_mem (f : PagesSt → PagesSt) (s : State) : (s.onPages f).mem = s.mem := rfl
@[simp] theorem State.onPages_links (f : PagesSt → PagesSt) (s : State) : (s.onPages f).links = s.links := rfl
@[simp] theorem State.onPages_audio (f : PagesSt → PagesSt) (s : State) : (s.onPages f).audio = s.audio := rfl
@[simp] theorem State.onPages_ctrl (f : PagesSt → PagesSt) (s : State) : (s.onPages f).ctrl = s.ctrl := rfl
@[simp] theorem State.onPages_safe (f : PagesSt → PagesSt) (s : State) : (s.onPages f).safe = s.safe := rfl
@[simp] theorem State.onPages_rot (f : PagesSt → PagesSt) (s : State) : (s.onPages f).rot = s.rot := rfl
@[simp] theorem State.onPages_power (f : PagesSt → PagesSt) (s : State) : (s.onPages f).power = s.power := rfl
@[simp] theorem State.onPages_bb (f : PagesSt → PagesSt) (s : State) : (s.onPages f).bb = s.bb := rfl
@[simp] theorem State.onPages_pins (f : PagesSt → PagesSt) (s : State) : (s.onPages f).pins = s.pins := rfl
@[simp] theorem State.onPages_units (f : PagesSt → PagesSt) (s : State) : (s.onPages f).units = s.units := rfl
@[simp] theorem State.onPages_freeCtr (f : PagesSt → PagesSt) (s : State) : (s.onPages f).freeCtr = s.freeCtr := rfl
@[simp] theorem State.onPages_pending (f : PagesSt → PagesSt) (s : State) : (s.onPages f).pending = s.pending := rfl

/-! ## onYard -/

@[simp] theorem State.onYard_beat (f : YardSt → YardSt) (s : State) : (s.onYard f).beat = s.beat := rfl
@[simp] theorem State.onYard_plan (f : YardSt → YardSt) (s : State) : (s.onYard f).plan = s.plan := rfl
@[simp] theorem State.onYard_clusters (f : YardSt → YardSt) (s : State) : (s.onYard f).clusters = s.clusters := rfl
@[simp] theorem State.onYard_nmus (f : YardSt → YardSt) (s : State) : (s.onYard f).nmus = s.nmus := rfl
@[simp] theorem State.onYard_merges (f : YardSt → YardSt) (s : State) : (s.onYard f).merges = s.merges := rfl
@[simp] theorem State.onYard_pages (f : YardSt → YardSt) (s : State) : (s.onYard f).pages = s.pages := rfl
@[simp] theorem State.onYard_yard (f : YardSt → YardSt) (s : State) : (s.onYard f).yard = f s.yard := rfl
@[simp] theorem State.onYard_mem (f : YardSt → YardSt) (s : State) : (s.onYard f).mem = s.mem := rfl
@[simp] theorem State.onYard_links (f : YardSt → YardSt) (s : State) : (s.onYard f).links = s.links := rfl
@[simp] theorem State.onYard_audio (f : YardSt → YardSt) (s : State) : (s.onYard f).audio = s.audio := rfl
@[simp] theorem State.onYard_ctrl (f : YardSt → YardSt) (s : State) : (s.onYard f).ctrl = s.ctrl := rfl
@[simp] theorem State.onYard_safe (f : YardSt → YardSt) (s : State) : (s.onYard f).safe = s.safe := rfl
@[simp] theorem State.onYard_rot (f : YardSt → YardSt) (s : State) : (s.onYard f).rot = s.rot := rfl
@[simp] theorem State.onYard_power (f : YardSt → YardSt) (s : State) : (s.onYard f).power = s.power := rfl
@[simp] theorem State.onYard_bb (f : YardSt → YardSt) (s : State) : (s.onYard f).bb = s.bb := rfl
@[simp] theorem State.onYard_pins (f : YardSt → YardSt) (s : State) : (s.onYard f).pins = s.pins := rfl
@[simp] theorem State.onYard_units (f : YardSt → YardSt) (s : State) : (s.onYard f).units = s.units := rfl
@[simp] theorem State.onYard_freeCtr (f : YardSt → YardSt) (s : State) : (s.onYard f).freeCtr = s.freeCtr := rfl
@[simp] theorem State.onYard_pending (f : YardSt → YardSt) (s : State) : (s.onYard f).pending = s.pending := rfl

/-! ## onMem -/

@[simp] theorem State.onMem_beat (f : MemSt → MemSt) (s : State) : (s.onMem f).beat = s.beat := rfl
@[simp] theorem State.onMem_plan (f : MemSt → MemSt) (s : State) : (s.onMem f).plan = s.plan := rfl
@[simp] theorem State.onMem_clusters (f : MemSt → MemSt) (s : State) : (s.onMem f).clusters = s.clusters := rfl
@[simp] theorem State.onMem_nmus (f : MemSt → MemSt) (s : State) : (s.onMem f).nmus = s.nmus := rfl
@[simp] theorem State.onMem_merges (f : MemSt → MemSt) (s : State) : (s.onMem f).merges = s.merges := rfl
@[simp] theorem State.onMem_pages (f : MemSt → MemSt) (s : State) : (s.onMem f).pages = s.pages := rfl
@[simp] theorem State.onMem_yard (f : MemSt → MemSt) (s : State) : (s.onMem f).yard = s.yard := rfl
@[simp] theorem State.onMem_mem (f : MemSt → MemSt) (s : State) : (s.onMem f).mem = f s.mem := rfl
@[simp] theorem State.onMem_links (f : MemSt → MemSt) (s : State) : (s.onMem f).links = s.links := rfl
@[simp] theorem State.onMem_audio (f : MemSt → MemSt) (s : State) : (s.onMem f).audio = s.audio := rfl
@[simp] theorem State.onMem_ctrl (f : MemSt → MemSt) (s : State) : (s.onMem f).ctrl = s.ctrl := rfl
@[simp] theorem State.onMem_safe (f : MemSt → MemSt) (s : State) : (s.onMem f).safe = s.safe := rfl
@[simp] theorem State.onMem_rot (f : MemSt → MemSt) (s : State) : (s.onMem f).rot = s.rot := rfl
@[simp] theorem State.onMem_power (f : MemSt → MemSt) (s : State) : (s.onMem f).power = s.power := rfl
@[simp] theorem State.onMem_bb (f : MemSt → MemSt) (s : State) : (s.onMem f).bb = s.bb := rfl
@[simp] theorem State.onMem_pins (f : MemSt → MemSt) (s : State) : (s.onMem f).pins = s.pins := rfl
@[simp] theorem State.onMem_units (f : MemSt → MemSt) (s : State) : (s.onMem f).units = s.units := rfl
@[simp] theorem State.onMem_freeCtr (f : MemSt → MemSt) (s : State) : (s.onMem f).freeCtr = s.freeCtr := rfl
@[simp] theorem State.onMem_pending (f : MemSt → MemSt) (s : State) : (s.onMem f).pending = s.pending := rfl

/-! ## onLinks -/

@[simp] theorem State.onLinks_beat (f : LinksSt → LinksSt) (s : State) : (s.onLinks f).beat = s.beat := rfl
@[simp] theorem State.onLinks_plan (f : LinksSt → LinksSt) (s : State) : (s.onLinks f).plan = s.plan := rfl
@[simp] theorem State.onLinks_clusters (f : LinksSt → LinksSt) (s : State) : (s.onLinks f).clusters = s.clusters := rfl
@[simp] theorem State.onLinks_nmus (f : LinksSt → LinksSt) (s : State) : (s.onLinks f).nmus = s.nmus := rfl
@[simp] theorem State.onLinks_merges (f : LinksSt → LinksSt) (s : State) : (s.onLinks f).merges = s.merges := rfl
@[simp] theorem State.onLinks_pages (f : LinksSt → LinksSt) (s : State) : (s.onLinks f).pages = s.pages := rfl
@[simp] theorem State.onLinks_yard (f : LinksSt → LinksSt) (s : State) : (s.onLinks f).yard = s.yard := rfl
@[simp] theorem State.onLinks_mem (f : LinksSt → LinksSt) (s : State) : (s.onLinks f).mem = s.mem := rfl
@[simp] theorem State.onLinks_links (f : LinksSt → LinksSt) (s : State) : (s.onLinks f).links = f s.links := rfl
@[simp] theorem State.onLinks_audio (f : LinksSt → LinksSt) (s : State) : (s.onLinks f).audio = s.audio := rfl
@[simp] theorem State.onLinks_ctrl (f : LinksSt → LinksSt) (s : State) : (s.onLinks f).ctrl = s.ctrl := rfl
@[simp] theorem State.onLinks_safe (f : LinksSt → LinksSt) (s : State) : (s.onLinks f).safe = s.safe := rfl
@[simp] theorem State.onLinks_rot (f : LinksSt → LinksSt) (s : State) : (s.onLinks f).rot = s.rot := rfl
@[simp] theorem State.onLinks_power (f : LinksSt → LinksSt) (s : State) : (s.onLinks f).power = s.power := rfl
@[simp] theorem State.onLinks_bb (f : LinksSt → LinksSt) (s : State) : (s.onLinks f).bb = s.bb := rfl
@[simp] theorem State.onLinks_pins (f : LinksSt → LinksSt) (s : State) : (s.onLinks f).pins = s.pins := rfl
@[simp] theorem State.onLinks_units (f : LinksSt → LinksSt) (s : State) : (s.onLinks f).units = s.units := rfl
@[simp] theorem State.onLinks_freeCtr (f : LinksSt → LinksSt) (s : State) : (s.onLinks f).freeCtr = s.freeCtr := rfl
@[simp] theorem State.onLinks_pending (f : LinksSt → LinksSt) (s : State) : (s.onLinks f).pending = s.pending := rfl

/-! ## onAudio -/

@[simp] theorem State.onAudio_beat (f : AudioSt → AudioSt) (s : State) : (s.onAudio f).beat = s.beat := rfl
@[simp] theorem State.onAudio_plan (f : AudioSt → AudioSt) (s : State) : (s.onAudio f).plan = s.plan := rfl
@[simp] theorem State.onAudio_clusters (f : AudioSt → AudioSt) (s : State) : (s.onAudio f).clusters = s.clusters := rfl
@[simp] theorem State.onAudio_nmus (f : AudioSt → AudioSt) (s : State) : (s.onAudio f).nmus = s.nmus := rfl
@[simp] theorem State.onAudio_merges (f : AudioSt → AudioSt) (s : State) : (s.onAudio f).merges = s.merges := rfl
@[simp] theorem State.onAudio_pages (f : AudioSt → AudioSt) (s : State) : (s.onAudio f).pages = s.pages := rfl
@[simp] theorem State.onAudio_yard (f : AudioSt → AudioSt) (s : State) : (s.onAudio f).yard = s.yard := rfl
@[simp] theorem State.onAudio_mem (f : AudioSt → AudioSt) (s : State) : (s.onAudio f).mem = s.mem := rfl
@[simp] theorem State.onAudio_links (f : AudioSt → AudioSt) (s : State) : (s.onAudio f).links = s.links := rfl
@[simp] theorem State.onAudio_audio (f : AudioSt → AudioSt) (s : State) : (s.onAudio f).audio = f s.audio := rfl
@[simp] theorem State.onAudio_ctrl (f : AudioSt → AudioSt) (s : State) : (s.onAudio f).ctrl = s.ctrl := rfl
@[simp] theorem State.onAudio_safe (f : AudioSt → AudioSt) (s : State) : (s.onAudio f).safe = s.safe := rfl
@[simp] theorem State.onAudio_rot (f : AudioSt → AudioSt) (s : State) : (s.onAudio f).rot = s.rot := rfl
@[simp] theorem State.onAudio_power (f : AudioSt → AudioSt) (s : State) : (s.onAudio f).power = s.power := rfl
@[simp] theorem State.onAudio_bb (f : AudioSt → AudioSt) (s : State) : (s.onAudio f).bb = s.bb := rfl
@[simp] theorem State.onAudio_pins (f : AudioSt → AudioSt) (s : State) : (s.onAudio f).pins = s.pins := rfl
@[simp] theorem State.onAudio_units (f : AudioSt → AudioSt) (s : State) : (s.onAudio f).units = s.units := rfl
@[simp] theorem State.onAudio_freeCtr (f : AudioSt → AudioSt) (s : State) : (s.onAudio f).freeCtr = s.freeCtr := rfl
@[simp] theorem State.onAudio_pending (f : AudioSt → AudioSt) (s : State) : (s.onAudio f).pending = s.pending := rfl

/-! ## onCtrl -/

@[simp] theorem State.onCtrl_beat (f : CtrlSt → CtrlSt) (s : State) : (s.onCtrl f).beat = s.beat := rfl
@[simp] theorem State.onCtrl_plan (f : CtrlSt → CtrlSt) (s : State) : (s.onCtrl f).plan = s.plan := rfl
@[simp] theorem State.onCtrl_clusters (f : CtrlSt → CtrlSt) (s : State) : (s.onCtrl f).clusters = s.clusters := rfl
@[simp] theorem State.onCtrl_nmus (f : CtrlSt → CtrlSt) (s : State) : (s.onCtrl f).nmus = s.nmus := rfl
@[simp] theorem State.onCtrl_merges (f : CtrlSt → CtrlSt) (s : State) : (s.onCtrl f).merges = s.merges := rfl
@[simp] theorem State.onCtrl_pages (f : CtrlSt → CtrlSt) (s : State) : (s.onCtrl f).pages = s.pages := rfl
@[simp] theorem State.onCtrl_yard (f : CtrlSt → CtrlSt) (s : State) : (s.onCtrl f).yard = s.yard := rfl
@[simp] theorem State.onCtrl_mem (f : CtrlSt → CtrlSt) (s : State) : (s.onCtrl f).mem = s.mem := rfl
@[simp] theorem State.onCtrl_links (f : CtrlSt → CtrlSt) (s : State) : (s.onCtrl f).links = s.links := rfl
@[simp] theorem State.onCtrl_audio (f : CtrlSt → CtrlSt) (s : State) : (s.onCtrl f).audio = s.audio := rfl
@[simp] theorem State.onCtrl_ctrl (f : CtrlSt → CtrlSt) (s : State) : (s.onCtrl f).ctrl = f s.ctrl := rfl
@[simp] theorem State.onCtrl_safe (f : CtrlSt → CtrlSt) (s : State) : (s.onCtrl f).safe = s.safe := rfl
@[simp] theorem State.onCtrl_rot (f : CtrlSt → CtrlSt) (s : State) : (s.onCtrl f).rot = s.rot := rfl
@[simp] theorem State.onCtrl_power (f : CtrlSt → CtrlSt) (s : State) : (s.onCtrl f).power = s.power := rfl
@[simp] theorem State.onCtrl_bb (f : CtrlSt → CtrlSt) (s : State) : (s.onCtrl f).bb = s.bb := rfl
@[simp] theorem State.onCtrl_pins (f : CtrlSt → CtrlSt) (s : State) : (s.onCtrl f).pins = s.pins := rfl
@[simp] theorem State.onCtrl_units (f : CtrlSt → CtrlSt) (s : State) : (s.onCtrl f).units = s.units := rfl
@[simp] theorem State.onCtrl_freeCtr (f : CtrlSt → CtrlSt) (s : State) : (s.onCtrl f).freeCtr = s.freeCtr := rfl
@[simp] theorem State.onCtrl_pending (f : CtrlSt → CtrlSt) (s : State) : (s.onCtrl f).pending = s.pending := rfl

/-! ## onSafe -/

@[simp] theorem State.onSafe_beat (f : SafeSt → SafeSt) (s : State) : (s.onSafe f).beat = s.beat := rfl
@[simp] theorem State.onSafe_plan (f : SafeSt → SafeSt) (s : State) : (s.onSafe f).plan = s.plan := rfl
@[simp] theorem State.onSafe_clusters (f : SafeSt → SafeSt) (s : State) : (s.onSafe f).clusters = s.clusters := rfl
@[simp] theorem State.onSafe_nmus (f : SafeSt → SafeSt) (s : State) : (s.onSafe f).nmus = s.nmus := rfl
@[simp] theorem State.onSafe_merges (f : SafeSt → SafeSt) (s : State) : (s.onSafe f).merges = s.merges := rfl
@[simp] theorem State.onSafe_pages (f : SafeSt → SafeSt) (s : State) : (s.onSafe f).pages = s.pages := rfl
@[simp] theorem State.onSafe_yard (f : SafeSt → SafeSt) (s : State) : (s.onSafe f).yard = s.yard := rfl
@[simp] theorem State.onSafe_mem (f : SafeSt → SafeSt) (s : State) : (s.onSafe f).mem = s.mem := rfl
@[simp] theorem State.onSafe_links (f : SafeSt → SafeSt) (s : State) : (s.onSafe f).links = s.links := rfl
@[simp] theorem State.onSafe_audio (f : SafeSt → SafeSt) (s : State) : (s.onSafe f).audio = s.audio := rfl
@[simp] theorem State.onSafe_ctrl (f : SafeSt → SafeSt) (s : State) : (s.onSafe f).ctrl = s.ctrl := rfl
@[simp] theorem State.onSafe_safe (f : SafeSt → SafeSt) (s : State) : (s.onSafe f).safe = f s.safe := rfl
@[simp] theorem State.onSafe_rot (f : SafeSt → SafeSt) (s : State) : (s.onSafe f).rot = s.rot := rfl
@[simp] theorem State.onSafe_power (f : SafeSt → SafeSt) (s : State) : (s.onSafe f).power = s.power := rfl
@[simp] theorem State.onSafe_bb (f : SafeSt → SafeSt) (s : State) : (s.onSafe f).bb = s.bb := rfl
@[simp] theorem State.onSafe_pins (f : SafeSt → SafeSt) (s : State) : (s.onSafe f).pins = s.pins := rfl
@[simp] theorem State.onSafe_units (f : SafeSt → SafeSt) (s : State) : (s.onSafe f).units = s.units := rfl
@[simp] theorem State.onSafe_freeCtr (f : SafeSt → SafeSt) (s : State) : (s.onSafe f).freeCtr = s.freeCtr := rfl
@[simp] theorem State.onSafe_pending (f : SafeSt → SafeSt) (s : State) : (s.onSafe f).pending = s.pending := rfl

/-! ## onRot -/

@[simp] theorem State.onRot_beat (f : RotSt → RotSt) (s : State) : (s.onRot f).beat = s.beat := rfl
@[simp] theorem State.onRot_plan (f : RotSt → RotSt) (s : State) : (s.onRot f).plan = s.plan := rfl
@[simp] theorem State.onRot_clusters (f : RotSt → RotSt) (s : State) : (s.onRot f).clusters = s.clusters := rfl
@[simp] theorem State.onRot_nmus (f : RotSt → RotSt) (s : State) : (s.onRot f).nmus = s.nmus := rfl
@[simp] theorem State.onRot_merges (f : RotSt → RotSt) (s : State) : (s.onRot f).merges = s.merges := rfl
@[simp] theorem State.onRot_pages (f : RotSt → RotSt) (s : State) : (s.onRot f).pages = s.pages := rfl
@[simp] theorem State.onRot_yard (f : RotSt → RotSt) (s : State) : (s.onRot f).yard = s.yard := rfl
@[simp] theorem State.onRot_mem (f : RotSt → RotSt) (s : State) : (s.onRot f).mem = s.mem := rfl
@[simp] theorem State.onRot_links (f : RotSt → RotSt) (s : State) : (s.onRot f).links = s.links := rfl
@[simp] theorem State.onRot_audio (f : RotSt → RotSt) (s : State) : (s.onRot f).audio = s.audio := rfl
@[simp] theorem State.onRot_ctrl (f : RotSt → RotSt) (s : State) : (s.onRot f).ctrl = s.ctrl := rfl
@[simp] theorem State.onRot_safe (f : RotSt → RotSt) (s : State) : (s.onRot f).safe = s.safe := rfl
@[simp] theorem State.onRot_rot (f : RotSt → RotSt) (s : State) : (s.onRot f).rot = f s.rot := rfl
@[simp] theorem State.onRot_power (f : RotSt → RotSt) (s : State) : (s.onRot f).power = s.power := rfl
@[simp] theorem State.onRot_bb (f : RotSt → RotSt) (s : State) : (s.onRot f).bb = s.bb := rfl
@[simp] theorem State.onRot_pins (f : RotSt → RotSt) (s : State) : (s.onRot f).pins = s.pins := rfl
@[simp] theorem State.onRot_units (f : RotSt → RotSt) (s : State) : (s.onRot f).units = s.units := rfl
@[simp] theorem State.onRot_freeCtr (f : RotSt → RotSt) (s : State) : (s.onRot f).freeCtr = s.freeCtr := rfl
@[simp] theorem State.onRot_pending (f : RotSt → RotSt) (s : State) : (s.onRot f).pending = s.pending := rfl

/-! ## onPower -/

@[simp] theorem State.onPower_beat (f : PowerSt → PowerSt) (s : State) : (s.onPower f).beat = s.beat := rfl
@[simp] theorem State.onPower_plan (f : PowerSt → PowerSt) (s : State) : (s.onPower f).plan = s.plan := rfl
@[simp] theorem State.onPower_clusters (f : PowerSt → PowerSt) (s : State) : (s.onPower f).clusters = s.clusters := rfl
@[simp] theorem State.onPower_nmus (f : PowerSt → PowerSt) (s : State) : (s.onPower f).nmus = s.nmus := rfl
@[simp] theorem State.onPower_merges (f : PowerSt → PowerSt) (s : State) : (s.onPower f).merges = s.merges := rfl
@[simp] theorem State.onPower_pages (f : PowerSt → PowerSt) (s : State) : (s.onPower f).pages = s.pages := rfl
@[simp] theorem State.onPower_yard (f : PowerSt → PowerSt) (s : State) : (s.onPower f).yard = s.yard := rfl
@[simp] theorem State.onPower_mem (f : PowerSt → PowerSt) (s : State) : (s.onPower f).mem = s.mem := rfl
@[simp] theorem State.onPower_links (f : PowerSt → PowerSt) (s : State) : (s.onPower f).links = s.links := rfl
@[simp] theorem State.onPower_audio (f : PowerSt → PowerSt) (s : State) : (s.onPower f).audio = s.audio := rfl
@[simp] theorem State.onPower_ctrl (f : PowerSt → PowerSt) (s : State) : (s.onPower f).ctrl = s.ctrl := rfl
@[simp] theorem State.onPower_safe (f : PowerSt → PowerSt) (s : State) : (s.onPower f).safe = s.safe := rfl
@[simp] theorem State.onPower_rot (f : PowerSt → PowerSt) (s : State) : (s.onPower f).rot = s.rot := rfl
@[simp] theorem State.onPower_power (f : PowerSt → PowerSt) (s : State) : (s.onPower f).power = f s.power := rfl
@[simp] theorem State.onPower_bb (f : PowerSt → PowerSt) (s : State) : (s.onPower f).bb = s.bb := rfl
@[simp] theorem State.onPower_pins (f : PowerSt → PowerSt) (s : State) : (s.onPower f).pins = s.pins := rfl
@[simp] theorem State.onPower_units (f : PowerSt → PowerSt) (s : State) : (s.onPower f).units = s.units := rfl
@[simp] theorem State.onPower_freeCtr (f : PowerSt → PowerSt) (s : State) : (s.onPower f).freeCtr = s.freeCtr := rfl
@[simp] theorem State.onPower_pending (f : PowerSt → PowerSt) (s : State) : (s.onPower f).pending = s.pending := rfl

/-! ## onBb -/

@[simp] theorem State.onBb_beat (f : BbSt → BbSt) (s : State) : (s.onBb f).beat = s.beat := rfl
@[simp] theorem State.onBb_plan (f : BbSt → BbSt) (s : State) : (s.onBb f).plan = s.plan := rfl
@[simp] theorem State.onBb_clusters (f : BbSt → BbSt) (s : State) : (s.onBb f).clusters = s.clusters := rfl
@[simp] theorem State.onBb_nmus (f : BbSt → BbSt) (s : State) : (s.onBb f).nmus = s.nmus := rfl
@[simp] theorem State.onBb_merges (f : BbSt → BbSt) (s : State) : (s.onBb f).merges = s.merges := rfl
@[simp] theorem State.onBb_pages (f : BbSt → BbSt) (s : State) : (s.onBb f).pages = s.pages := rfl
@[simp] theorem State.onBb_yard (f : BbSt → BbSt) (s : State) : (s.onBb f).yard = s.yard := rfl
@[simp] theorem State.onBb_mem (f : BbSt → BbSt) (s : State) : (s.onBb f).mem = s.mem := rfl
@[simp] theorem State.onBb_links (f : BbSt → BbSt) (s : State) : (s.onBb f).links = s.links := rfl
@[simp] theorem State.onBb_audio (f : BbSt → BbSt) (s : State) : (s.onBb f).audio = s.audio := rfl
@[simp] theorem State.onBb_ctrl (f : BbSt → BbSt) (s : State) : (s.onBb f).ctrl = s.ctrl := rfl
@[simp] theorem State.onBb_safe (f : BbSt → BbSt) (s : State) : (s.onBb f).safe = s.safe := rfl
@[simp] theorem State.onBb_rot (f : BbSt → BbSt) (s : State) : (s.onBb f).rot = s.rot := rfl
@[simp] theorem State.onBb_power (f : BbSt → BbSt) (s : State) : (s.onBb f).power = s.power := rfl
@[simp] theorem State.onBb_bb (f : BbSt → BbSt) (s : State) : (s.onBb f).bb = f s.bb := rfl
@[simp] theorem State.onBb_pins (f : BbSt → BbSt) (s : State) : (s.onBb f).pins = s.pins := rfl
@[simp] theorem State.onBb_units (f : BbSt → BbSt) (s : State) : (s.onBb f).units = s.units := rfl
@[simp] theorem State.onBb_freeCtr (f : BbSt → BbSt) (s : State) : (s.onBb f).freeCtr = s.freeCtr := rfl
@[simp] theorem State.onBb_pending (f : BbSt → BbSt) (s : State) : (s.onBb f).pending = s.pending := rfl

/-! ## onPins -/

@[simp] theorem State.onPins_beat (f : PinsSt → PinsSt) (s : State) : (s.onPins f).beat = s.beat := rfl
@[simp] theorem State.onPins_plan (f : PinsSt → PinsSt) (s : State) : (s.onPins f).plan = s.plan := rfl
@[simp] theorem State.onPins_clusters (f : PinsSt → PinsSt) (s : State) : (s.onPins f).clusters = s.clusters := rfl
@[simp] theorem State.onPins_nmus (f : PinsSt → PinsSt) (s : State) : (s.onPins f).nmus = s.nmus := rfl
@[simp] theorem State.onPins_merges (f : PinsSt → PinsSt) (s : State) : (s.onPins f).merges = s.merges := rfl
@[simp] theorem State.onPins_pages (f : PinsSt → PinsSt) (s : State) : (s.onPins f).pages = s.pages := rfl
@[simp] theorem State.onPins_yard (f : PinsSt → PinsSt) (s : State) : (s.onPins f).yard = s.yard := rfl
@[simp] theorem State.onPins_mem (f : PinsSt → PinsSt) (s : State) : (s.onPins f).mem = s.mem := rfl
@[simp] theorem State.onPins_links (f : PinsSt → PinsSt) (s : State) : (s.onPins f).links = s.links := rfl
@[simp] theorem State.onPins_audio (f : PinsSt → PinsSt) (s : State) : (s.onPins f).audio = s.audio := rfl
@[simp] theorem State.onPins_ctrl (f : PinsSt → PinsSt) (s : State) : (s.onPins f).ctrl = s.ctrl := rfl
@[simp] theorem State.onPins_safe (f : PinsSt → PinsSt) (s : State) : (s.onPins f).safe = s.safe := rfl
@[simp] theorem State.onPins_rot (f : PinsSt → PinsSt) (s : State) : (s.onPins f).rot = s.rot := rfl
@[simp] theorem State.onPins_power (f : PinsSt → PinsSt) (s : State) : (s.onPins f).power = s.power := rfl
@[simp] theorem State.onPins_bb (f : PinsSt → PinsSt) (s : State) : (s.onPins f).bb = s.bb := rfl
@[simp] theorem State.onPins_pins (f : PinsSt → PinsSt) (s : State) : (s.onPins f).pins = f s.pins := rfl
@[simp] theorem State.onPins_units (f : PinsSt → PinsSt) (s : State) : (s.onPins f).units = s.units := rfl
@[simp] theorem State.onPins_freeCtr (f : PinsSt → PinsSt) (s : State) : (s.onPins f).freeCtr = s.freeCtr := rfl
@[simp] theorem State.onPins_pending (f : PinsSt → PinsSt) (s : State) : (s.onPins f).pending = s.pending := rfl

/-! ## onUnits -/

@[simp] theorem State.onUnits_beat (f : UnitsSt → UnitsSt) (s : State) : (s.onUnits f).beat = s.beat := rfl
@[simp] theorem State.onUnits_plan (f : UnitsSt → UnitsSt) (s : State) : (s.onUnits f).plan = s.plan := rfl
@[simp] theorem State.onUnits_clusters (f : UnitsSt → UnitsSt) (s : State) : (s.onUnits f).clusters = s.clusters := rfl
@[simp] theorem State.onUnits_nmus (f : UnitsSt → UnitsSt) (s : State) : (s.onUnits f).nmus = s.nmus := rfl
@[simp] theorem State.onUnits_merges (f : UnitsSt → UnitsSt) (s : State) : (s.onUnits f).merges = s.merges := rfl
@[simp] theorem State.onUnits_pages (f : UnitsSt → UnitsSt) (s : State) : (s.onUnits f).pages = s.pages := rfl
@[simp] theorem State.onUnits_yard (f : UnitsSt → UnitsSt) (s : State) : (s.onUnits f).yard = s.yard := rfl
@[simp] theorem State.onUnits_mem (f : UnitsSt → UnitsSt) (s : State) : (s.onUnits f).mem = s.mem := rfl
@[simp] theorem State.onUnits_links (f : UnitsSt → UnitsSt) (s : State) : (s.onUnits f).links = s.links := rfl
@[simp] theorem State.onUnits_audio (f : UnitsSt → UnitsSt) (s : State) : (s.onUnits f).audio = s.audio := rfl
@[simp] theorem State.onUnits_ctrl (f : UnitsSt → UnitsSt) (s : State) : (s.onUnits f).ctrl = s.ctrl := rfl
@[simp] theorem State.onUnits_safe (f : UnitsSt → UnitsSt) (s : State) : (s.onUnits f).safe = s.safe := rfl
@[simp] theorem State.onUnits_rot (f : UnitsSt → UnitsSt) (s : State) : (s.onUnits f).rot = s.rot := rfl
@[simp] theorem State.onUnits_power (f : UnitsSt → UnitsSt) (s : State) : (s.onUnits f).power = s.power := rfl
@[simp] theorem State.onUnits_bb (f : UnitsSt → UnitsSt) (s : State) : (s.onUnits f).bb = s.bb := rfl
@[simp] theorem State.onUnits_pins (f : UnitsSt → UnitsSt) (s : State) : (s.onUnits f).pins = s.pins := rfl
@[simp] theorem State.onUnits_units (f : UnitsSt → UnitsSt) (s : State) : (s.onUnits f).units = f s.units := rfl
@[simp] theorem State.onUnits_freeCtr (f : UnitsSt → UnitsSt) (s : State) : (s.onUnits f).freeCtr = s.freeCtr := rfl
@[simp] theorem State.onUnits_pending (f : UnitsSt → UnitsSt) (s : State) : (s.onUnits f).pending = s.pending := rfl

/-! ## onCluster -/

@[simp] theorem State.onCluster_beat (c : Nat) (f : ClusterSt → ClusterSt) (s : State) : (s.onCluster c f).beat = s.beat := rfl
@[simp] theorem State.onCluster_plan (c : Nat) (f : ClusterSt → ClusterSt) (s : State) : (s.onCluster c f).plan = s.plan := rfl
@[simp] theorem State.onCluster_clusters (c : Nat) (f : ClusterSt → ClusterSt) (s : State) : (s.onCluster c f).clusters = s.clusters.modify c f := rfl
@[simp] theorem State.onCluster_nmus (c : Nat) (f : ClusterSt → ClusterSt) (s : State) : (s.onCluster c f).nmus = s.nmus := rfl
@[simp] theorem State.onCluster_merges (c : Nat) (f : ClusterSt → ClusterSt) (s : State) : (s.onCluster c f).merges = s.merges := rfl
@[simp] theorem State.onCluster_pages (c : Nat) (f : ClusterSt → ClusterSt) (s : State) : (s.onCluster c f).pages = s.pages := rfl
@[simp] theorem State.onCluster_yard (c : Nat) (f : ClusterSt → ClusterSt) (s : State) : (s.onCluster c f).yard = s.yard := rfl
@[simp] theorem State.onCluster_mem (c : Nat) (f : ClusterSt → ClusterSt) (s : State) : (s.onCluster c f).mem = s.mem := rfl
@[simp] theorem State.onCluster_links (c : Nat) (f : ClusterSt → ClusterSt) (s : State) : (s.onCluster c f).links = s.links := rfl
@[simp] theorem State.onCluster_audio (c : Nat) (f : ClusterSt → ClusterSt) (s : State) : (s.onCluster c f).audio = s.audio := rfl
@[simp] theorem State.onCluster_ctrl (c : Nat) (f : ClusterSt → ClusterSt) (s : State) : (s.onCluster c f).ctrl = s.ctrl := rfl
@[simp] theorem State.onCluster_safe (c : Nat) (f : ClusterSt → ClusterSt) (s : State) : (s.onCluster c f).safe = s.safe := rfl
@[simp] theorem State.onCluster_rot (c : Nat) (f : ClusterSt → ClusterSt) (s : State) : (s.onCluster c f).rot = s.rot := rfl
@[simp] theorem State.onCluster_power (c : Nat) (f : ClusterSt → ClusterSt) (s : State) : (s.onCluster c f).power = s.power := rfl
@[simp] theorem State.onCluster_bb (c : Nat) (f : ClusterSt → ClusterSt) (s : State) : (s.onCluster c f).bb = s.bb := rfl
@[simp] theorem State.onCluster_pins (c : Nat) (f : ClusterSt → ClusterSt) (s : State) : (s.onCluster c f).pins = s.pins := rfl
@[simp] theorem State.onCluster_units (c : Nat) (f : ClusterSt → ClusterSt) (s : State) : (s.onCluster c f).units = s.units := rfl
@[simp] theorem State.onCluster_freeCtr (c : Nat) (f : ClusterSt → ClusterSt) (s : State) : (s.onCluster c f).freeCtr = s.freeCtr := rfl
@[simp] theorem State.onCluster_pending (c : Nat) (f : ClusterSt → ClusterSt) (s : State) : (s.onCluster c f).pending = s.pending := rfl

/-! ## onNmu -/

@[simp] theorem State.onNmu_beat (i : Nat) (f : NmuSt → NmuSt) (s : State) : (s.onNmu i f).beat = s.beat := rfl
@[simp] theorem State.onNmu_plan (i : Nat) (f : NmuSt → NmuSt) (s : State) : (s.onNmu i f).plan = s.plan := rfl
@[simp] theorem State.onNmu_clusters (i : Nat) (f : NmuSt → NmuSt) (s : State) : (s.onNmu i f).clusters = s.clusters := rfl
@[simp] theorem State.onNmu_nmus (i : Nat) (f : NmuSt → NmuSt) (s : State) : (s.onNmu i f).nmus = s.nmus.modify i f := rfl
@[simp] theorem State.onNmu_merges (i : Nat) (f : NmuSt → NmuSt) (s : State) : (s.onNmu i f).merges = s.merges := rfl
@[simp] theorem State.onNmu_pages (i : Nat) (f : NmuSt → NmuSt) (s : State) : (s.onNmu i f).pages = s.pages := rfl
@[simp] theorem State.onNmu_yard (i : Nat) (f : NmuSt → NmuSt) (s : State) : (s.onNmu i f).yard = s.yard := rfl
@[simp] theorem State.onNmu_mem (i : Nat) (f : NmuSt → NmuSt) (s : State) : (s.onNmu i f).mem = s.mem := rfl
@[simp] theorem State.onNmu_links (i : Nat) (f : NmuSt → NmuSt) (s : State) : (s.onNmu i f).links = s.links := rfl
@[simp] theorem State.onNmu_audio (i : Nat) (f : NmuSt → NmuSt) (s : State) : (s.onNmu i f).audio = s.audio := rfl
@[simp] theorem State.onNmu_ctrl (i : Nat) (f : NmuSt → NmuSt) (s : State) : (s.onNmu i f).ctrl = s.ctrl := rfl
@[simp] theorem State.onNmu_safe (i : Nat) (f : NmuSt → NmuSt) (s : State) : (s.onNmu i f).safe = s.safe := rfl
@[simp] theorem State.onNmu_rot (i : Nat) (f : NmuSt → NmuSt) (s : State) : (s.onNmu i f).rot = s.rot := rfl
@[simp] theorem State.onNmu_power (i : Nat) (f : NmuSt → NmuSt) (s : State) : (s.onNmu i f).power = s.power := rfl
@[simp] theorem State.onNmu_bb (i : Nat) (f : NmuSt → NmuSt) (s : State) : (s.onNmu i f).bb = s.bb := rfl
@[simp] theorem State.onNmu_pins (i : Nat) (f : NmuSt → NmuSt) (s : State) : (s.onNmu i f).pins = s.pins := rfl
@[simp] theorem State.onNmu_units (i : Nat) (f : NmuSt → NmuSt) (s : State) : (s.onNmu i f).units = s.units := rfl
@[simp] theorem State.onNmu_freeCtr (i : Nat) (f : NmuSt → NmuSt) (s : State) : (s.onNmu i f).freeCtr = s.freeCtr := rfl
@[simp] theorem State.onNmu_pending (i : Nat) (f : NmuSt → NmuSt) (s : State) : (s.onNmu i f).pending = s.pending := rfl

/-! ## onYarder -/

@[simp] theorem State.onYarder_beat (y : Nat) (f : YarderSt → YarderSt) (s : State) : (s.onYarder y f).beat = s.beat := rfl
@[simp] theorem State.onYarder_plan (y : Nat) (f : YarderSt → YarderSt) (s : State) : (s.onYarder y f).plan = s.plan := rfl
@[simp] theorem State.onYarder_clusters (y : Nat) (f : YarderSt → YarderSt) (s : State) : (s.onYarder y f).clusters = s.clusters := rfl
@[simp] theorem State.onYarder_nmus (y : Nat) (f : YarderSt → YarderSt) (s : State) : (s.onYarder y f).nmus = s.nmus := rfl
@[simp] theorem State.onYarder_merges (y : Nat) (f : YarderSt → YarderSt) (s : State) : (s.onYarder y f).merges = s.merges := rfl
@[simp] theorem State.onYarder_pages (y : Nat) (f : YarderSt → YarderSt) (s : State) : (s.onYarder y f).pages = s.pages := rfl
@[simp] theorem State.onYarder_yard (y : Nat) (f : YarderSt → YarderSt) (s : State) : (s.onYarder y f).yard = { s.yard with yards := s.yard.yards.modify y f } := rfl
@[simp] theorem State.onYarder_mem (y : Nat) (f : YarderSt → YarderSt) (s : State) : (s.onYarder y f).mem = s.mem := rfl
@[simp] theorem State.onYarder_links (y : Nat) (f : YarderSt → YarderSt) (s : State) : (s.onYarder y f).links = s.links := rfl
@[simp] theorem State.onYarder_audio (y : Nat) (f : YarderSt → YarderSt) (s : State) : (s.onYarder y f).audio = s.audio := rfl
@[simp] theorem State.onYarder_ctrl (y : Nat) (f : YarderSt → YarderSt) (s : State) : (s.onYarder y f).ctrl = s.ctrl := rfl
@[simp] theorem State.onYarder_safe (y : Nat) (f : YarderSt → YarderSt) (s : State) : (s.onYarder y f).safe = s.safe := rfl
@[simp] theorem State.onYarder_rot (y : Nat) (f : YarderSt → YarderSt) (s : State) : (s.onYarder y f).rot = s.rot := rfl
@[simp] theorem State.onYarder_power (y : Nat) (f : YarderSt → YarderSt) (s : State) : (s.onYarder y f).power = s.power := rfl
@[simp] theorem State.onYarder_bb (y : Nat) (f : YarderSt → YarderSt) (s : State) : (s.onYarder y f).bb = s.bb := rfl
@[simp] theorem State.onYarder_pins (y : Nat) (f : YarderSt → YarderSt) (s : State) : (s.onYarder y f).pins = s.pins := rfl
@[simp] theorem State.onYarder_units (y : Nat) (f : YarderSt → YarderSt) (s : State) : (s.onYarder y f).units = s.units := rfl
@[simp] theorem State.onYarder_freeCtr (y : Nat) (f : YarderSt → YarderSt) (s : State) : (s.onYarder y f).freeCtr = s.freeCtr := rfl
@[simp] theorem State.onYarder_pending (y : Nat) (f : YarderSt → YarderSt) (s : State) : (s.onYarder y f).pending = s.pending := rfl

/-! ## onLink -/

@[simp] theorem State.onLink_beat (l : Nat) (f : LinkSt → LinkSt) (s : State) : (s.onLink l f).beat = s.beat := rfl
@[simp] theorem State.onLink_plan (l : Nat) (f : LinkSt → LinkSt) (s : State) : (s.onLink l f).plan = s.plan := rfl
@[simp] theorem State.onLink_clusters (l : Nat) (f : LinkSt → LinkSt) (s : State) : (s.onLink l f).clusters = s.clusters := rfl
@[simp] theorem State.onLink_nmus (l : Nat) (f : LinkSt → LinkSt) (s : State) : (s.onLink l f).nmus = s.nmus := rfl
@[simp] theorem State.onLink_merges (l : Nat) (f : LinkSt → LinkSt) (s : State) : (s.onLink l f).merges = s.merges := rfl
@[simp] theorem State.onLink_pages (l : Nat) (f : LinkSt → LinkSt) (s : State) : (s.onLink l f).pages = s.pages := rfl
@[simp] theorem State.onLink_yard (l : Nat) (f : LinkSt → LinkSt) (s : State) : (s.onLink l f).yard = s.yard := rfl
@[simp] theorem State.onLink_mem (l : Nat) (f : LinkSt → LinkSt) (s : State) : (s.onLink l f).mem = s.mem := rfl
@[simp] theorem State.onLink_links (l : Nat) (f : LinkSt → LinkSt) (s : State) : (s.onLink l f).links = { s.links with links := s.links.links.modify l f } := rfl
@[simp] theorem State.onLink_audio (l : Nat) (f : LinkSt → LinkSt) (s : State) : (s.onLink l f).audio = s.audio := rfl
@[simp] theorem State.onLink_ctrl (l : Nat) (f : LinkSt → LinkSt) (s : State) : (s.onLink l f).ctrl = s.ctrl := rfl
@[simp] theorem State.onLink_safe (l : Nat) (f : LinkSt → LinkSt) (s : State) : (s.onLink l f).safe = s.safe := rfl
@[simp] theorem State.onLink_rot (l : Nat) (f : LinkSt → LinkSt) (s : State) : (s.onLink l f).rot = s.rot := rfl
@[simp] theorem State.onLink_power (l : Nat) (f : LinkSt → LinkSt) (s : State) : (s.onLink l f).power = s.power := rfl
@[simp] theorem State.onLink_bb (l : Nat) (f : LinkSt → LinkSt) (s : State) : (s.onLink l f).bb = s.bb := rfl
@[simp] theorem State.onLink_pins (l : Nat) (f : LinkSt → LinkSt) (s : State) : (s.onLink l f).pins = s.pins := rfl
@[simp] theorem State.onLink_units (l : Nat) (f : LinkSt → LinkSt) (s : State) : (s.onLink l f).units = s.units := rfl
@[simp] theorem State.onLink_freeCtr (l : Nat) (f : LinkSt → LinkSt) (s : State) : (s.onLink l f).freeCtr = s.freeCtr := rfl
@[simp] theorem State.onLink_pending (l : Nat) (f : LinkSt → LinkSt) (s : State) : (s.onLink l f).pending = s.pending := rfl

/-! ## onDev -/

@[simp] theorem State.onDev_beat (f : Mem → Mem) (s : State) : (s.onDev f).beat = s.beat := rfl
@[simp] theorem State.onDev_plan (f : Mem → Mem) (s : State) : (s.onDev f).plan = s.plan := rfl
@[simp] theorem State.onDev_clusters (f : Mem → Mem) (s : State) : (s.onDev f).clusters = s.clusters := rfl
@[simp] theorem State.onDev_nmus (f : Mem → Mem) (s : State) : (s.onDev f).nmus = s.nmus := rfl
@[simp] theorem State.onDev_merges (f : Mem → Mem) (s : State) : (s.onDev f).merges = s.merges := rfl
@[simp] theorem State.onDev_pages (f : Mem → Mem) (s : State) : (s.onDev f).pages = s.pages := rfl
@[simp] theorem State.onDev_yard (f : Mem → Mem) (s : State) : (s.onDev f).yard = s.yard := rfl
@[simp] theorem State.onDev_mem (f : Mem → Mem) (s : State) : (s.onDev f).mem = { s.mem with dev := f s.mem.dev } := rfl
@[simp] theorem State.onDev_links (f : Mem → Mem) (s : State) : (s.onDev f).links = s.links := rfl
@[simp] theorem State.onDev_audio (f : Mem → Mem) (s : State) : (s.onDev f).audio = s.audio := rfl
@[simp] theorem State.onDev_ctrl (f : Mem → Mem) (s : State) : (s.onDev f).ctrl = s.ctrl := rfl
@[simp] theorem State.onDev_safe (f : Mem → Mem) (s : State) : (s.onDev f).safe = s.safe := rfl
@[simp] theorem State.onDev_rot (f : Mem → Mem) (s : State) : (s.onDev f).rot = s.rot := rfl
@[simp] theorem State.onDev_power (f : Mem → Mem) (s : State) : (s.onDev f).power = s.power := rfl
@[simp] theorem State.onDev_bb (f : Mem → Mem) (s : State) : (s.onDev f).bb = s.bb := rfl
@[simp] theorem State.onDev_pins (f : Mem → Mem) (s : State) : (s.onDev f).pins = s.pins := rfl
@[simp] theorem State.onDev_units (f : Mem → Mem) (s : State) : (s.onDev f).units = s.units := rfl
@[simp] theorem State.onDev_freeCtr (f : Mem → Mem) (s : State) : (s.onDev f).freeCtr = s.freeCtr := rfl
@[simp] theorem State.onDev_pending (f : Mem → Mem) (s : State) : (s.onDev f).pending = s.pending := rfl

/-! ## Free values -/

@[simp] theorem State.free_beat (s : State) : s.free.2.beat = s.beat := rfl
@[simp] theorem State.free_plan (s : State) : s.free.2.plan = s.plan := rfl
@[simp] theorem State.free_clusters (s : State) : s.free.2.clusters = s.clusters := rfl
@[simp] theorem State.free_nmus (s : State) : s.free.2.nmus = s.nmus := rfl
@[simp] theorem State.free_merges (s : State) : s.free.2.merges = s.merges := rfl
@[simp] theorem State.free_pages (s : State) : s.free.2.pages = s.pages := rfl
@[simp] theorem State.free_yard (s : State) : s.free.2.yard = s.yard := rfl
@[simp] theorem State.free_mem (s : State) : s.free.2.mem = s.mem := rfl
@[simp] theorem State.free_links (s : State) : s.free.2.links = s.links := rfl
@[simp] theorem State.free_audio (s : State) : s.free.2.audio = s.audio := rfl
@[simp] theorem State.free_ctrl (s : State) : s.free.2.ctrl = s.ctrl := rfl
@[simp] theorem State.free_safe (s : State) : s.free.2.safe = s.safe := rfl
@[simp] theorem State.free_rot (s : State) : s.free.2.rot = s.rot := rfl
@[simp] theorem State.free_power (s : State) : s.free.2.power = s.power := rfl
@[simp] theorem State.free_bb (s : State) : s.free.2.bb = s.bb := rfl
@[simp] theorem State.free_pins (s : State) : s.free.2.pins = s.pins := rfl
@[simp] theorem State.free_units (s : State) : s.free.2.units = s.units := rfl
@[simp] theorem State.free_freeCtr (s : State) : s.free.2.freeCtr = s.freeCtr + 1 := rfl
@[simp] theorem State.free_pending (s : State) : s.free.2.pending = s.pending := rfl

end Sys2Proof.Machine
end

