-- ==== Sys2Proof/Tests/Slice0.lean ====
section
/-! SUPPORT. Our own tests: an ill-formed command for each check of `WellFormed.lean`, examples of single operations worked out
from the spec, and for each statement with hypotheses a state and operands that meet them. -/

-- one proof at a time, which bounds the memory that the kernel's evaluations take
set_option Elab.async false

open Sys2Proof Sys2Proof.Machine

/-! ## What `WellFormed` refuses -/

/-- A message of `n` payload bytes for client 0, mailbox 0, as the header of R466 wants it. -/
def testMsg (p : List Byte) : Msg :=
  { client := 0, mbox := 0, ownWord := 1, seq := 7, plen := p.length, refAddr := 0, refLen := 0, refSpace := 0, rsvd1D := 0,
    rsvd30 := 0, payload := p }
/-- A VE word with every field 0. -/
def testVe : VEWord := { fmt := 0, zm := false, msk := 0, vd := 0, va := 0, vb := 0, vc := 0, imm := 0 }
/-- A frame of `n` body bytes. -/
def testFrame (n : Nat) : Frame :=
  { ctl := 0, domain := 0, len := BitVec.ofNat 16 n, dest := 0, dstream := 0, seq := 0, body := List.replicate n 0,
    tag := List.replicate 16 0, crc := 0 }

/-- A frame that reaches a receiver with no symbol in error. -/
def testRx (f : Frame) : RxFrame := { fr := f, cw := [], sym := 0 }

theorem test_wf_engine_numbers : ([.commandStart (.cluster 8) 0, .commandStart (.gemv 16) 0, .watchdogTrip (.att 16),
    .watchdogTrip (.yarder 32)] : List Instr).all (fun i => !i.wf) = true := by decide
theorem test_wf_unit_numbers : ([.faultFence ⟨.cluster, 8⟩ false false, .fenceDataMoveComplete ⟨.nmu, 16⟩ false false,
    .unitReturn ⟨.link, 24⟩, .catchUpCalibration ⟨.cxl, 4⟩, .catchUpCalibration ⟨.sap, 4⟩, .unitReturn ⟨.pdm, 8⟩] :
    List Instr).all (fun i => !i.wf) = true := by decide
theorem test_wf_checkers : ([.clusterEcc 8, .clusterSfu 8, .clusterWd 8, .nmuWd 16, .nmuEcc 16, .nmuFw 16, .yarderWd 32, .sliceFw 16,
    .sliceEcc 16, .cxlFw 4, .cxlPoison 4, .linkFw 24, .linkFrame 24] : List Checker).all
    (fun c => !(Instr.selfTestSlice none 0 [(.afe, true), (c, true)]).wf) = true := by decide
theorem test_wf_self_test_engine : (Instr.selfTestSlice (some (.cluster 8)) 0 []).wf = false := by decide
theorem test_wf_cluster_of_vector_commands : ([Instr.nop, Instr.add, Instr.sub, Instr.mul, Instr.fma, Instr.max, Instr.min, Instr.abs,
    Instr.neg, Instr.ceq, Instr.clt, Instr.cle, Instr.cun, Instr.sel, Instr.cvt, Instr.pack, Instr.unpk, Instr.lqu8, Instr.lqs8,
    Instr.ldq, Instr.perm, Instr.shuf, Instr.iadd, Instr.iand, Instr.ior, Instr.ixor, Instr.ishl, Instr.ishr, Instr.iota, Instr.mand,
    Instr.mor, Instr.mxor, Instr.mnot, Instr.ld, Instr.st, Instr.rsum, Instr.rmax, Instr.rmin, Instr.ramax, Instr.rugo, Instr.ruwait,
    Instr.rurd, Instr.rufin, Instr.sfn, Instr.smov, Instr.sadd, Instr.sget, Instr.tin, Instr.tout, Instr.loop, Instr.endl, Instr.ska,
    Instr.skn, Instr.endP] : List (Nat → VEWord → Instr)).all (fun i => !(i 8 testVe).wf && (i 7 testVe).wf) = true := by decide
theorem test_wf_cluster_of_others : ([.matmul 8 (zeros 32) false, .arrayStall 8 0, .veprog 8 (zeros 32) false, .ruPass 8,
    .scanChunk 8 (zeros 32) [], .scanStep 8 (zeros 32) [], .scanZero 8 (zeros 32)] : List Instr).all (fun i => !i.wf) = true := by decide
theorem test_wf_word_lengths : ([.matmul 0 (zeros 31) false, .veprog 0 (zeros 33) false, .scanChunk 0 [] [], .scanStep 0 (zeros 64) [],
    .scanZero 0 (zeros 31), .sfuBankLoad 0 0 [], .gemv 0 (zeros 32) 0, .attScore 0 (zeros 63) 0, .attValue 0 [] 0,
    .kvput 0 (zeros 64) 0, .kvseal 0 (zeros 31) 0, .gemv 0 (zeros 64) 4, .kvseal 0 (zeros 32) 4, .stream 0 (zeros 32), .copy 0 (zeros 65)] :
    List Instr).all (fun i => !i.wf) = true := by decide
theorem test_wf_nmu_numbers : ([.gemv 16 (zeros 64) 0, .attScore 16 (zeros 64) 0, .attValue 16 (zeros 64) 0,
    .kvput 16 (zeros 32) 0, .kvseal 16 (zeros 32) 0, .patrolScrub 16 [] [], .lcPatrolScrub 16 [] [], .stackCalibration 16,
    .nmuShareWrite 0 16 0, .mergeContribution 1024 (.stack 0) (.pairs [] 0), .mergeContribution 0 (.stack 16) (.pairs [] 0),
    .mergeContribution 0 (.modul 0xFFF) (.pairs [] 0), .mergeDeadline 1024] : List Instr).all (fun i => !i.wf) = true := by decide
theorem test_wf_yarder_numbers : ([.stream 32 (zeros 64), .copy 32 (zeros 64), .descriptorFetch 32 ⟨0, 0⟩, .descriptorFetch 0 ⟨4096, 0⟩, .descriptorFetch 0 ⟨0, 4⟩,
    .tileDeliver 32 0, .tileDeliver 0 4096, .transferComplete 32 0 0 0, .transferComplete 0 4096 0 0, .skidPush 32 0,
    .skidPush 0 4096, .yardOutstWrite 0 32 0] : List Instr).all (fun i => !i.wf) = true := by decide
theorem test_wf_link_numbers : ([.markerReceive 24 (testRx (testFrame 0)) 0, .linkCalibration 24, .linkDelayMeasurement 24 0, .frameEgress 24,
    .epochRollover 24 0, .frameStream 24 (testRx (testFrame 0)), .frameWrite 24 (testRx (testFrame 0)), .frameRead 24 (testRx (testFrame 0)),
    .frameReadData 24 (testRx (testFrame 0)), .frameWriteDone 24 (testRx (testFrame 0)), .ack 24 (testRx (testFrame 0)), .ackTimer 24,
    .nak 24 (testRx (testFrame 0)), .delayReq 24 (testRx (testFrame 0)) 0 0, .delayResp 24 (zeros 12) (zeros 20) [] 0,
    .corrupt 24 (testRx (testFrame 0)), .hello 24 (testRx (testFrame 0)), .helloRepeat 24, .keyed 24 (testRx (testFrame 0)),
    .linkTrainingComplete 24 true, .laneLoss 24, .dlkEnable 0 24, .dlkRetrain 0 24] : List Instr).all (fun i => !i.wf) = true := by decide
theorem test_wf_codewords : ([.ack 0 { testRx (testFrame 0) with cw := [545] }, .frameRead 0 { testRx (testFrame 0) with sym := 4 },
    .delayResp 0 (zeros 11) (zeros 20) [] 0, .delayResp 0 (zeros 12) (zeros 19) [] 0, .delayResp 0 (zeros 12) (zeros 21) [] 0] : List Instr).all
    (fun i => !i.wf) = true := by decide
theorem test_wf_epoch_space : (Instr.epochRollover 0 2).wf = false := by decide
theorem test_wf_frame_length_field : (Instr.frameStream 0 (testRx { testFrame 1 with len := 2 })).wf = false := by decide
theorem test_wf_frame_tag : (Instr.frameStream 0 (testRx { testFrame 1 with tag := [] })).wf = false := by decide
theorem test_wf_frame_body (f : Frame) (h : f.body.length = 16385) : f.wf = false := by
  simp [Frame.wf, h]
theorem test_wf_cxl_numbers : ([.cxlCalibration 4, .slip 4 0, .slipRejoin 4, .boot true (List.replicate 5 (0, 0, 0, 0))] :
    List Instr).all (fun i => !i.wf) = true := by decide
theorem test_wf_temperatures : ([.telemetrySampling 0 0 0 [20, 256], .thermalCapStep [256]] : List Instr).all (fun i => !i.wf) = true := by
  decide
theorem test_wf_signatures : (Instr.blazeFrame [0] [] false).wf = false := by decide
theorem test_wf_domains : ([.beatEnable 64 0, .beatApplyWrite 64 0, .verdictWrite 64 0 0 (zeros 16) 0, .dlkEnable 64 0, .dlkRetrain 64 0,
    .nmuShareWrite 64 0 0, .yardOutstWrite 64 0 0, .yardSplitWrite 64 0, .lcPartWrite 64 0, .regionTagWrite 64 0 0, .pwrCapWrite 64 0,
    .gpioCtrlWrite 64 0, .registerWrite 64 0 0] : List Instr).all (fun i => !i.wf) = true := by decide
theorem test_wf_register_alignment : (Instr.registerWrite 0 4 0).wf = false := by decide
theorem test_wf_message_fields : ([{ testMsg [] with client := 256 }, { testMsg [] with mbox := 16 }, { testMsg [] with plen := 65536 },
    { testMsg [] with refLen := 4294967296 }] : List Msg).all (fun m => ([.clientCreate m, .clientDestroy m, .beatConfig m, .topology m,
      .poolConfig m, .fence m, .unfence m { passed := true, bytes := 0, code := 0, slowest := 0 }, .portgroupConfig m, .portgroupArm m, .telemetryConfig m, .faultClear m, .memAlloc m,
      .memFree m, .memCopy m, .modelUnload m, .modelSetTables m, .tsetCreate m, .tsetDestroy m, .stateCreate m, .stateDestroy m,
      .stateSwap m, .stateReset m, .stateCopy m, .sessionOpen m, .sessionClose m, .prefill m, .decodeStart m, .decodeStop m,
      .sessionFork m, .sessionQuery m, .channelOpen m, .channelClose m, .channelStart m, .channelStop m, .channelMute m,
      .channelUnmute m, .channelGain m, .stopwordStart m, .stopwordStop m, .mailboxReservedOpcode 0 m] : List Instr).all
      (fun i => !i.wf)) = true := by decide
theorem test_wf_unit_test : ([3, 12, 15].map (fun c => ({ passed := true, bytes := 0, code := c, slowest := 0 } : UnitTest))).all (fun t => !t.wf) = true := by decide
theorem test_wf_message_payload (m : Msg) (h : m.payload.length = 4033) : m.wf = false := by
  simp [Msg.wf, h]
/-- A package with nothing in it but a header of `n` bytes. -/
def testPkg (n : Nat) : Package :=
  { header := zeros n, tensors := [], templates := [], vePrograms := [], linkTables := [], rotary := [], attention := none, recurrent := [],
    skidQueues := 0, prefillChain := [], loadChain := [] }
theorem test_wf_package_header : (Instr.modelLoad (testMsg []) (testPkg 63)).wf = false ∧
    (Instr.modelLoad (testMsg []) (testPkg 64)).wf = true := by decide
theorem test_wf_clients_and_mailboxes : ([.telemetryWrite 256, .mailboxWriteDrop 256 0, .mailboxWriteDrop 0 16, .memCopyComplete 256 0 0,
    .memCopyComplete 0 16 0, .modelLoadComplete 256 0, .modelLoadComplete 0 16, .stateCopyComplete 256 0, .stateCopyComplete 0 16] :
    List Instr).all (fun i => !i.wf) = true := by decide
theorem test_wf_object_indices : ([.tokenRecordWrite 65536 0 0, .tsetDestroyComplete 65536, .pinnedDestroy 65536, .swapCopyStart 65536,
    .swapCopyComplete 65536 false 0, .prefillComplete 65536 0, .pageMoveComplete 65536 0, .pageMoveBackComplete 65536,
    .zeroCrossingApply 65536, .zcTimeout 65536, .afeInputProcess 65536, .afeOutputProcess 65536] :
    List Instr).all (fun i => !i.wf) = true := by decide
theorem test_wf_groups : ([.groupStart 16, .clkLost 16, .groupFrame 16 ⟨[], 0⟩ [], .groupFrame 0 ⟨[(4, [])], 0⟩ [], .groupFrame 0 ⟨[], 0⟩ [(8, [])]] :
    List Instr).all (fun i => !i.wf) = true := by decide
theorem test_wf_verdicts : ([.verdictWrite 0 8 0 (zeros 16) 0, .verdictWrite 0 0 2 (zeros 16) 0, .verdictWrite 0 0 0 (zeros 15) 0,
    .verdictDeadline 8 0, .verdictDeadline 0 2, .verdictStarvation 8 0, .verdictStarvation 0 2] : List Instr).all
    (fun i => !i.wf) = true := by decide
theorem test_wf_causes_and_codes : ([.moduleReset 256, .warmReset 256, .computeReset 256, .mfrPowerCap (some 65536),
    .mfrBbRead 4294967296, .chainChangeAnswer 0xFFF true, .errorInterrupt 18, .accessFault 16 0 true] : List Instr).all
    (fun i => !i.wf) = true := by decide
/-- The checks do not refuse everything: a command at the last numbers of its fields is well formed. -/
theorem test_wf_accepts : ([.matmul 7 (zeros 32) false, .gemv 15 (zeros 64) 0, .stream 31 (zeros 64), .tileDeliver 31 4095,
    .frameStream 23 (testRx (testFrame 3)), .clientCreate (testMsg (zeros 4)), .mergeContribution 1023 (.modul 0xFFE) (.pairs [] 0),
    .verdictWrite 63 7 1 (zeros 16) 0, .registerWrite 63 8 0, .unitReturn ⟨.pdm, 7⟩] : List Instr).all Instr.wf = true := by decide

/-! ## Witnesses: the Vector Engine -/

theorem reset_clusters_ok : ClustersOk State.reset.clusters := by
  refine ⟨by decide, fun k hk => ?_⟩
  obtain rfl : k = ClusterSt.reset := List.eq_of_mem_replicate hk
  refine ⟨List.length_replicate .., fun r hr => ?_, by decide, by decide, by decide, fun t ht => ?_⟩
  · rw [List.eq_of_mem_replicate hr]; exact List.length_replicate ..
  · rw [List.eq_of_mem_replicate ht]; rfl
theorem reset_takes (op : Nat) (f : VEWord) (h : veWordOk op f = true) : VeTakes State.reset 7 op f :=
  ⟨reset_clusters_ok, by decide, h⟩

/-- The VE word with a format. -/
def veFmt (fmt : BitVec 3) : VEWord := { testVe with fmt := fmt }
/-- The VE word with an immediate. -/
def veImm (imm : BitVec 29) : VEWord := { testVe with imm := imm }

theorem witness_VeArith : (∀ op ∈ [0x01, 0x02, 0x03, 0x05, 0x06], ∀ fmt ∈ ([0, 1] : List (BitVec 3)),
    VeTakes State.reset 7 op { veFmt fmt with vd := 15, va := 15, vb := 15, zm := true, msk := 7 }) ∧
    VeTakes State.reset 7 0x05 (veFmt 3) ∧ VeTakes State.reset 7 0x06 (veFmt 3) :=
  ⟨fun op h fmt g => reset_takes _ _ (by revert op fmt; decide), reset_takes _ _ (by decide), reset_takes _ _ (by decide)⟩
theorem witness_VeFmaAbsNeg : ∀ op ∈ [0x04, 0x07, 0x08], ∀ fmt ∈ ([0, 1] : List (BitVec 3)), VeTakes State.reset 7 op (veFmt fmt) :=
  fun op h fmt g => reset_takes _ _ (by revert op fmt; decide)
theorem witness_VeCompare : ∀ op ∈ [0x10, 0x11, 0x12, 0x13], ∀ fmt ∈ ([0, 1, 3] : List (BitVec 3)),
    VeTakes State.reset 7 op { veFmt fmt with vd := 0 } ∧ VeTakes State.reset 7 op { veFmt fmt with vd := 7 } :=
  fun op h fmt g => ⟨reset_takes _ _ (by revert op fmt; decide), reset_takes _ _ (by revert op fmt; decide)⟩
theorem witness_VeMasksOnMasks : ∀ op ∈ [0x50, 0x51, 0x52, 0x53], VeTakes State.reset 7 op { testVe with vd := 7, va := 7 } :=
  fun op h => reset_takes _ _ (by revert op; decide)
theorem witness_VeSelectPermute : (∀ op ∈ [0x14, 0x30], ∀ fmt ∈ ([0, 1] : List (BitVec 3)), VeTakes State.reset 7 op (veFmt fmt)) ∧
    VeTakes State.reset 7 0x46 (veFmt 3) :=
  ⟨fun op h fmt g => reset_takes _ _ (by revert op fmt; decide), reset_takes _ _ (by decide)⟩
theorem witness_VeConvert : VeTakes State.reset 7 0x20 (veFmt 3) ∧ VeTakes State.reset 7 0x21 (veFmt 1) ∧
    VeTakes State.reset 7 0x22 (veFmt 2) ∧ VeTakes State.reset 7 0x25 (veFmt 0) ∧
    VeTakes State.reset 7 0x25 { veFmt 1 with imm := 2 } ∧ VeTakes State.reset 7 0x23 (veImm 7) ∧
    VeTakes State.reset 7 0x24 (veImm 0x10000000) :=
  ⟨reset_takes _ _ (by decide), reset_takes _ _ (by decide), reset_takes _ _ (by decide), reset_takes _ _ (by decide),
    reset_takes _ _ (by decide), reset_takes _ _ (by decide), reset_takes _ _ (by decide)⟩
theorem witness_VeShuffle : VeTakes State.reset 7 0x31 (veImm 0) ∧ VeTakes State.reset 7 0x31 (veImm 1) ∧
    VeTakes State.reset 7 0x31 { veImm 2 with vb := 15 } ∧ VeTakes State.reset 7 0x31 (veImm 3) ∧ VeTakes State.reset 7 0x31 (veImm 4) ∧
    (∀ fmt ∈ ([0, 1, 3] : List (BitVec 3)), VeTakes State.reset 7 0x31 { veFmt fmt with imm := 0xFFF5 }) :=
  ⟨reset_takes _ _ (by decide), reset_takes _ _ (by decide), reset_takes _ _ (by decide), reset_takes _ _ (by decide),
    reset_takes _ _ (by decide), fun fmt h => reset_takes _ _ (by revert fmt; decide)⟩
theorem witness_VeIntegers : ∀ op ∈ [0x40, 0x41, 0x42, 0x43, 0x44, 0x45], VeTakes State.reset 7 op { veFmt 3 with imm := 0x10000000 } :=
  fun op h => reset_takes _ _ (by revert op; decide)
theorem witness_VeTileAccess : (∀ op ∈ [0x60, 0x61], ∀ fmt ∈ ([0, 1, 2, 3, 4, 5] : List (BitVec 3)),
    VeTakes State.reset 7 op { veFmt fmt with imm := 0x1FFFF800 }) ∧
    ((State.reset.cluster 7).ve.tile 3).draining = false ∧ (State.reset.cluster 7).ve.passReads 3 = false :=
  ⟨fun op h fmt g => reset_takes _ _ (by revert op fmt; decide), by decide, by decide⟩
theorem witness_VeLaneTree : ∀ op ∈ [0x70, 0x71, 0x72, 0x73], VeTakes State.reset 7 op { testVe with vd := 15, va := 15 } :=
  fun op h => reset_takes _ _ (by revert op; decide)
theorem witness_LaneTreeDisabled : (List.replicate 1024 (0 : Word)).length = 1024 ∧ ∀ i < 1024, (fun _ : Nat => false) i = false :=
  ⟨List.length_replicate .., fun _ _ => rfl⟩
theorem witness_VeReduction : VeTakes State.reset 7 0x78 (veImm 0x1F802020) ∧ VeTakes State.reset 7 0x79 testVe ∧
    VeTakes State.reset 7 0x7B testVe ∧ (State.reset.cluster 7).ve.ru.queue.length < 4 ∧ (State.reset.cluster 7).ve.ru.queue = [] ∧
    (State.reset.cluster 7).ve.ru.running = none :=
  ⟨reset_takes _ _ (by decide), reset_takes _ _ (by decide), reset_takes _ _ (by decide), by decide, rfl, rfl⟩
/-- Reset, with the VE of cluster 7 changed. -/
def veAt (f : VeSt → VeSt) : State := State.reset.onVe 7 f
theorem veAt_ok (f : VeSt → VeSt) (h : VeSt.Ok (f VeSt.reset)) : ClustersOk (veAt f).clusters := by
  refine ⟨rfl, fun k hk => ?_⟩
  have hk : k ∈ List.replicate 7 ClusterSt.reset ++ [{ ClusterSt.reset with ve := f VeSt.reset }] := hk
  rcases List.mem_append.1 hk with h1 | h1
  · rw [List.eq_of_mem_replicate h1]
    exact reset_clusters_ok.2 _ (List.mem_replicate.2 ⟨by decide, rfl⟩)
  · rw [List.mem_singleton.1 h1]; exact h
theorem veAt_takes (f : VeSt → VeSt) (op : Nat) (w : VEWord) (h : VeSt.Ok (f VeSt.reset)) (g : veWordOk op w = true) :
    VeTakes (veAt f) 7 op w := ⟨veAt_ok f h, rfl, g⟩
theorem veReset_ok : VeSt.Ok VeSt.reset :=
  reset_clusters_ok.2 ClusterSt.reset (List.mem_replicate.2 ⟨by decide, rfl⟩)
/-- A pass of width 1 over a tile that has arrived. -/
def testPass : RuPass := { tile := 3, stats := 15, c0 := 0, w := 1, clr := true, bf16 := true }
theorem witness_ReductionUnit :
    (∃ s : State, s.veFree 7 = true ∧ (s.cluster 7).ve.ru.running = none ∧ (s.cluster 7).ve.ru.queue = testPass :: [] ∧
      (((s.cluster 7).ve.tile testPass.tile).held = true ∨ (s.cluster 7).ve.tileMap / 4 ^ testPass.tile % 4 ≠ 1) ∧ testPass.w ≠ 0) ∧
    (∃ s : State, VeTakes s 7 0x7A (veImm 9) ∧ (s.cluster 7).ve.ru.queue = [] ∧
      (s.cluster 7).ve.ru.running = none ∧ (s.cluster 7).ve.ru.fin.isSome = true) :=
  ⟨⟨veAt (fun k => { k with ru := { k.ru with queue := [testPass] } }), rfl, rfl, rfl, .inr (by decide), by decide⟩,
   ⟨veAt (fun k => { k with ru := { k.ru with fin := some (List.replicate 512 ⟨0, 0, 0, 0, 0, 0, 0, 0, 0, 0⟩) } }),
     veAt_takes _ _ _ ⟨veReset_ok.1, veReset_ok.2, veReset_ok.3, veReset_ok.4, veReset_ok.5, veReset_ok.6⟩ (by decide), rfl, rfl, rfl⟩⟩
/-- Reset, with a table set of two tables in cluster 7's bank. -/
def bankState : State := State.reset.onCluster 7 (fun k => { k with
  sfu := { k.sfu with bankA := { SfuBank.empty with valid := true, image := [0, 0, 2, 15, 0, 128] } } })
theorem bankState_clusters : ClustersOk bankState.clusters := by
  refine ⟨rfl, fun k hk => ?_⟩
  have hk : k ∈ List.replicate 7 ClusterSt.reset ++ [{ ClusterSt.reset with sfu := { ClusterSt.reset.sfu with
    bankA := { SfuBank.empty with valid := true, image := [0, 0, 2, 15, 0, 128] } } }] := hk
  rcases List.mem_append.1 hk with h1 | h1
  · rw [List.eq_of_mem_replicate h1]
    exact reset_clusters_ok.2 _ (List.mem_replicate.2 ⟨by decide, rfl⟩)
  · rw [List.mem_singleton.1 h1]
    exact reset_clusters_ok.2 ClusterSt.reset (List.mem_replicate.2 ⟨by decide, rfl⟩)
theorem witness_VeSpecialFunction : (∀ fmt ∈ ([0, 1] : List (BitVec 3)), VeTakes State.reset 7 0x7C { veFmt fmt with imm := 1 }) ∧
    VeTakes bankState 7 0x7C { veFmt 1 with imm := 0x3F } ∧ (bankState.sfuBank 7).valid = true ∧
    tsHas (bankState.sfuBank 7).image (31 - 16) = true :=
  ⟨fun fmt g => reset_takes _ _ (by revert fmt; decide), ⟨bankState_clusters, rfl, by decide⟩, rfl, by decide⟩
theorem witness_VeScalars : VeTakes State.reset 7 0x00 testVe ∧ VeTakes State.reset 7 0x80 { veImm 0x1FFFFFFF with vd := 15 } ∧
    VeTakes State.reset 7 0x81 { testVe with vd := 15 } ∧ VeTakes State.reset 7 0x82 (veImm 0x3FF) :=
  ⟨reset_takes _ _ (by decide), reset_takes _ _ (by decide), reset_takes _ _ (by decide), reset_takes _ _ (by decide)⟩
theorem witness_VeTileStreams :
    (∃ s : State, VeTakes s 7 0x90 (veImm 3) ∧ ¬(((s.cluster 7).ve.tile 3).held = true ∧ (s.cluster 7).ve.ru.names 3 = true) ∧
      ((s.cluster 7).ve.tile 3).arrived = true) ∧
    (VeTakes State.reset 7 0x91 (veImm 3) ∧ (State.reset.cluster 7).ve.ru.names 3 = false ∧
      ((State.reset.cluster 7).ve.tile 3).draining = false) := by
  refine ⟨⟨veAt (fun k => { k with tiles := [.empty, .empty, .empty, { TileSt.empty with arrived := true }] }), veAt_takes _ _ _
    ⟨veReset_ok.1, veReset_ok.2, veReset_ok.3, veReset_ok.4, rfl, ?_⟩ (by decide), by decide, rfl⟩,
    reset_takes _ _ (by decide), by decide, by decide⟩
  decide
theorem witness_VeControl :
    (VeTakes State.reset 7 0xF0 (veImm 1) ∧ (1 : Nat) % 2 ^ 13 ≠ 0 ∧ (State.reset.cluster 7).ve.loops.length < 4) ∧
    (∃ s : State, VeTakes s 7 0xF0 (veImm 0) ∧ (0 : Nat) % 2 ^ 13 = 0 ∧ afterEndl (s.cluster 7).ve 8192 ((s.cluster 7).ve.pc + 1) 0 = some 2) ∧
    (∃ s : State, VeTakes s 7 0xF1 testVe ∧ (s.cluster 7).ve.loops = (1, 1) :: []) ∧
    VeTakes State.reset 7 0xF2 (veImm 0x7FF) ∧ VeTakes State.reset 7 0xF3 (veImm 0x7FF) ∧ VeTakes State.reset 7 0xFF testVe :=
  ⟨⟨reset_takes _ _ (by decide), by decide, by decide⟩,
   ⟨veAt (fun k => { k with imem := [(1, 0xF100000000000000)] }), veAt_takes _ _ _
     ⟨veReset_ok.1, veReset_ok.2, veReset_ok.3, veReset_ok.4, veReset_ok.5, veReset_ok.6⟩ (by decide), rfl, rfl⟩,
   ⟨veAt (fun k => { k with loops := [(1, 1)] }), veAt_takes _ _ _
     ⟨veReset_ok.1, veReset_ok.2, veReset_ok.3, veReset_ok.4, veReset_ok.5, veReset_ok.6⟩ (by decide), rfl⟩,
   reset_takes _ _ (by decide), reset_takes _ _ (by decide), reset_takes _ _ (by decide)⟩
theorem witness_VeBadWord : ∀ p ∈ veRows, State.reset.clusterUp 7 = true ∧ veWordOk p.2 { testVe with fmt := 7 } = false := by decide
/-- A VE command of tag 9 whose entry is instruction 0. -/
def testVeCmd : List Byte := 2 :: (zeros 23 ++ [1, 0, 0, 0, 9, 0, 0, 0])
theorem witness_VeProgramStart : ∃ s : State, ClustersOk s.clusters ∧ s.veFree 7 = true ∧ testVeCmd.length = 32 ∧
    veCmdFail 8192 testVeCmd = none ∧ (s.cluster 7).veRegs.busy = false ∧
    (s.cluster 7).inb.find? (fun b => b.num == fld testVeCmd 8 2) = none ∧
    (s.cluster 7).ve.instr (fld testVeCmd 4 2) = BitVec.ofNat 64 (0xFF * 2 ^ 56) :=
  ⟨veAt (fun k => { k with imem := [(0, 0xFF00000000000000)] }),
    veAt_ok _ ⟨veReset_ok.1, veReset_ok.2, veReset_ok.3, veReset_ok.4, veReset_ok.5, veReset_ok.6⟩,
    rfl, rfl, by decide, rfl, rfl, by decide⟩

/-! ## Witnesses: arrays, scans, NMUs -/

/-- A record of `n` bytes with fields (offset, size, value), all other bytes 0. -/
def testRec (n : Nat) (fs : List (Nat × Nat × Nat)) : List Byte :=
  (List.range n).map (fun i => BitVec.ofNat 8 (fs.foldl (fun (a : Nat) (f : Nat × Nat × Nat) =>
    if f.1 ≤ i ∧ i < f.1 + f.2.1 then f.2.2 / 256 ^ (i - f.1) % 256 else a) 0))
/-- Reset, with cluster 7 changed. -/
def clusterAt (f : ClusterSt → ClusterSt) : State := State.reset.onCluster 7 f
/-- A stream buffer with one unit. -/
def testBuf (num : Nat) (b : List Byte) : StreamBuf := { num := num, ep := 1, tiles := [b], status := stOk, ended := true, flaws := [] }
theorem testBuf_bytes (num : Nat) (b : List Byte) (l : List StreamBuf) (h : bufBytes l num = []) :
    bufBytes (testBuf num b :: l) num = b := by
  simp only [bufBytes] at h
  simp [bufBytes, testBuf, h]
/-- A MATMUL of one token, one slice, one group and one output. -/
def testMatmul : List Byte := testRec 32 [(0, 1, 1), (4, 2, 1), (6, 2, 1), (8, 2, 64), (0xA, 2, 1), (0xC, 2, 1), (0x10, 2, 1), (0x12, 2, 2),
  (0x14, 2, 3), (0x18, 4, 108000), (0x1C, 4, 9)]
theorem witness_ArrayCommand : ∃ s : State,
    s.clusterUp 7 = true ∧ (s.cluster 7).veRegs.busy = false ∧ (s.cluster 7).scan.busy = false ∧ (s.cluster 7).arrRun = none ∧
    testMatmul.length = 32 ∧
    arrWordFail testMatmul = none ∧ arrEmpty testMatmul = false ∧
    arrCodeBytes testMatmul ≤ (bufBytes (s.cluster 7).inb (fld testMatmul 0x10 2)).length ∧
    arrActBytes testMatmul ≤ (bufBytes (s.cluster 7).inb (fld testMatmul 0x12 2)).length ∧
    bufStatus (s.cluster 7).inb (fld testMatmul 0x10 2) = stOk ∧ bufStatus (s.cluster 7).inb (fld testMatmul 0x12 2) = stOk := by
  refine ⟨clusterAt (fun k => { k with inb := [testBuf 1 (zeros 33792), testBuf 2 (zeros 1024)] }), rfl, rfl, rfl, rfl, rfl,
    by decide +kernel, by decide +kernel, ?_, ?_, ?_, ?_⟩
  · rw [show fld testMatmul 0x10 2 = 1 by decide +kernel, show arrCodeBytes testMatmul = 33792 by decide +kernel]
    show 33792 ≤ (bufBytes [testBuf 1 (zeros 33792), testBuf 2 (zeros 1024)] 1).length
    rw [testBuf_bytes _ _ _ rfl]; exact Nat.le_of_eq (List.length_replicate ..).symm
  · rw [show fld testMatmul 0x12 2 = 2 by decide +kernel, show arrActBytes testMatmul = 1024 by decide +kernel]
    show 1024 ≤ (bufBytes [testBuf 1 (zeros 33792), testBuf 2 (zeros 1024)] 2).length
    rw [show bufBytes [testBuf 1 (zeros 33792), testBuf 2 (zeros 1024)] 2 = bufBytes [testBuf 2 (zeros 1024)] 2 from rfl,
      testBuf_bytes _ _ _ rfl]; exact Nat.le_of_eq (List.length_replicate ..).symm
  · rw [show fld testMatmul 0x10 2 = 1 by decide +kernel]; rfl
  · rw [show fld testMatmul 0x12 2 = 2 by decide +kernel]; rfl
theorem leNat_natLe (n v : Nat) : leNat (natLe n v) = v % 256 ^ n := by
  induction n generalizing v with
  | zero => simp [leNat, natLe, Nat.mod_one]
  | succ n ih =>
    simp only [leNat, natLe, ih, BitVec.toNat_ofNat]
    show v % 256 + 256 * (v / 256 % 256 ^ n) = v % 256 ^ (n + 1)
    rw [Nat.pow_succ', Nat.mod_mul]
theorem natLe_length (n v : Nat) : (natLe n v).length = n := by
  induction n generalizing v with
  | zero => rfl
  | succ n ih => simp [natLe, ih]
/-- Reset, with one table set of index 0 and a load of it planned for cluster 7. -/
def tsetState (img : List Byte) : State :=
  (State.reset.onCtrl (fun k => { k with tsets := [{ idx := 0, client := 0, image := img, destroying := none }] })).onPlan (fun p => { p with
    curRegs := { p.curRegs with loads := [{ cluster := 7, set := 0x80000000, before := [], after := [], turn := none, done := false, failed := false }] } })
theorem tsetState_find (img : List Byte) : (tsetState img).ctrl.tsets.find?
    (fun t => (tsetState img).handleOf 8 t.idx == (0x80000000 : Word).toNat) =
      some { idx := 0, client := 0, image := img, destroying := none } := by
  have h : (tsetState img).handleOf 8 0 = 0x80000000 := by
    show mkHandle 8 0 (0 : BitVec 12).toNat = _
    decide
  show [_].find? _ = _
  simp only [List.find?, h]
  rfl
theorem fld_crc (l : List Byte) : fld (zeros 0x38 ++ natLe 4 (crc32c l).toNat) 0x38 4 = (crc32c l).toNat := by
  unfold fld
  rw [List.drop_left' (by simp [zeros]), List.take_of_length_le (by rw [natLe_length]), leNat_natLe, Nat.mod_eq_of_lt]
  exact (crc32c l).isLt
theorem witness_SfuBankLoads : ∃ (image : List Byte) (s : State) (t : Tset), s.clusterUp 7 = true ∧ (s.loadDue 7 0x80000000).isSome = true ∧
    s.ctrl.tsets.find? (fun t => s.handleOf 8 t.idx == (0x80000000 : Word).toNat) = some t ∧ (s.cluster 7).sfu.arrived = [] ∧
    decide ((crc32c (fit 66496 image)).toNat = fld t.image 0x38 4) = true :=
  ⟨[], tsetState (zeros 0x38 ++ natLe 4 (crc32c (fit 66496 [])).toNat), _, rfl, rfl, tsetState_find _, rfl, decide_eq_true (fld_crc _).symm⟩
/-- A Scan command of one row of an operation. -/
def testScan (op : Nat) : List Byte :=
  testRec 32 [(0, 1, 3), (1, 1, op), (3, 1, 1), (4, 2, 1), (8, 1, 1), (9, 1, 1), (0xA, 2, 1), (0xE, 2, 2), (0x18, 4, 108000), (0x1C, 4, 9)]
/-- A cluster with a bank that names an exp table and a stream of zero bytes. -/
def scanState (n : Nat) : State := clusterAt (fun k => { k with
  sfu := { k.sfu with bankA := { SfuBank.empty with valid := true } }, inb := [{ testBuf 1 (zeros n) with ep := 4 }] })
theorem witness_ScanCommands : ∀ p ∈ [(0, 1664), (1, 320), (2, 64)], let w := testScan p.1
    let s := scanState p.2
    let k := s.cluster 7
    let r0 : ScanRun := { word := w, ecc := [], row := 0, buf := .none 4 (fld w 0xA 2), sbuf := .none 5 (fld w 0xC 2) }
    let r : ScanRun := { r0 with buf := r0.buf.take k.inb, sbuf := r0.sbuf.take k.inb }
    let u := scanTake 7 r0 (s.onCluster 7 (fun k => { k with scanRun := some r0 }))
    let q := scanOne 7 r u
    w.length = 32 ∧ s.clusterUp 7 = true ∧ k.arr.busy = false ∧ k.veRegs.busy = false ∧ k.scanRun = none ∧ scanWordFail true w = none ∧
    scRows w = 1 ∧ u.rowWaits 7 r = false ∧ fld w 0xA 2 ≠ fld w 0xC 2 ∧
    k.inb.all (fun b => b.num != fld w 0xA 2 || b.ep == 4) = true ∧ s.runningCmd (.cluster 7) = none ∧ q.bad = false ∧ scOp w = p.1 := by
  decide +kernel
/-- A GEMV of one token, one group and one output on the stripe at 64 MiB of the stack. -/
def testGemv : List Byte := testRec 64 [(0, 1, 0x10), (3, 1, 1), (6, 2, 64), (8, 8, 0x4000000), (0x14, 4, 1024), (0x1C, 2, 1), (0x1E, 2, 1),
  (0x20, 4, 54000), (0x24, 4, 9), (0x28, 2, 1000)]
/-- The header of a MONO stripe of 512 inputs and 64 byte-columns. -/
def testStripe : List Byte := testRec 64 [(0, 2, 1), (2, 1, 3), (4, 4, 64), (8, 4, 512), (0x10, 4, 64)]
/-- Reset, with the stripe's header in stack 0. -/
def gemvState : State := State.reset.onDev (fun d => MemOps.writeN d 0x4000000 testStripe)
theorem witness_GemvCompletes : testGemv.length = 64 ∧ gemvState.nmuUp 0 = true ∧
    (let h := (List.range 64).map (fun i => BitVec.ofNat 8 (gemvState.nmuByte 0 (fld testGemv 2 1 % 64) (fld testGemv 8 8 + i)))
    gemvFail 0 testGemv (some h) = none ∧ gvEmpty testGemv = false ∧ gemvState.runStatus (.gemv 0) = stOk ∧
    ∀ r ∈ (fld testGemv 8 8, 64) :: gvRanges testGemv h,
      gemvState.rangePasses (fld testGemv 2 1 % 64) false (stackBase 0 + r.1) r.2 = true ∧
      gemvState.rangePoisoned (stackBase 0 + r.1) r.2 = false) ∧
    (∀ r ∈ gvActs testGemv ((List.range 64).map (fun i => BitVec.ofNat 8 (gemvState.nmuByte 0 (fld testGemv 2 1 % 64) (fld testGemv 8 8 + i)))),
      ∀ j < r.2, (gemvState.nmu 0).actPasses (fld testGemv 2 1 % 64) (r.1 + j) = true) := by
  refine ⟨by decide +kernel, by decide +kernel, by decide +kernel, fun r _ j _ => ?_⟩
  rw [show fld testGemv 2 1 % 64 = 0 by decide +kernel]; rfl
theorem reset_nmus_ok : NmusOk State.reset.nmus := by
  refine ⟨by decide, fun k hk => ?_⟩
  obtain rfl : k = NmuSt.reset := List.eq_of_mem_replicate hk
  exact ⟨rfl, rfl, rfl⟩
/-- An attention command of one row, one head of 64 and no page, for merge slot 1,023. -/
def testAtt (op : Nat) : List Byte := testRec 64 [(0, 1, op), (3, 1, 1), (5, 1, 1), (6, 1, 1), (0x12, 2, 1023),
  (0x20, 4, if op = 0x11 then 0x3F800000 else 0), (0x24, 2, 1000), (0x30, 4, 54000)]
/-- A merge slot of stacks 0 and 1. -/
def testSlot : MergeSlot :=
  { slot := 1023, rows := 1, d64 := 1, stkMask := 3, level := 0, modules := 0, root := 0, outFp32 := true, model := 0,
    outAddr := 0x4000000, deadline := 0, tag := 0, dom := 0, pairs := [], parts := [], bcast := none, bcastStatus := stOk, toRoot := [],
    sent := [], out := none, outStatus := stOk }
/-- Reset, with a merge slot. -/
def mergeState (m : MergeSlot) : State := State.reset.onMerges (fun _ => [m])
/-- The reads of an attention command in `s` are valid, pass the firewall and hold no poisoned word. -/
def attClean (k : Nat) (w : List Byte) (s : State) (l : List (Nat × Nat × Bool)) : Bool :=
  decide (s.runStatus (.att k) = stOk) && (s.attPages k w).all (fun p => decide (s.pageStatus k p.frame = stOk)) &&
  l.all (fun r => s.rangePasses (fld w 2 1 % 64) r.2.2 (stackBase k + r.1) r.2.1 && !s.rangePoisoned (stackBase k + r.1) r.2.1)
theorem witness_AttentionCompletes :
    (∀ op ∈ [0x11, 0x12], (testAtt op).length = 64 ∧ State.reset.nmuUp 15 = true ∧ atRows (testAtt op) ≠ 0 ∧
      attFail (testAtt op) (State.reset.fp8 (fld (testAtt op) 7 1)) = none ∧
      State.reset.attBad 15 (testAtt op) (State.reset.fp8 (fld (testAtt op) 7 1)) = false ∧ fld (testAtt op) 0 1 = op) ∧
    NmusOk State.reset.nmus ∧
    (attClean 15 (testAtt 0x11) .reset (State.reset.scoreReads 15 (testAtt 0x11)) = true ∧
      ∀ r ∈ scoreActs (testAtt 0x11), ∀ j < r.2, (State.reset.nmu 15).actPasses (fld (testAtt 0x11) 2 1 % 64) (r.1 + j) = true) ∧
    (let m := { testSlot with bcast := some [(0, 0)] }
    let s := mergeState m
    NmusOk s.nmus ∧ s.nmuUp 15 = true ∧ s.attBad 15 (testAtt 0x12) (s.fp8 (fld (testAtt 0x12) 7 1)) = false ∧
      attClean 15 (testAtt 0x12) s (attRanges (testAtt 0x12) (s.attPages 15 (testAtt 0x12)) 1) = true ∧
      s.rangePoisoned (stackBase 15 + (spillRange (testAtt 0x12)).1) (spillRange (testAtt 0x12)).2 = false ∧ m.bcastStatus = stOk ∧
      s.merge (atMerge (testAtt 0x12)) = some m ∧ m.bcast = some [(0, 0)]) := by
  refine ⟨by decide +kernel, reset_nmus_ok, ⟨by decide +kernel, fun r _ j _ => ?_⟩, reset_nmus_ok, by decide +kernel, by decide +kernel,
    by decide +kernel, by decide +kernel, rfl, by decide +kernel, rfl⟩
  rw [show fld (testAtt 0x11) 2 1 % 64 = 0 by decide +kernel]; rfl
/-- A key-value command of one head of 64 at 64 MiB of the stack. -/
def testKv (op : Nat) : List Byte := testRec 32 [(0, 1, op), (1, 1, if op = 0x13 then 63 else 0), (3, 1, 1), (4, 1, 1), (8, 8, 0x4000000),
  (0x14, 2, 1000), (0x18, 4, 54000)]
/-- A state other than reset in which the invariant holds: a command waits. -/
def waitState : State := { State.reset with pending := [.execWindowEnd] }
theorem waitState_inv : waitState.Inv where
  clusters := reset_clusters_ok
  nmus := reset_nmus_ok
  plan := ⟨by unfold PlanRegs.Ok; decide, fun x h => by cases h⟩
  mem := ⟨by decide, by decide, by decide, fun w h => by cases h⟩
  yard := ⟨by decide, fun y hy => by rw [List.eq_of_mem_replicate hy]; unfold YarderSt.Ok; decide, by decide, List.length_replicate ..,
    fun q hq => by rw [List.eq_of_mem_replicate hq]; decide⟩
  links := by unfold LinksSt.Ok; decide
  audio := ⟨by decide, by decide, by decide, by decide⟩
  safe := fun _ => ⟨rfl, rfl, rfl⟩
  rot := ⟨rfl, rfl, fun g h => by cases h⟩
  power := by unfold PowerSt.Ok; decide
  bb := rfl
theorem stack0_passes (s : State) (w : Bool) (a : Nat) (hu : s.units = .reset) (h : 0x4000000 ≤ a) (g : a < 0x1400000000) :
    s.passes 0 w a = true := by
  have h1 : placeOf a = .hbm 0 := by
    rw [placeOf, if_pos (by omega), Nat.div_eq_of_lt (by omega)]
  have h2 : s.svc ⟨.nmu, 0⟩ = .inService := by unfold State.svc; rw [hu]; rfl
  have h3 : a % 0x2000000000 = a := Nat.mod_eq_of_lt (by omega)
  have h4 : s.present a = true := by
    unfold State.present
    rw [h1]
    simp only [h2, h3, Bool.and_eq_true, decide_eq_true_eq]
    exact ⟨by omega, rfl⟩
  unfold State.passes inScore tagPasses
  rw [h4, h3]
  simp only [Bool.true_and, decide_true, Bool.true_or, Bool.and_true, Bool.not_eq_true', Bool.and_eq_false_iff, decide_eq_false_iff_not]
  right; omega
theorem witness_KeyValueWrites : waitState.Inv ∧ waitState.nmuUp 0 = true ∧ waitState.runStatus (.att 0) = stOk ∧
    waitState.frameSealed 0 0x4000000 = false ∧ waitState.frameBf16 0 0x4000000 = false ∧ (∀ j, (waitState.nmu 0).actPasses 0 j = true) ∧
    (∀ op ∈ [0x13, 0x14], (testKv op).length = 32 ∧ kvFail (testKv op) = none ∧ fld (testKv op) 0 1 = op ∧ fld (testKv op) 2 1 % 64 = 0 ∧
      stackBase 0 + fld (testKv op) 8 8 = 0x4000000 ∧ kvH (testKv op) = 1 ∧ kvD (testKv op) = 64) ∧
    (∀ i < 2, waitState.rangePasses 0 true (0x4000000 + (i * 64 + 63) * 64 * 2) (2 * 64) = true) ∧
    (∀ i < 2, ∀ j < 2 * 64, waitState.passes 0 true (0x4000000 + (i * 64 + 63) * 64 * 2 + j) = true) ∧
    (∀ a, 0x4000000 ≤ a → a < 0x4000000 + 16384 + 128 → waitState.passes 0 false a = true ∧ waitState.passes 0 true a = true) ∧
    waitState.rangePasses 0 false 0x4000000 (16384 + 128) = true ∧ waitState.rangePasses 0 true 0x4000000 (16384 / 2) = true ∧
    waitState.rangePasses 0 true (0x4000000 + 16384) 128 = true ∧ waitState.rangePoisoned 0x4000000 (16384 + 128) = false := by
  refine ⟨waitState_inv, by decide, by decide, rfl, rfl, fun _ => rfl, by decide +kernel, by decide +kernel, fun i hi j hj => stack0_passes _ _ _ rfl (by omega) (by omega),
    fun a h g => ⟨stack0_passes _ _ _ rfl (by omega) (by omega), stack0_passes _ _ _ rfl (by omega) (by omega)⟩, by decide +kernel, by decide +kernel,
    by decide +kernel, by decide +kernel⟩
theorem witness_MergeStage :
    (∀ m ∈ [testSlot, { testSlot with pairs := [(.stack 0, [(0, 0)], stOk)] }], (mergeState m).merge 1023 = some m ∧ m.level = 0 ∧
      m.stkMask.testBit 1 = true ∧ (∀ j ∈ m.stks, (mergeState m).svc ⟨.nmu, j⟩ ≠ .fenced) ∧ m.pairOf (.stack 1) = none ∧ m.bcast = none ∧
      m.out = none) ∧
    (∃ j ∈ testSlot.stks, (testSlot.pairs ++ [(MergeSrc.stack 1, [((0 : Word), (0 : Word))], stOk)]).find? (fun q => q.1 == .stack j) = none) ∧
    (∀ j ∈ testSlot.stks, (([(MergeSrc.stack 0, [((0 : Word), (0 : Word))], stOk)] ++
      [(MergeSrc.stack 1, [((0 : Word), (0 : Word))], stOk)]).find? (fun q => q.1 == .stack j)).isSome = true) ∧
    testSlot.bcastStatus = stOk := by decide

/-! ## Witnesses: yarders, background work -/

/-- A yarder command for the VE (endpoint 3) or, as a COPY, for memory, with `n` descriptors, of stream `num`. -/
def testYard (copy : Bool) (n : Nat) : List Byte := testRec 64 [(0, 1, if copy then 0x21 else 0x20), (1, 1, if copy then 0 else 3), (4, 2, 4095),
  (7, 1, 8), (8, 8, 0x4000000), (0x10, 2, n), (0x12, 2, if copy then n else 0), (0x18, 8, if copy then 0x4010000 else 0), (0x20, 2, 0xFFFF), (0x22, 2, 0xFFFF), (0x28, 4, 72000),
  (0x2C, 4, 9)]
theorem witness_YarderStarts : ∀ copy : Bool, ∀ n ∈ [0, 1], (testYard copy n).length = 64 ∧ State.reset.yardUp 31 = true ∧
    yIsCopy (testYard copy n) = copy ∧ yardWordFail 31 (testYard copy n) = none ∧ egressBad (testYard copy n) State.reset = false ∧
    fld (testYard copy n) 0x10 2 = n ∧ State.reset.ctx 31 (yNum (testYard copy n)) = none ∧ State.reset.ctxsUsed 31 < 16 ∧
    skidIn (testYard copy n) = none ∧ State.reset.mayMove 31 (yNum (testYard copy n)) = true := by decide +kernel
/-- A context of stream 4,095 that has started. -/
def testCtx (w : List Byte) : StreamCtx :=
  { num := 4095, word := w, cls := .D, dom := 0, started := true, held := false, discarded := false, rd := none, wr := none, popped := none, xfers := [], nextIdx := 0, rPos := 0,
    wPos := 0, staged := [], donePos := 0, fetched := 0, owed := [], pushed := 0, status := stOk, mask := 128 }
/-- Reset, with a context in yarder 31. -/
def ctxState (c : StreamCtx) : State := State.reset.onYarder 31 (fun k => { k with ctxs := [c] })
/-- A transfer of 64 bytes at 64 MiB of stack 0. -/
def testXfer (write : Bool) : Xfer :=
  { idx := 0, write := write, pos := 0, di := 0, addr := 0xFFF000004000000, len := 64, acc := false, zero := false, lost := false, drop := false, done := false, req := none,
    data := if write then List.replicate 64 1 else [], status := stOk }
theorem witness_YarderTransfers :
    (let c := { testCtx (testYard false 1) with rd := some (ListSt.fresh 0x4000000 1) }
    let s := ctxState c
    s.yardUp 31 = true ∧ s.ctx 31 4095 = some c ∧ c.wr = none ∧ c.rd = some (ListSt.fresh 0x4000000 1) ∧
      (ListSt.fresh 0x4000000 1).wants = true ∧ c.started = true ∧ (fetchBurst 31 false (ListSt.fresh 0x4000000 1) c 2 s).2.isSome = true) ∧
    (∀ write : Bool, let c := { testCtx (testYard true 1) with xfers := [testXfer write] }
    let s := ctxState c
    s.yardUp 31 = true ∧ s.ctx 31 4095 = some c ∧ c.xfers.find? (fun x => x.idx == 0 && !x.done) = some (testXfer write) ∧
      (testXfer write).zero = false ∧ s.isLocal (testXfer write).addr = true ∧ (testXfer write).acc = false ∧ c.behind (testXfer write) = false ∧
      yIsCopy c.word = true ∧ s.rangePasses c.dom write (devAddr (testXfer write).addr) 64 = true ∧
      s.rangePoisoned (devAddr (testXfer write).addr) 64 = false) := by decide +kernel
/-- A STREAM word that writes what the VE gives up. -/
def testDrain : List Byte := testRec 64 [(0, 1, 0x20), (1, 1, 6), (4, 2, 4095), (7, 1, 8), (0x22, 2, 255)]
theorem witness_YarderTiles :
    (let c := { testCtx (testYard false 1) with staged := List.replicate 64 (List.replicate 64 0, stOk) }
    let s := ctxState c
    s.yardUp 31 = true ∧ s.ctx 31 4095 = some c ∧ c.started = true ∧ yIsCopy c.word = false ∧ yWrites c.word = false ∧
      s.tileRoom c (min (s.tileBytes c) (stagedLen c.staged)) = true ∧ min (s.tileBytes c) (stagedLen c.staged) ≠ 0 ∧ min (s.tileBytes c) (stagedLen c.staged) = s.tileBytes c) ∧
    (let c := testCtx testDrain
    let s := (ctxState c).onCluster 7 (fun k => { k with outb := [testBuf 4095 [1]] })
    s.yardUp 31 = true ∧ s.ctx 31 4095 = some c ∧ c.started = true ∧ yIsCopy c.word = false ∧ yWrites c.word = true ∧ c.xfers = [] ∧
      stagedLen c.staged = 0 ∧ yLead c.word ≠ 0 ∧ (takeTile 31 c s).1 ≠ []) ∧
    (let o : Owed := { di := 0, upto := 64, addr := 0, len := 64, status := stOk, badAt := 0 }
    let c := { testCtx testDrain with owed := [o], donePos := 64 }
    let s := ctxState c
    s.yardUp 31 = true ∧ s.ctx 31 4095 = some c ∧ skidOut c.word = some 255 ∧ c.owed = o :: [] ∧ o.upto ≤ c.donePos ∧
      (s.skid 255).room = true) := by decide +kernel
/-- A skid queue of `n` entries. -/
def testSkid (n : Nat) : SkidQ := { entries := List.replicate n { addr := 0, len := 64, status := stOk, seq := 0 }, late := [], pushSeq := 0, popSeq := 0 }
theorem witness_SkidQueueOrder : (testSkid 63).entries.length < skidCap ∧ skidCap ≤ (testSkid 64).entries.length ∧
    (testSkid 64).entries.length ≤ skidCap ∧ (testSkid 64).late = [] := by decide
/-- A handle of generation 1. -/
def testH (kind idx : Nat) : Nat := mkHandle kind idx 1
/-- A command of cluster 0 of a few microseconds. -/
def testCmd : TCmd :=
  { name := 1, engine := .cluster 0, cls := .D, wcet := 5400, release := 0, deadline := 0, inputs := [], need := 0, row := none, kv := none, contrib := none,
    hops := 0, paths := [], power := .none, form := 0, word := [], tensor := none }
/-- A command of the session's decode step. -/
def testPCmd (w : List Byte) : PCmd :=
  { id := 0, tname := 1, t := { testCmd with word := w }, client := 0, obj := BitVec.ofNat 32 (testH 2 0), kind := .decode, dom := 1, blaze := false,
    model := 0, stream := 0, start := 0, finish := 0, run := .queued, startedAt := 0, finishedAt := 0, readyAt := 0, status := stOk, rows := [],
    acc := none, copy := none }
/-- A planned command without a word. -/
def copyCmd : PCmd := testPCmd []
/-- A world in whose execution window a part of a copy of the DCP runs. -/
def copying (c : DcpCopy) (s : State) : State :=
  (s.onBeat (fun b => { b with ticked := true, part := .window })).onPlan (fun p => { p with cur := [{ copyCmd with run := .running, copy := some c }] })
/-- Reset, with a unit in a service state. -/
def svcState (u : UnitId) (v : Svc) : State := State.reset.setSvc u v
theorem witness_FencesAndReturns : State.reset.beating = true ∧
    (let s := copying (.move ⟨.nmu, 15⟩) ((svcState ⟨.nmu, 15⟩ .moving).onUnits (fun k => { k with fences := [(⟨.nmu, 15⟩, 2, false)] }))
    s.beating = true ∧ s.copyRuns (· == .move ⟨.nmu, 15⟩) = true ∧ s.units.fences.find? (fun f => f.1 == ⟨.nmu, 15⟩) = some (⟨.nmu, 15⟩, 2, false)) ∧
    (let s := copying .relay (State.reset.onUnits (fun k => { k with relayDue := true }))
    s.beating = true ∧ s.copyRuns (· == .relay) = true ∧ s.units.relayDue = true) ∧
    (let s := (svcState ⟨.link, 23⟩ .returning).onUnits (fun k => { k with returns := [(⟨.link, 23⟩, true, true)] })
    s.beating = true ∧ s.units.returns.find? (fun r => r.1 == ⟨.link, 23⟩) = some (⟨.link, 23⟩, true, true) ∧ s.svc ⟨.link, 23⟩ = .returning) ∧
    (let s := (svcState ⟨.link, 23⟩ .returning).onBeat (fun b => { b with part := .background })
    s.beating = true ∧ s.svc ⟨.link, 23⟩ = .returning ∧ s.beat.part = .background) := by
  decide
/-- Reset in the background part of a beat, with tasks due. -/
def bgState (l : List BgTask) : State :=
  (State.reset.onBeat (fun b => { b with part := .background, ticked := true })).onPlan (fun p => { p with bgDue := l })
theorem witness_CalibrationRotation : (bgState [.stackCal 15, .linkCal 23, .cxlCal 3, .telemetry]).bgRuns (.stackCal 15) = true ∧
    (bgState [.stackCal 15]).plan.bgDue.contains (.scrub 15) = false ∧ (bgState [.linkCal 23]).bgRuns (.linkCal 23) = true ∧
    (bgState [.cxlCal 3]).bgRuns (.cxlCal 3) = true ∧ (bgState [.telemetry]).bgRuns .telemetry = true := by decide
/-- Reset, with 16 corrected words in region 32 of stack 0. -/
def ceState : State := State.reset.onMem (fun m => { m with ceLog := (List.range 16).map (fun i => (32, i, 0)) })
theorem witness_ScrubAndRetire : (bgState [.scrub 15]).bgRuns (.scrub 15) = true ∧ (bgState [.lcScrub 15]).bgRuns (.lcScrub 15) = true ∧
    ceState.beating = true ∧
    stackOfAddr (32 * regionSize) = some 0 ∧ 16 ≤ ceState.ceWords 32 ∧ 32 ∉ ceState.power.cfg.retired := by decide +kernel

/-! ## Witnesses: messages -/

theorem witness_MessageTaken : State.reset.coresUp = true ∧
    (let s := State.reset.onCtrl (fun k => { k with boxes := [{
      client := 0
      mbox := 0
      own := true
      opcode := 0
      status := 0
      seq := 0
      plen := 0
      rlen := 0
      refAddr := 0
      refLen := 0
      refSpace := 0
      rsvd1D := 0
      rsvd30 := 0
      accBeat := 0
      doneBeat := 0
      payload := [] }] })
    s.coresUp = true ∧ s.boxOwned 0 0 = true) ∧
    (State.reset.boxOwned 255 15 = false ∧ (State.reset.block 255).bound = false) ∧
    (State.reset.boxOwned 0 0 = false ∧ (State.reset.block 0).bound = true ∧ headerFail (some 4) false (testMsg []) = some stBadLength ∧
      headerFail (some 0) false { testMsg [] with ownWord := 3 } = some stBadFormat) := by decide
/-- The records of an input channel (1) on microphone `mic` and of a network output channel. -/
def testIn (mic : Nat) : List Byte := testRec 64 [(0, 1, 1), (1, 1, 3), (2, 1, mic), (7, 1, 1), (0x20, 1, 1), (0x1E, 1, 80), (0x38, 2, 2), (0x30, 8, 0x4000000)]
/-- The record of a serial-port output channel. -/
def testOut : List Byte := testRec 64 [(0, 1, 2), (1, 1, 2), (7, 1, 1)]
/-- A channel that has not started. -/
def testChan (idx : Nat) (r : List Byte) : Channel :=
  { idx := idx, client := 0, record := r, sizeLog2 := 8, started := true, startBeat := none, integ := 0, adj := 0, phase := 0, base := 0, hist := [],
    flaws := [], gframe := 0, inBeat := none, intBase := 0, internal := [], flawInt := [], nextChunk := 0, chunkPhase := 0, feats := [], port := [],
    snapWr := 0, snapRd := 0, snapFill := 0, req := none, shortCnt := 0, dropped := 0, applied := 0, gain := 0, running := false, muted := false,
    pendingCh := none, lastY := 0, nOut := 0, zeroed := false, faultStatus := none, closing := none, closeAt := none }
/-- A template of one command for all units in service. -/
def testTempl (k : TemplKind) : Template :=
  { kind := k, clusterMask := 0xFF, nmuMask := 0xFFFF, cmds := [testCmd], merges := [], links := [] }
/-- A package with a template of each kind and one recurrent layer group. -/
def testPkg2 : Package :=
  { testPkg 64 with
    templates := [.decode, .encode, .decoder, .stopword, .prefill, .load].map testTempl
    recurrent := [{ heads := 1, dk16 := 1, dv16 := 1, layers := 1, decayVec := false }] }
/-- A loaded model of client 0. -/
def testModel : Model :=
  { idx := 0, client := 0, dom := 1, loaded := true, unloading := none, tset := 0, nextTset := none, kvFp8 := false, vocab := 100, pkg := testPkg2,
    stripes := [], veBase := [], suspended := none, keyM := 0, queues := [], rotaryAt := [] }
/-- A state object of the model in stack `0`, or in CXL port 0. -/
def testObj (i : Nat) (cxl : Bool) : StateObj :=
  { freshObj i 0 0 0 1 1 1 1 false ((if cxl then 0x100000000000 else 0x40000000) + i * regionSize) with step := 0 }
/-- A session of the model with nothing in it. -/
def testSess : Session := newSession 0 0 0 0 64 { addr := 0, sizeLog2 := 6, wr := 0, rdSnap := 0, holds := 0 } 0
/-- An index pool from which the indices given have been issued once. -/
def testPool (n : Nat) (l : List Nat) : KindPool := { fresh := n, gens := l.map (fun i => (i, 1)), held := l, freed := [] }
/-- Reset with clients, channels, a session, state objects, a model and two table sets; domain 1 is the safety domain. -/
def testWorld : State :=
  ((((State.reset.onCtrl (fun k => { k with
    blocks := k.blocks ++ [(1, { CtrlBlock.unbound with bound := true, domain := 2, handle := 0x70010001 })]
    kinds := [.fresh0, testPool 2 [0, 1, 4096], testPool 1 [0], testPool 4 [0, 1, 2, 3], testPool 1 [0], .fresh0, .fresh0, testPool 2 [0, 1], testPool 2 [0, 1]]
    models := [testModel]
    tsets := [⟨0, 0, zeros 64, none⟩, ⟨1, 0, zeros 64, none⟩]
    objs := [testObj 0 false, testObj 1 false, testObj 2 false, testObj 3 true]
    sessions := [testSess] })).onAudio (fun a => { a with
    chans := [testChan 0 (testIn 0), testChan 1 (testIn 4), testChan 4096 testOut] })).onPages (fun p => { p with
    pools := List.replicate 16 { PoolSt.unset with admitPm := 0 } })).onMem (fun m => { m with
    cxl := [{ CxlReg.down with up := true, cap2M := 64 }, .down, .down, .down] })).onSafe (fun k => { k with safetyDomain := 1, blazed := List.range 24, blazeBoot := 96 })
/-- Stack 0's general area from 64 MiB on, and the CXL regions, tagged read-write for domain 1. -/
def tagWorld (l : List Nat) : State := testWorld.onMem (fun m => { m with tags := l.map (fun r => (r, mkTag 2 0 1)) })
theorem witness_ClientMessages :
    (let m := testMsg (natLe 4 2)
    let a := State.reset.taking 0x0101 m
    MsgReady 0x0101 (some 4) false m State.reset ∧ m.f 0 1 < 64 ∧ m.z 1 3 = true ∧ m.sys = true ∧ 2 ≤ m.f 0 1 ∧ a.parts = 1 ∧ a.nextIdx 7 = some 1) ∧
    (let m := testMsg (natLe 4 (testH 7 1))
    let a := testWorld.taking 0x0102 m
    MsgReady 0x0102 (some 4) false m testWorld ∧ a.hValid 7 (m.f 0 4) = true ∧ m.sys = true ∧ hIdx (m.f 0 4) ≠ 0 ∧
      ∀ c ∈ a.ctrl.closingClients, c.1 ≠ hIdx (m.f 0 4)) ∧
    (let m := testMsg (zeros 16)
    MsgReady 0x0110 (some 16) false m State.reset ∧ m.z 9 3 = true ∧ m.f 0 8 = 0 ∧ m.f 0xC 4 = 0) ∧
    (let m := testMsg (zeros 8 ++ [16, 0, 0, 0, 1, 0, 0, 0])
    MsgReady 0x0110 (some 16) false m State.reset ∧ m.z 9 3 = true ∧ m.f 0xC 4 ≠ 0 ∧ 6 ≤ m.f 8 1 ∧ m.f 8 1 ≤ 16 ∧
      inCarve (m.f 0 8) (64 + 2 ^ m.f 8 1 * 64) = true) ∧
    (let m := testMsg (natLe 4 (testH 1 4096))
    let a := testWorld.taking 0x0111 m
    MsgReady 0x0111 (some 4) false m testWorld ∧ a.live (if hKind (m.f 0 4) = 1 then 1 else 2) (m.f 0 4) = true ∧
      a.owns m.client (if hKind (m.f 0 4) = 1 then 1 else 2) (m.f 0 4) = true ∧ ∀ c ∈ a.faultChans (m.f 0 4), a.persists c = none) := by
  unfold MsgReady; decide +kernel


theorem witness_SystemMessages_beatConfig : ∀ l ∈ [[], [5]],
    (let s := State.reset.onBeat (fun k => { k with chainModules := l })
    let m := testMsg (natLe 2 32 ++ natLe 2 100 ++ natLe 2 100 ++ natLe 2 50 ++ [8] ++ zeros 7)
    let a := s.taking 0x0103 m
    MsgReady 0x0103 (some 16) false m s ∧ BeatConfigOk m a ∧ a.beat.chainModules = l) := by
  unfold MsgReady BeatConfigOk; decide +kernel
/-- A message with an operand by reference at the carve-out's start. -/
def testRef (n : Nat) (p : List Byte) : Msg := { testMsg p with refLen := n, refSpace := 1 }
theorem witness_SystemMessages_topology :
    (let s := carveWrite 0 [0, 0, 1, 0, 0, 0, 0, 0] State.reset
    let m := testRef 8 (natLe 8 4 ++ natLe 2 0 ++ [0, 0, 1, 0, 0, 0])
    MsgReady 0x0104 (some 16) true m s ∧ TopologyOk m (s.taking 0x0104 m)) := by
  unfold MsgReady TopologyOk RefOk; decide +kernel
theorem witness_SystemMessages_chain :
    (let s := State.reset.onBeat (fun k => { k with master := false })
    s.beat.master = false ∧ s.coresUp = true) ∧
    (∀ l ∈ [[5], [5, 6]], let ch : ChainChange := { client := 0, mbox := 0, cfg := State.reset.beat.cur, holdMax := 8, received := 0, waiting := l }
    let s := State.reset.onBeat (fun k => { k with change := some ch })
    s.beat.change = some ch ∧ 5 ∈ ch.waiting ∧ (ch.waiting.filter (fun x => decide (x ≠ 5)) = [] ↔ l = [5])) := by decide +kernel
theorem witness_SystemMessages_poolConfig :
    (let m := testMsg (natLe 4 (testH 5 15) ++ natLe 4 64 ++ natLe 4 0 ++ natLe 2 500 ++ natLe 2 500)
    let a := State.reset.taking 0x0105 m
    ∃ r, MsgReady 0x0105 (some 16) false m State.reset ∧ PoolConfigOk m r a) := by
  refine ⟨((State.reset.taking 0x0105 (testMsg (natLe 4 (testH 5 15) ++ natLe 4 64 ++ natLe 4 0 ++ natLe 2 500 ++ natLe 2 500))).poolRuns 15 64).getD [], ?_⟩
  unfold MsgReady PoolConfigOk; decide +kernel
/-- A FENCE or UNFENCE of a unit, with FENCE's LOST. -/
def testUnit (k i lost : Nat) : Msg := testMsg (natLe 1 k ++ natLe 1 i ++ natLe 2 lost ++ zeros 4)
theorem witness_SystemMessages_fence :
    (∀ x ∈ [(1, 7, 0), (2, 15, 0), (2, 15, 1), (3, 23, 0), (4, 3, 0), (4, 3, 1), (5, 3, 0), (6, 7, 0)], let m := testUnit x.1 x.2.1 x.2.2
    let s := if x.1 = 4 then State.reset.setSvc ⟨.cxl, 3⟩ .inService else State.reset
    MsgReady 0x0106 (some 8) false m s ∧ FenceNames true m ∧ FenceFits m (s.taking 0x0106 m)) ∧
    (let s := State.reset.setSvc ⟨.pdm, 7⟩ .fenced
    let m := testUnit 6 7 0
    MsgReady 0x0106 (some 8) false m s ∧ FenceNames true m ∧ (s.taking 0x0106 m).svc (unitOfMsg m) ≠ .inService) := by
  unfold MsgReady FenceNames FenceFits; decide +kernel
theorem witness_SystemMessages_unfence : ∀ v ∈ [Svc.inService, .fenced, .returning],
    (let s := State.reset.setSvc ⟨.nmu, 15⟩ v
    let m := testUnit 2 15 0
    let a := s.taking 0x0107 m
    let u := unitOfMsg m
    MsgReady 0x0107 (some 8) false m s ∧ FenceNames false m ∧ a.svc u = v ∧ ∀ f ∈ a.units.fences, f.1 ≠ u) := by
  unfold MsgReady FenceNames; decide +kernel

theorem witness_SystemMessages_unfence_test :
    (∀ b ∈ [true, false], (let t : UnitTest := { passed := b, bytes := 0, code := 0, slowest := 600 }; testOk ⟨.cxl, 3⟩ t = b)) ∧
    (let t : UnitTest := { passed := true, bytes := 0, code := 0, slowest := 601 }; testOk ⟨.cxl, 3⟩ t = false ∧ testOk ⟨.nmu, 15⟩ t = true) := by decide
/-- A MEM_ALLOC of `n` read-write regions of a tier and unit. -/
def testAlloc (tier unit n : Nat) : Msg := testMsg ([BitVec.ofNat 8 tier, BitVec.ofNat 8 unit, 2, 0] ++ natLe 4 n)
/-- Reset with four CXL ports of 64 regions. -/
def cxlWorld : State :=
  (State.reset.setSvc ⟨.cxl, 3⟩ .inService).onMem (fun k => { k with cxl := List.replicate 4 { CxlReg.down with up := true, cap2M := 64 } })
theorem witness_MemoryMessages_memAlloc : ∀ x ∈ [(1, 15, 0), (1, 15, 2), (2, 3, 0), (2, 3, 2)],
    (let m := testAlloc x.1 x.2.1 x.2.2
    let a := cxlWorld.taking 0x0201 m
    let r := (if x.1 = 1 then a.stackRun x.2.1 x.2.2 else a.portRun (a.domainOf m.client) x.2.1 x.2.2).getD 0
    MsgReady 0x0201 (some 8) false m cxlWorld ∧ MemAllocNames m ∧ m.f 4 4 = x.2.2 ∧ MemAllocRun m r a) := by
  unfold MsgReady MemAllocNames MemAllocRun; decide +kernel
theorem witness_MemoryMessages_memFree : ∀ n ∈ [0, 1, 4],
    (let r := (0x40000000, 4, 0)
    let s := State.reset.onMem (fun k => { k with runs := [r] })
    let m := testMsg (natLe 8 0x40000000 ++ natLe 4 n ++ zeros 4)
    let a := s.taking 0x0202 m
    MsgReady 0x0202 (some 16) false m s ∧ m.z 0xC 4 = true ∧ m.f 8 4 = n ∧ m.f 0 8 % regionSize = 0 ∧
      a.runWith (m.f 0 8) (m.f 8 4) = some r ∧ r.2.2 = m.client) := by unfold MsgReady; decide +kernel
theorem witness_MemoryMessages_memCopy : ∀ n ∈ [0, 64], ∀ fl ∈ [0, 3],
    (let s := tagWorld [512]
    let m := testMsg (natLe 8 (512 * regionSize) ++ natLe 8 (512 * regionSize + 64) ++ natLe 8 n ++ [fl] ++ zeros 7)
    MsgReady 0x0203 (some 32) false m s ∧ m.f 0x10 8 = n ∧ MemCopyOk m (s.taking 0x0203 m)) := by
  unfold MsgReady MemCopyOk; decide +kernel
/-- A world with a message of client 0 accepted and its copy waiting. -/
def workWorld (s : State) (op : Nat) (m : Msg) (w : BWork) : State := addWork w (s.taking op m)
/-- Class B work of client 0, mailbox 0. -/
def testWork (k : BKind) (obj arg : Nat) (taken : Bool) : BWork :=
  { kind := k, client := 0, mbox := 0, obj := obj, arg := arg, model := 0, beat := 0, taken := taken }

theorem witness_MemoryMessages_memCopyComplete :
    (let m := testMsg (natLe 8 (512 * regionSize) ++ natLe 8 (512 * regionSize + 64) ++ natLe 8 64 ++ zeros 8)
    let mine : BWork → Bool := fun w => w.kind == .memCopy && w.client == 0 && w.mbox == 0
    let s := copying (.work (testWork .memCopy 0 0 false)) (workWorld (tagWorld [512]) 0x0203 m (testWork .memCopy 0 0 false))
    s.copyRuns (DcpCopy.isFor mine) = true ∧ ((s.plan.bwork.any (fun w => w.kind == .memCopy && w.client == 0 && w.mbox == 0)) = true) ∧
    (s.box 0 0).map (fun bx => (fld bx.payload 0x18 1, fld bx.payload 0 8, fld bx.payload 8 8, fld bx.payload 0x10 8)) =
      some (0, 512 * regionSize, 512 * regionSize + 64, 64) ∧
    s.rangePasses (s.domainOf 0) false (512 * regionSize) 64 = true ∧ s.rangePasses (s.domainOf 0) true (512 * regionSize + 64) 64 = true ∧
    s.rangePoisoned (512 * regionSize) 64 = false) := by decide +kernel

/-! ## Witnesses: state objects and models -/

/-- The world with the three state objects of stack 0 held in memory; object 0 with a change. -/
def objWorld (f : StateObj → StateObj) : State := testWorld.onObj 0 f
theorem witness_StateObjectMessages_create :
    (let m := testMsg (natLe 4 (testH 4 0) ++ zeros 4 ++ [1, 1, 1, 0, 1, 0, 0, 0])
    let a := testWorld.taking 0x0401 m
    MsgReady 0x0401 (some 16) false m testWorld ∧ StateCreateOk m testModel a ∧
    (newObj m.client (a.domainOf m.client) (hIdx (m.f 0 4)) (BitVec.ofNat 32 (m.f 4 4)) (m.f 8 1) (m.f 9 1) (m.f 0xA 1) (m.f 0xC 2)
      (m.f 0xB 1 == 1) a).isSome = true) := by
  unfold MsgReady StateCreateOk; decide +kernel
theorem witness_StateObjectMessages_destroy : ∀ force ∈ [0, 1], ∀ o, testWorld.obj 0 = some o →
    (let m := testMsg (natLe 4 (testH 3 0) ++ natLe 4 force)
    let a := testWorld.taking 0x0402 m
    MsgReady 0x0402 (some 8) false m testWorld ∧ NamesObj m o a ∧ m.f 4 4 = force ∧ o.swap = none ∧ o.destroying = none ∧ o.copies = 0 ∧
      o.owner = 0 ∧ a.pinned (hIdx (m.f 0 4)) = false) := by
  intro force hf o ho
  obtain rfl : testObj 0 false = o := Option.some.inj (by rw [← ho]; decide +kernel)
  revert force; unfold MsgReady NamesObj; decide +kernel
theorem witness_StateObjectMessages_pinned :
    (let s := objWorld (fun o => { o with destroying := some (0, 0) })
    (s.obj 0).map (·.destroying) = some (some (0, 0)) ∧ s.pinned 0 = false) := by decide +kernel
theorem witness_StateObjectMessages_reset :
    (let m := testMsg (natLe 4 (testH 3 0) ++ [128, 0, 0, 0] ++ zeros 8 ++ zeros 15 ++ [0x80])
    MsgReady 0x0404 (some 32) false m testWorld ∧ StateResetOk m (testObj 0 false) (testWorld.taking 0x0404 m) ∧ resetSteps m = [127]) := by
  unfold MsgReady StateResetOk NamesObj; decide +kernel
theorem witness_StateObjectMessages_copy :
    (let m := testMsg (natLe 4 (testH 3 0) ++ zeros 4)
    let a := testWorld.taking 0x0405 m
    let o := testObj 0 false
    MsgReady 0x0405 (some 8) false m testWorld ∧ NamesObj m o a ∧ m.z 4 4 = true ∧ o.swap = none ∧ o.destroying = none ∧
    (a.nextIdx 3).isSome = true ∧ (a.anyStackRun (a.domainOf m.client) o.regions).isSome = true) ∧
    (let w := testWork .stateCopy 0 0x50000000 true
    let s := copying (.work w) (testWorld.onPlan (fun k => { k with bwork := [w] }))
    s.copyRuns (DcpCopy.isFor w.same) = true ∧ s.plan.bwork.find? (fun w => w.kind == .stateCopy && w.client == 0 && w.mbox == 0 && w.taken) = some w ∧
    (s.obj w.obj).isSome = true ∧ s.nextIdx 3 = some 4) := by
  unfold MsgReady NamesObj; decide +kernel
theorem witness_StateObjectSwaps_message : ∀ x ∈ [(0, 1, 0), (0, 2, 0), (0, 3, 5), (3, 2, 0), (3, 1, 0), (3, 3, 4094)],
    let s := testWorld.setSvc ⟨.cxl, 0⟩ .inService
    let m := testMsg (natLe 4 (testH 3 x.1) ++ [BitVec.ofNat 8 x.2.1, 0] ++ natLe 2 x.2.2)
    let a := s.taking 0x0403 m
    let o := testObj x.1 (x.1 == 3)
    MsgReady 0x0403 (some 8) false m s ∧ StateSwapOk m o a ∧ m.f 4 1 = x.2.1 ∧ tierOf o = (if x.1 = 3 then 2 else 1) ∧
    a.reservedObj (hIdx (m.f 0 4)) = false ∧ a.swaps < 64 ∧ (a.anyStackRun (a.domainOf m.client) o.regions).isSome = true ∧
    (a.anyPortRun (a.domainOf m.client) o.regions).isSome = true := by
  unfold MsgReady StateSwapOk NamesObj; decide +kernel
/-- The world with a Scan command planned for the session, whose recurrent state object 0 is. -/
def pinWorld : State := (testWorld.onSession 0 (fun x => { x with rstate := BitVec.ofNat 32 (testH 3 0) })).onPlan (fun k => { k with
  cur := [testPCmd [3]] })
theorem witness_StateObjectSwaps_copy : testWorld.pinned 0 = false ∧ pinWorld.pinned 0 = true ∧
    (let w : SwapSt := { dest := 2, modul := 0, client := 0, mbox := 0, target := 0x100000000000, copying := true, copied := none, newHandle := 0 }
    let s := copying (.swap 0) (objWorld (fun o => { o with swap := some w }))
    (s.obj 0).map (·.swap) = some (some w) ∧ s.copyRuns (· == .swap 0) = true) := by decide +kernel

/-- A package header of 80 bytes: one section, vocabulary 100. -/
def testHdr : List Byte :=
  let h := natLe 2 1 ++ natLe 2 1 ++ natLe 4 100 ++ natLe 8 80 ++ zeros 44
  h ++ natLe 4 (crc32c h).toNat ++ [1] ++ zeros 15
/-- A MODEL_LOAD of that package from region 512, with table set 0. -/
def testLoad : Msg := { testMsg (natLe 4 (testH 8 0) ++ zeros 4) with refAddr := 0x40000000, refLen := 80 }
theorem witness_ModelMessages_load :
    (let m := testLoad
    let pkg := { testPkg 0 with header := testHdr }
    MsgReady 0x0301 (some 8) true m (tagWorld [512]) ∧ ModelLoadOk m pkg 0 ((tagWorld [512]).taking 0x0301 m)) := by
  unfold MsgReady ModelLoadOk; decide +kernel
/-- The world with a model in its load, and no NMU or CXL port in service where `f` says so. -/
def loadWorld (tensors : List (List (List Byte))) (f : Bool) : State :=
  let s := (testWorld.onCtrl (fun k => { k with
    models := [{ testModel with idx := 256, loaded := false, pkg := { testPkg2 with tensors := tensors } }] })).onPlan (fun k => { k with
      bwork := [{ testWork .modelLoad 256 0 false with model := 256 }] })
  if f then (List.range 4).foldl (fun (s : State) i => s.setSvc ⟨.cxl, i⟩ .fenced)
    ((List.range 16).foldl (fun (s : State) i => s.setSvc ⟨.nmu, i⟩ .fenced) s) else s
theorem witness_ModelMessages_complete : ∀ f : Bool,
    (let w := { testWork .modelLoad 256 0 false with model := 256 }
    let s := copying (.work w) (loadWorld (if f then [[zeros 64]] else []) f)
    let s1 := (dropLoad 256 (dropWork (· == w) s)).issue 4 1
    let owner := BitVec.ofNat 32 (s1.handleOf 4 1)
    let stks := s.stripeStks 1 (s.svcList .nmu)
    s.copyRuns (DcpCopy.isFor w.same) = true ∧ s.plan.bwork.find? (fun w => w.kind == .modelLoad && w.client == 0 && w.mbox == 0) = some w ∧ (s.model 256).isSome = true ∧ s.nextIdx 4 = some 1 ∧
    (placeModel owner 1 stks ((s.model 256).getD testModel).pkg s1).isSome = !f ∧
    ((placeModel owner 1 stks ((s.model 256).getD testModel).pkg s1).bind (fun q =>
      placeRotary owner 1 stks ((s.model 256).getD testModel).pkg q.2)).isSome = !f) := by decide +kernel
theorem witness_ModelMessages_unload :
    (let s := testWorld.onCtrl (fun k => { k with sessions := [] })
    let m := testMsg (natLe 4 (testH 4 0))
    let a := s.taking 0x0302 m
    MsgReady 0x0302 (some 4) false m s ∧ a.live 4 (m.f 0 4) = true ∧ a.owns m.client 4 (m.f 0 4) = true ∧ a.unloading (m.f 0 4) = false ∧
      a.modelBusy (hIdx (m.f 0 4)) = false) := by unfold MsgReady; decide +kernel
theorem witness_ModelMessages_setTables :
    (let m := testMsg (natLe 4 (testH 4 0) ++ natLe 4 (testH 8 1))
    MsgReady 0x0303 (some 8) false m testWorld ∧ SetTablesOk m testModel (testWorld.taking 0x0303 m)) := by
  unfold MsgReady SetTablesOk; decide +kernel
theorem witness_ModelMessages_tsetDestroy :
    (∀ i ∈ [0, 1], let m := testMsg (natLe 4 (testH 8 i))
    let a := testWorld.taking 0x0312 m
    MsgReady 0x0312 (some 4) false m testWorld ∧ a.live 8 (m.f 0 4) = true ∧ a.owns m.client 8 (m.f 0 4) = true ∧ a.tsetDoomed (hIdx (m.f 0 4)) = false ∧
      a.tsetNamed (hIdx (m.f 0 4)) = decide (i = 0)) ∧
    (let s := testWorld.onCtrl (fun k => { k with tsets := updAll k.tsets (·.idx == 1) (fun t => { t with destroying := some (0, 0) }) })
    (s.tset 1).map (·.destroying) = some (some (0, 0)) ∧ s.tsetNamed 1 = false) := by unfold MsgReady; decide +kernel
/-- The header of a table-set image without tables, short of its two CRCs; both, and the whole image. -/
def tsHead : List Byte := natLe 2 1 ++ [1, 0xFF] ++ zeros 4 ++ natLe 4 0x10400 ++ zeros 44
def tsMid : List Byte := tsHead ++ natLe 4 (crc32c (zeros 0x103C0)).toNat
def tsImage : List Byte := tsMid ++ natLe 4 (crc32c tsMid).toNat ++ zeros 0x103C0
theorem tsMid_length : tsMid.length = 60 := by
  unfold tsMid; rw [List.length_append, natLe_length]; decide
theorem tsImage_length : tsImage.length = 0x10400 := by
  unfold tsImage; rw [List.length_append, List.length_append, natLe_length, tsMid_length]; simp only [zeros, List.length_replicate]
theorem tsImage_head (o n : Nat) (h : o + n ≤ 56) : (tsImage.drop o).take n = (tsHead.drop o).take n := by
  unfold tsImage tsMid
  rw [List.append_assoc, List.append_assoc, List.drop_append_of_le_length (by rw [show tsHead.length = 56 by decide]; omega),
    List.take_append_of_le_length (by rw [List.length_drop, show tsHead.length = 56 by decide]; omega)]
theorem tsImage_fld (o n : Nat) (h : o + n ≤ 56) : fld tsImage o n = fld tsHead o n := by unfold fld; rw [tsImage_head o n h]
theorem tsImage_zero (o n : Nat) (h : 64 ≤ o) : allZero tsImage o n = true := by
  have hl : (tsMid ++ natLe 4 (crc32c tsMid).toNat).length = 64 := by rw [List.length_append, natLe_length, tsMid_length]
  unfold allZero tsImage
  rw [List.drop_append, hl, List.drop_of_length_le (by rw [hl]; exact h), List.nil_append, List.all_eq_true]
  intro x hx
  have := List.eq_of_mem_replicate (List.mem_of_mem_drop (List.mem_of_mem_take hx))
  simp [this]
theorem tsImage_passes : tsetFail tsImage = none := by
  have hm : tsImage.take 60 = tsMid := by
    unfold tsImage; rw [List.append_assoc]; exact List.take_left' tsMid_length
  have hh : fld tsImage 0x3C 4 = (crc32c tsMid).toNat := by
    unfold fld tsImage
    rw [List.append_assoc, List.drop_left' tsMid_length, List.take_left' (natLe_length 4 _), leNat_natLe]
    exact Nat.mod_eq_of_lt (crc32c tsMid).isLt
  have hd : fld tsImage 0x38 4 = (crc32c (zeros 0x103C0)).toNat := by
    unfold fld tsImage tsMid
    rw [List.append_assoc, List.append_assoc, List.drop_left' (by decide), List.take_left' (natLe_length 4 _), leNat_natLe]
    exact Nat.mod_eq_of_lt (crc32c _).isLt
  have hc : cut tsImage 0x40 0x103C0 = zeros 0x103C0 := by
    have hl : (tsMid ++ natLe 4 (crc32c tsMid).toNat).length = 64 := by rw [List.length_append, natLe_length, tsMid_length]
    unfold cut tsImage
    rw [List.drop_left' hl]
    exact List.take_of_length_le (Nat.le_of_eq (List.length_replicate ..))
  have hz : ∀ o n, o + n ≤ 56 → allZero tsImage o n = allZero tsHead o n := fun o n h => by unfold allZero; rw [tsImage_head o n h]
  have hs : (List.range 16).all (slotOk (tsCompat tsImage) tsImage) = true := by
    rw [List.all_eq_true]
    intro i _
    have : tsHas tsImage i = false := by
      unfold tsHas; rw [tsImage_fld 4 2 (by omega), show fld tsHead 4 2 = 0 by decide, Nat.zero_testBit]
    unfold slotOk
    simp only [this, Bool.false_eq_true, if_false]
    rw [tsImage_zero _ _ (by omega), tsImage_zero _ _ (by omega)]; rfl
  unfold tsetFail
  rw [hm, hh, hc, hd, hs, tsImage_fld 0 2 (by omega), tsImage_fld 2 1 (by omega), tsImage_fld 3 1 (by omega), tsImage_fld 8 4 (by omega),
    hz 6 2 (by omega), hz 0xC 44 (by omega), tsImage_zero 0x340 0xC0 (by omega), decide_eq_true rfl, decide_eq_true rfl]
  decide
/-- The world with bytes in region 512, and the TSET_CREATE of an image there. -/
def tsWorld (l : List Byte) : State := (tagWorld [512]).onDev (fun d => MemOps.writeN d 0x40000000 l)
def testCreate : Msg := { testMsg [] with refAddr := 0x40000000, refLen := 0x10400 }
theorem readN_eq (m : Mem) (l : List Byte) (a : Nat) (h : ∀ i, i < l.length → MemOps.read m (a + i) = l.getD i 0) :
    MemOps.readN m a l.length = l := by
  induction l generalizing a with
  | nil => rfl
  | cons b l ih =>
    rw [List.length_cons, MemOps.readN, ih (a + 1) (fun i hi => by
      have := h (i + 1) (by rw [List.length_cons]; omega)
      rwa [List.getD_cons_succ, (by omega : a + (i + 1) = a + 1 + i)] at this)]
    have := h 0 (by rw [List.length_cons]; omega)
    rw [Nat.add_zero] at this
    rw [this]; rfl
theorem readN_writeN (m : Mem) (a : Nat) (l : List Byte) (h : Memory.wf m = true) : MemOps.readN (MemOps.writeN m a l) a l.length = l :=
  readN_eq _ _ _ (fun i hi => by rw [read_writeN _ _ _ h, if_pos ⟨by omega, by omega⟩, Nat.add_sub_cancel_left])
theorem tsWorld_refRead (l : List Byte) (n : Nat) : ((tsWorld l).taking 0x0311 testCreate).refRead testCreate n =
    MemOps.readN (MemOps.writeN (tagWorld [512]).mem.dev 0x40000000 l) testCreate.refAddr.toNat n := by
  unfold State.refRead
  rw [if_neg (by decide)]
  exact congrArg (fun d => MemOps.readN d testCreate.refAddr.toNat n) rfl
theorem tsWorld_reads : ((tsWorld tsImage).taking 0x0311 testCreate).refRead testCreate 0x10400 = tsImage := by
  rw [tsWorld_refRead, show testCreate.refAddr.toNat = 0x40000000 by decide, ← tsImage_length]
  exact readN_writeN _ _ _ (by decide)
theorem placeStripe_isSome (owner : Word) (dom : Nat) (l : List Byte) (s : State)
    (h : (s.anyStackRun dom (cdiv l.length regionSize)).isSome = true) : (placeStripe owner dom none l s).isSome = true := by
  unfold placeStripe
  obtain ⟨q, hq⟩ := Option.isSome_iff_exists.1 h
  simp [hq]
theorem witness_ModelMessages_tsetCreate :
    (let m := testCreate
    let a := (tsWorld tsImage).taking 0x0311 m
    let img := a.refRead m 0x10400
    let b := (a.issue 8 2).onCtrl (fun k => { k with tsets := k.tsets ++ [{ idx := 2, client := m.client, image := img, destroying := none }] })
    MsgReady 0x0311 (some 0) true m (tsWorld tsImage) ∧ m.refLen = 0x10400 ∧ RefOk m 0x10400 false a ∧ tsetFail img = none ∧
    a.nextIdx 8 = some 2 ∧ (placeStripe 0 (a.domainOf m.client) none img a).isSome = true ∧
    (placeStripe (BitVec.ofNat 32 (b.handleOf 8 2)) (a.domainOf m.client) none img b).isSome = true) := by
  have hl : (((tsWorld tsImage).taking 0x0311 testCreate).refRead testCreate 0x10400).length = 0x10400 := by
    rw [tsWorld_reads, tsImage_length]
  refine ⟨by unfold MsgReady; decide, rfl, by unfold RefOk; decide +kernel, ?_, by decide, placeStripe_isSome _ _ _ _ ?_, placeStripe_isSome _ _ _ _ ?_⟩
  · show tsetFail (((tsWorld tsImage).taking 0x0311 testCreate).refRead testCreate 0x10400) = none
    rw [tsWorld_reads]; exact tsImage_passes
  · rw [hl]; decide +kernel
  · rw [hl]; decide +kernel


/-! ## Witnesses: sessions -/

/-- The world with a token ring of 64 records at 0x1000 of the carve-out. -/
def ringWorld : State := carveWrite 0x1008 [6] testWorld
theorem witness_SessionMessages_open : ∀ full : Bool,
    (let t := fun (k i : Nat) => natLe 4 (if full then testH k i else 0)
    let m := testMsg (natLe 4 (testH 4 0) ++ natLe 4 (testH 3 2) ++ t 1 0 ++ t 1 4096 ++ t 4 0 ++ t 3 0 ++ t 4 0 ++ t 3 1 ++ natLe 4 1048576 ++ zeros 4 ++
      natLe 8 0x1000)
    let a := ringWorld.taking 0x0501 m
    MsgReady 0x0501 (some 48) false m ringWorld ∧ SessionOpenOk m 1 a ∧ (openResvs m a = [] ↔ full = false)) := by
  unfold MsgReady SessionOpenOk; decide +kernel
theorem witness_SessionMessages_close :
    (let m := testMsg (natLe 4 (testH 2 0))
    MsgReady 0x0502 (some 4) false m testWorld ∧ NamesSession m testSess (testWorld.taking 0x0502 m) ∧ testSess.closing = none) := by
  unfold MsgReady NamesSession; decide +kernel
/-- A frame set of page 0 whose frame lies in a tier. -/
def testSet (tier : Nat) : FrameSet :=
  { id := 3, model := 0, dom := 1, page := 0, locs := [{ tier := tier, stack := 0, off := 0, inv := none, sealed := false }], fill := 10, invalid := none,
    refs := 1, tree := false, key := 0, moving := false }
/-- The session with 10 positions in that frame set. -/
def pageSess (f : Session → Session) : Session := f { testSess with positions := 10, ids := List.replicate 10 0, pages := [3] }
/-- The world with it. -/
def pageWorld (tier : Nat) (f : Session → Session) : State :=
  (ringWorld.onSession 0 (fun x => f { x with positions := 10, ids := List.replicate 10 0, pages := [3] })).onPages (fun k => { k with sets := [testSet tier] })
/-- The model without recurrent layers, so that a session needs no state object; or with an attention geometry. -/
def plainModel : Model := { testModel with pkg := testPkg 64 }
def attModel : Model := { testModel with
  pkg := { testPkg2 with attention := some { layers := 1, heads := 4, d := 128, layerStep := 0, ropePair := 0 } } }
theorem witness_SessionMessages_fork : ∀ x ∈ [(0, 0), (10, 0)],
    (let s := (pageWorld 1 id).onModel 0 (fun _ => plainModel)
    let m := testMsg (natLe 4 (testH 2 0) ++ natLe 4 x.1 ++ natLe 4 x.2 ++ zeros 4 ++ natLe 8 0x1000)
    MsgReady 0x0506 (some 24) false m s ∧ SessionForkOk m (pageSess id) plainModel 1 (s.taking 0x0506 m)) := by
  unfold MsgReady SessionForkOk NamesSession; decide +kernel
theorem witness_SessionMessages_forkObject :
    (let s := pageWorld 1 id
    let m := testMsg (natLe 4 (testH 2 0) ++ natLe 4 0 ++ natLe 4 (testH 3 2) ++ zeros 4 ++ natLe 8 0x1000)
    MsgReady 0x0506 (some 24) false m s ∧ SessionForkOk m (pageSess id) testModel 1 (s.taking 0x0506 m)) := by
  unfold MsgReady SessionForkOk NamesSession; decide +kernel
theorem witness_SessionMessages_query :
    (let s := (pageWorld 1 id).onModel 0 (fun _ => attModel)
    let m := testRef 8 (natLe 4 (testH 2 0) ++ natLe 4 0 ++ natLe 4 1 ++ zeros 4)
    MsgReady 0x0507 (some 16) true m s ∧ SessionQueryOk m (pageSess id) (s.taking 0x0507 m)) := by
  unfold MsgReady SessionQueryOk NamesSession RefOk; decide +kernel
/-- One position short of a block. -/
def nearBlock (x : Session) : Session := { x with positions := 63, ids := List.replicate 63 0 }
theorem witness_DecodingMessages_prefill : ∀ n ∈ [0, 1],
    (let s := pageWorld 1 nearBlock
    let x := pageSess nearBlock
    let m := testMsg (natLe 4 (testH 2 0) ++ natLe 2 (if n = 0 then 0 else 2) ++ zeros 2 ++ natLe 4 n ++ zeros 4 ++ zeros (4 * n))
    let a := s.taking 0x0503 m
    MsgReady 0x0503 (some (prefillPlen m)) true m s ∧ m.f 8 4 = n ∧ PrefillOk m x testModel a ∧ a.inCxl x = false ∧ MayWork x testModel a ∧
    (a.template testModel .prefill).isSome = true ∧ a.chainFits testModel.pkg.prefillChain = true ∧ a.aboveAdmit = true) := by
  intro n hn
  have hv : ((((pageWorld 1 nearBlock).taking 0x0503 (testMsg (natLe 4 (testH 2 0) ++ natLe 2 (if n = 0 then 0 else 2) ++ zeros 2 ++ natLe 4 n ++
      zeros 4 ++ zeros (4 * n)))).prefillIds (testMsg (natLe 4 (testH 2 0) ++ natLe 2 (if n = 0 then 0 else 2) ++ zeros 2 ++ natLe 4 n ++ zeros 4 ++
      zeros (4 * n)))).all (fun t => decide (t.toNat < testModel.vocab))) = true := by revert n; decide +kernel
  unfold PrefillOk
  simp only [show (∀ l : List Word, (∀ t ∈ l, t.toNat < testModel.vocab) ↔ (l.all (fun t => decide (t.toNat < testModel.vocab))) = true) from
    fun l => by simp [List.all_eq_true], hv]
  clear hv
  revert n; unfold MsgReady NamesSession MayWork RefOk; decide +kernel
theorem witness_DecodingMessages_start : ∀ n ∈ [0, 5],
    (let s := pageWorld 1 id
    let x := pageSess id
    let m := testMsg (natLe 4 (testH 2 0) ++ natLe 4 n)
    let a := s.taking 0x0504 m
    MsgReady 0x0504 (some 8) false m s ∧ NamesSession m x a ∧ m.f 4 4 = n ∧ a.inCxl x = false ∧ x.positions < x.maxCtx ∧ MayWork x testModel a ∧
    a.resident x.rstate = true ∧
    a.admits [a.newResv m.client (BitVec.ofNat 32 (m.f 0 4)) .I .decode x.model (a.domainOf m.client) 0] = true ∧ x.pages ≠ []) := by
  unfold MsgReady NamesSession MayWork; decide +kernel
theorem witness_DecodingMessages_back : ∀ op ∈ [0x0503, 0x0504], ∀ waiting : Bool,
    (let s := (pageWorld 2 id).onPlan (fun k => { k with bwork := if waiting then [testWork .pageBack 0 op true] else [] })
    let m := testMsg (natLe 4 (testH 2 0) ++ (if op = 0x0503 then zeros 4 ++ natLe 4 5 ++ zeros 24 else natLe 4 5))
    let a := s.taking op m
    let x := pageSess id
    MsgReady op (some (if op = 0x0503 then prefillPlen m else 8)) (op == 0x0503) m s ∧ NamesSession m x a ∧
    m.f (if op = 0x0503 then 8 else 4) 4 ≠ 0 ∧ a.inCxl x = true ∧
    (if waiting then ∃ b ∈ a.plan.bwork, b.kind = .pageBack ∧ b.obj = hIdx (m.f 0 4) else a.backFits x = true)) := by
  unfold MsgReady NamesSession; decide +kernel
theorem witness_DecodingMessages_stop : ∀ st ∈ [1, 2, 4],
    (let x := pageSess (fun x => { x with state := st })
    let s := pageWorld 1 (fun x => { x with state := st })
    let m := testMsg (natLe 4 (testH 2 0))
    MsgReady 0x0505 (some 4) false m s ∧ NamesSession m x (s.taking 0x0505 m) ∧ x.state = st) := by
  unfold MsgReady NamesSession; decide +kernel

theorem witness_SessionEvents :
    (let s := (pageWorld 1 (fun x => { x with prefill := some (10, 54, 0, true) })).onPlan (fun k => { k with bwork := [testWork .prefill 0 0 true] })
    (s.session 0).map (·.prefill) = some (some (10, 54, 0, true)) ∧
    s.plan.bwork.find? (fun b => b.kind == .prefill && decide (b.obj = 0)) = some (testWork .prefill 0 0 true)) ∧
    (let s := copying (.work (testWork .snapshot 7 0 false)) (testWorld.onPlan (fun k => { k with bwork := [testWork .snapshot 7 0 false] }))
    s.copyRuns (DcpCopy.isFor (fun b => b.kind == .snapshot && decide (b.obj = 7))) = true ∧ ∃ b ∈ s.plan.bwork, b.kind = .snapshot ∧ b.obj = 7) ∧
    (((pageWorld 1 id).session 0).bind (fun x => x.pages[0]?)) = some 3 ∧
    (copying (.work (testWork .pageMove 0 3 false)) (pageWorld 1 id)).copyRuns (DcpCopy.isFor (fun b => b.kind == .pageMove && decide (b.obj = 0 ∧ b.arg = 3))) = true ∧
    (copying (.work (testWork .pageBack 0 0x0504 true)) (pageWorld 2 id)).copyRuns (DcpCopy.isFor (fun b => b.kind == .pageBack && decide (b.obj = 0))) = true ∧
    (∀ geom : Bool, let m := testMsg (natLe 4 (testH 2 0) ++ natLe 4 5)
    let s := (if geom then (pageWorld 2 id).onModel 0 (fun k => { k with pkg := { testPkg2 with attention := some { layers := 1, heads := 4, d := 128, layerStep := 0, ropePair := 0 } } }) else pageWorld 2 id)
    let s0 := s.taking 0x0504 m
    let b := { testWork .pageBack 0 0x0504 true with model := 0 }
    let s1 := dropWork (· == b) (addWork b s0)
    (addWork b s0).plan.bwork.find? (fun b => b.kind == .pageBack && decide (b.obj = 0)) = some b ∧
    ((s1.session 0).bind (fun x => backPages x s1)).isSome = !geom ∧ ((s1.session 0).bind (fun x => (backPages x s1).bind (fun t => t.box 0 0))).isSome = !geom) := by
  decide +kernel
/-- Reset with a telemetry ring of 64 records for client 0 and two records ready. -/
def telemWorld : State := State.reset.onCtrl (fun k => { k with telems := [{
  client := 0
  ring := { addr := 0, sizeLog2 := 6, wr := 0, rdSnap := 0, holds := 0 }
  mask := 1
  events := []
  ready := [zeros 64, zeros 64]
  lastWritten := none }] })
theorem witness_RecordsToClients :
    (let s := (pageWorld 1 (fun x => { x with left := 5 })).onPlan (fun k => { k with cur := [testPCmd []] })
    let h := BitVec.ofNat 32 (s.handleOf 2 0)
    (∃ c ∈ s.plan.cur, c.kind = .decode ∧ c.obj = h) ∧ s.stepStatus h = stOk ∧
    ((s.session 0).any (fun x => decide (x.recBeat ≠ some s.now) && decide (x.left ≠ 1) && x.faulted.isNone && !s.stateGone x)) = true) ∧
    (let s := pageWorld 1 (fun x => { x with recBeat := some 0 })
    ((s.session 0).any (fun x => x.ring.valid && s.ctrl.sessions.any (fun y => decide (y.client = x.client) && decide (y.recBeat = some s.now) && y.ring.valid))) = true) ∧
    ((telemWorld.ctrl.telems.find? (·.client == 0)).any (fun t => decide (t.ready ≠ []) && t.ring.valid)) = true ∧
    (State.reset.taking 0x0101 (testMsg [])).boxOwned 0 0 = true ∧
    ((0xFFFF : Half).toNat ∉ knownOps ∧ State.reset.coresUp = true ∧ State.reset.boxOwned 0 0 = false ∧ (State.reset.block 0).bound = true ∧
      headerFail none true { testMsg [] with plen := min 5000 4032 } = none) := by decide +kernel

/-- A record of a network channel at a ring of 4,096 samples at 0x2000, at its limits where the direction has them. -/
def testRecord (inp : Bool) : List Byte :=
  if inp then testRec 64 [(0, 1, 1), (1, 1, 1), (5, 1, 4), (7, 1, 1), (8, 8, 0x2000), (0x10, 4, 1000), (0x1C, 1, 1), (0x1D, 1, 2), (0x1E, 1, 128),
    (0x1F, 1, 3), (0x20, 1, 128), (0x22, 2, 255), (0x24, 4, 0x00800000), (0x30, 8, 0x40000000), (0x38, 2, 2)]
  else testRec 64 [(0, 1, 2), (1, 1, 1), (5, 1, 1), (6, 1, 1), (7, 1, 1), (8, 8, 0x2000), (0x10, 4, 1000), (0x21, 1, 20), (0x28, 4, 0x41800000)]
theorem witness_ChannelsLive_open : ∀ inp : Bool,
    (let s := carveWrite 0x2008 [12] (tagWorld [512])
    let m := testMsg (testRecord inp)
    ((fld (fit 64 m.payload) 0 1 == 1) = inp) ∧ MsgReady 0x0601 (some 64) false m s ∧ ChannelOpenOk m (if inp then 2 else 4097) (s.taking 0x0601 m)) := by
  unfold MsgReady ChannelOpenOk; decide +kernel
theorem witness_ChannelsLive_close : ∀ i ∈ [0, 1, 4096],
    (let m := testMsg (natLe 4 (testH 1 i))
    let a := testWorld.taking 0x0602 m
    let h := m.f 0 4
    MsgReady 0x0602 (some 4) false m testWorld ∧ a.live 1 h = true ∧ a.owns m.client 1 h = true ∧ a.chanNamed h = false ∧
    (a.channel (hIdx h)).map (·.closing) = some none) := by unfold MsgReady; decide +kernel
theorem witness_ChannelsLive_control : ∀ p ∈ [(1, 0), (2, 0), (3, 0), (4, 0), (5, 0x41800000), (5, 0)],
    (let m := testMsg (natLe 4 (testH 1 4096) ++ natLe 1 p.1 ++ zeros 3 ++ natLe 4 p.2)
    MsgReady 0x0603 (some 12) false m testWorld ∧ ChannelCtrlOk m p.1 (testChan 4096 testOut) (testWorld.taking 0x0603 m)) := by
  unfold MsgReady ChannelCtrlOk; decide +kernel
theorem witness_ChannelsLive_apply :
    (let g : GainChange := { gain := some 0, run := none, mute := some true, beat := 0, s0 := none, closing := false, clients := [] }
    let s := testWorld.onChannel 4096 (fun c => { c with pendingCh := some g })
    (s.channel 4096).map (·.pendingCh) = some (some g) ∧ g.due s.now = true) ∧
    (∀ i ∈ [0, 4096], (testWorld.channel i).map (fun c => (testWorld.beatOpen c, c.isIn, testWorld.queueTurn c)) = some (true, i == 0, i == 0)) := by
  decide +kernel
theorem witness_PendingChangeMerges : (testChan 4096 testOut).pendingCh = none := rfl

/-- A PORTGROUP_CONFIG of group 15 on PLL 1: ports 0 and 3 with 16 slots of 32 bits at 48 kHz, 24.576 MHz in all, and PDM clock 3. -/
def testGroupMsg (slave : Bool) : Msg :=
  let v := 16 * 2 ^ 16 + 8 * 2 ^ 12 + 2 ^ 10 + 2 * 2 ^ 8 + (if slave then 0 else 2)
  testMsg ([15, 1, if slave then 1 else 0, 1, 9, 8, if slave then 3 else 0, 0] ++ natLe 8 v ++ zeros 16 ++ natLe 8 v ++ zeros 24 ++ natLe 8 (7 * 2 ^ 5))
theorem witness_PortsAndGroups_config : ∀ slave : Bool,
    (let s := testWorld.onAudio (fun a => { a with chans := [] })
    let m := testGroupMsg slave
    MsgReady 0x0108 (some 0x48) false m s ∧ PortgroupOk m (s.taking 0x0108 m)) := by unfold MsgReady PortgroupOk; decide +kernel
theorem witness_PortsAndGroups_ok : State.reset.audio.Ok := ⟨rfl, rfl, rfl, rfl⟩
/-- Reset with group 15 in a state of its own and port 3 in another. -/
def groupWorld (f : GroupSt → GroupSt) (g : SapSt → SapSt) : State := (State.reset.onGroup 15 f).onSap 3 g
theorem witness_PortsAndGroups_rows :
    (let s := (groupWorld (fun k => { k with exists_ := true }) id).onCtrl (fun k => { k with kinds := k.kinds.set 6 (testPool 16 [15]) })
    let m := testMsg (natLe 4 (testH 6 15))
    let a := s.taking 0x0109 m
    MsgReady 0x0109 (some 4) false m s ∧ a.hValid 6 (m.f 0 4) = true ∧ m.sys = true ∧ (a.group 15).armedFrom = none ∧
      (a.group 15).running = false) ∧
    (let s := groupWorld (fun k => { k with exists_ := true, armedFrom := some 0, trigIn := true, trigAt := some 0, running := true, slave := true }) id
    s.rot.dcpReady = true ∧ (s.group 15).trigAt.isSome = true ∧ (s.group 15).armedFrom.isSome = true ∧ (s.group 15).exists_ = true ∧
      (s.group 15).slave = true ∧ (s.group 15).running = true) ∧
    (let s := groupWorld id (fun k => { k with running := true, rearmed := true, rejoinDue := true, master := false })
    s.rot.dcpReady = true ∧ (s.sap 3).running = true ∧ (s.sap 3).master = false ∧ (s.sap 3).rearmed = true ∧ (s.sap 3).rejoinDue = true ∧
      s.serves ⟨.sap, 3⟩ = true ∧ 3 < s.audio.saps.length) := by unfold MsgReady; decide +kernel
theorem witness_PortsAndGroups_fifos :
    (let s := groupWorld id (fun k => { k with running := true, rx := List.replicate 64 [], tx := [] })
    3 < s.audio.saps.length ∧ (s.sap 3).running = true ∧ 64 ≤ (s.sap 3).rx.length) ∧
    (let s := groupWorld id (fun k => { k with running := true, rx := List.replicate 63 [], tx := [] })
    3 < s.audio.saps.length ∧ (s.sap 3).running = true ∧ (s.sap 3).rx.length < 64 ∧ (s.sap 3).tx = []) ∧
    (let s := groupWorld id (fun k => { k with running := true, rx := List.replicate 63 [], tx := [[1]] })
    3 < s.audio.saps.length ∧ (s.sap 3).running = true ∧ (s.sap 3).rx.length < 64 ∧ (s.sap 3).tx = [1] :: [] ∧
      (s.sap 3).acc + ((2 : Int) + 2 * 0 / 2 ^ 32).toNat < 2 ^ 32) := by decide +kernel

theorem witness_SafetyMonitor_start :
    (let m := testMsg (natLe 4 (testH 4 0) ++ natLe 4 (testH 1 0) ++ natLe 4 (testH 1 1) ++ natLe 4 (testH 3 0) ++ natLe 4 (testH 3 1) ++ [7, 0, 0, 0])
    MsgReady 0x0611 (some 24) false m testWorld ∧ StopwordOk m (testChan 0 (testIn 0)) (testChan 1 (testIn 4)) (testWorld.taking 0x0611 m)) := by
  unfold MsgReady StopwordOk; decide +kernel
/-- A path of a slot, on an input channel of `testWorld`. -/
def testPath (i : Nat) : SwPath :=
  { channel := BitVec.ofNat 32 (testH 1 i), state := BitVec.ofNat 32 (testH 3 i), frame := 0, expect := some (0, 1), deadline := 0, got := 0, clearSeen := true,
    clearSinceHold := true, lastClear := 0, lost := false }
/-- A slot that has started. -/
def testSlotSw (k : Nat) : SwSlot :=
  { slot := k, client := 0, mbox := 0, model := 0, running := true, started := true, stopAt := none, stopMsg := none, paths := [testPath 0, testPath 1] }
/-- `testWorld` with started slots and their SW_RUN bits. -/
def slotWorld (l : List Nat) (f : SafeSt → SafeSt) : State :=
  (testWorld.onCtrl (fun k => { k with slots := l.map testSlotSw })).onSafe (fun k => f { k with swRun := BitVec.ofNat 8 (l.map (2 ^ ·)).sum })
theorem witness_SafetyMonitor_stop : ∀ l ∈ [[], [7], [0, 7]],
    (let s := slotWorld l id
    let m := testMsg [7, 0, 0, 0]
    let a := s.taking 0x0612 m
    MsgReady 0x0612 (some 4) false m s ∧ m.f 0 1 ≤ 7 ∧ m.z 1 3 = true ∧ a.isSafety m.client = true ∧
    (a.swSlot 7).map (fun q => (q.client, q.stopAt, q.started)) = (if l = [] then none else some (m.client, none, true))) := by
  unfold MsgReady; decide +kernel
theorem witness_SafetyMonitor_verdict :
    (State.reset.safe.safetyDomain = 0xFF ∧ (testWorld.safe.safetyDomain ≠ 0xFF ∧ 2 ≠ testWorld.safe.safetyDomain.toNat)) ∧
    (let s := slotWorld [7] id
    s.safe.safetyDomain ≠ 0xFF ∧ 1 = s.safe.safetyDomain.toNat ∧ s.swSlot 7 = some (testSlotSw 7) ∧ (testSlotSw 7).paths[1]? = some (testPath 1) ∧
    (testPath 1).expect = some (0, 1)) := by decide +kernel
/-- Nothing bars a release: a slot runs, the hold stands, no cause is present. -/
def heldWorld : State := slotWorld [7] (fun k => { k with hold := true, resetActive := false, tickLost := false, outFail := false })
theorem witness_SafetyMonitor_hold : heldWorld.safe.hold = true ∧ heldWorld.causePresent = false ∧ heldWorld.allClear = true := by decide +kernel
theorem witness_HoldLatched : ∃ t : State, exec (.safeAckEdge 20 20) heldWorld = .next t ∧ heldWorld.safe.hold = true ∧ t.safe.hold = false := by
  refine ⟨releaseHold heldWorld, ?_, witness_SafetyMonitor_hold.1, by decide +kernel⟩
  simp [exec, execSafeAckEdge, witness_SafetyMonitor_hold.1, witness_SafetyMonitor_hold.2.1, witness_SafetyMonitor_hold.2.2]
theorem witness_SafetyMonitor_pulse :
    (let s := (slotWorld [7] (fun k => { k with hold := false })).onBeat (fun b => { b with number := 512 })
    s.safe.hold = false ∧ s.beat.number.toNat % 1024 = 512) ∧ State.reset.power.failing = false := by decide +kernel
theorem witness_SafetyMonitor_blaze :
    (∀ n ∈ [0, 7, 8, 23],
      (let s := ((State.reset.onPower (fun p => { p with mode := .active })).onSafe (fun k => { k with blazeBoot := 96 })).onBeat
        (fun b => { b with ticked := true, part := .window, number := BitVec.ofNat 64 n })
      s.bootFrame = none ∧ s.serves (blazeUnitOf n) = true ∧ (s.beat.ticked = true → s.beat.part = .window) ∧ s.power.mode = .active ∧
      s.rot.dcpReady = true)) ∧
    (∀ f ∈ [0, 31, 32, 95],
      (let s := (State.reset.onPower (fun p => { p with mode := .active })).onSafe (fun k => { k with blazeBoot := f })
      s.bootFrame = some f ∧ s.serves (blazeUnitOf (f / 4)) = true ∧ s.beat.ticked = false ∧ s.power.mode = .active ∧
      s.rot.dcpReady = true)) := by decide +kernel
theorem witness_SafetyMonitor_slice :
    (let s := State.reset.onBeat (fun b => { b with ticked := true, part := .kerf })
    s.rot.dcpReady = true ∧ s.beat.ticked = true ∧ s.beat.part = .kerf ∧ s.serves ⟨.cluster, 7⟩ = true ∧
    engineUnit (.cluster 7) = some ⟨.cluster, 7⟩) ∧
    (let s := State.reset.onSafe (fun k => { k with failedTests := [.clusterEcc 7] })
    s.rot.dcpReady = true ∧ (∀ c ∈ allCheckers, s.checkerIn c = true → s.latentAt 0 c = true → checkerUnit c ≠ none) ∧
    s.latentAt 0 (.clusterEcc 7) = true) := by decide +kernel

/-- Reset with module ID 5, link 23 in service and in a state of its own. -/
def linkWorld (f : LinkSt → LinkSt) : State :=
  ((State.reset.onLinks (fun k => { k with moduleId := 5 })).onLink 23 (fun k => f { k with enable := true })).setSvc ⟨.link, 23⟩ .inService
/-- A frame that waits at a priority. -/
def testItem (p : Nat) : EgressItem := ⟨p, testFrame 4, false, none⟩
theorem witness_LinkFrames :
    (let s := linkWorld (fun k => { k with up := true, egress := [testItem 4, testItem 0, testItem 2, testItem 2] })
    s.linkUp 23 = true ∧ (∀ e ∈ (s.link 23).egress, e.prio = 0 ∨ 2 ≤ e.prio) ∧
    takeFirst (fun (e : EgressItem) => e.prio == 2) (s.link 23).egress = some (testItem 2, [testItem 4, testItem 0, testItem 2])) ∧
    (let s := linkWorld (fun k => { k with up := true, egress := [testItem 5, testItem 4] })
    (∀ e ∈ (s.link 23).egress, e.prio = 0 ∨ 4 ≤ e.prio) ∧
    takeFirst (fun (e : EgressItem) => e.prio == 4 && e.src == none) (s.link 23).egress = some (testItem 4, [testItem 5])) ∧
    (let s := linkWorld (fun k => { k with up := true, egress := [{ testItem 4 with src := some 4095 }] })
    (∀ e ∈ (s.link 23).egress, e.prio = 0 ∨ 4 ≤ e.prio) ∧
    takeFirst (fun (e : EgressItem) => e.prio == 4 && e.src == none) (s.link 23).egress = none ∧ s.egressNums 23 true = [4095]) := by decide +kernel
theorem witness_LinkSendsInOrder : ∀ f ∈ [testFrame 4, { testFrame 4 with ctl := 0x08 }],
    23 < (linkWorld id).links.links.length ∧ frSpace f ≤ 1 ∧ ((linkWorld id).link 23).txSeq.length = 2 ∧
    ((linkWorld id).link 23).txWrap.getD (frSpace f) false = false := by decide +kernel
theorem witness_LinkControlAndBringUp_up :
    (let s := (linkWorld (fun k => { k with up := true, sinceAck := 16, delayT1 := 9 })).onBeat (fun b => { b with part := .background, ticked := true })
    let t := s.onPlan (fun p => { p with bgDue := [.delay 23] })
    s.linkUp 23 = true ∧ 0 < (s.link 23).sinceAck ∧ t.linkUp 23 = true ∧ t.bgRuns (.delay 23) = true ∧ 9 = (s.link 23).delayT1) := by decide +kernel
/-- A HELLO of module 7 with a chain too short to verify. -/
def testHello : Frame := helloFrame (natLe 2 7 ++ natLe 2 4 ++ zeros 148 ++ zeros 4)
theorem helloFrame_crc (b : List Byte) : frCrc (helloFrame b) = (helloFrame b).crc := by unfold helloFrame frCrc frHeader; rfl
theorem testHello_ok : helloOk testHello = true := by
  have h : decide (frCrc testHello = testHello.crc) = true := decide_eq_true (helloFrame_crc _)
  unfold helloOk
  rw [h, Bool.true_and]
  decide +kernel
theorem testHello_rx : rxBad (testRx testHello) = false ∧ helloOk (testRx testHello).fr = true := by
  refine ⟨?_, testHello_ok⟩
  unfold rxBad testRx
  simp [helloFrame_crc, testHello]
theorem witness_LinkControlAndBringUp_bringUp :
    (let s := linkWorld (fun k => { k with training := true, helloOut := [1] })
    s.linkMay 23 = true ∧ (s.link 23).up = false ∧ (s.link 23).training = true ∧ (s.link 23).helloOut ≠ [] ∧ (s.link 23).keyedGot = false ∧
    (s.link 23).peerHello = none) ∧
    (let s := linkWorld (fun k => { k with keyedSent := true })
    s.linkMay 23 = true ∧ (s.link 23).up = false ∧ (s.link 23).keyedSent = true) := by decide +kernel

/-- Reset with beats enabled, ticking. -/
def beatWorld (f : BeatSt → BeatSt) : State := (State.reset.onSafe (fun k => { k with blazeBoot := 96 })).onBeat (fun b => f { b with enable := true, ticked := true })
theorem witness_BeatRows_ticks :
    (∀ n : Option Nat, n ∈ [none, some 5] → (beatWorld (fun b => { b with nextTick := n })).tickDue 5 = true) ∧
    (beatWorld (fun b => { b with master := false, nextTick := some 9 })).tickDue 5 = true ∧
    (beatWorld (fun b => { b with src := 1 })).onBeatIn = true ∧
    (let s := beatWorld (fun b => { b with nextTick := some 16000 })
    s.beating = true ∧ s.beat.enable = true ∧ s.beat.master = true ∧ s.beat.dueAt = some 16000) ∧
    (let s := beatWorld (fun b => { b with src := 1, refTime := some 9 })
    s.beat.dueAt = some (9 + s.beat.cur.period16)) := by decide +kernel
theorem witness_BeatRows_settings (v : Dword) : (beatWorld (fun b => { b with applyAt := v })).beat.topo = none ∧
    (beatWorld (fun b => { b with applyAt := v })).beat.applyAt = v := ⟨rfl, rfl⟩
theorem witness_BeatRows_markers :
    (let mk : Marker := { beat := 1, tickTime := 16000, sendTime := 9, master := 0, hops := 24, rsvd := 0 }
    let s := ((beatWorld (fun b => { b with master := false, chainMaster := 0 })).onLinks (fun k => { k with routes := [(0, 0x800000)] })).onLink 23
      (fun k => { k with up := true })
    s.linkUp 23 = true ∧ s.beating = true ∧ s.beat.enable = true ∧ s.beat.master = false ∧ s.beat.markerSeen = false ∧ s.markerOk 23 mk = true) ∧
    (let s := beatWorld (fun b => { b with master := false })
    s.beating = true ∧ s.beat.enable = true ∧ s.beat.master = false ∧ s.beat.markerSeen = false ∧ s.beat.ticked = true ∧ s.beat.nextTick = none) := by
  decide +kernel
/-- A planned command, at a state of its run. -/
def testPlanned (r : RunState) : PCmd := { mkPCmd 0 testCmd 0 (BitVec.ofNat 32 (testH 2 0)) .decode 1 0 with run := r }
theorem witness_BeatRows_plan :
    (∀ n : Option (Nat × List PCmd × PlanRegs), n ∈ [none, some (1, [], State.reset.plan.curRegs)] → ∀ r ∈ [RunState.done, .abandoned],
    let s := (beatWorld id).onPlan (fun p => { p with cur := [testPlanned r], next := n })
    s.beating = true ∧ s.beat.ticked = true ∧ s.plan.next = n ∧ (∀ q, n = some q → q.1 = s.beat.number.toNat + 1) ∧ (∀ c ∈ s.plan.cur, c.over = true) ∧
      ∀ c ∈ s.plan.cur, c.run ≠ .running) := by
  intro n hn r hr
  have h : ∀ r ∈ [RunState.done, .abandoned], let s := (beatWorld id).onPlan (fun p => { p with cur := [testPlanned r] })
      s.beating = true ∧ s.beat.ticked = true ∧ s.beat.number = 0 ∧ (∀ c ∈ s.plan.cur, c.over = true) ∧ ∀ c ∈ s.plan.cur, c.run ≠ .running := by decide +kernel
  obtain ⟨h1, h2, h3, h4, h5⟩ := h r hr
  refine ⟨h1, h2, rfl, ?_, h4, h5⟩
  rintro q rfl
  simp only [List.mem_cons, List.not_mem_nil, or_false, reduceCtorEq, false_or, Option.some.injEq] at hn
  subst hn
  exact rfl
theorem witness_BeatRows_commands :
    (let s := (beatWorld id).onPlan (fun p => { p with cur := [testPlanned .queued] })
    s.engineUp (.cluster 0) = true ∧ s.beat.ticked = true ∧ s.atRest (.cluster 0) = true ∧ s.beat.part = .window ∧
    s.beat.sinceTick 0 < s.beat.cur.eTu ∧ (contextFree (.cluster 0) (boundary (.cluster 0) (s.beat.sinceTick 0) (s.onBeat (fun b => { b with clock := max b.clock (s.beat.sinceTick 0) })))).nextCmd
      (s.beat.sinceTick 0) (.cluster 0) = some (testPlanned .queued)) ∧
    (let s := beatWorld (fun b => { b with part := .kerf })
    s.engineUp (.cluster 0) = true ∧ s.beat.ticked = true ∧ s.atRest (.cluster 0) = true ∧ s.beat.part ≠ .window) ∧
    (let s := (beatWorld id).onPlan (fun p => { p with cur := [testPlanned .running] })
    s.engineUp (.cluster 0) = true ∧ s.engineBusy (.cluster 0) = true) := by decide +kernel

theorem witness_RegisterWrites :
    (State.reset.regAt 0x60000).isSome = true ∧ State.reset.coresUp = true ∧ State.reset.coreMay 0x4100000000 = false ∧ State.reset.tagged 512 = true ∧
    State.reset.tagged 0 = true := by decide +kernel
/-- Reset with the power in a state of its own. -/
def powerWorld (f : PowerSt → PowerSt) : State := State.reset.onPower f
theorem witness_PowerBootAndResets :
    (∀ v : Nat, v ∈ [50000, 65535] → (powerWorld (fun p => { p with mode := .off })).power.mode = .off ∧ 50000 ≤ v ∧ v < 65536 ∧
      (powerWorld (fun p => { p with mode := .off })).power.statusOff = false) ∧
    (State.reset.power.mode ≠ .off ∧ State.reset.powered = true ∧ 0 < 46000 ∧ 46000 ≤ 49999 ∧ 49999 < 50000) ∧
    (State.reset.powered = true ∧ [20, 110].foldl max 0 = 110) ∧
    (let s := beatWorld id
    s.beating = true ∧ s.powered = true ∧ s.beat.enable = true ∧ [20, 109].foldl max 0 < 110) ∧
    (∀ h ∈ [0, 6, 8], let s := powerWorld (fun p => { p with modelW := 100, highBeats := h })
    s.beating = true ∧ (if s.power.modelW.toNat * 11 < 111 * 10 then s.power.highBeats + 1 else 0) ≠ 8) ∧
    (State.reset.rot.dcpReady = true ∧ State.reset.canReset = true) ∧
    (let s := (powerWorld id).onRot (fun r => { r with dcpReady := false, imgs := r.imgs.modify 0 (fun i => { i with trial := true }) })
    s.rot.released = true ∧ s.rot.dcpReady = false ∧ s.rot.recovery = false ∧ s.pins.refclkHold = false ∧ s.power.mode = .active ∧
      (s.rot.imgs.any (·.trial)) = true) := by decide +kernel
theorem witness_PmbusRows :
    State.reset.island = true ∧ (powerWorld (fun p => { p with mode := .off, vin := 46000 })).island = true ∧ (0xFF : Byte).toNat ∉ [0x01, 0x03, 0x79] ∧
    State.reset.canReset = true ∧ (∀ m ∈ [PwrMode.active, .standby, .sleep], (powerWorld (fun p => { p with mode := m })).power.mode = m ∧
      (powerWorld (fun p => { p with mode := m })).island = true) ∧
    (let s := powerWorld (fun p => { p with mode := .off, vin := 50000 })
    s.island = true ∧ s.power.mode = .off ∧ 50000 ≤ s.power.vin.toNat) ∧ State.reset.power.mode ≠ .off := by decide +kernel

/-- A Root of Trust operation's payload of `n` bytes with its first field. -/
def testOp (n : Nat) (fs : List (Nat × Nat × Nat)) : List Byte := testRec n fs
theorem witness_RootOfTrustRows_any : State.reset.rotUp = true ∧ (0 : Byte).toNat ∉ [0x01, 0x02, 0x10, 0x11, 0x12, 0x13, 0x14, 0x20, 0x30, 0x31, 0x80] := by
  decide +kernel
/-- A staging of 8 bytes of type 6, with the first four received or all. -/
def testStaging (full : Bool) : Staging := { type := 6, total := 8, data := [], have_ := if full then [(0, 8)] else [(0, 4)] }
theorem witness_RootOfTrustRows_staging :
    (let w := testOp 5 [(0, 1, 6), (1, 4, 0xFFFFFFFF)]
    w.length = 5 ∧ fld w 0 1 = 6 ∧ fld w 1 4 ≠ 0 ∧ State.reset.rot.staging = none ∧ State.reset.rot.anyTrial = false) ∧
    (let s := State.reset.onRot (fun r => { r with staging := some (testStaging false) })
    let w := testOp 8 [(0, 4, 4)]
    s.rotUp = true ∧ 5 ≤ w.length ∧ w.length ≤ 228 ∧ s.rot.staging = some (testStaging false) ∧ fld w 0 4 + (w.length - 4) ≤ (testStaging false).total ∧
      fld w 0 4 + (w.length - 4) ≤ slotBytes (testStaging false).type) ∧
    (let s := State.reset.onRot (fun r => { r with staging := some (testStaging true) })
    s.rotUp = true ∧ s.rot.staging = some (testStaging true) ∧ (testStaging true).total ≤ covered (testStaging true).have_) := by decide +kernel
theorem witness_RootOfTrustRows_keys :
    (∀ trial : Bool, let s := State.reset.onRot (fun r => r.onImg 6 (fun i => { i with trial := trial }))
    s.rotUp = true ∧ (testOp 1 [(0, 1, 6)]).length = 1 ∧ fld (testOp 1 [(0, 1, 6)]) 0 1 = 6 ∧ (s.rot.img 6).trial = trial) ∧
    (∀ enrolled : Bool, let h : Option (BitVec 256) := if enrolled then some 1 else none
    let s := State.reset.onRot (fun r => { r with cust := r.cust.set 0 { hash := h, revoked := false } })
    s.rotUp = true ∧ (testOp 129 []).length = 129 ∧ fld (testOp 129 []) 0 1 = 0 ∧ s.rot.cust[0]? = some { hash := h, revoked := false }) ∧
    (let w := testOp 224 [(0, 2, 1), (2, 2, 7)]
    w.length = 224 ∧ fld w 0 2 = 1 ∧ fld w 2 2 < 8 ∧ allZero w 4 4 = true) := by decide +kernel
theorem witness_StepRunsFrontCommand : State.reset.pending = [] := rfl
theorem witness_StepKeepsInv : waitState.Inv ∧ ∃ t : State, step waitState = .next t :=
  ⟨waitState_inv, _, rfl⟩

/-! ## The spec's own worked figures -/

/-- C_cmd of the gate and up command of *The Matrix Array*: 47,700 cluster cycles. -/
theorem test_array_cycles : arrCycles (testRec 32 [(0, 1, 1), (1, 1, 1), (4, 2, 512), (6, 2, 12), (8, 2, 1536), (0xA, 2, 512), (0xC, 2, 1536)]) = 47700 := by
  decide +kernel
/-- C_scan of four STEP rows with H = 24, DK = 64, DV = 128, vector decay and BF16 operands: 6,540 cluster cycles (R239). -/
theorem test_scan_step_cycles : scCycles (testRec 32 [(0, 1, 3), (1, 1, 0x11), (3, 1, 24), (4, 2, 4), (8, 1, 4), (9, 1, 8)]) = 6540 := by decide +kernel
/-- C_scan of the encoder's chunk command: 102,546 cluster cycles (*Encoder Scan command*). -/
theorem test_scan_chunk_cycles : scCycles (testRec 32 [(0, 1, 3), (3, 1, 12), (4, 2, 32), (8, 1, 4), (9, 1, 8)]) = 102546 := by decide +kernel
/-- A row of 6,144 channels takes 6,152 bytes (R108). -/
theorem test_narrow_row_bytes : (RowFmt.mk [] 6144 false).coded = 6152 := by decide
/-- One frame set of the example model: F × A = 1,081,344 bytes. -/
theorem test_frame_set_bytes : frameSize { layers := 8, heads := 4, d := 128, layerStep := 2, ropePair := 0 } * 8 = 1081344 := by decide
/-- 107.52 is nearer to 104 than to 112 in E4M3 (*Key and value pages*). -/
theorem test_e4m3_nearest : rndQ false fmtE4 false 10752 100 = .fin false 13 3 := by decide +kernel
/-- The codewords of the compression example: 259 is 0, 63 is 10, 128 is 11. -/
theorem test_code_book : codeBook (fun i => if i = 259 then 1 else if i = 63 ∨ i = 128 then 2 else 0) = [(2, 2, 63), (2, 3, 128), (1, 0, 259)] := by
  decide +kernel
/-- The first bits of its stream, 0x77, 0x3B, 0x9D, give 30 zero bytes, 0x80 and 0x3F, twice. -/
theorem test_decode_bits : (decodeBits [(2, 2, 63), (2, 3, 128), (1, 0, 259)] 64 64 (bitsOfBytes [0x77, 0x3B, 0x9D]) []).map (·.1.reverse) =
    some (zeros 30 ++ [0x80, 0x3F] ++ zeros 30 ++ [0x80, 0x3F]) := by decide +kernel
/-- An audio beat of 3 ms at 48 kHz has 144 samples for 48 internal ones. -/
theorem test_samples_per_beat : nominalOf 48 8 = 144 := by decide
/-- A reserved ROW_FMT reads as NaN with BAD_FORMAT, a wrong channel count with BAD_LENGTH (R113). -/
theorem test_narrow_row_checks : (let f := RowFmt.mk [(0x3F800000, 128)] 1 false
    ((rowRead f (natLe 1 4 ++ zeros 15)).2, (rowRead f ([1, 0, 2] ++ zeros 13)).2, (rowRead f ([1, 0, 1] ++ zeros 13)).2) = (stBadFormat, stBadLength, stOk)) := by
  decide +kernel
/-- A row in range goes out as U8 with codes q + z, one with an infinity as a NaN row (R109, R110). -/
theorem test_narrow_row_forms : (let f := RowFmt.mk [(0x3F800000, 128)] 1 false
    rowForm f [0x40, 0x40] = [1, 0, 1, 0, 0, 0, 0, 0, 131, 0, 0, 0, 0, 0, 0, 0] ∧ rowForm f [0x80, 0x7F] = [3, 0, 1] ++ zeros 13) := by decide +kernel
end

section
/-! SUPPORT. The way of a message through its mailbox, for every message whose header passes: the checks of a body that all
pass, and the answer that the body's reply becomes (R56, R465, R466). -/

namespace Sys2Proof.Machine

/-- A list of checks has no failing one exactly when each of them passes. -/
theorem firstFail_eq_none_iff (l : List (Bool × Half)) : firstFail l = none ↔ ∀ p ∈ l, p.1 = true := by
  induction l with
  | nil => simp [firstFail]
  | cons p l ih => cases hp : p.1 <;> simp [firstFail, hp, ih]

theorem checked_of_pass {l : List (Bool × Half)} (e : State → State × Reply) (s : State) (h : ∀ p ∈ l, p.1 = true) :
    checked l e s = e s := by
  rw [checked, (firstFail_eq_none_iff l).2 h]

variable {op : Nat} {plen : Option Nat} {ref : Bool} {m : Msg} {body : State → State × Reply} {s u : State}

/-- The state after the reply of a message's body: the final completion or, for a message that waits, the interim one. -/
def replied (m : Msg) : State × Reply → State
  | (u, .done st reply) => complete m.client m.mbox st reply u
  | (u, .pending w) => interim m.client m.mbox (u.onCtrl (fun k => { k with pend := k.pend ++ [w] }))

/-- A message that reaches its checks goes on as its body replies. -/
theorem withMsg_of_ready (body : State → State × Reply) (h : MsgReady op plen ref m s) :
    withMsg op plen ref m body s = replied m (body (s.taking op m)) := by
  obtain ⟨hup, hown, hbound, hhead⟩ := h
  have hb : ((s.taking op m).block m.client).bound = true := hbound
  rw [withMsg, if_neg (by simp [hup]), if_neg (by simp [hown])]
  change (if !((s.taking op m).block m.client).bound then _ else _) = _
  rw [if_neg (by simp [hb]), hhead]
  rfl

variable {i : Instr}

theorem answers_of_body {reply : List Byte} (hi : exec i s = .next (withMsg op plen ref m body s)) (h : MsgReady op plen ref m s)
    (hb : body (s.taking op m) = (u, .done stOk reply)) : Answers i m s reply u := by
  rw [Answers, hi, withMsg_of_ready body h, hb, replied]

theorem waits_of_body {obj arg : Nat} {beat : Option Nat} (hi : exec i s = .next (withMsg op plen ref m body s))
    (h : MsgReady op plen ref m s) (hb : body (s.taking op m) = (u, waitFor m op obj beat arg)) : Waits i m s op obj beat arg u := by
  rw [Waits, hi, withMsg_of_ready body h, hb, waitFor, replied]

end Sys2Proof.Machine
end

section
/-! SUPPORT. Client memory (R341, R348, R351, R483, R484): what the bodies of MEM_ALLOC, MEM_FREE and MEM_COPY answer, and
what the completion of a copy does. -/

namespace Sys2Proof.Machine

variable {m : Msg} {a s : State} {r : Nat}

/-- The unit that a MEM_ALLOC names exists. -/
theorem memAllocNames_unit (h : MemAllocNames m) :
    m.f 1 1 < unitCount (if m.f 0 1 = 1 then (⟨.nmu, m.f 1 1⟩ : UnitId) else ⟨.cxl, m.f 1 1⟩).kind := by
  obtain ⟨-, -, hunit, -⟩ := h
  split at hunit <;> simp [unitCount, *]

theorem memAlloc_of_zero (h : MemAllocNames m) (hn : m.f 4 4 = 0) : memAlloc m a = (a, .done stOk (zeros 8)) := by
  have hu := memAllocNames_unit h
  obtain ⟨ht1, ht2, -, hk1, hk2, hz⟩ := h
  rw [memAlloc, checked_of_pass _ _ (by simp [ht1, ht2, hu, hk1, hk2, hz, hn])]
  simp [hn]

/-- MEM_ALLOC in a stack and behind a port: the run that the statement names is the one that the body finds. -/
theorem memAlloc_of_run (h : MemAllocNames m) (hn : m.f 4 4 ≠ 0) (hr : MemAllocRun m r a) :
    memAlloc m a = ((assignRegions r (m.f 4 4) (mkTag (m.f 2 1) 0 (a.domainOf m.client)) (a.domainOf m.client) a).onMem
      (fun k => { k with runs := k.runs ++ [(r * regionSize, m.f 4 4, m.client)] }), .done stOk (natLe 8 (r * regionSize))) := by
  have hu := memAllocNames_unit h
  obtain ⟨ht1, ht2, -, hk1, hk2, hz⟩ := h
  by_cases hbm : m.f 0 1 = 1
  case pos =>
    obtain ⟨hmine, hsvc, hrun⟩ : m.f 1 1 ∈ a.stksFor (a.domainOf m.client) [m.f 1 1] ∧ a.inSvc ⟨.nmu, m.f 1 1⟩ = true ∧
        a.stackRun (m.f 1 1) (m.f 4 4) = some r := by simpa [MemAllocRun, hbm] using hr
    rw [if_pos hbm] at hu
    rw [memAlloc, checked_of_pass _ _ (by simp [hbm, hu, hk1, hk2, hz, hmine, hsvc, hrun])]
    simp [hbm, hn, hrun]
  case neg =>
    obtain ⟨hmine, hsvc, hrun⟩ : (a.partOf (a.domainOf m.client) = none ∨
        (a.portRange (a.domainOf m.client) (m.f 1 1)).1 ≠ (a.portRange (a.domainOf m.client) (m.f 1 1)).2) ∧
        a.inSvc ⟨.cxl, m.f 1 1⟩ = true ∧ a.portRun (a.domainOf m.client) (m.f 1 1) (m.f 4 4) = some r := by
      simpa [MemAllocRun, hbm] using hr
    rw [if_neg hbm] at hu
    rw [memAlloc, checked_of_pass _ _ (by simp [hbm, ht1, ht2, hu, hk1, hk2, hz, hmine, hsvc, hrun])]
    simp [hbm, hn, hrun]

theorem memFree_of_zero (hz : m.z 0xC 4 = true) (hn : m.f 8 4 = 0) : memFree m a = (a, .done stOk []) := by
  rw [memFree, checked_of_pass _ _ (by simp [hz, hn])]
  cases a.runWith (m.f 0 8) (m.f 8 4) <;> simp [hn]

theorem memFree_of_run {q : Nat × Nat × Nat} (hz : m.z 0xC 4 = true) (hn : m.f 8 4 ≠ 0) (hal : m.f 0 8 % regionSize = 0)
    (hrun : a.runWith (m.f 0 8) (m.f 8 4) = some q) (hown : q.2.2 = m.client) :
    memFree m a = ((releaseRegions (m.f 0 8 / regionSize) (m.f 8 4) a).onMem (fun k => { k with
      runs := k.runs.flatMap (fun p => if p == q then splitRun (m.f 0 8) (m.f 8 4) p else [p]) }), .done stOk []) := by
  rw [memFree, checked_of_pass _ _ (by simp [hz, hal, hrun, hown])]
  simp [hrun, hn]

/-- The two checks of an end of a copy, which lies inside the carve-out (`c`) or is open to the client's domain (`p`). -/
theorem copyEnd_checks {n : Nat} {b c p : Bool} (h : if b = true then n = 0 ∨ c = true else p = true) :
    (decide (n = 0) || !b || c) = true ∧ (b || p) = true := by
  cases b <;> simpa using h

/-- Every check of a MEM_COPY passes; what is left is its effect. -/
theorem memCopy_of_ok (h : MemCopyOk m a) : memCopy m a =
    if m.f 0x10 8 = 0 then (a, .done stOk []) else (msgWork m .memCopy 0 0 0 a, waitFor m 0x0203 0 none 0) := by
  obtain ⟨hsp, hz, hsrc, hdst⟩ := h
  obtain ⟨hsrcIn, hsrcOpen⟩ := copyEnd_checks hsrc
  obtain ⟨hdstIn, hdstOpen⟩ := copyEnd_checks hdst
  rw [memCopy, checked_of_pass _ _ (by
    simp only [List.forall_mem_cons, hsrcIn, hdstIn, hsp, hz, hsrcOpen, hdstOpen, decide_true, true_and, List.not_mem_nil,
      false_implies, implies_true])]
  rfl

/-- The class B work of a client's MEM_COPY in a mailbox. -/
def memCopyWork (c b : Nat) (w : BWork) : Bool := w.kind == .memCopy && w.client == c && w.mbox == b

/-- A copy between device addresses that the firewall passes and no uncorrectable word spoils moves its bytes. -/
theorem runCopy_of_passes {dom : Nat} {w : List Byte} (hsp : fld w 0x18 1 = 0)
    (hsrc : s.rangePasses dom false (fld w 0 8) (fld w 0x10 8) = true)
    (hdst : s.rangePasses dom true (fld w 8 8) (fld w 0x10 8) = true) (hok : s.rangePoisoned (fld w 0 8) (fld w 0x10 8) = false) :
    runCopy dom w s = (copyMem (fld w 0 8) (fld w 8 8) (fld w 0x10 8) s, stOk) := by
  simp [runCopy, hsp, hsrc, hdst, hok]

/-- The completion of a copy that runs: its work is dropped, and a fault ends it or its bytes move. -/
theorem exec_memCopyComplete_of_runs {c b : Nat} {st : Half} (hw : ∃ w ∈ s.plan.bwork, memCopyWork c b w = true)
    (hr : s.copyRuns (DcpCopy.isFor (memCopyWork c b)) = true) :
    exec (.memCopyComplete c b st) s =
      if tableStatus st ≠ stOk then .next (completeOwned c b (tableStatus st) [] (dropWork (memCopyWork c b) s))
      else
        let r := runCopy (s.domainOf c) ((s.box c b).map (·.payload)).toList.flatten (dropWork (memCopyWork c b) s)
        .next (completeOwned c b r.2 [] r.1) := by
  change Host.Outcome.next (if !s.plan.bwork.any (memCopyWork c b) || !s.copyRuns (DcpCopy.isFor (memCopyWork c b)) then s else
    if tableStatus st ≠ stOk then _ else _) = _
  rw [if_neg (by simpa [hr] using hw)]
  split <;> rfl

end Sys2Proof.Machine
end

section
namespace Sys2Proof.Machine

/-- Settles O47: the body of each message replies as stated once its checks pass; the completion of the copy runs it on the
payload that the mailbox holds. -/
theorem memoryMessages : Obligations.MemoryMessages := by
  refine ⟨fun m s h hm => ⟨fun hn => ?_, fun r hn hr => ?_⟩, fun m s h hz => ⟨fun hn => ?_, fun r hn hal hrun hown => ?_⟩,
    fun m s h hok => ⟨fun hn => ?_, fun hn => ?_⟩, fun c b st s hw hr => ⟨fun hst => ?_, fun bx hst hbx hsp hsrc hdst hp => ?_⟩⟩
  · exact answers_of_body rfl h (memAlloc_of_zero hm hn)
  · exact answers_of_body rfl h (memAlloc_of_run hm hn hr)
  · exact answers_of_body rfl h (memFree_of_zero hz hn)
  · exact answers_of_body rfl h (memFree_of_run hz hn hal hrun hown)
  · exact answers_of_body rfl h (by rw [memCopy_of_ok hok, if_pos hn])
  · exact waits_of_body rfl h (by rw [memCopy_of_ok hok, if_neg hn])
  all_goals have hwork : ∃ w ∈ s.plan.bwork, memCopyWork c b w = true := by simpa [memCopyWork, and_assoc] using hw
  · rw [exec_memCopyComplete_of_runs hwork hr, if_pos hst]
    rfl
  · -- Work dropped changes neither tags nor poison: what passes before it passes after it.
    have hrun := runCopy_of_passes (s := dropWork (memCopyWork c b) s) hsp hsrc hdst hp
    rw [exec_memCopyComplete_of_runs hwork hr, if_neg (by simp [hst, tableStatus]), hbx]
    simp only [Option.map_some, Option.toList_some, List.flatten_singleton, hrun]
    rfl

end Sys2Proof.Machine
end

section
/-! SUPPORT. Work on a session (R17, R57, R291, R297, R299, R490): the bodies of PREFILL, DECODE_START and DECODE_STOP, and the
pages in the CXL tier that come back before the first two. -/

namespace Sys2Proof.Machine

variable {m : Msg} {a : State} {x : Session} {k : Model} {op n : Nat} {body : State → State × Reply}

/-- The checks of an operand by reference all pass: what `RefOk` says of it. -/
theorem refChecks_pass {write : Bool} (h : RefOk m n write a) :
    (∀ p ∈ (a.refChecks m n write).1, p.1 = true) ∧ ∀ p ∈ (a.refChecks m n write).2, p.1 = true := by
  by_cases hc : m.refSpace = 1
  case pos => simpa [RefOk, State.refChecks, hc] using h
  case neg =>
    rw [RefOk, if_neg hc] at h
    rw [State.refChecks, if_neg hc]
    simpa using h

theorem withPages_of_zero : withPages m op 0 body a = body a := by
  rw [withPages]
  cases a.session (hIdx (m.f 0 4)) <;> simp

theorem withPages_of_inHbm (hs : NamesSession m x a) (hc : a.inCxl x = false) :
    withPages m op n body a = body a := by
  obtain ⟨-, -, hx⟩ := hs
  simp [withPages, hx, hc]

/-- Work on a session with a page in the CXL tier: the request waits for the pages, which are on their way or fit. -/
theorem withPages_of_inCxl (hs : NamesSession m x a) (hn : n ≠ 0) (hc : a.inCxl x = true)
    (hb : (∃ b ∈ a.plan.bwork, b.kind = .pageBack ∧ b.obj = hIdx (m.f 0 4)) ∨ a.backFits x = true) :
    withPages m op n body a = (msgWork m .pageBack (hIdx (m.f 0 4)) op x.model a, waitFor m op (m.f 0 4) none 0) := by
  obtain ⟨hlive, howns, hx⟩ := hs
  have hgo : (!a.plan.bwork.any (fun b => b.kind == .pageBack && decide (b.obj = hIdx (m.f 0 4))) && !a.backFits x) = false := by
    rcases hb with ⟨b, hmem, hkind, hobj⟩ | hfits
    · have hmoving : a.plan.bwork.any (fun b => b.kind == .pageBack && decide (b.obj = hIdx (m.f 0 4))) = true :=
        List.any_eq_true.2 ⟨b, hmem, by simp [hkind, hobj]⟩
      simp [hmoving]
    · simp [hfits]
  simp only [withPages, hx, hlive, howns, hc, hgo]
  rw [if_pos (by simp [hn])]
  rfl

theorem PrefillOk.names (h : PrefillOk m x k a) : NamesSession m x a := by
  obtain ⟨hs, -⟩ := h
  exact hs

/-- The checks of a PREFILL's operand, if it has one. -/
theorem prefillOperand_pass (h : PrefillOk m x k a) :
    (∀ p ∈ (if decide (m.refAddr ≠ 0) = true then a.refChecks m (4 * m.f 8 4) false else ([], [])).1, p.1 = true) ∧
      (∀ p ∈ (if decide (m.refAddr ≠ 0) = true then a.refChecks m (4 * m.f 8 4) false else ([], [])).2, p.1 = true) ∧
      (m.refAddr = 0 ∨ 4 * m.f 8 4 ≤ m.refLen) := by
  obtain ⟨-, -, -, -, -, href, -⟩ := h
  by_cases hr : m.refAddr = 0
  case pos => simp [hr]
  case neg =>
    obtain ⟨hok, hlen⟩ := href hr
    rw [if_pos (by simpa using hr)]
    exact ⟨(refChecks_pass hok).1, (refChecks_pass hok).2, .inr hlen⟩

/-- Every check of a PREFILL passes, for no tokens or for a session that may be given the work; what is left is its effect. -/
theorem prefillMsg_of_ok (h : PrefillOk m x k a)
    (hw : m.f 8 4 = 0 ∨ MayWork x k a ∧ (a.template k .prefill).isSome = true ∧ a.chainFits k.pkg.prefillChain = true ∧
      a.aboveAdmit = true) :
    prefillMsg m a = if m.f 8 4 = 0 then (a, .done stOk (zeros 4))
      else (startPrefill m x k (a.prefillIds m) a, waitFor m 0x0503 (m.f 0 4) none 0) := by
  obtain ⟨hformat, hdomain, hlen⟩ := prefillOperand_pass h
  obtain ⟨⟨hlive, howns, hx⟩, hk, hflags, hz, hz', -, hvocab, hpub, hctx⟩ := h
  have hblocks : (m.f 8 4 = 0 ∨ (m.f 4 2).testBit 1 = false) ∨ (x.positions + m.f 8 4) % 64 = 0 := by
    cases hb : (m.f 4 2).testBit 1
    case false => simp
    case true => simpa using hpub hb
  have hbeat : m.f 8 4 = 0 ∨ x.quiet = true ∧ ((k.suspended = none ∧ k.unloading = none) ∧ (a.template k .prefill).isSome = true) ∧
      a.chainFits k.pkg.prefillChain = true :=
    hw.imp_right fun ⟨⟨hquiet, _, hsus, hunl⟩, ht, hchain, _⟩ => ⟨hquiet, ⟨⟨hsus, hunl⟩, ht⟩, hchain⟩
  have hpages : m.f 8 4 = 0 ∨ a.aboveAdmit = true := hw.imp_right fun ⟨_, _, _, hadmit⟩ => hadmit
  simp only [prefillMsg, hx, Option.getD_some, hk]
  rw [checked_of_pass]
  simp only [List.forall_mem_append]
  simpa [hlive, howns, hflags, hz, hz', hblocks, hctx, hbeat, hpages] using
    And.intro (And.intro hformat (And.intro hlen hvocab)) hdomain

/-- Every check of a DECODE_START passes, for no steps or for a session that may be given the work; what is left is its effect. -/
theorem decodeStart_of_ok (hs : NamesSession m x a)
    (hw : m.f 4 4 = 0 ∨ x.positions < x.maxCtx ∧ (∃ k, MayWork x k a) ∧ a.resident x.rstate = true ∧
      a.admits [a.newResv m.client (BitVec.ofNat 32 (m.f 0 4)) .I .decode x.model (a.domainOf m.client) 0] = true ∧
      (x.pages ≠ [] ∨ a.aboveAdmit = true)) :
    decodeStart m a = if m.f 4 4 = 0 then (a, .done stOk [])
      else (addReservations [a.newResv m.client (BitVec.ofNat 32 (m.f 0 4)) .I .decode x.model (a.domainOf m.client) 0]
        (a.onSession (hIdx (m.f 0 4)) (fun y => { y with state := 2, left := m.f 4 4, lastActive := a.now })), .done stOk []) := by
  obtain ⟨hlive, howns, hx⟩ := hs
  simp only [decodeStart, hx, Option.getD_some]
  rw [checked_of_pass]
  rcases hw with hn | ⟨hctx, ⟨k, hquiet, hk, hsus, hunl⟩, hres, hadm, hpages⟩
  · simp [hn, hlive, howns]
  · have hroom : (m.f 4 4 = 0 ∨ x.pages ≠ []) ∨ a.aboveAdmit = true := or_assoc.2 (.inr hpages)
    simp [hlive, howns, hctx, hquiet, hk, hsus, hunl, hres, hadm, hroom]

theorem decodeStop_of_names (hs : NamesSession m x a) : decodeStop m a =
    (if x.state = 2 ∨ x.state = 4 then
      (releaseDecode (hIdx (m.f 0 4)) a).onSession (hIdx (m.f 0 4)) (fun y => { y with state := 1, left := 0 }) else a, .done stOk []) := by
  obtain ⟨hlive, howns, hx⟩ := hs
  rw [decodeStop, checked_of_pass _ _ (by simp [hlive, howns])]
  simp only [hx]
  split <;> rfl

end Sys2Proof.Machine
end

section
namespace Sys2Proof.Machine

/-- Settles O52: PREFILL and DECODE_START of none are done at once; the pages of others are in HBM, where the checks of their
bodies pass, or come back first; DECODE_STOP replies at once. -/
theorem decodingMessages : Obligations.DecodingMessages := by
  refine ⟨fun m s x k h hok => ⟨fun hn => ?_, fun hn hc hw ht hch hadm => ?_⟩,
    fun m s x h hs => ⟨fun hn => ?_, fun k hn hc hctx hw hres hadm hpages => ?_⟩, ?_, fun m s x h hs => ?_⟩
  · refine answers_of_body rfl h ?_
    rw [hn, withPages_of_zero, prefillMsg_of_ok hok (.inl hn), if_pos hn]
  · refine waits_of_body rfl h ?_
    rw [withPages_of_inHbm hok.names hc, prefillMsg_of_ok hok (.inr ⟨hw, ht, hch, hadm⟩), if_neg hn]
  · refine answers_of_body rfl h ?_
    rw [hn, withPages_of_zero, decodeStart_of_ok hs (.inl hn), if_pos hn]
  · refine answers_of_body rfl h ?_
    rw [withPages_of_inHbm hs hc, decodeStart_of_ok hs (.inr ⟨hctx, ⟨k, hw⟩, hres, hadm, hpages⟩), if_neg hn]
  · simp only [List.forall_mem_cons, List.not_mem_nil, false_implies, implies_true, and_true]
    exact ⟨fun m s x h hs hn hc hb => waits_of_body rfl h (withPages_of_inCxl hs hn hc hb),
      fun m s x h hs hn hc hb => waits_of_body rfl h (withPages_of_inCxl hs hn hc hb)⟩
  · exact answers_of_body rfl h (decodeStop_of_names hs)

end Sys2Proof.Machine
end

section
/-! SUPPORT. Register writes (R267, R337, R343, R352, R366, R562, R605): each setting that has a legal range as one update of the part that
holds it, and the way of a write through the control region. -/

namespace Sys2Proof.Machine

variable {dom o n : Nat} {s : State}

theorem sysWrite_eq (f : State → State) : sysWrite dom o f s = if dom ≠ 0 then refuseReg dom o s else f s := by
  rw [sysWrite, ite_not]

theorem nmuShare_eq (i n : Nat) (s : State) : nmuShare i n s = s.onNmu i (fun k =>
    if 1000 < bitsOf n 0 10 + bitsOf n 16 10 + bitsOf n 32 10 then { k with cfgErr := true } else { k with
      gemvPm := BitVec.ofNat 10 (bitsOf n 0 10)
      attPm := BitVec.ofNat 10 (bitsOf n 16 10)
      ifPm := BitVec.ofNat 10 (bitsOf n 32 10) }) := by
  rw [nmuShare]
  split <;> rfl

theorem yardOutst_eq (y n : Nat) (s : State) : yardOutst y n s = s.onYarder y (fun k =>
    if outOk (bitsOf n 0 7) = false ∨ outOk (bitsOf n 8 7) = false ∨ outOk (bitsOf n 16 7) = false then { k with cfgErr := true }
    else { k with
      outD := BitVec.ofNat 7 (bitsOf n 0 7)
      outI := BitVec.ofNat 7 (bitsOf n 8 7)
      outB := BitVec.ofNat 7 (bitsOf n 16 7) }) := by
  rw [yardOutst]
  cases outOk (bitsOf n 0 7) <;> cases outOk (bitsOf n 8 7) <;> cases outOk (bitsOf n 16 7) <;> rfl

theorem yardSplit_eq (n : Nat) (s : State) : yardSplit n s = s.onYard (fun k =>
    if 1000 < bitsOf n 0 10 + bitsOf n 16 10 + bitsOf n 32 10 then { k with splitErr := true } else { k with
      splitErr := w1c k.splitErr n 63
      readPm := BitVec.ofNat 10 (bitsOf n 0 10)
      writePm := BitVec.ofNat 10 (bitsOf n 16 10)
      remotePm := BitVec.ofNat 10 (bitsOf n 32 10) }) := by
  rw [yardSplit]
  split <;> rfl

theorem lcPart_eq (n : Nat) (s : State) : lcPart n s = s.onMem (fun m =>
    if 20 < bitsOf n 0 5 then { m with lcCfgErr := true } else { m with
      lcCfgErr := w1c m.lcCfgErr n 8
      winNext := some (BitVec.ofNat 5 (bitsOf n 0 5)) }) := by
  rw [lcPart]
  split <;> rfl

/-- A region tag is refused with CFG_ERR, put off by a released plan, or taken after the region's lines have left the cache. -/
theorem regionTag_eq (region n : Nat) (s : State) : regionTag region n s =
    if s.tagged region = false ∨ bitsOf n 14 2 = 3 then s.onMem (fun m => { m with violCfgErr := true })
    else if s.namesRegion region then s
    else s.onMem (fun m => { m with
      lines := m.lines.filter (fun l => decide (l.line * 256 / regionSize ≠ region))
      tags := kset m.tags region (mkTag (bitsOf n 14 2) (bitsOf n 13 1) (bitsOf n 0 6)) }) := by
  rw [regionTag]
  simp only [Bool.or_eq_true, Bool.not_eq_true', beq_iff_eq]
  rfl

/-- A write at an assigned offset of the control region that names no verdict slot reaches the register, or is refused. -/
theorem regWrite_of_assigned (v : Dword) (ho : o < 0x100000000) (hreg : (s.regAt o).isSome = true)
    (hslot : ¬(0xC1000 ≤ o ∧ o < 0xC1200)) :
    regWrite dom (ctrlBase + o) v s = if mayWrite dom o then regEffect o v s else refuseReg dom o s := by
  obtain ⟨x, hx⟩ := Option.isSome_iff_exists.1 hreg
  have hblock : ¬(0x004001000000 ≤ ctrlBase + o ∧ ctrlBase + o < 0x004001004000) := by
    unfold ctrlBase
    omega
  have hregion : ¬(ctrlBase + o < ctrlBase ∨ ctrlBase + 0x100000000 ≤ ctrlBase + o) := by omega
  rw [regWrite, if_neg hblock, if_neg hregion]
  simp only [Nat.add_sub_cancel_left, hx, if_neg hslot]

/-! The rows, as writes of their registers. -/

variable {v : Dword} {i y region : Nat}

theorem exec_nmuShareWrite (hi : i < 16) :
    exec (.nmuShareWrite dom i v) s = .next (sysWrite dom (0x30020 + i * 0x1000) (nmuShare i v.toNat) s) :=
  congrArg _ (if_neg (Nat.not_le.2 hi))

theorem exec_yardOutstWrite (hy : y < 32) :
    exec (.yardOutstWrite dom y v) s = .next (sysWrite dom (0x40020 + y * 0x1000) (yardOutst y v.toNat) s) :=
  congrArg _ (if_neg (Nat.not_le.2 hy))

theorem exec_yardSplitWrite : exec (.yardSplitWrite dom v) s = .next (sysWrite dom 0x60000 (yardSplit v.toNat) s) := rfl

theorem exec_lcPartWrite : exec (.lcPartWrite dom v) s = .next (sysWrite dom 0x70000 (lcPart v.toNat) s) := rfl

theorem exec_pwrCapWrite : exec (.pwrCapWrite dom v) s = .next (sysWrite dom 0xE0010 (pwrCapWrite v.toNat) s) := rfl

theorem exec_gpioCtrlWrite :
    exec (.gpioCtrlWrite dom v) s = .next (if 1 < dom then refuseReg dom 0xF0000 s else gpioWrite v.toNat s) := by
  change Host.Outcome.next (if dom ≤ 1 then _ else _) = _
  simp only [← Nat.not_lt, ite_not]

theorem exec_regionTagWrite (v : Half) :
    exec (.regionTagWrite dom region v) s = .next (sysWrite dom (0x10000000 + 2 * region) (regionTag region v.toNat) s) := rfl

end Sys2Proof.Machine
end

section
namespace Sys2Proof.Machine

/-- Settles O37: each write is the setting's one update, behind the check of its domain; the port reports what no core may use. -/
theorem registerWrites : Obligations.RegisterWrites := by
  refine ⟨fun i y dom v s hi hy => ⟨?_, ?_, ?_, ?_, ?_, ?_⟩, fun region dom v s => ?_, fun dom o v s ho hreg hslot => ?_,
    fun core addr write s hc hup hmay => ?_, fun n s hn hup => ?_⟩
  · rw [exec_nmuShareWrite hi, sysWrite_eq, nmuShare_eq]
  · rw [exec_yardOutstWrite hy, sysWrite_eq, yardOutst_eq]
  · rw [exec_yardSplitWrite, sysWrite_eq, yardSplit_eq]
  · rw [exec_lcPartWrite, sysWrite_eq, lcPart_eq]
  · rw [exec_pwrCapWrite, sysWrite_eq, pwrCapWrite]
  · rw [exec_gpioCtrlWrite, gpioWrite]
  · rw [exec_regionTagWrite, sysWrite_eq, regionTag_eq]
  · exact congrArg _ (regWrite_of_assigned v ho hreg hslot)
  · exact congrArg _ (if_neg (by simp [hc, hup, hmay]))
  · exact congrArg _ (if_neg (by simp [hn, hup]))

end Sys2Proof.Machine
end

section
/-! SUPPORT. Units and their service (R29 to R36): what a unit's service reads after it is recorded, and the operations that leave the
records of units as they are. -/

namespace Sys2Proof.Machine

theorem kget_kset_same {α β : Type} [DecidableEq α] (l : List (α × β)) (k : α) (v : β) : kget (kset l k v) k = some v := by
  induction l with
  | nil => simp [kset, kget]
  | cons p l ih =>
    obtain ⟨a, b⟩ := p
    by_cases h : a = k <;> simp [kset, kget, h, ih]

/-- What no step of a fold changes, the fold does not change. -/
theorem foldl_keeps {α β γ : Type} (g : β → γ) {f : β → α → β} (hf : ∀ s x, g (f s x) = g s) (l : List α) (s : β) :
    g (l.foldl f s) = g s :=
  (List.foldl_hom g (g₂ := fun c _ => c) fun s x => (hf s x).symm).symm.trans (List.foldl_fixed l)

variable {s t : State} {u : UnitId}

/-- A unit's service is read from the records of units alone. -/
theorem State.svc_of_units (h : t.units = s.units) (u : UnitId) : t.svc u = s.svc u := by
  rw [State.svc, State.svc, h]

@[simp] theorem State.setSvc_svc_same (v : Svc) : (s.setSvc u v).svc u = v := by
  simp [State.svc, State.setSvc, kget_kset_same]

@[simp] theorem putMem_units (a : Nat) (l : List Byte) : (putMem a l s).units = s.units := rfl

@[simp] theorem assignRegions_units (lo n : Nat) (tag : Half) (dom : Nat) : (assignRegions lo n tag dom s).units = s.units := rfl

theorem placeStripe_units (owner : Word) (dom : Nat) (stack : Option Nat) (bytes : List Byte) :
    OptAll (fun r => r.2.units = s.units) (placeStripe owner dom stack bytes s) := by
  refine optAll_map (optAll_any fun q => ?_)
  rw [State.onMem_units, putMem_units, assignRegions_units]

@[simp] theorem formPool_units (k : Nat) : (formPool k s).units = s.units := by
  rw [formPool]
  split <;> rfl

@[simp] theorem rotaryBack_units (k : Nat) : (rotaryBack k s).units = s.units := by
  refine foldl_keeps State.units (fun s m => ?_) _ s
  split
  case h_1 => exact putMem_units _ _
  case h_2 =>
    split
    case h_1 r hr => exact placeStripe_units _ _ _ _ r hr
    case h_2 => rfl

/-- What returns with a unit leaves the records of units as they are. -/
@[simp] theorem unitBack_units : (unitBack u s).units = s.units := by
  rw [unitBack]
  split <;> simp

end Sys2Proof.Machine
end

section
/-! SUPPORT. Fences and returning units (R29, R32, R36, R73, R98): the rows whose conditions hold. -/

namespace Sys2Proof.Machine

variable {s : State} {u : UnitId}

/-- The move that a fence waits for ends: by a fault, of a unit whose data is given up, or with a part of the move running. -/
theorem exec_fenceDataMoveComplete_of_ends {fault saved : Bool} {f : UnitId × Nat × Bool}
    (hf : s.units.fences.find? (fun f => f.1 == u) = some f)
    (hends : fault = true ∨ f.2.2 = true ∨ s.copyRuns (· == .move u) = true) :
    exec (.fenceDataMoveComplete u fault saved) s = .next (finishFence u (fault || f.2.2) saved (s.onPlan (fun p => { p with
      bwork := p.bwork.filter (fun b => !(b.kind == .dataMove && b.obj == unitCode u.kind * 256 + u.index)) }))) := by
  have hgo : ¬(!fault && !f.2.2 && !s.copyRuns (· == .move u)) = true := by
    rcases hends with h | h | h <;> simp [h]
  change execFenceDataMoveComplete u fault saved s = _
  simp only [execFenceDataMoveComplete, hf, if_neg hgo]

theorem exec_relayComplete_of_due (hb : s.beating = true) (hdue : s.units.relayDue = true) (hr : s.copyRuns (· == .relay) = true) :
    exec .relayComplete s = .next ((relayAll s).onUnits (fun k => { k with
      relayDue := false
      returns := k.returns.map (fun r => (r.1, r.2.1, true)) })) :=
  congrArg _ (if_neg (by simp [hb, hdue, hr]))

/-- A returning unit in service again, with what returns beside its service. -/
def backInService (u : UnitId) (s : State) : State :=
  blazeBack u (unitBack u ((s.setSvc u .inService).onUnits (fun k => { k with returns := k.returns.filter (fun x => decide (x.1 ≠ u)) })))

theorem backInService_units : (backInService u s).units =
    { s.units with svc := kset s.units.svc u .inService, returns := s.units.returns.filter (fun x => decide (x.1 ≠ u)) } :=
  unitBack_units

theorem backInService_svc : (backInService u s).svc u = .inService := by
  rw [State.svc, backInService_units, kget_kset_same, Option.getD_some]

theorem backInService_returns : ∀ x ∈ (backInService u s).units.returns, x.1 ≠ u := by
  simp [backInService_units]

/-- A unit that has been calibrated and laid over returns, with a record; its UNFENCE messages complete. -/
theorem exec_unitReturn_of_ready (hb : s.beating = true) (hr : s.units.returns.find? (fun r => r.1 == u) = some (u, true, true))
    (hs : s.svc u = .returning) : exec (.unitReturn u) s = .next (reviewModels (completeUnfences u stOk
      (bbAdd 0x11 1 (unitCode u.kind) u.index stOk (natLe 1 0) (backInService u s)))) := by
  change execUnitReturn u s = _
  simp only [execUnitReturn, hr]
  rw [if_neg (by simp [hb, hs])]
  rfl

theorem exec_catchUpCalibration_of_returning (hb : s.beating = true) (hs : s.svc u = .returning) (hp : s.beat.part = .background) :
    exec (.catchUpCalibration u) s = .next (s.onUnits (fun k => { k with
      returns := updAll k.returns (fun r => r.1 == u) (fun r => (r.1, true, r.2.2)) })) :=
  congrArg _ (if_pos (by simp [hb, hs, hp]))

end Sys2Proof.Machine
end

section
namespace Sys2Proof.Machine

/-- Settles O32: each row by its conditions; a unit that returns is in service in the state that its record joins. -/
theorem fencesAndReturns : Obligations.FencesAndReturns := by
  refine fun s hb => ⟨fun u lost saved => ?_, fun u fault saved f hf hends => exec_fenceDataMoveComplete_of_ends hf hends,
    fun hdue hr => ⟨relayAll s, exec_relayComplete_of_due hb hdue hr, rfl⟩,
    fun u hr hs => ⟨backInService u s, exec_unitReturn_of_ready hb hr hs, backInService_svc, backInService_returns⟩,
    fun u hs hp => exec_catchUpCalibration_of_returning hb hs hp⟩
  exact congrArg _ (if_pos hb)

end Sys2Proof.Machine
end

section
/-! SUPPORT. What the completion of a message, final or interim, leaves unchanged (R465). -/

namespace Sys2Proof.Machine

variable {m : Msg} {s : State}

@[simp] theorem raiseIrq_units (c : Nat) (en : CtrlBlock → Bool) (kind : Nat) : (raiseIrq c en kind s).units = s.units := by
  rw [raiseIrq]
  split <;> rfl

@[simp] theorem raiseIrq_mem (c : Nat) (en : CtrlBlock → Bool) (kind : Nat) : (raiseIrq c en kind s).mem = s.mem := by
  rw [raiseIrq]
  split <;> rfl

theorem complete_units (c b : Nat) (st : Half) (reply : List Byte) : (complete c b st reply s).units = s.units := by
  rw [complete, signalDone, raiseIrq_units]
  split <;> rfl

theorem interim_units (c b : Nat) : (interim c b s).units = s.units := by
  rw [interim, signalDone, raiseIrq_units]
  rfl

theorem interim_mem (c b : Nat) : (interim c b s).mem = s.mem := by
  rw [interim, signalDone, raiseIrq_mem]
  rfl

/-- The reply of a body changes no record of a unit. -/
theorem replied_units (r : State × Reply) : (replied m r).units = r.1.units := by
  obtain ⟨u, reply⟩ := r
  cases reply with
  | done st reply => exact complete_units ..
  | pending w => exact interim_units ..

end Sys2Proof.Machine
end

section
/-! SUPPORT. BEAT_CONFIG and a change of the chain (R41 to R43, R478): a change whose checks pass on the master, and the chain's answers
to it. -/

namespace Sys2Proof.Machine

variable {m : Msg} {a s : State}

/-- Every check of a BEAT_CONFIG passes; the change is armed at once, or the chain's modules are asked. -/
theorem beatConfig_of_ok (h : BeatConfigOk m a) : beatConfig m a = if a.beat.chainModules = [] then
      (armChange (cfgOf m) (BitVec.ofNat 4 (m.f 8 1)) (a.now + 4) a, waitFor m 0x0103 0 (some (a.now + 4)) (a.now + 4))
    else (chainAsked m a, waitFor m 0x0103 0 none (a.now + 4)) := by
  obtain ⟨hp, hbg, hk, hfl, hcfg, hlo, hhi, hz, hsys, hmaster, hchange, happly, hfits⟩ := h
  rw [beatConfig, checked_of_pass _ _ (by simp [hp, hbg, hk, hfl, hcfg, hlo, hhi, hz, hsys, hmaster, hchange, happly, hfits])]
  simp only [List.isEmpty_iff]
  rfl

/-- The last acceptance of a change: it is armed, and its message completes with its beat. -/
def chainArmed (ch : ChainChange) (s : State) : State :=
  ((armChange ch.cfg ch.holdMax (ch.received + 4) s).onBeat (fun b => { b with change := none })).onCtrl (fun k => { k with
    pend := updAll k.pend (fun p => p.client == ch.client && p.mbox == ch.mbox) (fun p => { p with doneBeat := some (ch.received + 4) }) })

theorem chainArmed_doneBeat {ch : ChainChange} {p : PendMsg} (hp : p ∈ (chainArmed ch s).ctrl.pend) (hc : p.client = ch.client)
    (hb : p.mbox = ch.mbox) : p.doneBeat = some (ch.received + 4) := by
  obtain ⟨q, -, rfl⟩ := List.mem_map.1 hp
  split
  case isTrue => rfl
  case isFalse hq =>
    rw [if_neg hq] at hc hb
    simp [hc, hb] at hq

/-- An answer that the change waits for ends it, leaves others to come, or is the last. -/
theorem exec_chainChangeAnswer_of_waiting {n : Nat} {ch : ChainChange} (accept : Bool) (hch : s.beat.change = some ch)
    (hn : n ∈ ch.waiting) : exec (.chainChangeAnswer n accept) s = .next (
      if accept = false then completeOwned ch.client ch.mbox stRefusedBeat [] (s.onBeat (fun b => { b with change := none }))
      else if ch.waiting.filter (fun x => decide (x ≠ n)) ≠ [] then
        s.onBeat (fun b => { b with change := some { ch with waiting := ch.waiting.filter (fun x => decide (x ≠ n)) } })
      else chainArmed ch s) := by
  have hwaits : ch.waiting.contains n = true := by simpa using hn
  change execChainChangeAnswer n accept s = _
  simp only [execChainChangeAnswer, hch, hwaits, Bool.not_true, Bool.false_eq_true, if_false, Bool.not_eq_true',
    List.isEmpty_eq_false_iff]
  rfl

end Sys2Proof.Machine
end

section
/-! SUPPORT. TOPOLOGY and POOL_CONFIG (R275, R411, R479, R480). -/

namespace Sys2Proof.Machine

variable {m : Msg} {a : State}

theorem readN_length (d : Mem) (i n : Nat) : (MemOps.readN d i n).length = n := by
  induction n generalizing i with
  | zero => rfl
  | succ n ih => exact congrArg (· + 1) (ih (i + 1))

theorem refRead_length (n : Nat) : (a.refRead m n).length = n := by
  rw [State.refRead]
  split
  case isTrue => simp [State.carveRead]
  case isFalse => exact readN_length ..

/-- Every check of a TOPOLOGY passes, and the entries that its operand holds are recorded for their beat. -/
theorem topology_of_ok (h : TopologyOk m a) : topology m a = (topoAsked m a, waitFor m 0x0104 0 (some (m.f 0 8)) 0) := by
  obtain ⟨href, hmaster, hsrc, hz, hn, hlen, hrsvd, hroutes, hsys, htopo, hbeat⟩ := h
  obtain ⟨hformat, hdomain⟩ := refChecks_pass href
  have hreadable : ((a.refChecks m m.refLen false).2.all (·.1) && (a.refChecks m m.refLen false).1.all (·.1) &&
      decide (8 * m.f 0xC 4 ≤ m.refLen)) = true := by
    simp [List.all_eq_true.2 hformat, List.all_eq_true.2 hdomain, hlen]
  have hbits : ((List.range (m.f 0xC 4)).all fun i => decide (fld (a.refRead m (8 * m.f 0xC 4)) (8 * i) 2 < 4096 ∧
      fld (a.refRead m (8 * m.f 0xC 4)) (8 * i + 2) 2 < 4096 ∧ fld (a.refRead m (8 * m.f 0xC 4)) (8 * i + 4) 4 < 2 ^ 24)) = true := by
    simpa using hrsvd
  simp only [topology, hreadable, if_true, refRead_length, Nat.mul_div_cancel_left _ (by decide : 0 < 8), hbits]
  rw [checked_of_pass]
  · rfl
  · simp only [List.forall_mem_append]
    refine ⟨⟨⟨hformat, ?_⟩, hdomain⟩, ?_⟩
    · simpa [hmaster, hsrc, hz, hn, hlen, hsys, topoEntries] using hroutes
    · simpa [htopo] using hbeat

/-- Every check of a POOL_CONFIG passes, and the pool lies in the regions found. -/
theorem poolConfig_of_ok {r : List (Nat × Nat)} (h : PoolConfigOk m r a) : poolConfig m a = (a.onPool (hIdx (m.f 0 4)) (fun p => { p with
    size2M := m.f 4 4
    cxl2M := m.f 8 4
    admitPm := m.f 0xC 2
    evictPm := m.f 0xE 2
    runs := r }), .done stOk []) := by
  obtain ⟨hh, hn, hmost, hevict, hadmit, hsys, hsvc, hruns⟩ := h
  rw [poolConfig, checked_of_pass _ _ (by simp [hh, hn, hmost, hevict, hadmit, hadmit.trans hevict, hsys, hsvc, hruns])]
  simp only [hruns]

end Sys2Proof.Machine
end

section
/-! SUPPORT. FENCE and UNFENCE (R29 to R31, R36, R359, R481, R528): the body of each where its checks pass, and what a return test
leaves. -/

namespace Sys2Proof.Machine

variable {m : Msg} {a s : State} {t : UnitTest}

/-- What a FENCE or UNFENCE that names a unit says of LOST: it is 0, or 1 for a unit with data. -/
theorem FenceNames.lost_cases {lost : Bool} (h : FenceNames lost m) :
    m.f 2 2 = 0 ∨ m.f 2 2 = 1 ∧ lost = true ∧ ((unitOfMsg m).kind = .nmu ∨ (unitOfMsg m).kind = .cxl) := by
  obtain ⟨-, -, hlost, hdata, -⟩ := h
  exact (Nat.le_one_iff_eq_zero_or_eq_one.1 hlost).imp_right fun h1 => ⟨h1, hdata h1⟩

/-- The check of LOST in a FENCE passes. -/
theorem FenceNames.lost_ok (h : FenceNames true m) :
    (decide (m.f 2 2 ≤ 1) && (!(m.f 2 2 == 1) || (unitOfMsg m).kind == .nmu || (unitOfMsg m).kind == .cxl)) = true := by
  rcases h.lost_cases with h0 | ⟨h1, -, hk⟩
  · simp [h0]
  · simpa [h1] using hk

/-- FENCE of a unit that is fenced, or on its way out or back, has no effect. -/
theorem fenceMsg_of_out (h : FenceNames true m) (hs : a.svc (unitOfMsg m) ≠ .inService) :
    fenceMsg m a = (a, .done stOk (zeros 8)) := by
  have hlost := h.lost_ok
  obtain ⟨hcode, hunit, -, -, hz, hsys⟩ := h
  rw [fenceMsg, checked_of_pass _ _ (by simp [hcode, hunit, hlost, hz, hsys, hs])]
  exact if_pos (by simpa using hs)

/-- A unit that may leave is not the last of its kind in service. -/
theorem FenceFits.not_last (h : FenceFits m a) : (((unitOfMsg m).kind == .cluster || (unitOfMsg m).kind == .nmu) &&
    (a.svcList (unitOfMsg m).kind).all (fun i => decide (i = (unitOfMsg m).index))) = false := by
  obtain ⟨-, hother, -⟩ := h
  simpa using hother

/-- FENCE of a unit that may leave sets it on its way out, its data's move asked for unless the data is given up. -/
theorem fenceMsg_of_fits (h : FenceNames true m) (hf : FenceFits m a) :
    fenceMsg m a = (fenceAsked m a, waitFor m 0x0106 0 none (unitCode (unitOfMsg m).kind * 256 + (unitOfMsg m).index)) := by
  have hlost := h.lost_ok
  have hlast := hf.not_last
  have hcases := h.lost_cases
  obtain ⟨hcode, hunit, -, -, hz, hsys⟩ := h
  obtain ⟨hs, -, hslice, hdata⟩ := hf
  have hroom : if m.f 2 2 = 1 then a.sliceFits (unitOfMsg m) = true else a.dataFits (unitOfMsg m) = true := by
    rcases hcases with h0 | ⟨h1, -⟩
    · simpa [h0] using hdata h0
    · simpa [h1] using hslice h1
  have hkept : (m.f 2 2 == 1) = false ↔ m.f 2 2 = 0 := by
    rcases hcases with h0 | ⟨h1, -⟩ <;> simp [*]
  rw [fenceMsg, checked_of_pass _ _ (by simpa [hcode, hunit, hlost, hlast, hz, hsys, hs] using hroom)]
  simp only [hs, bne_self_eq_false, Bool.false_eq_true, if_false, hkept]
  rfl

/-- A unit that its return test has been run on: on its way back, or fenced still, with the latency check of a slow port failed. -/
def unitTested (u : UnitId) (t : UnitTest) (s : State) : State :=
  if testOk u t then unfenceAsked u t s
  else if testSlow u t then s.onMem (fun k => { k with cxl := k.cxl.modify u.index (fun c => { c with latFail := true }) })
  else s

/-- UNFENCE of a unit that is in service, on its way back, or fenced with no fence in progress. -/
theorem unfenceMsg_of_names (h : FenceNames false m)
    (hs : a.svc (unitOfMsg m) = .inService ∨ a.svc (unitOfMsg m) = .returning ∨
      a.svc (unitOfMsg m) = .fenced ∧ ∀ f ∈ a.units.fences, f.1 ≠ unitOfMsg m) :
    unfenceMsg m t a = if a.svc (unitOfMsg m) = .inService then (a, .done stOk (zeros 8))
      else (if a.svc (unitOfMsg m) = .returning then a else unitTested (unitOfMsg m) t a,
        waitFor m 0x0107 0 none (unitCode (unitOfMsg m).kind * 256 + (unitOfMsg m).index)) := by
  have hlost : m.f 2 2 = 0 := by simpa using h.lost_cases
  obtain ⟨hcode, hunit, -, -, hz, hsys⟩ := h
  rw [unfenceMsg, checked_of_pass _ _ (by simpa [hcode, hunit, hlost, hz, hsys, or_assoc] using hs)]
  simp only [beq_iff_eq]
  rfl

theorem unfenceMsg_of_inService (h : FenceNames false m) (hs : a.svc (unitOfMsg m) = .inService) :
    unfenceMsg m t a = (a, .done stOk (zeros 8)) := by
  rw [unfenceMsg_of_names h (.inl hs), if_pos hs]

theorem unfenceMsg_of_returning (h : FenceNames false m) (hs : a.svc (unitOfMsg m) = .returning) :
    unfenceMsg m t a = (a, waitFor m 0x0107 0 none (unitCode (unitOfMsg m).kind * 256 + (unitOfMsg m).index)) := by
  rw [unfenceMsg_of_names h (.inr (.inl hs)), if_neg (by simp [hs]), if_pos hs]

theorem unfenceMsg_of_fenced (h : FenceNames false m) (hs : a.svc (unitOfMsg m) = .fenced)
    (hf : ∀ f ∈ a.units.fences, f.1 ≠ unitOfMsg m) : unfenceMsg m t a =
      (unitTested (unitOfMsg m) t a, waitFor m 0x0107 0 none (unitCode (unitOfMsg m).kind * 256 + (unitOfMsg m).index)) := by
  rw [unfenceMsg_of_names h (.inr (.inr ⟨hs, hf⟩)), if_neg (by simp [hs]), if_neg (by simp [hs])]

/-- UNFENCE, past its header, as its body replies: where the test failed and the unit is fenced still, it completes at once. -/
theorem exec_unfence_of_reply {r : State × Reply} (h : MsgReady 0x0107 (some 8) false m s)
    (hr : unfenceMsg m t (s.taking 0x0107 m) = r) : exec (.unfence m t) s = .next (
      if testOk (unitOfMsg m) t = true ∨ r.1.svc (unitOfMsg m) ≠ .fenced then replied m r
      else completeUnfences (unitOfMsg m) stIntegrityFail (replied m r)) := by
  change execUnfence m t s = _
  rw [execUnfence, withMsg_of_ready _ h, hr]
  simp only [State.svc_of_units (replied_units r), Bool.or_eq_true, bne_iff_ne]

/-- An UNFENCE of a unit that passed its test, or is not fenced, answers as its body replies. -/
theorem exec_unfence_of_kept {r : State × Reply} (h : MsgReady 0x0107 (some 8) false m s)
    (hr : unfenceMsg m t (s.taking 0x0107 m) = r) (hk : testOk (unitOfMsg m) t = true ∨ r.1.svc (unitOfMsg m) ≠ .fenced) :
    exec (.unfence m t) s = .next (replied m r) := by
  rw [exec_unfence_of_reply h hr, if_pos hk]

/-- A failed test leaves the records of units as they are. -/
theorem unitTested_units_of_failed {u : UnitId} (ht : testOk u t = false) : (unitTested u t s).units = s.units := by
  rw [unitTested, if_neg (by simp [ht])]
  split <;> rfl

/-- A read beyond the limit in a port's training sets LAT_FAIL. -/
theorem unitTested_latFail {u : UnitId} (ht : testOk u t = false) (hk : u.kind = .cxl) (hslow : 600 < t.slowest)
    (hu : u.index < (unitTested u t s).mem.cxl.length) : ((unitTested u t s).mem.cxl.getD u.index .down).latFail = true := by
  rw [unitTested, if_neg (by simp [ht]), if_pos (by simp [testSlow, hk, hslow])] at hu ⊢
  have hport : u.index < s.mem.cxl.length := by simpa using hu
  simp [List.getD_eq_getElem?_getD, hport]

/-- An UNFENCE whose test fails completes at once; its unit is fenced still. -/
theorem exec_unfence_of_failed {w : PendMsg} (h : MsgReady 0x0107 (some 8) false m s) (ht : testOk (unitOfMsg m) t = false)
    (hs : (s.taking 0x0107 m).svc (unitOfMsg m) = .fenced)
    (hr : unfenceMsg m t (s.taking 0x0107 m) = (unitTested (unitOfMsg m) t (s.taking 0x0107 m), .pending w)) :
    ∃ v : State, exec (.unfence m t) s = .next (completeUnfences (unitOfMsg m) stIntegrityFail v) ∧ v.svc (unitOfMsg m) = .fenced ∧
      v.mem = (unitTested (unitOfMsg m) t (s.taking 0x0107 m)).mem := by
  have hfenced := (State.svc_of_units (unitTested_units_of_failed ht) (unitOfMsg m)).trans hs
  refine ⟨replied m (unitTested (unitOfMsg m) t (s.taking 0x0107 m), .pending w), ?_,
    (State.svc_of_units (replied_units _) _).trans hfenced, interim_mem ..⟩
  rw [exec_unfence_of_reply h hr, if_neg (by simp [ht, hfenced])]

end Sys2Proof.Machine
end

section
namespace Sys2Proof.Machine

/-- Settles O46: the body of each message replies as stated once its checks pass; a chain's answer ends a change or arms it; a failed
return test leaves the unit fenced. -/
theorem systemMessages : Obligations.SystemMessages := by
  refine ⟨fun m s h hok => ⟨fun hc => ?_, fun hc => ?_⟩, fun m s h hok => waits_of_body rfl h (topology_of_ok hok),
    fun v n s hm hup => congrArg _ (if_neg (by simp [hm, hup])), fun n s ch hch hn => ⟨?_, fun hrest => ?_, fun hrest => ?_⟩,
    fun m s r h hok => answers_of_body rfl h (poolConfig_of_ok hok),
    fun m s h hnames => ⟨fun hs => answers_of_body rfl h (fenceMsg_of_out hnames hs),
      fun hf => waits_of_body rfl h (fenceMsg_of_fits hnames hf)⟩,
    fun m s t h hnames => ⟨fun hs => ?_, fun hs => ?_, fun hs hf => ⟨fun ht => ?_, fun ht => ?_⟩⟩⟩
  · exact waits_of_body rfl h (by rw [beatConfig_of_ok hok, if_pos hc])
  · exact waits_of_body rfl h (by rw [beatConfig_of_ok hok, if_neg hc])
  · rw [exec_chainChangeAnswer_of_waiting false hch hn, if_pos rfl]
  · rw [exec_chainChangeAnswer_of_waiting true hch hn, if_neg (by decide), if_pos hrest]
  · refine ⟨chainArmed ch s, ?_, rfl, fun p => chainArmed_doneBeat⟩
    rw [exec_chainChangeAnswer_of_waiting true hch hn, if_neg (by decide), if_neg (not_not.2 hrest)]
  · exact exec_unfence_of_kept h (unfenceMsg_of_inService hnames hs) (.inr (by simp [hs]))
  · exact exec_unfence_of_kept h (unfenceMsg_of_returning hnames hs) (.inr (by simp [hs]))
  · have hback : unitTested (unitOfMsg m) t (s.taking 0x0107 m) = unfenceAsked (unitOfMsg m) t (s.taking 0x0107 m) := if_pos ht
    rw [← hback]
    exact exec_unfence_of_kept h (unfenceMsg_of_fenced hnames hs hf) (.inl ht)
  · obtain ⟨v, hexec, hfenced, hmem⟩ := exec_unfence_of_failed h ht hs (unfenceMsg_of_fenced hnames hs hf)
    refine ⟨v, hexec, hfenced, fun hk hslow hu => ?_⟩
    rw [hmem] at hu ⊢
    exact unitTested_latFail ht hk hslow hu

end Sys2Proof.Machine
end

section
namespace Sys2Proof.Machine

/-- Settles O33: a row of the background budget whose task is due runs it once; the tick sets the tasks of the beat and moves the
rotations on. -/
theorem calibrationRotation : Obligations.CalibrationRotation := by
  refine fun s => ⟨fun i hdue hscrubbed => ?_, fun l hdue => ?_, fun p hdue => ?_, fun vin iin pin l hdue => ?_,
    fun n => ⟨rfl, rfl, rfl, fun t => rfl⟩⟩
  · exact congrArg Host.Outcome.next (if_pos (by rw [hdue, hscrubbed]; rfl))
  · exact congrArg Host.Outcome.next (if_pos hdue)
  · exact congrArg Host.Outcome.next (if_pos hdue)
  · exact congrArg Host.Outcome.next (if_neg (by simp [hdue]))

end Sys2Proof.Machine
end

section
/-! SUPPORT. The settings of the Beat Sequencer (R40, R44, R605): a change armed by a write of BEAT_APPLY, and applied at a tick. -/

namespace Sys2Proof.Machine

variable {n t : Nat} {s : State}

/-- At a tick the armed settings come into force when their beat has come; of the rest, HOLD_MAX alone can change. -/
theorem applyArmed_eq (n : Nat) (b : BeatSt) : ∃ h a, applyArmed n b = { b with
    cur := if b.applyAt ≠ 0 ∧ b.applyAt.toNat ≤ n then b.next else b.cur
    applyAt := if b.applyAt ≠ 0 ∧ b.applyAt.toNat ≤ n then 0 else b.applyAt
    holdMax := h
    armedHoldMax := a } := by
  have hcfg : (if b.applyAt ≠ 0 ∧ b.applyAt.toNat ≤ n then { b with cur := b.next, applyAt := 0 } else b) = { b with
      cur := if b.applyAt ≠ 0 ∧ b.applyAt.toNat ≤ n then b.next else b.cur
      applyAt := if b.applyAt ≠ 0 ∧ b.applyAt.toNat ≤ n then 0 else b.applyAt } := by
    split <;> rfl
  simp only [applyArmed, hcfg]
  split
  case h_1 => split <;> exact ⟨_, _, rfl⟩
  case h_2 => exact ⟨_, _, rfl⟩

/-- A write of BEAT_APPLY takes effect where it is 0, or names a beat to come and BEAT_NEXT lies within the limits. -/
theorem beatApplyWrite_eq (v : Dword) : beatApplyWrite v s = if v = 0 ∨ s.beat.number.toNat + 1 < v.toNat ∧ s.beat.next.ok = true
    then s.onBeat (fun b => { b with applyAt := v, armedHoldMax := none }) else beatCfgErr s := by
  rw [beatApplyWrite]
  by_cases hv : v = 0
  · subst hv
    rfl
  · rw [if_neg hv, ← ite_not]
    exact if_congr (by rw [or_iff_right hv, not_or, not_le, Bool.not_eq_false]) rfl rfl

theorem applyTopo_of_none (h : s.beat.topo = none) : applyTopo n s = s := by
  simp only [applyTopo, h]

/-- Without a topology to apply, a tick numbers the beat, dates it and applies what is armed. -/
theorem tickBeat_of_no_topo (off : Int) (h : s.beat.topo = none) : let u := tickBeat n t off s
    u.beat.number = BitVec.ofNat 64 n ∧ u.beat.tickTime = t ∧ u.beat.ticked = true ∧
      u.beat.cur = (if s.beat.applyAt ≠ 0 ∧ s.beat.applyAt.toNat ≤ n then s.beat.next else s.beat.cur) ∧
      u.beat.applyAt = if s.beat.applyAt ≠ 0 ∧ s.beat.applyAt.toNat ≤ n then 0 else s.beat.applyAt := by
  obtain ⟨hm, arm, harmed⟩ := applyArmed_eq n { s.beat with number := BitVec.ofNat 64 n }
  have hbeat : (s.onBeat (fun b => applyArmed n { b with number := BitVec.ofNat 64 n })).beat = _ := harmed
  have htopo : (s.onBeat (fun b => applyArmed n { b with number := BitVec.ofNat 64 n })).beat.topo = none := by
    rw [hbeat]
    exact h
  rw [tickBeat, applyTopo_of_none htopo]
  simp only [State.onBeat_beat, harmed, and_self]

end Sys2Proof.Machine
end

section
/-! SUPPORT. Markers (R76, R77, R413, R414): a body read back as the marker it was made from, and a frame of the control space judged
check by check. -/

namespace Sys2Proof.Machine

/-- The first field of a record reads as it was written. -/
@[simp] theorem fld_natLe_append_zero (n v : Nat) (w : List Byte) : fld (natLe n v ++ w) 0 n = v % 256 ^ n := by
  induction n generalizing v with
  | zero => simp [fld, leNat, Nat.mod_one]
  | succ n ih =>
    have ih : leNat ((natLe n (v / 256) ++ w).take n) = v / 256 % 256 ^ n := ih (v / 256)
    simp only [fld, natLe, List.cons_append, List.drop_zero, List.take_succ_cons, leNat, ih, BitVec.toNat_ofNat]
    exact (Nat.pow_succ' (m := 256) ▸ Nat.mod_mul).symm

/-- A later field of a record lies behind its first one. -/
@[simp] theorem fld_natLe_append_of_le {n off : Nat} (k v : Nat) (w : List Byte) (h : n ≤ off) :
    fld (natLe n v ++ w) off k = fld w (off - n) k := by
  induction n generalizing v off with
  | zero => rfl
  | succ n ih =>
    obtain ⟨off, rfl⟩ := Nat.exists_eq_add_of_le' (Nat.one_le_of_lt h)
    rw [Nat.add_sub_add_right]
    exact ih (v / 256) (Nat.le_of_succ_le_succ h)

theorem markerOf_markerBody (mk : Marker) (h : mk.hops < 256) : markerOf (markerBody mk) = { mk with rsvd := 0 } := by
  have hrsvd : fld (zeros 5) 0 5 = 0 := by decide
  have hword (v : Dword) : v.toNat % 18446744073709551616 = v.toNat := Nat.mod_eq_of_lt v.isLt
  have hmaster : mk.master.toNat % 65536 = mk.master.toNat := Nat.mod_eq_of_lt (mk.master.isLt.trans (by decide))
  simp [markerOf, markerBody, List.append_assoc, hrsvd, hword, hmaster, Nat.mod_eq_of_lt h]

variable {l t : Nat} {r : RxFrame} {s : State}

/-- Two changes that agree on the link as it stands leave the same state. -/
theorem State.onLink_congr {f g : LinkSt → LinkSt} (h : f (s.link l) = g (s.link l)) : s.onLink l f = s.onLink l g := by
  have hmodify : s.links.links.modify l f = s.links.links.modify l g := by
    refine List.ext_getElem? fun j => ?_
    rw [List.getElem?_modify, List.getElem?_modify]
    by_cases hj : l = j
    · subst hj
      cases hk : s.links.links[l]? with
      | none => rfl
      | some k =>
        have hlink : s.link l = k := by rw [State.link, List.getD_eq_getElem?_getD, hk, Option.getD_some]
        simpa [hlink] using h
    · simp [hj]
  exact congrArg (fun links => s.onLinks (fun k => { k with links := links })) hmodify

/-- Two changes of a link, one after the other, are one. -/
theorem State.onLink_onLink (f g : LinkSt → LinkSt) : (s.onLink l f).onLink l g = s.onLink l (fun k => g (f k)) := by
  simp only [State.onLink, State.onLinks, List.modify_modify_eq]
  rfl

/-- A frame of the control space fails FEC, its CRC, its number or its tag. -/
def ctlLost (l : Nat) (r : RxFrame) (s : State) : Prop :=
  let n := (s.link l).ctlEpoch r.fr.seq
  rxBad r = true ∨ 2 ^ 31 ≤ (r.fr.seq - (s.link l).rxSeq.getD 1 0).toNat ∨ frTag (s.rxKey l 1 n) n r.fr ≠ r.fr.tag

/-- A frame of the control space, decrypted. -/
def ctlPlain (l : Nat) (r : RxFrame) (s : State) : Frame :=
  let n := (s.link l).ctlEpoch r.fr.seq
  { r.fr with body := frCrypt (s.rxKey l 1 n) n r.fr }

theorem ctlOpen_of_lost (h : ctlLost l r s) : s.ctlOpen l r = none :=
  if_pos (by simpa [ctlLost, rxBad, rxLost, cwLost, LinkSt.ctlNext, or_assoc] using h)

theorem ctlOpen_of_not_lost (h : ¬ ctlLost l r s) : s.ctlOpen l r = some (ctlPlain l r s) :=
  if_neg (by simpa [ctlLost, rxBad, rxLost, cwLost, LinkSt.ctlNext, or_assoc] using h)

/-- A frame of the control space on a link that is up is judged by FEC, CRC, number, tag, form, then class and TYPE. -/
theorem ctlIn_of_linkUp {cls type : Nat} {act : List Byte → State → State} (h : s.linkUp l = true) :
    ctlIn l r cls type act s = ctlTaken l r cls type act s := by
  rw [ctlIn, if_neg (by simp [h])]
  by_cases hlost : ctlLost l r s
  · rw [ctlOpen_of_lost hlost]
    exact (if_pos hlost).symm
  · rw [ctlOpen_of_not_lost hlost]
    refine Eq.trans ?_ (if_neg hlost).symm
    refine if_congr Iff.rfl rfl (if_congr Iff.rfl rfl (congrArg (act _) ?_))
    rw [fecSeen, rxCounted, State.onLink_onLink, State.onLink_onLink]
    exact State.onLink_congr rfl

/-- The marker of the next tick goes out where the time of that tick is known. -/
theorem exec_markerSend_of_due {d : Nat} (t : Nat) (hb : s.beating = true) (hen : s.beat.enable = true) (hm : s.beat.master = true)
    (hd : s.beat.dueAt = some d) : exec (.markerSend t) s = .next (sendMarkers s.upLinks (Marker.mk (BitVec.ofNat 64 (s.beat.numberAt d))
      (BitVec.ofNat 64 d) (BitVec.ofNat 64 t) s.links.moduleId 0 0) s) := by
  change execMarkerSend t s = _
  rw [execMarkerSend, if_neg (by simp [hb, hen, hm]), hd]

theorem markerGot_eq (mk : Marker) : markerGot l t mk s =
    if s.beating = true ∧ s.beat.enable = true ∧ s.beat.master = false ∧ s.beat.markerSeen = false ∧ s.markerOk l mk = true
    then markerTake l mk t s else s := by
  rw [markerGot, ← ite_not]
  simp [not_or, and_assoc]

theorem exec_markerReceive_of_linkUp (t : Nat) (h : s.linkUp l = true) : exec (.markerReceive l r t) s = .next (ctlTaken l r 9 0
    (fun b u => let mk := markerOf b
      if u.beating = true ∧ u.beat.enable = true ∧ u.beat.master = false ∧ u.beat.markerSeen = false ∧ u.markerOk l mk = true
      then markerTake l mk t u else u) s) := by
  change execMarkerReceive l r t s = _
  rw [execMarkerReceive, ctlIn_of_linkUp h]
  simp only [markerGot_eq]

end Sys2Proof.Machine
end

section
/-! SUPPORT. The check points of a beat (R46, R55, R64, R65, R68): the end of the execution window, the start of the kerf. -/

namespace Sys2Proof.Machine

variable {s : State}

/-- Background tasks that are closed leave the plan, its tasks aside, and the beat's number as they are. -/
theorem closeBackground_keeps (s : State) : (closeBackground s).plan = { s.plan with bgDue := [] } ∧
    (closeBackground s).beat.number = s.beat.number ∧ (closeBackground s).beat.ticked = s.beat.ticked := by
  rw [closeBackground]
  split <;> exact ⟨rfl, rfl, rfl⟩

/-- With no command that runs, no engine has incomplete work (R68). -/
theorem doubleFault_of_none_running (h : ∀ c ∈ s.plan.cur, c.run ≠ .running) :
    doubleFault (enginesOf (s.plan.cur.filter (fun c => c.run == .running))) s = s.onPlan (fun p => { p with incomplete := [] }) := by
  have hnone : s.plan.cur.filter (fun c => c.run == .running) = [] := by simpa using h
  rw [hnone]
  rfl

/-- The check point at E with every command ended: the background budget begins. -/
theorem exec_execWindowEnd_of_over (hb : s.beating = true) (ht : s.beat.ticked = true) (h : ∀ c ∈ s.plan.cur, c.over = true) :
    exec .execWindowEnd s = .next ((s.onBeat (fun b => { b with part := .background })).onPlan (fun p => { p with incomplete := [] })) := by
  have hbad : s.plan.cur.filter (fun c => !c.over) = [] := by simpa using h
  have hlate : s.plan.cur.any (fun c => c.run == .running && c.t.cls == .D) = false := by
    refine List.any_eq_false.2 fun c hc hrun => ?_
    have hrunning : c.run = .running := by
      rw [Bool.and_eq_true, beq_iff_eq] at hrun
      exact hrun.left
    exact absurd (h c hc) (by simp [PCmd.over, hrunning])
  change execExecWindowEnd s = _
  rw [execExecWindowEnd, if_neg (by simp [hb, ht])]
  simp only [State.onBeat_plan, hbad, hlate, Bool.or_false, List.isEmpty_nil, if_true]

/-- The background budget closed at the start of the kerf. -/
def kerfClosed (s : State) : State :=
  (closeBackground (s.onBeat (fun b => { b with part := .kerf }))).onPlan (fun p => { p with incomplete := [] })

theorem kerfClosed_keeps (s : State) : (kerfClosed s).plan.next = s.plan.next ∧ (kerfClosed s).beat.number = s.beat.number ∧
    (kerfClosed s).beat.ticked = s.beat.ticked := by
  obtain ⟨hplan, hnumber, hticked⟩ := closeBackground_keeps (s.onBeat (fun b => { b with part := .kerf }))
  exact ⟨by rw [kerfClosed, State.onPlan_plan, hplan]; rfl, hnumber, hticked⟩

/-- The check point at P − K with no command that runs goes by the plan of the next beat alone. -/
theorem exec_kerfStart_of_none_running (hb : s.beating = true) (ht : s.beat.ticked = true) (h : ∀ c ∈ s.plan.cur, c.run ≠ .running) :
    exec .kerfStart s = .next (if s.plan.next.any (fun n => decide (n.1 = s.beat.number.toNat + 1)) then kerfClosed s
      else
        let u := (kerfClosed s).onBeat (fun b => { b with planMiss := true })
        warmResetTo 0x05 (bbAdd 0x71 2 0 0 stOk (natLe 8 u.beat.statusWord) u)) := by
  obtain ⟨hnext, hnumber, hticked⟩ := kerfClosed_keeps s
  have hidle : ∀ c ∈ (closeBackground (s.onBeat (fun b => { b with part := .kerf }))).plan.cur, c.run ≠ .running := by
    obtain ⟨hplan, -, -⟩ := closeBackground_keeps (s.onBeat (fun b => { b with part := .kerf }))
    rw [hplan]
    exact h
  change execKerfStart s = _
  rw [execKerfStart, if_neg (by simp [hb, ht])]
  simp only [doubleFault_of_none_running hidle]
  refine congrArg Host.Outcome.next (if_congr ?_ rfl rfl)
  change (!(kerfClosed s).beat.ticked || match (kerfClosed s).plan.next with
    | some n => decide (n.1 = (kerfClosed s).beat.number.toNat + 1)
    | none => false) = true ↔ _
  rw [hnext, hnumber, hticked, ht]
  cases s.plan.next <;> rfl

end Sys2Proof.Machine
end

section
/-! SUPPORT. The boundary of an engine (R46, R49, R65). -/

namespace Sys2Proof.Machine

variable {e : Engine} {s : State}

/-- The state after the boundary of an engine at a time from the tick, with a freed context given on. -/
def atBoundary (e : Engine) (now : Nat) (s : State) : State :=
  contextFree e (boundary e now (s.onBeat (fun b => { b with clock := max b.clock now })))

/-- A boundary of an engine at rest goes by the command that comes next in the window before E, if there is one. -/
theorem exec_commandStart_of_atRest {t : Nat} {o : Option PCmd} (hup : s.engineUp e = true) (ht : s.beat.ticked = true)
    (hrest : s.atRest e = true) (hnext : (if s.beat.part = .window ∧ s.beat.sinceTick t < s.beat.cur.eTu
      then (atBoundary e (s.beat.sinceTick t) s).nextCmd (s.beat.sinceTick t) e else none) = o) :
    exec (.commandStart e t) s = .next (o.elim (atBoundary e (s.beat.sinceTick t) s)
      (fun c => startCmd (s.beat.sinceTick t) c (atBoundary e (s.beat.sinceTick t) s))) := by
  rw [atBoundary] at hnext
  change execCommandStart e t s = _
  rw [execCommandStart, if_neg (by simp [hup, ht, hrest])]
  simp only [hnext]
  cases o <;> rfl

end Sys2Proof.Machine
end

section
namespace Sys2Proof.Machine

/-- Settles O36: where the conditions of a row hold, its guard falls away; an armed change is applied at its tick, and what the check
points and a command boundary do is read from the state they leave. -/
theorem beatRows : Obligations.BeatRows := by
  refine ⟨fun t s hdue => ?_, fun n t off s htopo => ?_, fun t s hin => ⟨?_, ?_⟩, fun t s => rfl, fun v s => ?_,
    fun t d s hb hen hm hd => ?_, fun l r t s hup => ?_, markerOf_markerBody, fun s hb hen hm hseen hticked hnext => ?_,
    fun s hb hticked => ⟨fun hnext => ?_, fun hover => ?_, fun hidle => ⟨fun n hnext hn => ?_, fun hnext => ?_⟩⟩,
    fun e t s hup hticked hrest => ⟨fun hnone => ?_, fun c hpart hbefore hnext => ?_⟩, fun e s hup hbusy => ?_⟩
  · exact congrArg Host.Outcome.next (if_pos hdue)
  · obtain ⟨hnumber, htime, hticked, hcur, happly⟩ := tickBeat_of_no_topo (n := n) (t := t) off htopo
    refine ⟨hnumber, htime, hticked, fun harmed hn => ?_, fun hlater => ?_⟩
    · rw [hcur, happly, if_pos ⟨harmed, hn⟩, if_pos ⟨harmed, hn⟩]
      exact ⟨rfl, rfl⟩
    · have hlater : ¬ (s.beat.applyAt ≠ 0 ∧ s.beat.applyAt.toNat ≤ n) := by
        simpa only [not_and_or, not_not, not_le] using hlater
      rw [hcur, happly, if_neg hlater, if_neg hlater]
      exact ⟨rfl, rfl⟩
  · exact congrArg Host.Outcome.next (if_pos hin)
  · exact congrArg Host.Outcome.next (if_pos hin)
  · exact congrArg Host.Outcome.next (beatApplyWrite_eq v)
  · exact exec_markerSend_of_due t hb hen hm hd
  · exact exec_markerReceive_of_linkUp t hup
  · exact congrArg Host.Outcome.next (if_neg (by simp [hb, hen, hm, hseen, hticked, hnext]))
  · exact congrArg Host.Outcome.next (if_neg (by simp [hb, hticked, hnext]))
  · exact exec_execWindowEnd_of_over hb hticked hover
  · exact (exec_kerfStart_of_none_running hb hticked hidle).trans (congrArg Host.Outcome.next (if_pos (by simp [hnext, hn])))
  · exact (exec_kerfStart_of_none_running hb hticked hidle).trans (congrArg Host.Outcome.next (if_neg (by simp [hnext])))
  · refine exec_commandStart_of_atRest (o := none) hup hticked hrest (ite_eq_right_iff.2 fun hbefore => ?_)
    obtain ⟨hpart, htime⟩ := hbefore
    exact (hnone.resolve_left (not_not.2 hpart)).resolve_left (Nat.not_le.2 htime)
  · exact exec_commandStart_of_atRest (o := some c) hup hticked hrest ((if_pos ⟨hpart, hbefore⟩).trans hnext)
  · exact congrArg Host.Outcome.next (if_neg (by simp [hup, hbusy]))

end Sys2Proof.Machine
end

section
/-! SUPPORT. Records in the carve-out (R493 to R497): what their writes leave of the control side. -/

namespace Sys2Proof.Machine

variable {s : State}

@[simp] theorem clearPoison_ctrl (a n : Nat) : (clearPoison a n s).ctrl = s.ctrl := rfl

@[simp] theorem carveWrite_ctrl (a : Nat) (l : List Byte) : (carveWrite a l s).ctrl = s.ctrl := by
  rw [carveWrite]
  split
  case isTrue => rfl
  case isFalse => exact foldl_keeps State.ctrl (fun _ _ => clearPoison_ctrl ..) _ _

@[simp] theorem State.onBlock_telems (c : Nat) (f : CtrlBlock → CtrlBlock) : (s.onBlock c f).ctrl.telems = s.ctrl.telems := rfl

@[simp] theorem raiseIrq_telems (c : Nat) (en : CtrlBlock → Bool) (kind : Nat) :
    (raiseIrq c en kind s).ctrl.telems = s.ctrl.telems := by
  rw [raiseIrq]
  split <;> rfl

/-- The record of a step that is OK and not the last one is written, and the session is one position further. -/
theorem exec_tokenRecordWrite_of_ok {i : Nat} {tok : Word} {x : Session} (hx : s.session i = some x)
    (hcmd : ∃ c ∈ s.plan.cur, c.kind = .decode ∧ c.obj = BitVec.ofNat 32 (s.handleOf 2 i)) (hrec : x.recBeat ≠ some s.now)
    (hstep : s.stepStatus (BitVec.ofNat 32 (s.handleOf 2 i)) = stOk) (hleft : x.left ≠ 1) (hfault : x.faulted = none)
    (hgone : s.stateGone x = false) :
    let s1 := writeToken i (natLe 4 tok.toNat ++ natLe 2 stOk.toNat ++ natLe 2 0 ++ natLe 4 x.positions ++ natLe 4 s.now) s
    let s2 := match x.pages[x.positions / 64]? with
      | some f => s1.onSet f (fun y => { y with fill := x.positions % 64 + 1 })
      | none => s1
    exec (.tokenRecordWrite i tok stOk) s = .next (s2.onSession i (fun y => { y with
      positions := y.positions + 1, ids := y.ids.take y.positions ++ [tok], left := y.left - 1, lastStatus := stOk, lastActive := s.now
      recBeat := some s.now, state := y.state })) := by
  have hskipped : ¬ (!s.plan.cur.any (fun c => c.kind == .decode && c.obj == BitVec.ofNat 32 (s.handleOf 2 i)) ||
      x.recBeat == some s.now) = true := by
    simpa [hrec] using hcmd
  have hok : tableStatus stOk = stOk := rfl
  intro s1 s2
  change execTokenRecordWrite i tok stOk s = _
  rw [execTokenRecordWrite]
  simp only [hx, if_neg hskipped, hstep, hok, ne_eq, not_true_eq_false, if_false, if_true, hleft, hfault, hgone, decide_false,
    Bool.or_false, Bool.false_eq_true, and_false]
  rfl

/-- A record goes into a valid ring; where another of the client's rings took one in this beat, no interrupt follows. -/
theorem writeToken_of_valid {i : Nat} {x : Session} (rec_ : List Byte) (hx : s.session i = some x) (hvalid : x.ring.valid = true)
    (hmate : ∃ y ∈ s.ctrl.sessions, y.client = x.client ∧ y.recBeat = some s.now ∧ y.ring.valid = true) :
    writeToken i rec_ s = ((carveWrite x.ring.addr (natLe 4 (x.ring.wr + 1).toNat)
      (carveWrite (x.ring.addr + 0x40 + x.ring.wr.toNat % 2 ^ x.ring.sizeLog2 * 16) rec_ s)).onSession i (fun y => { y with
        ring := { y.ring with wr := y.ring.wr + 1 }, recBeat := some s.now })).onBlock x.client (fun b => { b with token := true }) := by
  have hnotFirst : s.ctrl.sessions.any (fun y => y.client == x.client && y.recBeat == some s.now && y.ring.valid) = true := by
    simpa [and_assoc] using hmate
  simp only [writeToken, hx, hvalid, hnotFirst, Bool.not_true, Bool.false_eq_true, if_false]

theorem exists_eq_of_mem_updAll {α : Type} {l : List α} {p : α → Bool} {f : α → α} {q : α} (hq : q ∈ updAll l p f)
    (hp : p q = true) : ∃ x ∈ l, q = f x := by
  obtain ⟨x, hx, rfl⟩ := List.mem_map.1 hq
  by_cases hpx : p x = true
  · exact ⟨x, hx, if_pos hpx⟩
  · rw [if_neg hpx] at hp
    exact absurd hp hpx

/-- The record of a client's ring once `n` of the records ready in `t` are written and the others counted. -/
def telemWritten (t : Telem) (n now : Nat) (q : Telem) : Telem :=
  { q with
    ring := { q.ring with wr := t.ring.wr + BitVec.ofNat 32 n, holds := t.ring.holds + BitVec.ofNat 32 (t.ready.length - n) }
    ready := []
    lastWritten := some now }

/-- The records of a client's ring that are ready are written as far as they fit, and the rest counted. -/
theorem exec_telemetryWrite_of_ready {c : Nat} {t : Telem} (ht : s.ctrl.telems.find? (·.client == c) = some t) (hr : t.ready ≠ []) :
    let n := min (if t.ring.valid then 2 ^ t.ring.sizeLog2 - t.ring.unread else 0) t.ready.length
    ∃ u : State, exec (.telemetryWrite c) s = .next u ∧
      u.ctrl.telems = updAll s.ctrl.telems (·.client == c) (telemWritten t n s.now) := by
  have hrecords (l : List (List Byte × Nat)) : (l.foldl (fun (s : State) e => carveWrite (t.ring.addr + 0x40 +
      (t.ring.wr.toNat + e.2) % 2 ^ t.ring.sizeLog2 * 64) e.1 s) s).ctrl = s.ctrl :=
    foldl_keeps State.ctrl (fun _ _ => carveWrite_ctrl ..) l s
  refine ⟨_, rfl, ?_⟩
  simp only [ht, List.isEmpty_iff, if_neg hr, apply_ite State.ctrl, apply_ite CtrlSt.telems, raiseIrq_telems, State.onBlock_telems,
    State.onCtrl_ctrl, carveWrite_ctrl, hrecords, ite_self, List.length_take]
  rfl

/-- What a message of an opcode outside the catalogue answers, once its header passes. -/
theorem exec_mailboxReservedOpcode_of_ready {op : Half} {m : Msg} (hop : op.toNat ∉ knownOps)
    (h : MsgReady op.toNat none true { m with plen := min m.plen 4032 } s) : exec (.mailboxReservedOpcode op m) s =
      .next ((complete m.client m.mbox stBadFormat [] (s.taking op.toNat { m with plen := min m.plen 4032 })).onBox m.client m.mbox
        (fun b => { b with plen := m.plen })) := by
  have hsent := withMsg_of_ready (fun s => (s, .done stBadFormat [])) h
  obtain ⟨hup, hown, -⟩ := h
  have hfree : s.boxOwned m.client m.mbox = false := hown
  change execMailboxReservedOpcode op m s = _
  rw [execMailboxReservedOpcode, if_neg (by simp [hop, hup]), if_neg (by simp [hfree]), hsent]
  rfl

end Sys2Proof.Machine
end

section
namespace Sys2Proof.Machine

/-- Settles O54: records go into the rings of a session and of a client; a write to a mailbox of the DCP, and a reserved opcode, are
answered at the mailbox. -/
theorem recordsToClients : Obligations.RecordsToClients := by
  refine ⟨fun i tok s x hx hcmd hrec hstep hleft hfault hgone => ?_, fun i s x hx hvalid hmate rec_ => ?_, fun c s t ht hr => ?_,
    fun c b s hown => congrArg Host.Outcome.next (if_pos hown), fun op m s hop h => exec_mailboxReservedOpcode_of_ready hop h⟩
  · exact exec_tokenRecordWrite_of_ok hx hcmd hrec hstep hleft hfault hgone
  · exact writeToken_of_valid rec_ hx hvalid hmate
  · obtain ⟨u, hexec, htelems⟩ := exec_telemetryWrite_of_ready ht hr
    refine ⟨u, hexec, fun q hq hc => ?_⟩
    obtain ⟨p, -, rfl⟩ := exists_eq_of_mem_updAll (htelems ▸ hq) (by simpa using hc)
    exact ⟨rfl, rfl, rfl, rfl⟩

end Sys2Proof.Machine
end

section
/-! SUPPORT. What the Vector Engine's instructions write (R156, R157, R161, R165): operands lane by lane, results under the write
mask, and the way of an instruction that the engine takes. -/

namespace Sys2Proof.Machine

/-! ## Lists of lanes -/

/-- A lane of a mapped list. -/
theorem getD_map_of_lt {α β : Type} (g : α → β) {l : List α} {i : Nat} (a : α) (b : β) (h : i < l.length) :
    (l.map g).getD i b = g (l.getD i a) := by
  rw [List.getD_eq_getElem _ _ (by simpa using h), List.getElem_map, List.getD_eq_getElem _ _ h]

/-- A lane of two lists paired. -/
theorem getD_zip_of_lt {α β : Type} {l : List α} {l' : List β} {i : Nat} (a : α) (b : β) (h : i < l.length) (h' : i < l'.length) :
    (l.zip l').getD i (a, b) = (l.getD i a, l'.getD i b) := by
  rw [List.getD_eq_getElem _ _ (by simpa using ⟨h, h'⟩), List.getElem_zip, List.getD_eq_getElem _ _ h, List.getD_eq_getElem _ _ h']

/-- A list cut in two at `n`, element by element. -/
theorem getD_append_of_length {α : Type} {l l' : List α} {n : Nat} (i : Nat) (a : α) (h : l.length = n) :
    (l ++ l').getD i a = if i < n then l.getD i a else l'.getD (i - n) a := by
  subst h
  split
  case isTrue hi => exact List.getD_append _ _ _ _ hi
  case isFalse hi => exact List.getD_append_right _ _ _ _ (Nat.not_lt.1 hi)

/-- The first `n` elements of one list before the others of another. -/
theorem getD_take_append_drop {α : Type} {l : List α} (l' : List α) {n : Nat} (i : Nat) (a : α) (h : n ≤ l.length) :
    (l.take n ++ l'.drop n).getD i a = if i < n then l.getD i a else l'.getD i a := by
  rw [getD_append_of_length (n := n) i a (by simpa using h)]
  split
  case isTrue hi => simp [List.getD_eq_getElem?_getD, hi]
  case isFalse hi => simp [List.getD_eq_getElem?_getD, Nat.add_sub_cancel' (Nat.not_lt.1 hi)]

/-! ## Halves of a lane -/

@[simp] theorem loHalf_mkLane (a b : Half) : loHalf (mkLane a b) = a := by
  apply BitVec.eq_of_toNat_eq
  simp only [loHalf, mkLane, BitVec.extractLsb'_toNat, BitVec.toNat_ofNat]
  omega

@[simp] theorem hiHalf_mkLane (a b : Half) : hiHalf (mkLane a b) = b := by
  apply BitVec.eq_of_toNat_eq
  simp only [hiHalf, mkLane, BitVec.extractLsb'_toNat, BitVec.toNat_ofNat, Nat.shiftRight_eq_div_pow]
  omega

@[simp] theorem elems_length (v : List Word) : (elems v).length = 2 * v.length := by
  simp [elems, Nat.two_mul]

theorem unelems_length {h : List Half} (hl : h.length = 2048) : (unelems h).length = 1024 := by
  simp [unelems, hl]

/-- Elements below 1,024 are the low halves of the lanes, the others the high halves (R157). -/
theorem getD_elems {v : List Word} {i : Nat} (hv : v.length = 1024) (hi : i < 2048) :
    (elems v).getD i 0 = if i < 1024 then loHalf (v.getD i 0) else hiHalf (v.getD (i - 1024) 0) := by
  rw [elems, getD_append_of_length i 0 (by simpa using hv)]
  split
  · exact getD_map_of_lt _ _ _ (by omega)
  · exact getD_map_of_lt _ _ _ (by omega)

/-- 2,048 elements put into lanes are the elements of those lanes. -/
theorem elems_unelems {h : List Half} (hl : h.length = 2048) : elems (unelems h) = h := by
  have hlo : (unelems h).map loHalf = h.take 1024 := by
    rw [unelems, List.map_map]
    change ((h.take 1024).zip (h.drop 1024)).map (fun p => loHalf (mkLane p.1 p.2)) = _
    simp only [loHalf_mkLane]
    exact List.map_fst_zip (by simp [hl])
  have hhi : (unelems h).map hiHalf = h.drop 1024 := by
    rw [unelems, List.map_map]
    change ((h.take 1024).zip (h.drop 1024)).map (fun p => hiHalf (mkLane p.1 p.2)) = _
    simp only [hiHalf_mkLane]
    exact List.map_snd_zip (by simp [hl])
  rw [elems, hlo, hhi, List.take_append_drop]

/-! ## The write mask -/

@[simp] theorem maskMerge_length {α : Type} (z : α) (m : BitVec 2048) (zm : Bool) (old new : List α) :
    (maskMerge z m zm old new).length = min old.length new.length := by
  simp [maskMerge]

/-- An enabled element has its result; a disabled one keeps its value or is zero (R165). -/
theorem getD_maskMerge {α : Type} {z : α} {m : BitVec 2048} {zm : Bool} {old new : List α} {i : Nat} (a : α)
    (ho : i < old.length) (hn : i < new.length) :
    (maskMerge z m zm old new).getD i a = if m.getLsbD i then new.getD i a else if zm then z else old.getD i a := by
  rw [List.getD_eq_getElem _ _ (by simpa using ⟨ho, hn⟩), List.getD_eq_getElem _ _ ho, List.getD_eq_getElem _ _ hn]
  simp [maskMerge]

/-- The sum of the powers of two that a predicate names has their bits. -/
theorem testBit_sum_two_pow (b : Nat → Bool) (n : Nat) :
    (List.range n).foldl (fun acc i => if b i then acc + 2 ^ i else acc) 0 < 2 ^ n ∧
      ∀ j, ((List.range n).foldl (fun acc i => if b i then acc + 2 ^ i else acc) 0).testBit j = (decide (j < n) && b j) := by
  induction n with
  | zero => simp
  | succ n ih =>
    obtain ⟨hlt, hbit⟩ := ih
    rw [List.range_succ, List.foldl_append, List.foldl_cons, List.foldl_nil]
    set acc := (List.range n).foldl (fun acc i => if b i then acc + 2 ^ i else acc) 0
    have hpow : 2 ^ (n + 1) = 2 ^ n + 2 ^ n := by rw [Nat.pow_succ, Nat.mul_two]
    refine ⟨by split <;> omega, fun j => ?_⟩
    rcases Nat.lt_trichotomy j n with hj | rfl | hj
    · have hj' : j < n + 1 := by omega
      split
      · rw [Nat.add_comm, Nat.testBit_two_pow_add_gt hj, hbit]
        simp [hj, hj']
      · rw [hbit]
        simp [hj, hj']
    · split
      case isTrue hb => rw [Nat.add_comm, Nat.testBit_two_pow_add_eq, hbit]; simp [hb]
      case isFalse hb => rw [hbit]; simp [hb]
    · have hbig : (if b n = true then acc + 2 ^ n else acc) < 2 ^ j :=
        lt_of_lt_of_le (by split <;> omega) (Nat.pow_le_pow_right (by decide) hj)
      rw [Nat.testBit_lt_two_pow hbig]
      simp [show ¬ j < n + 1 by omega]

/-- The first `n` bits of a mask are the new ones, the others the old ones. -/
theorem getLsbD_maskOf {n j : Nat} (old : BitVec 2048) (b : Nat → Bool) (hj : j < 2048) :
    (maskOf n old b).getLsbD j = if n ≤ j then old.getLsbD j else b j := by
  obtain ⟨hlt, hbit⟩ := testBit_sum_two_pow b n
  rw [maskOf, BitVec.getLsbD_ofNat, Nat.add_comm, Nat.mul_comm, Nat.testBit_two_pow_mul_add _ hlt, hbit, Nat.testBit_div_two_pow]
  by_cases h : j < n
  · simp [hj, h]
  · simp [hj, h, Nat.not_lt.1 h, BitVec.getLsbD, Nat.sub_add_cancel (Nat.not_lt.1 h)]

end Sys2Proof.Machine
end

section
/-! SUPPORT. The instructions of the Vector Engine as commands: the engine that takes one, and what its writes of V[VD] leave. -/

namespace Sys2Proof.Machine

variable {s : State} {k : VeSt} {c op : Nat} {f : VEWord} {i : Instr} {g : Nat → VEWord → State → VeRes} {r : VeSt → VeSt}

/-! ## The engine that takes an instruction -/

/-- Two changes of a Vector Engine that agree on it as it stands leave the same state. -/
theorem State.onVe_congr {g h : VeSt → VeSt} (e : g (s.cluster c).ve = h (s.cluster c).ve) : s.onVe c g = s.onVe c h := by
  have hmodify : s.clusters.modify c (fun k => { k with ve := g k.ve }) = s.clusters.modify c (fun k => { k with ve := h k.ve }) := by
    refine List.ext_getElem? fun j => ?_
    rw [List.getElem?_modify, List.getElem?_modify]
    by_cases hj : c = j
    · subst hj
      cases hk : s.clusters[c]? with
      | none => rfl
      | some k =>
        have hcluster : s.cluster c = k := by rw [State.cluster, List.getD_eq_getElem?_getD, hk, Option.getD_some]
        rw [hcluster] at e
        simp [e]
    · simp [hj]
  exact congrArg (fun l => s.onClusters (fun _ => l)) hmodify

theorem VeTakes.word (h : VeTakes s c op f) : veWordOk op f = true := by
  obtain ⟨-, -, hword⟩ := h
  exact hword

/-- The Vector Engine that takes an instruction has its registers whole (R156). -/
theorem VeTakes.ok (h : VeTakes s c op f) : (s.cluster c).ve.Ok := by
  obtain ⟨⟨hlen, hok⟩, hfree, -⟩ := h
  have hc : c < s.clusters.length := by
    simp only [State.veFree, State.clusterUp, Bool.and_eq_true, decide_eq_true_eq] at hfree
    omega
  rw [State.cluster, List.getD_eq_getElem _ _ hc]
  exact hok _ (List.getElem_mem hc)

/-- An instruction that the engine takes changes the registers and moves on. -/
theorem exec_of_veTakes (h : VeTakes s c op f)
    (hi : exec i s = veOne c (veGuard op f g) s) (hg : g c f s = veSet c r s) :
    exec i s = .next (s.onVe c (fun k => { r k with pc := k.pc + 1 })) := by
  obtain ⟨-, hfree, hword⟩ := h
  rw [hi, veOne, if_pos hfree, veGuard, if_pos hword, hg]
  rfl

/-- A word that passes its checks keeps the rules of its single operation (R182). -/
theorem veWordOk_extra (h : veWordOk op f = true) : veExtra op f = true := by
  rw [veWordOk] at h
  split at h
  · exact absurd h (by decide)
  · exact (Bool.and_eq_true_iff.1 h).2

/-! ## Operands -/

theorem VeSt.Ok.vr_length (h : k.Ok) (i : Nat) : (k.vr i).length = 1024 := by
  rw [VeSt.vr]
  by_cases hi : i < k.v.length
  · rw [List.getD_eq_getElem _ _ hi]
    exact h.lanes _ (List.getElem_mem hi)
  · rw [List.getD_eq_default _ _ (Nat.not_lt.1 hi), List.length_replicate]

theorem VeSt.Ok.b32_length (h : k.Ok) : (k.b32 f).length = 1024 := by
  rw [VeSt.b32]
  split
  · exact List.length_replicate
  · exact h.vr_length _

theorem VeSt.getD_b32 (k : VeSt) (f : VEWord) {j : Nat} (hj : j < 1024) : (k.b32 f).getD j 0 = k.laneB f j := by
  rw [VeSt.b32, VeSt.laneB]
  split
  · rw [List.getD_eq_getElem _ _ (List.length_replicate ▸ hj), List.getElem_replicate]
  · rfl

/-! ## Results -/

/-- Lanes written under the write mask (R165). -/
theorem VeSt.Ok.merged32 {new : List Word} {res : Nat → Word} (h : k.Ok) (hlen : new.length = 1024)
    (hres : ∀ j < 1024, new.getD j 0 = res j) : k.Merged32 f res (maskMerge 0 (k.wm f) f.zm (k.vr f.vd.toNat) new) := by
  have hold := h.vr_length f.vd.toNat
  refine ⟨by simp [hold, hlen], fun j hj => ?_⟩
  rw [getD_maskMerge 0 (by omega) (by omega), hres j hj]

/-- 16-bit elements written under the write mask (R157, R165). -/
theorem VeSt.Ok.merged16 {new : List Half} {res : Nat → Half} (h : k.Ok) (hlen : new.length = 2048)
    (hres : ∀ j < 2048, new.getD j 0 = res j) :
    k.Merged16 f res (unelems (maskMerge 0 (k.wm f) f.zm (elems (k.vr f.vd.toNat)) new)) := by
  have hold : (elems (k.vr f.vd.toNat)).length = 2048 := by simp [h.vr_length]
  have hlen' : (maskMerge 0 (k.wm f) f.zm (elems (k.vr f.vd.toNat)) new).length = 2048 := by simp [hold, hlen]
  refine ⟨unelems_length hlen', fun j hj => ?_⟩
  rw [elems_unelems hlen', getD_maskMerge 0 (by omega) (by omega), hres j hj]

/-- An instruction that writes lanes to V[VD] under the write mask. -/
theorem writes32_of_put32 {new : List Word} {res : Nat → Word} (h : VeTakes s c op f)
    (hi : exec i s = veOne c (veGuard op f g) s) (hg : g c f s = veSet c r s)
    (hr : r (s.cluster c).ve = (s.cluster c).ve.put32 f new) (hlen : new.length = 1024)
    (hres : ∀ j < 1024, new.getD j 0 = res j) : Writes32 i c f s res := by
  refine ⟨_, h.ok.merged32 hlen hres, (exec_of_veTakes h hi hg).trans (congrArg Host.Outcome.next (State.onVe_congr ?_))⟩
  simp only [hr]
  rfl

/-- An instruction that writes 16-bit elements to V[VD] under the write mask. -/
theorem writes16_of_put16 {new : List Half} {res : Nat → Half} (h : VeTakes s c op f)
    (hi : exec i s = veOne c (veGuard op f g) s) (hg : g c f s = veSet c r s)
    (hr : r (s.cluster c).ve = (s.cluster c).ve.put16 f new) (hlen : new.length = 2048)
    (hres : ∀ j < 2048, new.getD j 0 = res j) : Writes16 i c f s res := by
  refine ⟨_, h.ok.merged16 hlen hres, (exec_of_veTakes h hi hg).trans (congrArg Host.Outcome.next (State.onVe_congr ?_))⟩
  simp only [hr]
  rfl

/-- The elements of one half of V[VD] written under the write mask, the other half kept (R162, R187). -/
theorem VeSt.Ok.putHalf_eq {new : List Half} (half : Bool) (h : k.Ok) (hlen : new.length = 1024) :
    ∃ v : List Word, v.length = 1024 ∧ k.putHalf f (if half then 1 else 0) new = { k with v := k.v.set f.vd.toNat v } ∧
      ∀ j < 2048, (elems v).getD j 0 = if decide (1024 ≤ j) = half then
          (if (k.wm f).getLsbD j then new.getD (j % 1024) 0 else if f.zm then 0 else (elems (k.vr f.vd.toNat)).getD j 0)
        else (elems (k.vr f.vd.toNat)).getD j 0 := by
  set old := elems (k.vr f.vd.toNat) with hdef
  have hold : old.length = 2048 := by simp [hdef, h.vr_length]
  cases half
  case false =>
    set keep := maskMerge 0 (k.wm f) f.zm old (new ++ old.drop 1024) with hkeep
    have hklen : keep.length = 2048 := by simp [hkeep, hold, hlen]
    have hres : (keep.take 1024 ++ old.drop 1024).length = 2048 := by simp [hklen, hold]
    refine ⟨unelems (keep.take 1024 ++ old.drop 1024), unelems_length hres, rfl, fun j hj => ?_⟩
    rw [elems_unelems hres, getD_take_append_drop _ _ _ (by omega)]
    by_cases hhalf : j < 1024
    · rw [if_pos hhalf, if_pos (by simpa using hhalf), hkeep, getD_maskMerge 0 (by omega) (by simp [hlen, hold]; omega),
        getD_append_of_length j 0 hlen, if_pos hhalf, Nat.mod_eq_of_lt hhalf]
    · rw [if_neg hhalf, if_neg (by simpa using hhalf)]
  case true =>
    set keep := maskMerge 0 (k.wm f) f.zm old (old.take 1024 ++ new) with hkeep
    have hklen : keep.length = 2048 := by simp [hkeep, hold, hlen]
    have hres : (old.take 1024 ++ keep.drop 1024).length = 2048 := by simp [hklen, hold]
    refine ⟨unelems (old.take 1024 ++ keep.drop 1024), unelems_length hres, rfl, fun j hj => ?_⟩
    rw [elems_unelems hres, getD_take_append_drop _ _ _ (by omega)]
    by_cases hhalf : j < 1024
    · rw [if_pos hhalf, if_neg (by simpa using hhalf)]
    · rw [if_neg hhalf, if_pos (by simpa using hhalf), hkeep, getD_maskMerge 0 (by omega) (by simp [hlen, hold]; omega),
        getD_append_of_length (n := 1024) j 0 (by simp [hold]), if_neg hhalf, (by omega : j % 1024 = j - 1024)]

end Sys2Proof.Machine
end

section
/-! SUPPORT. Conversions between lanes and link codes (R89, R110 to R112, R162): the lists that the instructions write, lane by lane. -/

namespace Sys2Proof.Machine

variable {s : State} {k : VeSt} {c : Nat} {f : VEWord}

/-! ## The low byte of a lane -/

theorem setLowByte_toNat (w : Word) (b : Nat) : (setLowByte w b).toNat = w.toNat / 256 * 256 + b % 256 := by
  rw [setLowByte, BitVec.toNat_ofNat]
  omega

/-- A replaced low byte leaves the upper 24 bits. -/
theorem setLowByte_div (w : Word) (b : Nat) : (setLowByte w b).toNat / 256 = w.toNat / 256 := by
  rw [setLowByte_toNat]
  omega

theorem setLowByte_mod (w : Word) (b : Nat) : (setLowByte w b).toNat % 256 = b % 256 := by
  rw [setLowByte_toNat]
  omega

theorem setLowByte_intByte_mod (w : Word) (x : Int) : ((setLowByte w (intByte x)).toNat % 256 : Nat) = x % 256 := by
  rw [setLowByte_mod, intByte]
  omega

/-! ## CVT, PACK, UNPK -/

theorem writes32_cvt (h : VeTakes s c 0x20 f) : Writes32 (.cvt c f) c f s (fun j => let k := (s.cluster c).ve
    if f.imm.getLsbD 0 then to32 (fvInt (k.laneA f j).toInt) else toI32 (k.laneA f j)) := by
  have hva := h.ok.vr_length f.va.toNat
  exact writes32_of_put32 h rfl rfl rfl (by simp [hva]) fun j hj => getD_map_of_lt _ 0 0 (by omega)

theorem writes16_pack (h : VeTakes s c 0x21 f) : Writes16 (.pack c f) c f s (fun j => let k := (s.cluster c).ve
    let w := if j < 1024 then k.laneA f j else (k.vr f.vb.toNat).getD (j - 1024) 0
    if f.fmt = 1 then toB16 (dec32 w) else toF16 (dec32 w)) := by
  have hva := h.ok.vr_length f.va.toNat
  have hvb := h.ok.vr_length f.vb.toNat
  refine writes16_of_put16 h rfl rfl rfl (by simp [hva, hvb]) fun j hj => ?_
  rw [getD_map_of_lt _ 0 0 (by simp [hva, hvb]; omega), getD_append_of_length j 0 hva]
  rfl

theorem writes32_unpk (h : VeTakes s c 0x22 f) : Writes32 (.unpk c f) c f s (fun j => let k := (s.cluster c).ve
    let e := k.elemA f (if f.imm.getLsbD 0 then 1024 + j else j)
    enc32 (if f.fmt = 1 then decB16 e else decF16 e)) := by
  have hva := h.ok.vr_length f.va.toNat
  refine writes32_of_put32 h rfl rfl rfl (by simp [hva]) fun j hj => ?_
  rw [getD_map_of_lt _ 0 0 (by omega)]
  have helem : (s.cluster c).ve.elemA f (if f.imm.getLsbD 0 then 1024 + j else j) =
      if f.imm.getLsbD 0 then hiHalf ((s.cluster c).ve.laneA f j) else loHalf ((s.cluster c).ve.laneA f j) := by
    rw [VeSt.elemA, getD_elems hva (by split <;> omega)]
    split
    · simp [VeSt.laneA]
    · rfl
  simp only [helem]
  rfl

/-! ## LDQ -/

/-- The value that LDQ decodes from lane `j`, before it is rounded (R89, R112). -/
def VeSt.ldqLane (k : VeSt) (f : VEWord) (j : Nat) : Fv :=
  if f.imm.getLsbD 0 then linkDecode (dec32 (k.laneB f j)) (sInt 8 ((k.laneA f j).toNat % 256))
  else linkDecode (dec32 (k.laneB f j)) ((((k.laneA f j).toNat % 256 : Nat) : Int) - ((k.laneC f j).toNat % 256 : Nat))

/-- The values that LDQ decodes, before they are rounded. -/
def VeSt.ldqList (k : VeSt) (f : VEWord) : List Fv :=
  (((k.vr f.va.toNat).zip (k.b32 f)).zip (k.vr f.vc.toNat)).map (fun p =>
    let q := p.1.1.toNat % 256
    if f.imm.getLsbD 0 then linkDecode (dec32 p.1.2) (sInt 8 q)
    else linkDecode (dec32 p.1.2) ((q : Int) - (p.2.toNat % 256 : Nat)))

theorem VeSt.Ok.ldqList_length (h : k.Ok) : (k.ldqList f).length = 1024 := by
  simp [VeSt.ldqList, h.vr_length, h.b32_length]

theorem VeSt.Ok.getD_ldqList (h : k.Ok) {j : Nat} (hj : j < 1024) (a : Fv) : (k.ldqList f).getD j a = k.ldqLane f j := by
  have hva := h.vr_length f.va.toNat
  have hvc := h.vr_length f.vc.toNat
  have hb : (k.b32 f).length = 1024 := h.b32_length
  rw [VeSt.ldqList, getD_map_of_lt _ ((0, 0), 0) _ (by simp [hva, hvc, hb, hj]), getD_zip_of_lt _ _ (by simp [hva, hb, hj]) (by omega),
    getD_zip_of_lt _ _ (by omega) (by omega), VeSt.getD_b32 k f hj]
  rfl

/-- LDQ in FP32: every lane decoded and rounded once. -/
theorem writes32_ldq (h : VeTakes s c 0x25 f) (hfmt : f.fmt ≠ 1) :
    Writes32 (.ldq c f) c f s (fun j => to32 ((s.cluster c).ve.ldqLane f j)) := by
  have hlen : ((s.cluster c).ve.ldqList f).length = 1024 := h.ok.ldqList_length
  refine writes32_of_put32 (new := ((s.cluster c).ve.ldqList f).map to32) h rfl rfl (if_neg hfmt) (by simpa using hlen) fun j hj => ?_
  exact (getD_map_of_lt to32 fvZero 0 (by omega)).trans (congrArg to32 (h.ok.getD_ldqList hj _))

/-- LDQ in BF16: the lanes decoded into one half of V[VD], the other half kept. -/
theorem exec_ldq_half (h : VeTakes s c 0x25 f) (hfmt : f.fmt = 1) :
    let k := (s.cluster c).ve
    ∃ v, v.length = 1024 ∧
      (∀ j < 2048, (elems v).getD j 0 = if decide (1024 ≤ j) = f.imm.getLsbD 1 then
          (if (k.wm f).getLsbD j then toB16 (k.ldqLane f (j % 1024)) else if f.zm then 0 else (elems (k.vr f.vd.toNat)).getD j 0)
        else (elems (k.vr f.vd.toNat)).getD j 0) ∧
      exec (.ldq c f) s = .next (s.veWrote c f v) := by
  intro k
  have hlen : (k.ldqList f).length = 1024 := h.ok.ldqList_length
  obtain ⟨v, hv, hput, helems⟩ := h.ok.putHalf_eq (f := f) (new := (k.ldqList f).map toB16) (f.imm.getLsbD 1) (by simpa using hlen)
  refine ⟨v, hv, fun j hj => ?_, (exec_of_veTakes h rfl rfl).trans (congrArg Host.Outcome.next (State.onVe_congr ?_))⟩
  · have hlane : ((k.ldqList f).map toB16).getD (j % 1024) 0 = toB16 (k.ldqLane f (j % 1024)) :=
      (getD_map_of_lt toB16 fvZero 0 (by omega)).trans (congrArg toB16 (h.ok.getD_ldqList (by omega) _))
    rw [helems j hj, hlane]
  · simp only [if_pos hfmt]
    exact congrArg (fun x : VeSt => { x with pc := (s.cluster c).ve.pc + 1 }) hput

/-! ## LQU8 -/

/-- There is no code, or it lies outside 0 to 255. -/
def noU8 (o : Option Int) : Bool := match o with
  | none => true
  | some x => decide (x < 0 ∨ 255 < x)

/-- A lane of V[VD] with the code of its operands in the low byte; without one in 0 to 255 the byte is free (R110). -/
def lqu8Lane (d a b z : Word) (o : Option Int) : Word :=
  let free := (Config.freeLane 0x23 [a, b, z] 0).toNat
  match o with
  | some x => if noU8 (some x) then setLowByte d free else setLowByte d (intByte x)
  | none => setLowByte d free

theorem lqu8Lane_div (d a b z : Word) (o : Option Int) : (lqu8Lane d a b z o).toNat / 256 = d.toNat / 256 := by
  simp only [lqu8Lane]
  split
  · split <;> exact setLowByte_div _ _
  · exact setLowByte_div _ _

theorem lqu8Lane_mod (d a b z : Word) {o : Option Int} {x : Int} (ho : o = some x) (h0 : 0 ≤ x) (h255 : x ≤ 255) :
    ((lqu8Lane d a b z o).toNat % 256 : Nat) = x := by
  subst ho
  have hcode : ¬ noU8 (some x) = true := by
    rw [noU8, decide_eq_true_eq]
    omega
  simp only [lqu8Lane, if_neg hcode]
  rw [setLowByte_intByte_mod]
  omega

/-- The operands of LQU8, lane by lane. -/
def VeSt.lqu8Args (k : VeSt) (f : VEWord) : List ((Word × Word) × Word) :=
  ((k.vr f.va.toNat).zip (k.vr f.vb.toNat)).zip (k.vr f.vc.toNat)

/-- The codes of R110 before their range is checked. -/
def VeSt.lqu8Codes (k : VeSt) (f : VEWord) : List (Option Int) :=
  (k.lqu8Args f).map (fun p => codeU8 (dec32 p.1.1) (dec32 p.1.2) p.2.toInt)

/-- The lanes that LQU8 writes. -/
def VeSt.lqu8List (k : VeSt) (f : VEWord) : List Word :=
  ((k.vr f.vd.toNat).zip ((k.lqu8Codes f).zip (k.lqu8Args f))).map (fun p => lqu8Lane p.1 p.2.2.1.1 p.2.2.1.2 p.2.2.2 p.2.1)

/-- The code of lane `j` under R110, before its range is checked. -/
def VeSt.lqu8Code (k : VeSt) (f : VEWord) (j : Nat) : Option Int :=
  codeU8 (dec32 (k.laneA f j)) (dec32 ((k.vr f.vb.toNat).getD j 0)) (k.laneC f j).toInt

/-- The mask that LQU8 writes: the enabled lanes without a code in range. -/
def VeSt.lqu8Mask (k : VeSt) (f : VEWord) : BitVec 2048 :=
  let old := k.mr (f.imm.toNat % 8)
  maskOf 1024 old (fun j => if (k.wm f).getLsbD j then noU8 ((k.lqu8Codes f).getD j none) else if f.zm then false else old.getLsbD j)

/-- LQU8 writes its lanes and its mask. -/
theorem veLqu8_eq : veLqu8 c f s = veSet c (fun k => (k.put32 f (k.lqu8List f)).setM (f.imm.toNat % 8) (k.lqu8Mask f)) s := rfl

theorem VeSt.Ok.lqu8Args_length (h : k.Ok) : (k.lqu8Args f).length = 1024 := by
  simp [VeSt.lqu8Args, h.vr_length]

theorem VeSt.Ok.lqu8Codes_length (h : k.Ok) : (k.lqu8Codes f).length = 1024 := by
  simpa [VeSt.lqu8Codes] using h.lqu8Args_length (f := f)

theorem VeSt.Ok.lqu8List_length (h : k.Ok) : (k.lqu8List f).length = 1024 := by
  simp [VeSt.lqu8List, h.vr_length, h.lqu8Args_length, h.lqu8Codes_length]

theorem VeSt.Ok.getD_lqu8Args (h : k.Ok) {j : Nat} (hj : j < 1024) :
    (k.lqu8Args f).getD j ((0, 0), 0) = ((k.laneA f j, (k.vr f.vb.toNat).getD j 0), k.laneC f j) := by
  have hva := h.vr_length f.va.toNat
  have hvb := h.vr_length f.vb.toNat
  have hvc := h.vr_length f.vc.toNat
  rw [VeSt.lqu8Args, getD_zip_of_lt _ _ (by simp [hva, hvb, hj]) (by omega), getD_zip_of_lt _ _ (by omega) (by omega)]
  rfl

theorem VeSt.Ok.getD_lqu8Codes (h : k.Ok) {j : Nat} (hj : j < 1024) : (k.lqu8Codes f).getD j none = k.lqu8Code f j := by
  have hargs : (k.lqu8Args f).length = 1024 := h.lqu8Args_length
  rw [VeSt.lqu8Codes, getD_map_of_lt _ ((0, 0), 0) _ (by omega), h.getD_lqu8Args hj]
  rfl

theorem VeSt.Ok.getD_lqu8List (h : k.Ok) {j : Nat} (hj : j < 1024) : (k.lqu8List f).getD j 0 =
    lqu8Lane ((k.vr f.vd.toNat).getD j 0) (k.laneA f j) ((k.vr f.vb.toNat).getD j 0) (k.laneC f j) (k.lqu8Code f j) := by
  have hvd := h.vr_length f.vd.toNat
  have hargs : (k.lqu8Args f).length = 1024 := h.lqu8Args_length
  have hcodes : (k.lqu8Codes f).length = 1024 := h.lqu8Codes_length
  rw [VeSt.lqu8List, getD_map_of_lt _ (0, none, (0, 0), 0) _ (by simp [hvd, hargs, hcodes, hj]),
    getD_zip_of_lt _ _ (by omega) (by simp [hargs, hcodes, hj]), getD_zip_of_lt _ _ (by omega) (by omega), h.getD_lqu8Codes hj,
    h.getD_lqu8Args hj]

theorem VeSt.setM_eq (k : VeSt) (d : Nat) (m : BitVec 2048) : k.setM d m = { k with m := if d = 0 then k.m else k.m.set d m } := by
  rw [VeSt.setM]
  split <;> rfl

/-- LQU8: the codes in the low bytes of the enabled lanes, marked those that have none in range. -/
theorem exec_lqu8 (h : VeTakes s c 0x23 f) : ∃ v m, Lqu8Writes (s.cluster c).ve f v m ∧
    exec (.lqu8 c f) s = .next (s.onVe c (fun k => { k with
      v := k.v.set f.vd.toNat v
      m := if f.imm.toNat % 8 = 0 then k.m else k.m.set (f.imm.toNat % 8) m
      pc := k.pc + 1 })) := by
  set k := (s.cluster c).ve with hk
  have hok : k.Ok := h.ok
  obtain ⟨hlen, hlanes⟩ := hok.merged32 (f := f) hok.lqu8List_length fun j hj => hok.getD_lqu8List hj
  refine ⟨_, k.lqu8Mask f, ⟨hlen, fun j hj => ?_, fun j hj => ?_⟩,
    (exec_of_veTakes h rfl veLqu8_eq).trans (congrArg Host.Outcome.next (State.onVe_congr ?_))⟩
  · rw [hlanes j hj]
    split
    · exact ⟨lqu8Lane_div .., fun x hx h0 h255 => lqu8Lane_mod _ _ _ _ hx h0 h255⟩
    · rfl
  · rw [VeSt.lqu8Mask, getLsbD_maskOf _ _ hj]
    by_cases hhalf : j < 1024
    · rw [hok.getD_lqu8Codes hhalf]
      rfl
    · rw [if_pos (Nat.not_lt.1 hhalf), if_pos (Nat.not_lt.1 hhalf)]
  · rw [← hk]
    exact congrArg (fun x : VeSt => { x with pc := k.pc + 1 }) (VeSt.setM_eq (k.put32 f (k.lqu8List f)) (f.imm.toNat % 8) (k.lqu8Mask f))

/-! ## LQS8 -/

/-- A lane of V[VD] with the code of its operands in the low byte; without one the byte is free (R111). -/
def lqs8Lane (d a b : Word) : Word :=
  match codeS8 (dec32 a) (dec32 b) with
  | some x => setLowByte d (intByte x)
  | none => setLowByte d (Config.freeLane 0x24 [a, b] 0).toNat

theorem lqs8Lane_div (d a b : Word) : (lqs8Lane d a b).toNat / 256 = d.toNat / 256 := by
  rw [lqs8Lane]
  split <;> exact setLowByte_div _ _

theorem lqs8Lane_mod (d : Word) {a b : Word} {x : Int} (hx : codeS8 (dec32 a) (dec32 b) = some x) :
    ((lqs8Lane d a b).toNat % 256 : Nat) = x % 256 := by
  simp only [lqs8Lane, hx]
  exact setLowByte_intByte_mod _ _

/-- The scale of LQS8 is a scalar (R162). -/
theorem VeTakes.lqs8_scalar (h : VeTakes s c 0x24 f) : f.imm.getLsbD 28 = true := veWordOk_extra h.word

/-- LQS8: the codes in the low bytes of the enabled lanes. -/
theorem exec_lqs8 (h : VeTakes s c 0x24 f) : ∃ v, Lqs8Writes (s.cluster c).ve f v ∧ exec (.lqs8 c f) s = .next (s.veWrote c f v) := by
  have hvd := h.ok.vr_length f.vd.toNat
  have hva := h.ok.vr_length f.va.toNat
  obtain ⟨v, ⟨hlen, hlanes⟩, hexec⟩ : Writes32 (.lqs8 c f) c f s (fun j => let k := (s.cluster c).ve
      lqs8Lane ((k.vr f.vd.toNat).getD j 0) (k.laneA f j) (k.laneB f j)) := by
    refine writes32_of_put32 h rfl rfl rfl (by simp [hvd, hva]) fun j hj => ?_
    have hscale : (s.cluster c).ve.laneB f j = (s.cluster c).ve.sr (f.vb.toNat % 16) := if_pos h.lqs8_scalar
    rw [getD_map_of_lt _ (0, 0) _ (by simp [hvd, hva, hj]), getD_zip_of_lt _ _ (by omega) (by omega)]
    simp only [hscale]
    rfl
  refine ⟨v, ⟨hlen, fun j hj => ?_⟩, hexec⟩
  rw [hlanes j hj]
  split
  · exact ⟨lqs8Lane_div .., fun x hx => lqs8Lane_mod _ hx⟩
  · rfl

end Sys2Proof.Machine
end

section
namespace Sys2Proof.Machine

/-- Settles O10: each conversion writes its lanes under the write mask; LQU8 and LQS8 leave a byte free only where there is no code. -/
theorem veConvert : Obligations.VeConvert :=
  ⟨fun _ _ _ => ⟨writes32_cvt, writes16_pack, writes32_unpk, fun h => ⟨exec_ldq_half h, writes32_ldq h⟩⟩,
    fun _ _ _ => ⟨exec_lqu8, exec_lqs8⟩⟩

end Sys2Proof.Machine
end

section
/-! SUPPORT. What a near-memory command that meets no refusal and no uncorrectable word does (R264, R266): its reads leave the state, its
writes reach memory byte for byte, its completion is recorded. -/

namespace Sys2Proof.Machine

variable {s : State} {k dom : Nat} {l : List (Nat × Nat × Bool)}

theorem fit_of_length {n : Nat} {w : List Byte} (h : w.length = n) : fit n w = w := by
  rw [fit, List.take_append_of_le_length h.ge, List.take_of_length_le h.le]

/-! ## Reads and accesses that pass -/

/-- A read without a symbol in error leaves the state (R362). -/
theorem eccNote_clean (a : Nat) : eccNote a 0 s = s := rfl

theorem eccLost_clean : eccLost 0 = false := rfl

/-- Reads of the activation buffer that its owners let pass leave the state. -/
theorem actTouch_of_passes {l : List (Nat × Nat)} (st : Half) (h : ∀ r ∈ l, ∀ j < r.2, (s.nmu k).actPasses dom (r.1 + j) = true) :
    actTouch k dom l (s, st) = (s, st) := by
  induction l with
  | nil => rfl
  | cons r l ih =>
    obtain ⟨hr, hl⟩ := List.forall_mem_cons.1 h
    have hfind : (List.range r.2).find? (fun j => !(s.nmu k).actPasses dom (r.1 + j)) = none :=
      List.find?_eq_none.2 fun j hj => by simp [hr j (List.mem_range.1 hj)]
    rw [actTouch, List.foldl_cons, hfind]
    exact ih hl

/-- The state with other uncorrectable words. -/
def State.withPoison (p : List Nat) (s : State) : State := s.onMem (fun m => { m with poisoned := p })

@[simp] theorem State.passes_withPoison (p : List Nat) : (s.withPoison p).passes = s.passes :=
  funext fun _ => funext fun _ => funext fun _ => rfl

@[simp] theorem State.passes_onDev (f : Mem → Mem) : (s.onDev f).passes = s.passes :=
  funext fun _ => funext fun _ => funext fun _ => rfl

@[simp] theorem State.rangePasses_withPoison (p : List Nat) : (s.withPoison p).rangePasses = s.rangePasses := by
  funext d w a n
  rw [State.rangePasses, State.rangePasses, State.passes_withPoison]

theorem State.rangePoisoned_withPoison {p : List Nat} {a n : Nat} (hp : p ⊆ s.mem.poisoned) (h : s.rangePoisoned a n = false) :
    (s.withPoison p).rangePoisoned a n = false := by
  rw [State.rangePoisoned, List.any_eq_false] at h ⊢
  exact fun x hx => h x (hp hx)

theorem State.withPoison_self : s.withPoison s.mem.poisoned = s := rfl

/-- Poison that a write clears was there. -/
theorem clearPoison_eq (a n : Nat) : ∃ q ⊆ s.mem.poisoned, clearPoison a n s = s.withPoison q :=
  ⟨_, List.filter_subset_self _, rfl⟩

/-- One access that the firewall passes, clear of uncorrectable words where it reads, leaves the state but for the poison it clears. -/
theorem nmuTouch_cons_of_passes {r : Nat × Nat × Bool} (hpass : s.rangePasses dom r.2.2 (stackBase k + r.1) r.2.1 = true)
    (hclear : r.2.2 = false → s.rangePoisoned (stackBase k + r.1) r.2.1 = false) :
    ∃ q ⊆ s.mem.poisoned, nmuTouch k dom (r :: l) s = nmuTouch k dom l (s.withPoison q) := by
  have hsame : s.mem.poisoned ⊆ s.mem.poisoned := fun _ h => h
  by_cases hn : r.2.1 = 0
  · refine ⟨_, hsame, ?_⟩
    simp only [nmuTouch, List.foldl_cons, if_pos hn, State.withPoison_self]
  cases hw : r.2.2
  case true =>
    rw [hw] at hpass
    obtain ⟨q, hq, hclearing⟩ := clearPoison_eq (s := s) (stackBase k + r.1) r.2.1
    refine ⟨q, hq, ?_⟩
    simp only [nmuTouch, List.foldl_cons, if_neg hn, hw, hpass, Bool.not_true, Bool.false_eq_true, if_false, if_true, hclearing]
  case false =>
    rw [hw] at hpass
    refine ⟨_, hsame, ?_⟩
    simp only [nmuTouch, List.foldl_cons, if_neg hn, hw, hpass, hclear hw, Bool.not_true, Bool.false_eq_true, if_false,
      State.withPoison_self]

/-- Accesses that the firewall passes, the reads clear of uncorrectable words: the poison of written words is cleared, no more. -/
theorem nmuTouch_of_passes (hpass : ∀ r ∈ l, s.rangePasses dom r.2.2 (stackBase k + r.1) r.2.1 = true)
    (hclear : ∀ r ∈ l, r.2.2 = false → s.rangePoisoned (stackBase k + r.1) r.2.1 = false) :
    ∃ p ⊆ s.mem.poisoned, nmuTouch k dom l s = (s.withPoison p, stOk) := by
  induction l generalizing s with
  | nil => exact ⟨s.mem.poisoned, fun _ h => h, rfl⟩
  | cons r l ih =>
    obtain ⟨hr, hpass⟩ := List.forall_mem_cons.1 hpass
    obtain ⟨hrclear, hclear⟩ := List.forall_mem_cons.1 hclear
    obtain ⟨q, hq, hstep⟩ := nmuTouch_cons_of_passes (l := l) hr hrclear
    obtain ⟨p, hp, hrest⟩ := ih (s := s.withPoison q) (by simpa using hpass) fun x hx hread =>
      State.rangePoisoned_withPoison hq (hclear x hx hread)
    exact ⟨p, fun _ h => hq (hp h), hstep.trans hrest⟩

/-! ## Writes that pass -/

/-- Bytes written one by one, each where a test lets it, are written in their order where it lets all of them. -/
theorem foldl_write_of_all {ok : Nat → Bool} {b : List Byte} (a n : Nat) (d : Mem) (h : ∀ j < b.length, ok (a + (n + j)) = true) :
    (b.zipIdx n).foldl (fun (m : Mem) (p : Byte × Nat) => if ok (a + p.2) then MemOps.write m (a + p.2) p.1 else m) d =
      MemOps.writeN d (a + n) b := by
  induction b generalizing n d with
  | nil => rfl
  | cons x b ih =>
    have hx : ok (a + n) = true := h 0 (Nat.succ_pos _)
    simp only [List.zipIdx_cons, List.foldl_cons, if_pos hx]
    refine ih (n + 1) _ fun j hj => ?_
    rw [Nat.add_assoc n, Nat.add_comm 1]
    exact h (j + 1) (Nat.succ_lt_succ hj)

/-- Bytes that the firewall lets pass are written in their order. -/
theorem nmuWrite_of_passes {o : Nat} {b : List Byte} (h : ∀ j < b.length, s.passes dom true (stackBase k + o + j) = true) :
    nmuWrite k dom o b s = s.onDev (fun d => MemOps.writeN d (stackBase k + o) b) := by
  rw [nmuWrite]
  refine congrArg (fun f => s.onDev f) (funext fun d => ?_)
  have hfold := foldl_write_of_all (ok := s.passes dom true) (b := b) (stackBase k + o) 0 d (by simpa using h)
  rw [Nat.add_zero] at hfold
  exact hfold

theorem State.onDev_onDev (f g : Mem → Mem) : (s.onDev f).onDev g = s.onDev (fun d => g (f d)) := rfl

/-- Several runs of bytes written, one after the other. -/
def writeRuns (m : Mem) (l : List (Nat × List Byte)) : Mem := l.foldl (fun m p => MemOps.writeN m p.1 p.2) m

/-- Runs of bytes at offsets of a stack, at their device addresses. -/
def stackRuns (k : Nat) (l : List (Nat × List Byte)) : List (Nat × List Byte) := l.map (fun p => (stackBase k + p.1, p.2))

theorem foldl_nmuWrite_of_passes {l : List (Nat × List Byte)}
    (h : ∀ p ∈ l, ∀ j < p.2.length, s.passes dom true (stackBase k + p.1 + j) = true) :
    l.foldl (fun s p => nmuWrite k dom p.1 p.2 s) s = s.onDev (fun d => writeRuns d (stackRuns k l)) := by
  induction l generalizing s with
  | nil => rfl
  | cons p l ih =>
    obtain ⟨hp, hl⟩ := List.forall_mem_cons.1 h
    rw [List.foldl_cons, nmuWrite_of_passes hp, ih (by simpa only [State.passes_onDev] using hl), State.onDev_onDev]
    simp only [writeRuns, stackRuns, List.map_cons, List.foldl_cons]

/-- A byte outside every run reads as before. -/
theorem read_writeRuns_of_outside {m : Mem} {l : List (Nat × List Byte)} {y : Nat} (hwf : Memory.wf m = true)
    (h : ∀ p ∈ l, ¬(p.1 ≤ y ∧ y < p.1 + p.2.length)) : MemOps.read (writeRuns m l) y = MemOps.read m y := by
  induction l generalizing m with
  | nil => rfl
  | cons p l ih =>
    obtain ⟨hp, hl⟩ := List.forall_mem_cons.1 h
    exact (ih (wf_writeN _ _ hwf) hl).trans ((read_writeN _ _ _ hwf).trans (if_neg hp))

/-- Runs that rise without overlap read back byte for byte. -/
theorem read_writeRuns_of_mem {m : Mem} {l : List (Nat × List Byte)} {p : Nat × List Byte} {j : Nat} (hwf : Memory.wf m = true)
    (hd : l.Pairwise (fun p q => p.1 + p.2.length ≤ q.1)) (hp : p ∈ l) (hj : j < p.2.length) :
    MemOps.read (writeRuns m l) (p.1 + j) = p.2.getD j 0 := by
  induction l generalizing m with
  | nil => exact absurd hp List.not_mem_nil
  | cons q l ih =>
    obtain ⟨hq, hd⟩ := List.pairwise_cons.1 hd
    rcases List.mem_cons.1 hp with rfl | hp
    · have hrest := read_writeRuns_of_outside (m := MemOps.writeN m p.1 p.2) (l := l) (y := p.1 + j) (wf_writeN _ _ hwf)
        fun q hql => by have := hq q hql; omega
      refine hrest.trans ((read_writeN _ _ _ hwf).trans ?_)
      rw [if_pos ⟨Nat.le_add_right _ _, Nat.add_lt_add_left hj _⟩, Nat.add_sub_cancel_left]
    · exact ih (wf_writeN _ _ hwf) hd hp

/-! ## Completion -/

/-- A command that ends well is marked done in the plan that it ran under; memory, NMUs and clusters stay. -/
theorem planDone_of_ok {t : State} {e : Engine} (hplan : t.plan = s.plan) (h : s.runStatus e = stOk) :
    (planDone e stOk t).mem = t.mem ∧ (planDone e stOk t).nmus = t.nmus ∧ (planDone e stOk t).clusters = t.clusters := by
  rw [State.runStatus, ← hplan] at h
  rw [planDone]
  split
  case h_1 => exact ⟨rfl, rfl, rfl⟩
  case h_2 x hx =>
    rw [hx] at h
    have hst : x.status = stOk := h
    simp [hst]

theorem State.nmu_of_nmus {t : State} (h : t.nmus = s.nmus) : t.nmu k = s.nmu k := by
  rw [State.nmu, State.nmu, h]

/-- An NMU that exists reads as it was last changed. -/
theorem State.nmu_onNmu {f : NmuSt → NmuSt} (hk : k < s.nmus.length) : (s.onNmu k f).nmu k = f (s.nmu k) := by
  rw [State.nmu, State.nmu, State.onNmu_nmus, List.getD_eq_getElem _ _ (by simpa using hk), List.getD_eq_getElem _ _ hk,
    List.getElem_modify_eq]

theorem State.nmuUp_lt (h : s.nmuUp k = true) : k < 16 := by
  simp only [State.nmuUp, Bool.and_eq_true, decide_eq_true_eq] at h
  obtain ⟨⟨⟨hk, -⟩, -⟩, -⟩ := h
  exact hk

end Sys2Proof.Machine
end

section
/-! SUPPORT. KVPUT and KVSEAL (R115 to R118, R254, R273): what each writes of a page, and where. -/

namespace Sys2Proof.Machine

variable {s : State} {k : Nat} {w : List Byte}

/-- The state after a key-value command that has written `l` and counted itself, with the poison `p` left. -/
def State.kvWrote (s : State) (k : Nat) (w : List Byte) (l : List (Nat × List Byte)) (p : List Nat) : State :=
  ((s.withPoison p).onDev (fun d => writeRuns d (stackRuns k l))).onNmu k (atFinish w 0x1C stOk stOk)

@[simp] theorem State.kvWrote_plan (l : List (Nat × List Byte)) (p : List Nat) : (s.kvWrote k w l p).plan = s.plan := rfl

@[simp] theorem State.kvWrote_clusters (l : List (Nat × List Byte)) (p : List Nat) : (s.kvWrote k w l p).clusters = s.clusters := rfl

/-- What a key-value command that meets no refusal leaves, seen from `s`: its runs written, itself counted, the clusters as they were. -/
structure KvWrites (s : State) (k : Nat) (w : List Byte) (l : List (Nat × List Byte)) (u : State) : Prop where
  dev : u.mem.dev = writeRuns s.mem.dev (stackRuns k l)
  nmu : u.nmu k = atFinish w 0x1C stOk stOk (s.nmu k)
  clusters : u.clusters = s.clusters

/-- The command's completion in the plan leaves what it has written, and so does what it records of the page. -/
theorem kvWrites_planDone {l : List (Nat × List Byte)} {p : List Nat} (g : PagesSt → PagesSt) (hk : k < s.nmus.length)
    (hrun : s.runStatus (.att k) = stOk) :
    KvWrites s k w l (planDone (.att k) stOk ((s.kvWrote k w l p).onPages g)) := by
  obtain ⟨hmem, hnmus, hclusters⟩ := planDone_of_ok (s := s) (t := (s.kvWrote k w l p).onPages g)
    (by rw [State.onPages_plan, State.kvWrote_plan]) hrun
  rw [State.onPages_nmus] at hnmus
  refine ⟨?_, (State.nmu_of_nmus hnmus).trans (State.nmu_onNmu hk), ?_⟩
  · rw [hmem]
    rfl
  · rw [hclusters, State.onPages_clusters, State.kvWrote_clusters]

/-- A byte of a run reads as it was written. -/
theorem KvWrites.read_of_mem {l : List (Nat × List Byte)} {u : State} {q : Nat × List Byte} {j : Nat} (h : KvWrites s k w l u)
    (hwf : Memory.wf s.mem.dev = true) (hrise : (stackRuns k l).Pairwise (fun p q => p.1 + p.2.length ≤ q.1)) (hq : q ∈ l)
    (hj : j < q.2.length) : MemOps.read u.mem.dev (stackBase k + q.1 + j) = q.2.getD j 0 := by
  rw [h.dev]
  exact read_writeRuns_of_mem (p := (stackBase k + q.1, q.2)) hwf hrise (List.mem_map_of_mem hq) hj

/-- A byte outside every run reads as before. -/
theorem KvWrites.read_of_outside {l : List (Nat × List Byte)} {u : State} {a : Nat} (h : KvWrites s k w l u)
    (hwf : Memory.wf s.mem.dev = true) (hout : ∀ q ∈ l, ¬(stackBase k + q.1 ≤ a ∧ a < stackBase k + q.1 + q.2.length)) :
    MemOps.read u.mem.dev a = MemOps.read s.mem.dev a := by
  rw [h.dev]
  exact read_writeRuns_of_outside hwf (List.forall_mem_map.2 hout)

theorem KvWrites.attCount {l : List (Nat × List Byte)} {u : State} (h : KvWrites s k w l u) :
    (u.nmu k).attCount = (s.nmu k).attCount + 1 := by
  rw [h.nmu]
  rfl

theorem KvWrites.act {l : List (Nat × List Byte)} {u : State} (h : KvWrites s k w l u) : (u.nmu k).act = (s.nmu k).act := by
  rw [h.nmu]
  rfl

/-! ## KVPUT -/

/-- What KVPUT writes for the keys or values of one head: the stack offset of the token's slot, and the bytes (R115, R254). -/
def State.kvPutPart (s : State) (k : Nat) (w : List Byte) (i : Nat) : Nat × List Byte :=
  (fld w 8 8 + (i * 64 + fld w 1 1) * kvD w * 2,
    (List.range (2 * kvD w)).map (fun j => BitVec.ofNat 8 (s.actByte k (fld w 2 1 % 64) (fld w 0x10 4 + i * 2 * kvD w + j))))

/-- What KVPUT writes: for each head its key and its value. -/
def State.kvPutParts (s : State) (k : Nat) (w : List Byte) : List (Nat × List Byte) :=
  (List.range (2 * kvH w)).map (fun i => s.kvPutPart k w i)

theorem forall_mem_kvPutParts {P : Nat × List Byte → Prop} :
    (∀ p ∈ s.kvPutParts k w, P p) ↔ ∀ i < 2 * kvH w, P (s.kvPutPart k w i) := by
  simp only [State.kvPutParts, List.forall_mem_map, List.mem_range]

theorem kvPutPart_mem {i : Nat} (hi : i < 2 * kvH w) : s.kvPutPart k w i ∈ s.kvPutParts k w :=
  List.mem_map_of_mem (List.mem_range.2 hi)

@[simp] theorem kvPutPart_length (i : Nat) : (s.kvPutPart k w i).2.length = 2 * kvD w := by
  rw [State.kvPutPart, List.length_map, List.length_range]

/-- The bytes of a part are those of the activation buffer that its owners let the command read. -/
theorem getD_kvPutPart {i j : Nat} (hi : i < 2 * kvH w) (hj : j < 2 * kvD w)
    (hact : ∀ j < 4 * (kvH w * kvD w), (s.nmu k).actPasses (fld w 2 1 % 64) (fld w 0x10 4 + j) = true) :
    (s.kvPutPart k w i).2.getD j 0 = MemOps.read (s.nmu k).act (fld w 0x10 4 + i * 2 * kvD w + j) := by
  have hin : i * 2 * kvD w + j < 4 * (kvH w * kvD w) := by
    have hrow : (i + 1) * (2 * kvD w) ≤ 2 * kvH w * (2 * kvD w) := Nat.mul_le_mul_right _ hi
    have hall : 2 * kvH w * (2 * kvD w) = 4 * (kvH w * kvD w) := by ring
    rw [Nat.add_mul, Nat.one_mul, ← Nat.mul_assoc] at hrow
    omega
  have hpass := hact _ hin
  rw [← Nat.add_assoc] at hpass
  rw [State.kvPutPart, getD_map_of_lt _ 0 0 (by simpa using hj), List.getD_eq_getElem _ _ (by simpa using hj), List.getElem_range,
    State.actByte, if_pos hpass, BitVec.ofNat_toNat, BitVec.setWidth_eq]

/-- The slots of a token rise from head to head without overlap. -/
theorem stackRuns_kvPutParts_rise : (stackRuns k (s.kvPutParts k w)).Pairwise (fun p q => p.1 + p.2.length ≤ q.1) := by
  rw [stackRuns, State.kvPutParts, List.map_map, List.pairwise_map]
  refine List.pairwise_lt_range.imp fun {i i'} hlt => ?_
  have hslot : (i * 64 + fld w 1 1 + 1) * (kvD w * 2) ≤ (i' * 64 + fld w 1 1) * (kvD w * 2) := Nat.mul_le_mul_right _ (by omega)
  rw [Nat.add_mul, Nat.one_mul, ← Nat.mul_assoc, ← Nat.mul_assoc] at hslot
  simp only [Function.comp_apply, kvPutPart_length]
  rw [State.kvPutPart, State.kvPutPart]
  omega

/-- KVPUT of a well-formed word on an open page, where every access passes: the parts are written, and the engine counts the command. -/
theorem exec_kvput_of_passes (hw : w.length = 32) (hk : k < s.nmus.length) (hup : s.nmuUp k = true) (hop : fld w 0 1 = 0x13)
    (hfail : kvFail w = none) (hopen : s.frameSealed k (fld w 8 8) = false) (hrun : s.runStatus (.att k) = stOk)
    (hact : ∀ j < 4 * (kvH w * kvD w), (s.nmu k).actPasses (fld w 2 1 % 64) (fld w 0x10 4 + j) = true)
    (hrange : ∀ p ∈ s.kvPutParts k w, s.rangePasses (fld w 2 1 % 64) true (stackBase k + p.1) p.2.length = true)
    (hpass : ∀ p ∈ s.kvPutParts k w, ∀ j < p.2.length, s.passes (fld w 2 1 % 64) true (stackBase k + p.1 + j) = true) :
    ∃ u, exec (.kvput k w 0) s = .next u ∧ KvWrites s k w (s.kvPutParts k w) u := by
  obtain ⟨p, -, htouch⟩ := nmuTouch_of_passes (k := k) (dom := fld w 2 1 % 64) (s := s)
    (l := (s.kvPutParts k w).map (fun p => (p.1, p.2.length, true))) (List.forall_mem_map.2 hrange)
    (List.forall_mem_map.2 fun _ _ h => nomatch h)
  have hread : actTouch k (fld w 2 1 % 64) [(fld w 0x10 4, 4 * (kvH w * kvD w))] (s.withPoison p, stOk) = (s.withPoison p, stOk) :=
    actTouch_of_passes stOk (List.forall_mem_singleton.2 hact)
  have hwrite := foldl_nmuWrite_of_passes (s := s.withPoison p) (by simpa only [State.passes_withPoison] using hpass)
  refine ⟨_, ?_, kvWrites_planDone (p := p) id hk hrun⟩
  change execKvput k w 0 s = _
  rw [execKvput, fit_of_length hw, if_neg (by simp [hup]), if_neg (by simp [hop, hfail, hopen])]
  simp only [State.kvPutParts, State.kvPutPart] at htouch hwrite ⊢
  simp only [eccNote_clean, eccLost_clean, htouch, hread, hwrite, hrun]
  rfl

/-! ## KVSEAL -/

/-- The page body that KVSEAL writes, with the scales (R116 to R118). -/
def State.sealedBody (s : State) (k : Nat) (w : List Byte) : List Byte × List Word :=
  sealBody (kvH w) (kvD w) (fun i => s.nmuByte k (fld w 2 1 % 64) (fld w 8 8 + i))

/-- The trailer that stands in a page, as the command's domain reads it. -/
def State.oldTrailer (s : State) (k : Nat) (w : List Byte) : List Byte :=
  (List.range 128).map (fun i => BitVec.ofNat 8 (s.nmuByte k (fld w 2 1 % 64) (fld w 8 8 + kvH w * kvD w * 256 + i)))

/-- The trailer that KVSEAL writes over the one that stands: FILL 64, the sealed flag, the scales and their CRC (R273). -/
def State.sealedTrailer (s : State) (k : Nat) (w : List Byte) : List Byte :=
  let old := s.oldTrailer k w
  let head := old.take 5 ++ [64, BitVec.ofNat 8 (fld old 6 1 / 2 * 2 + 1)] ++ (old.drop 7).take 53
  let scale := fit 64 (bytesOfWords (s.sealedBody k w).2)
  head ++ natLe 4 (crc32c (head ++ scale)).toNat ++ scale

/-- What KVSEAL writes: stack offsets and bytes. -/
def State.kvSealParts (s : State) (k : Nat) (w : List Byte) : List (Nat × List Byte) :=
  [(fld w 8 8, (s.sealedBody k w).1), (fld w 8 8 + kvH w * kvD w * 256, s.sealedTrailer k w)]

/-- A sealed body takes a byte for each element: half of what the open page takes. -/
theorem sealedBody_length : (s.sealedBody k w).1.length = kvH w * kvD w * 256 / 2 := by
  have hcount : kvH w * (128 * kvD w) = 128 * (kvH w * kvD w) := Nat.mul_left_comm ..
  have hlen : (s.sealedBody k w).1.length = kvH w * (128 * kvD w) := by
    simp [State.sealedBody, sealBody, List.length_flatMap, Function.comp_def]
  omega

theorem fit_length (n : Nat) (l : List Byte) : (fit n l).length = n := by
  simp [fit, zeros]

theorem sealedTrailer_length : (s.sealedTrailer k w).length = 128 := by
  simp [State.sealedTrailer, State.oldTrailer, fit_length, natLe]

/-- FILL and the flags stand behind the first five bytes of the old trailer. -/
theorem sealedTrailer_eq : ∃ z, s.sealedTrailer k w =
    (s.oldTrailer k w).take 5 ++ 64 :: BitVec.ofNat 8 (fld (s.oldTrailer k w) 6 1 / 2 * 2 + 1) :: z := by
  simp only [State.sealedTrailer, List.append_assoc, List.cons_append, List.nil_append]
  exact ⟨_, rfl⟩

theorem oldTrailer_take_length : ((s.oldTrailer k w).take 5).length = 5 := by
  simp [State.oldTrailer]

/-- The trailer's FILL is 64 (R273). -/
theorem sealedTrailer_fill : (s.sealedTrailer k w).getD 5 0 = 64 := by
  obtain ⟨z, htrailer⟩ := sealedTrailer_eq (s := s) (k := k) (w := w)
  rw [htrailer, getD_append_of_length 5 0 oldTrailer_take_length]
  rfl

/-- The trailer's sealed flag is set (R273). -/
theorem sealedTrailer_flag : ((s.sealedTrailer k w).getD 6 0).getLsbD 0 = true := by
  obtain ⟨z, htrailer⟩ := sealedTrailer_eq (s := s) (k := k) (w := w)
  rw [htrailer, getD_append_of_length 6 0 oldTrailer_take_length]
  change (BitVec.ofNat 8 (fld (s.oldTrailer k w) 6 1 / 2 * 2 + 1)).getLsbD 0 = true
  rw [BitVec.getLsbD_ofNat, Nat.testBit_zero]
  simp

/-- The page in a frame of a stack recorded as full and sealed (R273). -/
def PagesSt.sealFrame (p : PagesSt) (k off : Nat) : PagesSt := { p with
  sets := updAll p.sets (fun x => x.locs.any (fun l => l.tier == 1 && l.stack == k && l.off == off))
    (fun x => { x with
      fill := 64
      locs := updAll x.locs (fun l => l.tier == 1 && l.stack == k && l.off == off) (fun l => { l with sealed := true }) }) }

/-- Body and trailer do not overlap. -/
theorem stackRuns_kvSealParts_rise : (stackRuns k (s.kvSealParts k w)).Pairwise (fun p q => p.1 + p.2.length ≤ q.1) := by
  have hbody := sealedBody_length (s := s) (k := k) (w := w)
  simp only [stackRuns, State.kvSealParts, List.map_cons, List.map_nil, List.pairwise_cons, List.forall_mem_singleton, hbody]
  exact ⟨by omega, fun _ h => absurd h List.not_mem_nil, List.Pairwise.nil⟩

/-- KVSEAL of a well-formed word on an open FP8 page, where every access passes: body and trailer are written, and the engine counts the
command. -/
theorem exec_kvseal_of_passes (hw : w.length = 32) (hk : k < s.nmus.length) (hup : s.nmuUp k = true) (hop : fld w 0 1 = 0x14)
    (hfail : kvFail w = none) (hopen : s.frameSealed k (fld w 8 8) = false)
    (hfp8 : s.frameBf16 k (fld w 8 8) = false) (hrun : s.runStatus (.att k) = stOk)
    (hread : s.rangePasses (fld w 2 1 % 64) false (stackBase k + fld w 8 8) (kvH w * kvD w * 256 + 128) = true)
    (hbody : s.rangePasses (fld w 2 1 % 64) true (stackBase k + fld w 8 8) (kvH w * kvD w * 256 / 2) = true)
    (htrailer : s.rangePasses (fld w 2 1 % 64) true (stackBase k + (fld w 8 8 + kvH w * kvD w * 256)) 128 = true)
    (hclear : s.rangePoisoned (stackBase k + fld w 8 8) (kvH w * kvD w * 256 + 128) = false)
    (hpass : ∀ p ∈ s.kvSealParts k w, ∀ j < p.2.length, s.passes (fld w 2 1 % 64) true (stackBase k + p.1 + j) = true) :
    ∃ u, exec (.kvseal k w 0) s = .next u ∧ KvWrites s k w (s.kvSealParts k w) u := by
  obtain ⟨p, -, htouch⟩ := nmuTouch_of_passes (s := s) (k := k) (dom := fld w 2 1 % 64)
    (l := [(fld w 8 8, kvH w * kvD w * 256 + 128, false), (fld w 8 8, kvH w * kvD w * 256 / 2, true),
      (fld w 8 8 + kvH w * kvD w * 256, 128, true)]) (by simp [hread, hbody, htrailer]) (by simpa using hclear)
  have hwrite := foldl_nmuWrite_of_passes (s := s.withPoison p) (by simpa only [State.passes_withPoison] using hpass)
  refine ⟨_, ?_, kvWrites_planDone (p := p) (fun q => q.sealFrame k (fld w 8 8)) hk hrun⟩
  change execKvseal k w 0 s = _
  rw [execKvseal, fit_of_length hw, if_neg (by simp [hup]), if_neg (by simp [hop, hfail, hopen, hfp8])]
  simp only [State.kvSealParts, State.sealedTrailer, State.oldTrailer, State.sealedBody, List.foldl_cons, List.foldl_nil] at hwrite ⊢
  simp only [eccNote_clean, eccLost_clean, htouch, hwrite, hrun]
  rfl

end Sys2Proof.Machine
end

section
namespace Sys2Proof.Machine

/-- Settles O27: the bytes of a command that meets no refusal rise in runs without overlap, so that each reads back and no other changes. -/
theorem keyValueWrites : Obligations.KeyValueWrites := by
  intro k w s hw hinv hup hfail hrun
  have hwf := hinv.mem.bytes
  obtain ⟨hcount, -⟩ := hinv.nmus
  have hk : k < s.nmus.length := hcount ▸ State.nmuUp_lt hup
  dsimp only
  constructor
  case left =>
    intro hop hopen hact hrange hpass
    have hat (i : Nat) : stackBase k + (s.kvPutPart k w i).1 = stackBase k + fld w 8 8 + (i * 64 + fld w 1 1) * kvD w * 2 :=
      (Nat.add_assoc ..).symm
    obtain ⟨u, hexec, hu⟩ := exec_kvput_of_passes hw hk hup hop hfail hopen hrun hact
      (forall_mem_kvPutParts.2 fun i hi => by simpa only [kvPutPart_length, hat, Nat.add_zero] using hrange i hi)
      (forall_mem_kvPutParts.2 fun i hi => by simpa only [kvPutPart_length, hat] using hpass i hi)
    refine ⟨u, hexec, fun i hi j hj => ?_, fun a ha => ?_, hu.attCount, hu.act, hu.clusters⟩
    · have hj' : j < (s.kvPutPart k w i).2.length := by rwa [kvPutPart_length]
      rw [← hat, hu.read_of_mem hwf stackRuns_kvPutParts_rise (kvPutPart_mem hi) hj', getD_kvPutPart hi hj hact]
    · refine hu.read_of_outside hwf (forall_mem_kvPutParts.2 fun i hi hin => ?_)
      rw [kvPutPart_length, hat] at hin
      obtain ⟨j, rfl⟩ := Nat.exists_eq_add_of_le hin.1
      exact ha i hi j (Nat.add_lt_add_iff_left.1 hin.2) rfl
  case right =>
    intro hop hopen hfp8 hpass hread hbody htrailer hclear
    have hbodyLen : (s.sealedBody k w).1.length = kvH w * kvD w * 256 / 2 := sealedBody_length
    have htrailerLen : (s.sealedTrailer k w).length = 128 := sealedTrailer_length
    have hat : stackBase k + (fld w 8 8 + kvH w * kvD w * 256) = stackBase k + fld w 8 8 + kvH w * kvD w * 256 :=
      (Nat.add_assoc ..).symm
    obtain ⟨u, hexec, hu⟩ := exec_kvseal_of_passes hw hk hup hop hfail hopen hfp8 hrun hread hbody (by rwa [hat]) hclear (by
      simp only [State.kvSealParts, List.forall_mem_cons, hbodyLen, htrailerLen, hat]
      exact ⟨fun j hj => (hpass _ (by omega) (by omega)).2, fun j hj => (hpass _ (by omega) (by omega)).2,
        fun _ h => absurd h List.not_mem_nil⟩)
    have hwritten (q : Nat × List Byte) (hq : q ∈ s.kvSealParts k w) (j : Nat) (hj : j < q.2.length) :=
      hu.read_of_mem hwf stackRuns_kvSealParts_rise hq hj
    simp only [State.kvSealParts, List.forall_mem_cons, hbodyLen, htrailerLen, hat] at hwritten
    obtain ⟨hbodyRead, htrailerRead, -⟩ := hwritten
    refine ⟨u, hexec, hbodyRead, ?_, ?_, fun a hout htout => hu.read_of_outside hwf ?_, hu.attCount, hu.clusters⟩
    · rw [htrailerRead 5 (by decide), sealedTrailer_fill]
      rfl
    · rw [htrailerRead 6 (by decide), sealedTrailer_flag]
    · simp only [State.kvSealParts, List.forall_mem_cons, hbodyLen, htrailerLen, hat]
      exact ⟨hout, htout, fun _ h => absurd h List.not_mem_nil⟩

end Sys2Proof.Machine
end

section
/-! SUPPORT. The way of an array command (R142 to R155): a command that begins, and one whose streams hold every byte that it needs. -/

namespace Sys2Proof.Machine

variable {s : State} {c : Nat} {w : List Byte} {r : ArrRun}

/-! ## A cluster as it was last changed -/

/-- A cluster that does not read as at reset is one of the module's. -/
theorem State.lt_of_cluster_ne_reset (h : s.cluster c ≠ .reset) : c < s.clusters.length := by
  by_contra hc
  exact h (List.getD_eq_default _ _ (not_lt.1 hc))

/-- A cluster that exists reads as it was last changed. -/
theorem State.cluster_onCluster {f : ClusterSt → ClusterSt} (hc : c < s.clusters.length) : (s.onCluster c f).cluster c = f (s.cluster c) := by
  rw [State.cluster, State.cluster, State.onCluster_clusters, List.getD_eq_getElem _ _ (by simpa using hc),
    List.getD_eq_getElem _ _ hc, List.getElem_modify_eq]

/-- A change of a cluster that exists puts the changed cluster in its place. -/
theorem State.onCluster_eq_const {f : ClusterSt → ClusterSt} (hc : c < s.clusters.length) :
    s.onCluster c f = s.onCluster c (fun _ => f (s.cluster c)) := by
  have hmodify : s.clusters.modify c f = s.clusters.modify c (fun _ => f (s.cluster c)) := by
    rw [List.modify_eq_set_get f hc, List.set_eq_modify, State.cluster, List.getD_eq_getElem _ _ hc, List.get_eq_getElem]
  exact congrArg (fun l => s.onClusters (fun _ => l)) hmodify

/-- Of two changes of a cluster the later one that puts a cluster in its place stands. -/
theorem State.onCluster_onCluster_const (f : ClusterSt → ClusterSt) (q : ClusterSt) :
    (s.onCluster c f).onCluster c (fun _ => q) = s.onCluster c (fun _ => q) := by
  simp only [State.onCluster, State.onClusters, List.modify_modify_eq]
  rfl

/-! ## The streams of a command -/

/-- A command whose word passes its checks has a slice, and so reads at least one line of its code stream (R141, R144). -/
theorem arrCodeBytes_pos (h : arrWordFail w = none) : 0 < arrCodeBytes w := by
  have hcheck : (decide (1 ≤ arrSlices w) && decide (arrSlices w ≤ 128)) = true :=
    (firstFail_eq_none_iff _).1 h _ (List.mem_of_getElem? (i := 5) rfl)
  have hslices : 1 ≤ arrSlices w := of_decide_eq_true (Bool.and_eq_true_iff.1 hcheck).1
  have hlines : 0 < arrSlices w * (1 + arrBcols w) := Nat.mul_pos hslices (by omega)
  rw [arrCodeBytes]
  omega

/-- A cluster that holds bytes of a stream is one of the module's. -/
theorem State.lt_of_bufBytes {num : Nat} (h : 0 < (bufBytes (s.cluster c).inb num).length) : c < s.clusters.length :=
  State.lt_of_cluster_ne_reset fun hreset => by
    rw [hreset] at h
    exact Nat.lt_irrefl 0 h

/-! ## Begin and end -/

/-- A command that has begun and read nothing yet. -/
def ArrRun.new (w : List Byte) (ecc : Bool) : ArrRun := { word := w, ecc := ecc, codes := [], acts := [] }

/-- The bytes of its code stream that a command has, released banks and held ones. -/
def ArrRun.codesAt (r : ArrRun) (k : ClusterSt) : List Byte := r.codes ++ bufBytes k.inb (fld r.word 0x10 2)

/-- The bytes of its activation stream that a command has. -/
def ArrRun.actsAt (r : ArrRun) (k : ClusterSt) : List Byte := r.acts ++ bufBytes k.inb (fld r.word 0x12 2)

/-- The status that a command ends with: the first invalid input's, or INTEGRITY_FAIL for an error of its own stores. -/
def ArrRun.statusAt (r : ArrRun) (k : ClusterSt) : Half :=
  firstBad [bufStatus k.inb (fld r.word 0x10 2), bufStatus k.inb (fld r.word 0x12 2), if r.ecc then stIntegrityFail else stOk]

/-- The cluster after a command has ended there. -/
def ArrRun.ended (r : ArrRun) (k : ClusterSt) : ClusterSt :=
  let code := fld r.word 0x10 2
  let act := fld r.word 0x12 2
  let out := fld r.word 0x14 2
  { k with
    arr := { arrFinish r.word (r.statusAt k) (arrAnyPoison r.word (r.actsAt k)) k.arr with
      curMode := BitVec.ofNat 2 (arrMode r.word), eccUe := k.arr.eccUe || r.ecc,
      domFault := k.arr.domFault || bufRefused k.inb code || bufRefused k.inb act },
    arrRun := none, outUnit := kset k.outUnit out 1,
    inb := bufFree (bufFree k.inb code) act,
    outb := outPut out (arrDrain r.word (r.codesAt k) (r.actsAt k)) (r.statusAt k) k.outb }

/-- Neither stream of a command that has every byte ends short or is waited for, so the command ends (R144 to R154). -/
theorem arrGo_of_arrived (hr : (s.cluster c).arrRun = some r)
    (hcodes : arrCodeBytes r.word ≤ (r.codesAt (s.cluster c)).length) (hacts : arrActBytes r.word ≤ (r.actsAt (s.cluster c)).length) :
    arrGo c s = planDone (.cluster c) (r.statusAt (s.cluster c)) (s.onCluster c (fun _ => r.ended (s.cluster c))) := by
  have hc : c < s.clusters.length := State.lt_of_cluster_ne_reset fun hreset => by
    rw [hreset] at hr
    exact absurd hr nofun
  rw [ArrRun.codesAt] at hcodes
  rw [ArrRun.actsAt] at hacts
  simp only [arrGo, hr, not_lt.2 hcodes, not_lt.2 hacts, decide_false, Bool.false_and, Bool.or_self, Bool.false_eq_true, or_self, if_false]
  rw [State.onCluster_eq_const hc]
  rfl

/-- With both inputs valid and no error of its stores a command ends with OK. -/
theorem ArrRun.statusAt_of_valid {k : ClusterSt} (hecc : r.ecc = false) (hcode : bufStatus k.inb (fld r.word 0x10 2) = stOk)
    (hact : bufStatus k.inb (fld r.word 0x12 2) = stOk) : r.statusAt k = stOk := by
  simp [ArrRun.statusAt, firstBad, hecc, hcode, hact]

/-- A well-formed command that is not empty begins on a cluster that is free, and goes on as far as its banks let it (R141 to R143). -/
theorem exec_matmul_of_begins (ecc : Bool) (hup : s.clusterUp c = true) (hve : (s.cluster c).veRegs.busy = false)
    (hscan : (s.cluster c).scan.busy = false) (hrun : (s.cluster c).arrRun = none) (hw : w.length = 32)
    (hfail : arrWordFail w = none) (hempty : arrEmpty w = false) :
    exec (.matmul c w ecc) s = .next (arrGo c (s.onCluster c (fun k => { k with arrRun := some (.new w ecc) }))) := by
  change execMatmul c w ecc s = _
  simp [execMatmul, fit_of_length hw, hup, hve, hscan, hrun, hfail, hempty, ArrRun.new]

end Sys2Proof.Machine
end

section
namespace Sys2Proof.Machine

/-- Settles O22: a command that begins with every byte there ends in the same step, and the streams it holds show that its cluster exists. -/
theorem arrayCommand : Obligations.ArrayCommand := by
  refine ⟨?matmul, fun c n s hup => if_pos hup⟩
  intro c w s k acts codes hup hve hscan hrun hw hfail hempty hcodes hacts hcode hact
  have hc : c < s.clusters.length := State.lt_of_bufBytes (lt_of_lt_of_le (arrCodeBytes_pos hfail) hcodes)
  have hbegun : (s.onCluster c (fun k => { k with arrRun := some (.new w false) })).cluster c = { k with arrRun := some (.new w false) } :=
    State.cluster_onCluster hc
  have hst : (ArrRun.new w false).statusAt { k with arrRun := some (.new w false) } = stOk := ArrRun.statusAt_of_valid rfl hcode hact
  refine ⟨(ArrRun.new w false).ended { k with arrRun := some (.new w false) }, ?_, rfl, rfl, rfl, rfl, hst, rfl, rfl, rfl, rfl, ?_, rfl⟩
  · rw [exec_matmul_of_begins false hup hve hscan hrun hw hfail hempty, arrGo_of_arrived (congrArg ClusterSt.arrRun hbegun)
      (by rw [hbegun]; exact hcodes) (by rw [hbegun]; exact hacts), hbegun, hst, State.onCluster_onCluster_const]
  · rw [ArrRun.ended, hst]
    rfl

end Sys2Proof.Machine
end

section
/-! SUPPORT. The lists that the lane-wise instructions of the Vector Engine write, lane by lane, and their results in mask and scalar
registers (R156 to R158, R161, R165). -/

namespace Sys2Proof.Machine

variable {s : State} {k : VeSt} {c op : Nat} {f : VEWord} {i : Instr} {g : Nat → VEWord → State → VeRes} {r : VeSt → VeSt}

/-! ## Lanes of derived lists -/

/-- A lane of two lists combined. -/
theorem getD_zipWith_of_lt {α β γ : Type} (h : α → β → γ) {l : List α} {l' : List β} {j : Nat} (a : α) (b : β) (d : γ)
    (hl : j < l.length) (hl' : j < l'.length) : (List.zipWith h l l').getD j d = h (l.getD j a) (l'.getD j b) := by
  rw [List.getD_eq_getElem _ _ (by simpa using ⟨hl, hl'⟩), List.getElem_zipWith, List.getD_eq_getElem _ _ hl,
    List.getD_eq_getElem _ _ hl']

/-- A lane of a list mapped with the lane's number beside it. -/
theorem getD_map_zipIdx_of_lt {α β : Type} (h : α × Nat → β) {l : List α} {j : Nat} (a : α) (b : β) (hl : j < l.length) :
    (l.zipIdx.map h).getD j b = h (l.getD j a, j) := by
  rw [getD_map_of_lt h (a, 0) b (by simpa using hl), List.getD_eq_getElem _ _ (by simpa using hl), List.getElem_zipIdx,
    List.getD_eq_getElem _ _ hl, Nat.zero_add]

/-- A lane of a list made from the lanes' numbers. -/
theorem getD_map_range_of_lt {β : Type} (h : Nat → β) {n j : Nat} (b : β) (hj : j < n) : ((List.range n).map h).getD j b = h j := by
  rw [getD_map_of_lt h 0 b (by simpa using hj), List.getD_eq_getElem _ _ (by simpa using hj), List.getElem_range]

/-! ## Operands as 16-bit elements -/

theorem VeSt.Ok.elems_vr_length (h : k.Ok) (j : Nat) : (elems (k.vr j)).length = 2048 := by
  rw [elems_length, h.vr_length]

theorem VeSt.Ok.b16_length (h : k.Ok) : (k.b16 f).length = 2048 := by
  rw [VeSt.b16]
  split
  · exact List.length_replicate
  · exact h.elems_vr_length _

theorem VeSt.getD_b16 (k : VeSt) (f : VEWord) {j : Nat} (hj : j < 2048) : (k.b16 f).getD j 0 = k.elemB f j := by
  rw [VeSt.b16, VeSt.elemB]
  split
  · rw [List.getD_eq_getElem _ _ (List.length_replicate ▸ hj), List.getElem_replicate]
  · rfl

/-! ## Two sources combined, lane by lane -/

theorem VeSt.Ok.getD_zipWith_lanes {γ : Type} (h : k.Ok) (o : Word → Word → γ) (d : γ) {j : Nat} (hj : j < 1024) :
    (List.zipWith o (k.vr f.va.toNat) (k.b32 f)).getD j d = o (k.laneA f j) (k.laneB f j) := by
  rw [getD_zipWith_of_lt o 0 0 d (by rwa [h.vr_length]) (by rwa [h.b32_length]), k.getD_b32 f hj]
  rfl

theorem VeSt.Ok.getD_zipWith_elems {γ : Type} (h : k.Ok) (o : Half → Half → γ) (d : γ) {j : Nat} (hj : j < 2048) :
    (List.zipWith o (elems (k.vr f.va.toNat)) (k.b16 f)).getD j d = o (k.elemA f j) (k.elemB f j) := by
  rw [getD_zipWith_of_lt o 0 0 d (by rwa [h.elems_vr_length]) (by rwa [h.b16_length]), k.getD_b16 f hj]
  rfl

theorem VeSt.Ok.getD_zip_lanes (h : k.Ok) {j : Nat} (hj : j < 1024) :
    ((k.vr f.va.toNat).zip (k.b32 f)).getD j (0, 0) = (k.laneA f j, k.laneB f j) := by
  rw [getD_zip_of_lt 0 0 (by rwa [h.vr_length]) (by rwa [h.b32_length]), k.getD_b32 f hj]
  rfl

theorem VeSt.Ok.getD_zip_elems (h : k.Ok) {j : Nat} (hj : j < 2048) :
    ((elems (k.vr f.va.toNat)).zip (k.b16 f)).getD j (0, 0) = (k.elemA f j, k.elemB f j) := by
  rw [getD_zip_of_lt 0 0 (by rwa [h.elems_vr_length]) (by rwa [h.b16_length]), k.getD_b16 f hj]
  rfl

theorem VeSt.Ok.zip_lanes_length (h : k.Ok) : ((k.vr f.va.toNat).zip (k.b32 f)).length = 1024 := by
  simp [h.vr_length, h.b32_length]

theorem VeSt.Ok.zip_elems_length (h : k.Ok) : ((elems (k.vr f.va.toNat)).zip (k.b16 f)).length = 2048 := by
  simp [h.vr_length, h.b16_length]

/-- A lane-wise operation of two sources, on 32-bit lanes. -/
theorem writes32_zipWith (o : Word → Word → Word) (h : VeTakes s c op f) (hi : exec i s = veOne c (veGuard op f g) s)
    (hg : g c f s = veSet c r s)
    (hr : let k := (s.cluster c).ve; r k = k.put32 f (List.zipWith o (k.vr f.va.toNat) (k.b32 f))) :
    Writes32 i c f s (fun j => o ((s.cluster c).ve.laneA f j) ((s.cluster c).ve.laneB f j)) :=
  writes32_of_put32 h hi hg hr (by simp [h.ok.vr_length, h.ok.b32_length]) fun _ hj => h.ok.getD_zipWith_lanes o 0 hj

/-- A lane-wise operation of two sources, on 16-bit elements. -/
theorem writes16_zipWith (o : Half → Half → Half) (h : VeTakes s c op f) (hi : exec i s = veOne c (veGuard op f g) s)
    (hg : g c f s = veSet c r s)
    (hr : let k := (s.cluster c).ve; r k = k.put16 f (List.zipWith o (elems (k.vr f.va.toNat)) (k.b16 f))) :
    Writes16 i c f s (fun j => o ((s.cluster c).ve.elemA f j) ((s.cluster c).ve.elemB f j)) :=
  writes16_of_put16 h hi hg hr (by simp [h.ok.vr_length, h.ok.b16_length]) fun _ hj => h.ok.getD_zipWith_elems o 0 hj

/-! ## Results in mask and scalar registers -/

/-- M[VD] after `n` result bits under the write mask (R165). -/
def VeSt.maskAfter (k : VeSt) (f : VEWord) (n : Nat) (b : Nat → Bool) : BitVec 2048 :=
  let old := k.mr (f.vd.toNat % 8)
  maskOf n old (fun j => if (k.wm f).getLsbD j then b j else if f.zm then false else old.getLsbD j)

theorem VeSt.putMask_eq (k : VeSt) (f : VEWord) (n : Nat) (b : Nat → Bool) :
    k.putMask f n b = { k with m := if f.vd.toNat % 8 = 0 then k.m else k.m.set (f.vd.toNat % 8) (k.maskAfter f n b) } :=
  k.setM_eq _ _

/-- An instruction that writes `n` bits of M[VD] under the write mask. -/
theorem writesMask_of_putMask {n : Nat} {b res : Nat → Bool} (h : VeTakes s c op f) (hi : exec i s = veOne c (veGuard op f g) s)
    (hg : g c f s = veSet c r s) (hr : r (s.cluster c).ve = (s.cluster c).ve.putMask f n b) (hres : ∀ j < n, b j = res j) :
    WritesMask i c f s n res := by
  refine ⟨(s.cluster c).ve.maskAfter f n b, fun j hj => ?_,
    (exec_of_veTakes h hi hg).trans (congrArg Host.Outcome.next (State.onVe_congr ?_))⟩
  · rw [VeSt.maskAfter, getLsbD_maskOf _ _ hj]
    by_cases hn : n ≤ j
    · rw [if_pos hn, if_pos hn]
    · rw [if_neg hn, if_neg hn]
      simp only [hres j (Nat.not_le.1 hn)]
  · simp only [hr, VeSt.putMask_eq]

/-- An instruction that writes S[VD[3:0]]. -/
theorem writesScalar_of_setS {w : Word} (h : VeTakes s c op f) (hi : exec i s = veOne c (veGuard op f g) s)
    (hg : g c f s = veSet c r s) (hr : r (s.cluster c).ve = (s.cluster c).ve.setS (f.vd.toNat % 16) w) :
    WritesScalar i c f s w := by
  refine (exec_of_veTakes h hi hg).trans (congrArg Host.Outcome.next (State.onVe_congr ?_))
  simp only [hr]
  rfl

end Sys2Proof.Machine
end

section
/-! SUPPORT. Arithmetic, comparison, selection and integers of the Vector Engine (R161, R162, R165): one lemma for each shape of
instruction. -/

namespace Sys2Proof.Machine

variable {s : State} {c op : Nat} {f : VEWord} {i : Instr} {g : Nat → VEWord → State → VeRes}

/-- What the lane-wise operations of two sources write, by FMT. -/
theorem writes_veBin {o : Fv → Fv → Fv} {io : Word → Word → Word} (h : VeTakes s c op f)
    (hi : exec i s = veOne c (veGuard op f g) s) (hg : g c f s = veBin c f o io s) :
    let k := (s.cluster c).ve
    (f.fmt = 1 → Writes16 i c f s (fun j => toB16 (o (decB16 (k.elemA f j)) (decB16 (k.elemB f j))))) ∧
    (f.fmt = 3 → Writes32 i c f s (fun j => io (k.laneA f j) (k.laneB f j))) ∧
    (f.fmt ≠ 1 → f.fmt ≠ 3 → Writes32 i c f s (fun j => to32 (o (dec32 (k.laneA f j)) (dec32 (k.laneB f j))))) := by
  refine ⟨fun h1 => ?bf16, fun h3 => ?i32, fun h1 h3 => ?fp32⟩
  case bf16 => exact writes16_zipWith (bf2 o) h hi hg (if_pos h1)
  case i32 => exact writes32_zipWith io h hi hg ((if_neg (by rw [h3]; decide)).trans (if_pos h3))
  case fp32 => exact writes32_zipWith (fp2 o) h hi hg ((if_neg h1).trans (if_neg h3))

/-- What the I32 operations write. -/
theorem writes_veInt {o : Word → Word → Word} (h : VeTakes s c op f) (hi : exec i s = veOne c (veGuard op f g) s)
    (hg : g c f s = veInt c f o s) :
    Writes32 i c f s (fun j => o ((s.cluster c).ve.laneA f j) ((s.cluster c).ve.laneB f j)) :=
  writes32_zipWith o h hi hg rfl

/-- What the lane trees write (R167). -/
theorem writesScalar_veTree {o : (Nat → Bool) → List Word → Word} (h : VeTakes s c op f)
    (hi : exec i s = veOne c (veGuard op f g) s) (hg : g c f s = veTree c f o s) :
    let k := (s.cluster c).ve
    WritesScalar i c f s (o (fun j => (k.wm f).getLsbD j) (k.vr f.va.toNat)) :=
  writesScalar_of_setS h hi hg rfl

/-- What ABS and NEG write, by FMT. -/
theorem writes_veUn {o : Fv → Fv} (h : VeTakes s c op f) (hi : exec i s = veOne c (veGuard op f g) s)
    (hg : g c f s = veUn c f o s) :
    let k := (s.cluster c).ve
    (f.fmt = 1 → Writes16 i c f s (fun j => toB16 (o (decB16 (k.elemA f j))))) ∧
    (f.fmt ≠ 1 → Writes32 i c f s (fun j => to32 (o (dec32 (k.laneA f j))))) := by
  have hlanes := h.ok.vr_length f.va.toNat
  have helems := h.ok.elems_vr_length f.va.toNat
  refine ⟨fun h1 => ?bf16, fun h1 => ?fp32⟩
  case bf16 =>
    exact writes16_of_put16 h hi hg (if_pos h1) (by rw [List.length_map, helems]) fun j hj => getD_map_of_lt _ 0 0 (by omega)
  case fp32 =>
    exact writes32_of_put32 h hi hg (if_neg h1) (by simpa using hlanes) fun j hj => getD_map_of_lt _ 0 0 (by omega)

/-- FMA rounds once, after the sum. -/
theorem writes_fma (h : VeTakes s c 0x04 f) :
    let k := (s.cluster c).ve
    (f.fmt = 1 → Writes16 (.fma c f) c f s (fun j =>
      toB16 (fvAdd (fvMul (decB16 (k.elemA f j)) (decB16 (k.elemB f j))) (decB16 (k.elemC f j))))) ∧
    (f.fmt ≠ 1 → Writes32 (.fma c f) c f s (fun j => fma32 (k.laneA f j) (k.laneB f j) (k.laneC f j))) := by
  have hlanes := h.ok.zip_lanes_length (f := f)
  have helems := h.ok.zip_elems_length (f := f)
  have hlanesC := h.ok.vr_length f.vc.toNat
  have helemsC := h.ok.elems_vr_length f.vc.toNat
  refine ⟨fun h1 => ?bf16, fun h1 => ?fp32⟩
  case bf16 =>
    refine writes16_of_put16 h rfl rfl (if_pos h1) (by rw [List.length_zipWith, helems, helemsC]; rfl) fun j hj => ?_
    rw [getD_zipWith_of_lt _ (0, 0) 0 _ (by omega) (by omega), h.ok.getD_zip_elems hj]
    rfl
  case fp32 =>
    refine writes32_of_put32 h rfl rfl (if_neg h1) (by rw [List.length_zipWith, hlanes, hlanesC]; rfl) fun j hj => ?_
    rw [getD_zipWith_of_lt _ (0, 0) 0 _ (by omega) (by omega), h.ok.getD_zip_lanes hj]
    rfl

/-- What the comparisons write to M[VD], by FMT (R158). -/
theorem writes_veCmp {o : Fv → Fv → Bool} {io : Word → Word → Bool} (h : VeTakes s c op f)
    (hi : exec i s = veOne c (veGuard op f g) s) (hg : g c f s = veCmp c f o io s) :
    let k := (s.cluster c).ve
    (f.fmt = 1 → WritesMask i c f s 2048 (fun j => o (decB16 (k.elemA f j)) (decB16 (k.elemB f j)))) ∧
    (f.fmt = 3 → WritesMask i c f s 1024 (fun j => io (k.laneA f j) (k.laneB f j))) ∧
    (f.fmt ≠ 1 → f.fmt ≠ 3 → WritesMask i c f s 1024 (fun j => o (dec32 (k.laneA f j)) (dec32 (k.laneB f j)))) := by
  refine ⟨fun h1 => ?bf16, fun h3 => ?i32, fun h1 h3 => ?fp32⟩
  case bf16 => exact writesMask_of_putMask h hi hg (if_pos h1) fun j hj => h.ok.getD_zipWith_elems _ _ hj
  case i32 =>
    refine writesMask_of_putMask h hi hg (if_neg (by rw [h3]; decide)) fun j hj => ?_
    exact (h.ok.getD_zipWith_lanes _ _ hj).trans (if_pos h3)
  case fp32 =>
    refine writesMask_of_putMask h hi hg (if_neg h1) fun j hj => ?_
    exact (h.ok.getD_zipWith_lanes _ _ hj).trans (if_neg h3)

/-- SEL takes a lane of source A where the mask is set. -/
theorem writes_sel (h : VeTakes s c 0x14 f) :
    let k := (s.cluster c).ve
    (f.fmt = 1 → Writes16 (.sel c f) c f s (fun j =>
      if (k.mr (f.imm.toNat % 8)).getLsbD j then k.elemA f j else k.elemB f j)) ∧
    (f.fmt ≠ 1 → Writes32 (.sel c f) c f s (fun j =>
      if (k.mr (f.imm.toNat % 8)).getLsbD j then k.laneA f j else k.laneB f j)) := by
  have hlanes := h.ok.zip_lanes_length (f := f)
  have helems := h.ok.zip_elems_length (f := f)
  refine ⟨fun h1 => ?bf16, fun h1 => ?fp32⟩
  case bf16 =>
    refine writes16_of_put16 h rfl rfl (if_pos h1) (by rw [List.length_map, List.length_zipIdx, helems]) fun j hj => ?_
    rw [getD_map_zipIdx_of_lt _ (0, 0) 0 (by omega), h.ok.getD_zip_elems hj]
  case fp32 =>
    refine writes32_of_put32 h rfl rfl (if_neg h1) (by rw [List.length_map, List.length_zipIdx, hlanes]) fun j hj => ?_
    rw [getD_map_zipIdx_of_lt _ (0, 0) 0 (by omega), h.ok.getD_zip_lanes hj]

/-- PERM takes the lane of A that B names. -/
theorem writes_perm (h : VeTakes s c 0x30 f) :
    let k := (s.cluster c).ve
    (f.fmt = 1 → Writes16 (.perm c f) c f s (fun j => k.elemA f (((elems (k.vr f.vb.toNat)).getD j 0).toNat % 2048))) ∧
    (f.fmt ≠ 1 → Writes32 (.perm c f) c f s (fun j => k.laneA f (((k.vr f.vb.toNat).getD j 0).toNat % 1024))) := by
  have hlanes := h.ok.vr_length f.vb.toNat
  have helems := h.ok.elems_vr_length f.vb.toNat
  refine ⟨fun h1 => ?bf16, fun h1 => ?fp32⟩
  case bf16 =>
    exact writes16_of_put16 h rfl rfl (if_pos h1) (by rw [List.length_map, helems]) fun j hj => getD_map_of_lt _ 0 0 (by omega)
  case fp32 =>
    exact writes32_of_put32 h rfl rfl (if_neg h1) (by rw [List.length_map, hlanes]) fun j hj => getD_map_of_lt _ 0 0 (by omega)

/-- IOTA writes the lanes' numbers. -/
theorem writes32_iota (h : VeTakes s c 0x46 f) : Writes32 (.iota c f) c f s (fun j => BitVec.ofNat 32 j) :=
  writes32_of_put32 h rfl rfl rfl (by simp) fun _ hj => getD_map_range_of_lt _ 0 hj

end Sys2Proof.Machine
end

section
namespace Sys2Proof.Machine

/-- Settles O5: the five operations have one shape, each with its operation of R162. -/
theorem veArith : Obligations.VeArith := by
  intro p hp c f s h
  simp only [List.mem_cons, List.not_mem_nil, or_false] at hp
  rcases hp with rfl | rfl | rfl | rfl | rfl <;> exact writes_veBin h rfl rfl

/-- Settles O6: FMA rounds once; ABS and NEG share a shape. -/
theorem veFmaAbsNeg : Obligations.VeFmaAbsNeg := by
  intro c f s
  refine ⟨writes_fma, fun p hp h => ?_⟩
  simp only [List.mem_cons, List.not_mem_nil, or_false] at hp
  rcases hp with rfl | rfl <;> exact writes_veUn h rfl rfl

/-- Settles O7: the four comparisons have one shape, each with its predicate. -/
theorem veCompare : Obligations.VeCompare := by
  intro p hp c f s h
  simp only [List.mem_cons, List.not_mem_nil, or_false] at hp
  rcases hp with rfl | rfl | rfl | rfl <;> exact writes_veCmp h rfl rfl

/-- Settles O8: each of the four writes all 2,048 bits. -/
theorem veMasksOnMasks : Obligations.VeMasksOnMasks := by
  intro p hp c f s h
  simp only [List.mem_cons, List.not_mem_nil, or_false] at hp
  rcases hp with rfl | rfl | rfl | rfl <;> exact writesMask_of_putMask h rfl rfl rfl fun _ _ => rfl

/-- Settles O9: by the lanes that SEL, PERM and IOTA write. -/
theorem veSelectPermute : Obligations.VeSelectPermute :=
  fun _ _ _ => ⟨writes_sel, writes_perm, writes32_iota⟩

/-- Settles O12: the six operations have one shape. -/
theorem veIntegers : Obligations.VeIntegers := by
  intro p hp c f s h
  simp only [List.mem_cons, List.not_mem_nil, or_false] at hp
  rcases hp with rfl | rfl | rfl | rfl | rfl | rfl <;> exact writes_veInt h rfl rfl

/-- Settles O14: each lane tree writes its result as a scalar. -/
theorem veLaneTree : Obligations.VeLaneTree := by
  intro p hp c f s h
  simp only [List.mem_cons, List.not_mem_nil, or_false] at hp
  rcases hp with rfl | rfl | rfl | rfl <;> exact writesScalar_veTree h rfl rfl

end Sys2Proof.Machine
end

section
/-! SUPPORT. The lane trees over disabled lanes (R167 to R169). -/

namespace Sys2Proof.Machine

/-- The lanes of `v` with `w` in the disabled ones. -/
def putDisabled (en : Nat → Bool) (w : Word) (v : List Word) : List Word := v.zipIdx.map (fun p => if en p.2 then p.1 else w)

/-- Lanes taken with their numbers after the disabled ones were replaced. -/
theorem map_zipIdx_putDisabled {α : Type} (en : Nat → Bool) (w : Word) (v : List Word) (h : Word × Nat → α) :
    (putDisabled en w v).zipIdx.map h = v.zipIdx.map (fun p => if en p.2 then h p else h (w, p.2)) := by
  refine List.ext_getElem (by simp [putDisabled]) fun j _ _ => ?_
  simp only [putDisabled, List.getElem_map, List.getElem_zipIdx, Nat.zero_add]
  split <;> rfl

/-- A tree over leaves that all enter as numbers is the tree over the vector with the disabled lanes' value in them, once that value is
its own number. -/
theorem treeVal_putDisabled (o : Word → Word → Word) (d w : Word) (en : Nat → Bool) (v : List Word) (hw : enc32 (dec32 w) = w) :
    treeVal o 10 d (v.zipIdx.map (fun p => if en p.2 then enc32 (dec32 p.1) else w)) =
      treeVal o 10 d ((putDisabled en w v).zipIdx.map (fun p => if true then enc32 (dec32 p.1) else w)) := by
  rw [map_zipIdx_putDisabled]
  simp only [if_true, hw]

theorem treeStage_all_none {α : Type} {o : Option α → Option α → Option α} (ho : o none none = none) :
    ∀ l : List (Option α), (∀ x ∈ l, x = none) → ∀ x ∈ treeStage o l, x = none
  | a :: b :: r, hl => by
    simp only [List.mem_cons, forall_eq_or_imp] at hl
    obtain ⟨rfl, rfl, hr⟩ := hl
    simp only [treeStage, List.mem_cons, forall_eq_or_imp]
    exact ⟨ho, treeStage_all_none ho r hr⟩
  | [_], hl => hl
  | [], hl => hl

theorem treeRun_all_none {α : Type} {o : Option α → Option α → Option α} (ho : o none none = none) (n : Nat) {l : List (Option α)}
    (hl : ∀ x ∈ l, x = none) : ∀ x ∈ treeRun o n l, x = none := by
  induction n generalizing l with
  | zero => exact hl
  | succ n ih => exact ih (treeStage_all_none ho l hl)

/-- A tree over no candidates leaves none. -/
theorem treeVal_all_none {α : Type} {o : Option α → Option α → Option α} (ho : o none none = none) (n : Nat) {l : List (Option α)}
    (hl : ∀ x ∈ l, x = none) : treeVal o n none l = none := by
  have hrun := treeRun_all_none ho n hl
  rw [treeVal]
  cases h : treeRun o n l with
  | nil => rfl
  | cons x r => exact hrun x (by simp [h])

/-- With every lane disabled RAMAX has no candidate (R168). -/
theorem laneArgMax_all_disabled {en : Nat → Bool} {v : List Word} (hen : ∀ j < v.length, en j = false) :
    laneArgMax en v = 0xFFFFFFFF := by
  have hnone : ∀ x ∈ v.zipIdx.map (fun p => if en p.2 then some (dec32 p.1, p.2) else none), x = none := by
    intro x hx
    obtain ⟨⟨w, j⟩, hp, rfl⟩ := List.mem_map.1 hx
    have hj : j < v.length := by simpa using List.snd_lt_of_mem_zipIdx hp
    simp [hen j hj]
  rw [laneArgMax, treeVal_all_none rfl 10 hnone]

/-- What stands in a disabled lane makes no difference to RAMAX (R168). -/
theorem laneArgMax_putDisabled (en : Nat → Bool) (w : Word) (v : List Word) : laneArgMax en v = laneArgMax en (putDisabled en w v) := by
  rw [laneArgMax, laneArgMax, map_zipIdx_putDisabled]
  congr 3
  funext p
  split <;> rfl

end Sys2Proof.Machine
end

section
/-! SUPPORT. Shuffles and special functions of the Vector Engine (R162, R187). -/

namespace Sys2Proof.Machine

variable {s : State} {c : Nat} {f : VEWord}

/-- A field of one bit. -/
theorem bitsOf_one (n lo : Nat) : bitsOf n lo 1 = if n.testBit lo then 1 else 0 := by
  rw [bitsOf, Nat.testBit_eq_decide_div_mod_eq]
  have hlt : n / 2 ^ lo % 2 < 2 := Nat.mod_lt _ (by decide)
  by_cases h : n / 2 ^ lo % 2 = 1
  · simp [h]
  · simp [h]
    omega

/-- The element that each of the six patterns names (R162). -/
theorem shufPick_eq (pat amt e j : Nat) : shufPick pat amt e j =
    if pat = 0 then some (false, (j + amt) % e) else if pat = 1 then some (false, e - 1 - j)
    else if pat = 2 then some (decide (j % 2 = 1), j / 2)
    else if pat = 3 then (if 2 * j < e then some (false, 2 * j) else none)
    else if pat = 4 then (if 2 * j + 1 < e then some (false, 2 * j + 1) else none)
    else if amt < e then some (false, amt) else none := by
  match pat with
  | 0 => rfl
  | 1 => rfl
  | 2 => rfl
  | 3 => rfl
  | 4 => rfl
  | n + 5 => rfl

/-- A word cut to fewer bits is the number cut to those bits. -/
theorem ofNat_toNat_ofNat {n m : Nat} (h : n ≤ m) (x : Nat) : BitVec.ofNat n (BitVec.ofNat m x).toNat = BitVec.ofNat n x := by
  refine BitVec.eq_of_toNat_eq ?_
  simp only [BitVec.toNat_ofNat]
  exact Nat.mod_mod_of_dvd x (Nat.pow_dvd_pow 2 h)

/-- The free value of a place that SHUF's pattern names no element for (log entry 8). -/
def VeSt.shufFree (k : VeSt) (f : VEWord) (j : Nat) : Word :=
  BitVec.ofNat 32 (Config.freeLane (0x31 + 256 * f.imm.toNat) (k.vr f.va.toNat) j).toNat

/-- The element that SHUF puts in place `j`, given what its pattern names for it. -/
def VeSt.shufElem (k : VeSt) (f : VEWord) (j : Nat) : Option (Bool × Nat) → Half
  | some (b, i) => (elems (k.vr (if b then f.vb.toNat else f.va.toNat))).getD i 0
  | none => BitVec.ofNat 16 (k.shufFree f j).toNat

/-- The lane that SHUF puts in place `j`, given what its pattern names for it. -/
def VeSt.shufLane (k : VeSt) (f : VEWord) (j : Nat) : Option (Bool × Nat) → Word
  | some (b, i) => (k.vr (if b then f.vb.toNat else f.va.toNat)).getD i 0
  | none => BitVec.ofNat 32 (k.shufFree f j).toNat

/-- SHUF on 16-bit elements. -/
theorem writes16_shuf (h : VeTakes s c 0x31 f) (h1 : f.fmt = 1) : Writes16 (.shuf c f) c f s (fun j =>
    (s.cluster c).ve.shufElem f j (shufPick (bitsOf f.imm.toNat 0 4) (bitsOf f.imm.toNat 4 12) 2048 j)) := by
  refine writes16_of_put16 h rfl rfl (if_pos h1) (by simp) fun j hj => ?_
  rw [getD_map_range_of_lt _ 0 hj]
  rcases shufPick (bitsOf f.imm.toNat 0 4) (bitsOf f.imm.toNat 4 12) 2048 j with _ | ⟨_ | _, i⟩
  case none => exact (ofNat_toNat_ofNat (by decide) _).symm
  case some.false => rfl
  case some.true => rfl

/-- SHUF on 32-bit lanes. -/
theorem writes32_shuf (h : VeTakes s c 0x31 f) (h1 : f.fmt ≠ 1) : Writes32 (.shuf c f) c f s (fun j =>
    (s.cluster c).ve.shufLane f j (shufPick (bitsOf f.imm.toNat 0 4) (bitsOf f.imm.toNat 4 12) 1024 j)) := by
  refine writes32_of_put32 h rfl rfl (if_neg h1) (by simp) fun j hj => ?_
  rw [getD_map_range_of_lt _ 0 hj]
  rcases shufPick (bitsOf f.imm.toNat 0 4) (bitsOf f.imm.toNat 4 12) 1024 j with _ | ⟨_ | _, i⟩
  case none => exact (ofNat_toNat_ofNat (by decide) _).symm
  case some.false => rfl
  case some.true => rfl

end Sys2Proof.Machine
end

section
namespace Sys2Proof.Machine

/-- Settles O55: each leaf is what the replaced lane enters as, and RAMAX looks at no disabled lane. -/
theorem laneTreeDisabled : Obligations.LaneTreeDisabled := by
  intro en v hv put
  refine ⟨?sum, ?max, ?min, fun w => laneArgMax_putDisabled en w v, fun hen => laneArgMax_all_disabled (by rwa [hv])⟩
  case sum => exact treeVal_putDisabled add32 0 0 en v (by decide)
  case max => exact treeVal_putDisabled max32 negInf32 0xFF800000 en v (by decide)
  case min => exact treeVal_putDisabled min32 posInf32 0x7F800000 en v (by decide)

/-- Settles O11: by the element that the pattern names for each place. -/
theorem veShuffle : Obligations.VeShuffle := by
  intro c f s h k pat amt src
  have hpat : bitsOf f.imm.toNat 0 4 = pat := by simp [bitsOf, pat]
  have hsrc : ∀ e j, src e j = shufPick (bitsOf f.imm.toNat 0 4) (bitsOf f.imm.toNat 4 12) e j := fun e j => by
    rw [hpat, shufPick_eq]
    rfl
  refine ⟨k.shufFree f, fun h1 => ?_, fun h1 => ?_⟩
  · simp only [hsrc]
    exact writes16_shuf h h1
  · simp only [hsrc]
    exact writes32_shuf h h1

end Sys2Proof.Machine
end

section
/-! SUPPORT. Scalars, control and the Reduction Unit as the Vector Engine's program meets them (R162, R170, R179, R182). -/

namespace Sys2Proof.Machine

variable {s : State} {c op : Nat} {f : VEWord} {i : Instr} {g : Nat → VEWord → State → VeRes}

/-- An instruction that the engine takes ends as its operation says. -/
theorem exec_of_veTakes_result (h : VeTakes s c op f) (hi : exec i s = veOne c (veGuard op f g) s) :
    exec i s = .next (veResult c (g c f s)) := by
  obtain ⟨-, hfree, hword⟩ := h
  rw [hi, veOne, if_pos hfree, veGuard, if_pos hword]

/-- The place of an engine that takes an instruction. -/
theorem VeTakes.lt (h : VeTakes s c op f) : c < s.clusters.length := by
  obtain ⟨⟨hlen, -⟩, hfree, -⟩ := h
  simp only [State.veFree, State.clusterUp, Bool.and_eq_true, decide_eq_true_eq] at hfree
  omega

theorem State.onCluster_onCluster (c : Nat) (a b : ClusterSt → ClusterSt) (s : State) :
    (s.onCluster c a).onCluster c b = s.onCluster c (fun k => b (a k)) :=
  congrArg (fun l => s.onClusters (fun _ => l)) (List.modify_modify_eq a b c s.clusters)

/-- Two changes of a cluster that agree on it as it stands leave the same state. -/
theorem State.onCluster_congr {a b : ClusterSt → ClusterSt} (e : a (s.cluster c) = b (s.cluster c)) : s.onCluster c a = s.onCluster c b := by
  by_cases hc : c < s.clusters.length
  · rw [State.onCluster_eq_const hc, e, ← State.onCluster_eq_const hc]
  · have hmodify : ∀ h : ClusterSt → ClusterSt, s.clusters.modify c h = s.clusters := fun h =>
      List.modify_eq_self (Nat.not_lt.1 hc)
    exact congrArg (fun l => s.onClusters (fun _ => l)) ((hmodify a).trans (hmodify b).symm)

/-- A field that begins at bit 0. -/
theorem bitsOf_zero (n w : Nat) : bitsOf n 0 w = n % 2 ^ w := by rw [bitsOf, Nat.pow_zero, Nat.div_one]

/-- A signed field of a word (R161). -/
theorem ofInt_sInt (n : Nat) (b : BitVec n) (hn : 0 < n) (w : Nat) : BitVec.ofInt w (sInt n b.toNat) = b.signExtend w := by
  have hlt : b.toNat % 2 ^ n = b.toNat := Nat.mod_eq_of_lt b.isLt
  rw [BitVec.signExtend, sInt, hlt]
  congr 1
  have hpow : 2 ^ n = 2 * 2 ^ (n - 1) := (mul_pow_sub_one hn.ne' 2).symm
  rw [BitVec.toInt_eq_toNat_cond]
  by_cases h : b.toNat < 2 ^ (n - 1)
  · rw [if_pos h, if_pos (by omega)]
  · rw [if_neg h, if_neg (by omega)]

theorem exec_rugo (h : VeTakes s c 0x78 f) (hq : (s.cluster c).ve.ru.queue.length < 4) :
    exec (.rugo c f) s = .next (s.onVe c (fun k => { k with
      ru := { k.ru with queue := k.ru.queue ++ [rugoPass f] }, pc := k.pc + 1 })) :=
  exec_of_veTakes (r := fun k => { k with ru := { k.ru with queue := k.ru.queue ++ [rugoPass f] } }) h rfl (if_neg (Nat.not_le.2 hq))

theorem RuSt.idle_of_empty {u : RuSt} (hq : u.queue = []) (hr : u.running = none) : u.idle = true := by
  rw [RuSt.idle, hq, hr]
  rfl

theorem exec_ruwait (h : VeTakes s c 0x79 f) (hidle : (s.cluster c).ve.ru.idle = true) :
    exec (.ruwait c f) s = .next (s.onVe c (fun k => { k with pc := k.pc + 1 })) :=
  exec_of_veTakes h rfl (if_pos hidle)

theorem exec_rufin (h : VeTakes s c 0x7B f) (hidle : (s.cluster c).ve.ru.idle = true) :
    let u := (s.cluster c).ve.ru
    exec (.rufin c f) s = .next (s.onCluster c (fun q => { q with
      ve := { q.ve with ru := { u with fin := some (u.rows.map u.finRow) }, pc := q.ve.pc + 1 }
      veRegs := { q.veRegs with
        var1Clamp := q.veRegs.var1Clamp || (u.rows.map u.finRow).any (fun r => r.flags.getLsbD 0) } })) := by
  intro u
  rw [exec_of_veTakes_result h rfl, veRufin, if_pos hidle]
  exact congrArg Host.Outcome.next (State.onCluster_onCluster ..)

/-! ## LOOP and ENDL -/

theorem exec_loop_of_count (h : VeTakes s c 0xF0 f) (hn : f.imm.toNat % 2 ^ 13 ≠ 0) (hdepth : (s.cluster c).ve.loops.length < 4) :
    exec (.loop c f) s = .next (s.onVe c (fun k => { k with
      pc := k.pc + 1, loops := (k.pc + 1, f.imm.toNat % 2 ^ 13) :: k.loops })) := by
  rw [exec_of_veTakes_result h rfl, veLoop, bitsOf_zero]
  simp only [if_neg hn, if_neg (Nat.not_le.2 hdepth)]
  rfl

theorem exec_loop_of_zero {p : Nat} (h : VeTakes s c 0xF0 f) (hn : f.imm.toNat % 2 ^ 13 = 0)
    (hp : let k := (s.cluster c).ve; afterEndl k 8192 (k.pc + 1) 0 = some p) :
    exec (.loop c f) s = .next (s.onVe c (fun k => { k with pc := p })) := by
  simp only at hp
  rw [exec_of_veTakes_result h rfl, veLoop, bitsOf_zero, hn]
  simp only [if_pos, hp]
  rfl

theorem exec_endl {p m : Nat} {r : List (Nat × Nat)} (h : VeTakes s c 0xF1 f) (hl : (s.cluster c).ve.loops = (p, m) :: r) :
    exec (.endl c f) s = .next (s.onVe c (fun k => if m ≤ 1 then { k with pc := k.pc + 1, loops := r }
      else { k with pc := p, loops := (p, m - 1) :: r })) := by
  rw [exec_of_veTakes_result h rfl, veEndl, hl]
  by_cases hm : m ≤ 1
  · simp only [if_pos hm]
    rfl
  · simp only [if_neg hm]
    rfl

theorem exec_ska (h : VeTakes s c 0xF2 f) : let n := f.imm.toNat
    exec (.ska c f) s = .next (s.onVe c (fun k => { k with
      pc := if k.mr (n / 2 ^ 8 % 8) ≠ 0 then k.pc + 1 + n % 2 ^ 8 else k.pc + 1 })) := by
  intro n
  rw [exec_of_veTakes_result h rfl, veSka, veSkip, bitsOf_zero]
  simp only [decide_eq_true_eq]
  rfl

theorem exec_skn (h : VeTakes s c 0xF3 f) : let n := f.imm.toNat
    exec (.skn c f) s = .next (s.onVe c (fun k => { k with
      pc := if k.mr (n / 2 ^ 8 % 8) = 0 then k.pc + 1 + n % 2 ^ 8 else k.pc + 1 })) := by
  intro n
  rw [exec_of_veTakes_result h rfl, veSkn, veSkip, bitsOf_zero]
  simp only [decide_eq_false_iff_not, not_not]
  rfl

/-- END completes the command with the status that it has gathered (R185). -/
theorem exec_endP (h : VeTakes s c 0xFF f) : let k := (s.cluster c).ve
    exec (.endP c f) s = .next (planDone (.cluster c) k.status (s.onCluster c (fun q => { q with
      veRegs := { q.veRegs with lastStatus := k.status, lastTag := k.tag, count := q.veRegs.count + 1, busy := false },
      inb := q.inb.filter (fun b => !(b.num == k.inStream && b.tiles.isEmpty))
      outb := if k.status = stOk then q.outb else updAll q.outb (fun b => b.num == k.outStream)
        (fun b => { b with
          status := if b.status = stOk then k.status else b.status
          flaws := if b.status = stOk then [(0, b.size, k.status)] else b.flaws }) }))) := by
  intro k
  rw [exec_of_veTakes_result h rfl, veEnd, veResult, State.cluster_onCluster h.lt, State.onCluster_congr]
  rfl

end Sys2Proof.Machine
end

section
namespace Sys2Proof.Machine

/-- Settles O15: by the way of each of the three instructions when nothing holds it up. -/
theorem veReduction : Obligations.VeReduction :=
  fun _ _ _ => ⟨exec_rugo, fun h hq hr => exec_ruwait h (RuSt.idle_of_empty hq hr), fun h hq hr => exec_rufin h (RuSt.idle_of_empty hq hr)⟩

/-- Settles O18: each instruction's scalar. -/
theorem veScalars : Obligations.VeScalars := by
  intro c f s k
  refine ⟨fun h => exec_of_veTakes h rfl rfl, fun h => ?smov, fun h => writesScalar_of_setS h rfl rfl rfl, fun h => ?sget⟩
  case smov => exact writesScalar_of_setS h rfl rfl (by rw [ofInt_sInt 29 f.imm (by decide)])
  case sget => exact writesScalar_of_setS h rfl rfl (by rw [bitsOf_zero]; rfl)

/-- Settles O20: by the way of each control instruction. -/
theorem veControl : Obligations.VeControl :=
  fun _ _ _ => ⟨exec_loop_of_count, fun h hn _ hp => exec_loop_of_zero h hn hp, fun h _ _ _ hl => exec_endl h hl, exec_ska, exec_skn,
    exec_endP⟩

end Sys2Proof.Machine
end

section
/-! SUPPORT. The Reduction Unit's passes and statistics (R170 to R177), and special functions (R187). -/

namespace Sys2Proof.Machine

variable {s : State} {c : Nat} {f : VEWord}

/-! ## RU_PASS -/

/-- A pass adds its width to the counts that it names, from 0 with CLR; a pass of width 0 leaves them (R170, R171). -/
def RuPass.count (p : RuPass) (i old : Nat) : Nat := if p.stats.getLsbD i ∧ p.w ≠ 0 then (if p.clr then 0 else old) + p.w else old

/-- What a pass leaves of the counts and the finish values. -/
theorem RuSt.runPass_counts (exp : Fv → Fv) (m : Mem) (p : RuPass) (k : RuSt) :
    let u := (RuSt.runPass exp m p k).1
    u.fin = k.fin ∧ u.nSum = p.count 0 k.nSum ∧ u.nSq = p.count 1 k.nSq ∧ u.nD2 = p.count 2 k.nD2 ∧ u.nSm = p.count 3 k.nSm := by
  intro u
  by_cases hw : p.w = 0
  · have hcount : ∀ i old, p.count i old = old := fun i old => if_neg fun h => h.2 hw
    have hu : u = k.named p.stats := congrArg Prod.fst (if_pos hw)
    rw [hu, hcount, hcount, hcount, hcount]
    exact ⟨rfl, rfl, rfl, rfl, rfl⟩
  · have hcount : ∀ i old, p.count i old = if p.stats.getLsbD i then (if p.clr then 0 else old) + p.w else old := by
      simp [RuPass.count, hw]
    simp only [u, RuSt.runPass, if_neg hw, hcount, and_true]
    rfl

/-- A pass that runs changes its cluster's Reduction Unit, NONFINITE and the command's status, and the counter of free values. -/
theorem ruStep_go_eq (c : Nat) (p : RuPass) (rest : List RuPass) (s : State) : let k := s.cluster c
    ∃ (st : Half) (nf : Bool) (fr : Nat), (ruStep.go c p rest s).1 = { s with freeCtr := fr }.onCluster c (fun q => { q with
      ve := { q.ve with
        ru := { (RuSt.runPass ((s.sfuBank c).exp s.freeCtr) (k.ve.tile p.tile).mem p k.ve.ru).1 with queue := rest, running := none }
        status := st }
      veRegs := { q.veRegs with nonfinite := nf } }) := by
  intro k
  let lost : Bool := p.stats.getLsbD 3 && !(s.sfuBank c).hasExp
  let r := RuSt.runPass ((s.sfuBank c).exp s.freeCtr) (k.ve.tile p.tile).mem p k.ve.ru
  exact ⟨if lost && k.ve.status == stOk then stIntegrityFail else k.ve.status, k.veRegs.nonfinite || r.2,
    if lost then s.freeCtr + 2 ^ 32 else s.freeCtr, State.onCluster_congr rfl⟩

/-- The unit takes the first queued pass where none runs and its tile has arrived, or is no input tile (R179). -/
theorem ruStep_of_ready {p : RuPass} {r : List RuPass} (hrun : (s.cluster c).ve.ru.running = none)
    (hqueue : (s.cluster c).ve.ru.queue = p :: r)
    (hready : let k := (s.cluster c).ve; (k.tile p.tile).held = true ∨ k.tileMap / 4 ^ p.tile % 4 ≠ 1) :
    ruStep c s = ruStep.go c p r s := by
  have hwait : ¬(bitsOf (s.cluster c).ve.tileMap (2 * p.tile) 2 = 1 ∧ (!((s.cluster c).ve.tile p.tile).held) = true) := by
    rintro ⟨hmap, hheld⟩
    rw [bitsOf, Nat.pow_mul] at hmap
    rcases hready with hready | hready
    · simp [hready] at hheld
    · exact hready hmap
  simp only [ruStep, hrun, hqueue, if_neg hwait]

/-! ## RURD -/

/-- Statistic `i` of row `j` as RURD reads it. -/
def RuSt.statAt (k : RuSt) (i j : Nat) : Word :=
  match k.fin with
  | none => if 512 ≤ j then 0 else nan32
  | some rows => match rows[j]?, k.rows[j]? with
    | some r, some q => q.live i (r.get i)
    | _, _ => 0

theorem RuSt.getD_finRows (k : RuSt) (l : List RuFin) (i j : Nat) :
    ((l.zip k.rows).map (fun (p : RuFin × RuRow) => p.2.live i (p.1.get i))).getD j 0 =
      match l[j]?, k.rows[j]? with
      | some r, some q => q.live i (r.get i)
      | _, _ => 0 := by
  rw [List.getD_eq_getElem?_getD, List.zip, List.map_zipWith, List.getElem?_zipWith]
  rcases l[j]? with _ | r <;> rcases k.rows[j]? with _ | q <;> rfl

/-- A list of 512 lanes filled up with zeros. -/
theorem getD_replicate_rows (w : Word) (j : Nat) : (List.replicate 512 w).getD j 0 = if 512 ≤ j then 0 else w := by
  by_cases hj : 512 ≤ j
  · rw [if_pos hj, List.getD_eq_default _ _ (by rwa [List.length_replicate])]
  · rw [if_neg hj, List.getD_eq_getElem _ _ (by rw [List.length_replicate]; omega), List.getElem_replicate]

/-- What RURD writes, lane by lane (R174, R175). -/
theorem writes32_rurd (h : VeTakes s c 0x7A f) (hidle : (s.cluster c).ve.ru.idle = true) : Writes32 (.rurd c f) c f s (fun j =>
    let u := (s.cluster c).ve.ru
    if bitsOf f.imm.toNat 0 4 = 9 then (if 512 ≤ j then 0 else ruFlags u j) else u.statAt (bitsOf f.imm.toNat 0 4) j) := by
  refine writes32_of_put32 h rfl (if_pos hidle) rfl (by rw [List.length_map, List.length_range]) fun j hj => ?_
  rw [getD_map_range_of_lt _ 0 hj]
  by_cases h9 : bitsOf f.imm.toNat 0 4 = 9
  · simp only [if_pos h9]
    by_cases hj' : 512 ≤ j
    · rw [if_pos hj', List.getD_eq_default _ _ (by rwa [List.length_map, List.length_range])]
    · rw [if_neg hj', getD_map_range_of_lt _ 0 (Nat.not_le.1 hj')]
  · simp only [if_neg h9, RuSt.statAt]
    cases (s.cluster c).ve.ru.fin with
    | none => exact getD_replicate_rows nan32 j
    | some l => exact RuSt.getD_finRows _ l _ j

/-- A statistic that a mark of its row concerns reads as the canonical NaN (R175). -/
theorem RuRow.live_eq (r : RuRow) (i : Nat) (v : Word) : r.live i v =
    if (i = 1 ∧ r.markSum) ∨ (i = 2 ∧ r.markSq) ∨ (i = 3 ∧ (r.markSum ∨ r.markSq)) ∨ (i = 4 ∧ (r.markSum ∨ r.markD2)) then nan32 else v := by
  match i with
  | 0 => simp [RuRow.live]
  | 1 => simp [RuRow.live]
  | 2 => simp [RuRow.live]
  | 3 => simp [RuRow.live]
  | 4 => simp [RuRow.live]
  | n + 5 => simp [RuRow.live]

/-! ## SFN -/

/-- A map that does not look at the lane's number. -/
theorem map_zipIdx_fst {α β : Type} (g : α → β) (l : List α) : l.zipIdx.map (fun p => g p.1) = l.map g := by
  rw [← Function.comp_def g Prod.fst, ← List.map_map, List.zipIdx_map_fst]

/-- SFN reads its bank's table, or a function that needs none: no value is free and the command's status stands (R197). -/
theorem veSfn_eq_of_has {img : List Byte} (hbank : let b := s.sfuBank c; b.image = img ∧
      (bitsOf f.imm.toNat 0 5 < 16 ∨ (b.valid = true ∧ tsHas img (bitsOf f.imm.toNat 0 5 - 16) = true))) :
    let func := bitsOf f.imm.toNat 0 5
    let half := bitsOf f.imm.toNat 5 1
    veSfn c f s = veSet c (fun k =>
      if f.fmt = 1 then
        k.putHalf f half (((k.vr f.va.toNat).map (fun w => if half = 1 then hiHalf w else loHalf w)).map (fun a =>
          encB16 (sfnVal img func true (decB16 a))))
      else k.put32 f ((k.vr f.va.toNat).map (fun a => enc32 (sfnVal img func false (dec32 a))))) s := by
  obtain ⟨rfl, hhas⟩ := hbank
  have hlost : (decide (16 ≤ bitsOf f.imm.toNat 0 5) &&
      (!(s.sfuBank c).valid || !tsHas (s.sfuBank c).image (bitsOf f.imm.toNat 0 5 - 16))) = false := by
    rcases hhas with hlt | ⟨hvalid, htable⟩
    · simp [Nat.not_le.2 hlt]
    · simp [hvalid, htable]
  intro func half
  have hhalf := map_zipIdx_fst (fun a => encB16 (sfnVal (s.sfuBank c).image func true (decB16 a)))
  have hlane := map_zipIdx_fst (fun a => enc32 (sfnVal (s.sfuBank c).image func false (dec32 a)))
  simp only [func] at hhalf hlane
  simp only [veSfn, hlost, Bool.false_eq_true, if_false, hhalf, hlane, half, func]

/-- Element `j` of a source register lies in the half that it is numbered in (R157). -/
theorem VeSt.Ok.elemA_eq {k : VeSt} (h : k.Ok) {j : Nat} (hj : j < 2048) :
    k.elemA f j = if 1024 ≤ j then hiHalf ((k.vr f.va.toNat).getD (j % 1024) 0) else loHalf ((k.vr f.va.toNat).getD (j % 1024) 0) := by
  rw [VeSt.elemA, getD_elems (h.vr_length _) hj]
  by_cases hhalf : j < 1024
  · rw [if_pos hhalf, if_neg (by omega), Nat.mod_eq_of_lt hhalf]
  · rw [if_neg hhalf, if_pos (by omega), (by omega : j % 1024 = j - 1024)]

/-- SFN in FP32. -/
theorem writes32_sfn (h : VeTakes s c 0x7C f) {img : List Byte} (hbank : let b := s.sfuBank c; b.image = img ∧
      (bitsOf f.imm.toNat 0 5 < 16 ∨ (b.valid = true ∧ tsHas img (bitsOf f.imm.toNat 0 5 - 16) = true))) (h1 : f.fmt ≠ 1) :
    Writes32 (.sfn c f) c f s (fun j => enc32 (sfnVal img (bitsOf f.imm.toNat 0 5) false (dec32 ((s.cluster c).ve.laneA f j)))) := by
  have hlanes := h.ok.vr_length f.va.toNat
  exact writes32_of_put32 h rfl (veSfn_eq_of_has hbank) (if_neg h1) (by rw [List.length_map, hlanes]) fun j hj =>
    getD_map_of_lt _ 0 0 (by omega)

/-- SFN in BF16: one half of V[VD], the other kept. -/
theorem exec_sfn_half (h : VeTakes s c 0x7C f) {img : List Byte} (hbank : let b := s.sfuBank c; b.image = img ∧
      (bitsOf f.imm.toNat 0 5 < 16 ∨ (b.valid = true ∧ tsHas img (bitsOf f.imm.toNat 0 5 - 16) = true))) (h1 : f.fmt = 1) :
    let k := (s.cluster c).ve
    ∃ v, v.length = 1024 ∧
      (∀ j < 2048, (elems v).getD j 0 = if decide (1024 ≤ j) = f.imm.getLsbD 5 then
          (if (k.wm f).getLsbD j then encB16 (sfnVal img (bitsOf f.imm.toNat 0 5) true (decB16 (k.elemA f j)))
            else if f.zm then 0 else (elems (k.vr f.vd.toNat)).getD j 0)
        else (elems (k.vr f.vd.toNat)).getD j 0) ∧
      exec (.sfn c f) s = .next (s.veWrote c f v) := by
  intro k
  have hlanes : (k.vr f.va.toNat).length = 1024 := h.ok.vr_length _
  have hhalf : bitsOf f.imm.toNat 5 1 = if f.imm.getLsbD 5 then 1 else 0 := bitsOf_one _ _
  let val := fun a : Half => encB16 (sfnVal img (bitsOf f.imm.toNat 0 5) true (decB16 a))
  let src := (k.vr f.va.toNat).map (fun w => if bitsOf f.imm.toNat 5 1 = 1 then hiHalf w else loHalf w)
  obtain ⟨v, hv, hput, helems⟩ := h.ok.putHalf_eq (f := f) (new := src.map val) (f.imm.getLsbD 5) (by simp [src, hlanes])
  refine ⟨v, hv, fun j hj => ?_, (exec_of_veTakes h rfl (veSfn_eq_of_has hbank)).trans (congrArg Host.Outcome.next (State.onVe_congr ?_))⟩
  · rw [helems j hj]
    by_cases hside : decide (1024 ≤ j) = f.imm.getLsbD 5
    · have hlane : (src.map val).getD (j % 1024) 0 = val (k.elemA f j) := by
        rw [getD_map_of_lt val 0 0 (by simp [src, hlanes]; omega), getD_map_of_lt _ 0 0 (by omega), h.ok.elemA_eq hj, hhalf, ← hside]
        congr 1
        by_cases hj' : 1024 ≤ j <;> simp [hj', k]
      rw [if_pos hside, if_pos hside, hlane]
    · rw [if_neg hside, if_neg hside]
  · rw [← hhalf] at hput
    simp only [if_pos h1]
    exact congrArg (fun x : VeSt => { x with pc := (s.cluster c).ve.pc + 1 }) hput

end Sys2Proof.Machine
end

section
namespace Sys2Proof.Machine

/-- Settles O16: by what one pass leaves of the counts, and by the statistic that each lane reads. -/
theorem reductionUnit : Obligations.ReductionUnit := by
  refine ⟨?pass, ?rurd, RuRow.live_eq⟩
  case pass =>
    intro c s p r hfree k cnt hrun hqueue hready
    obtain ⟨st, nf, fr, hgo⟩ := ruStep_go_eq c p r s
    refine ⟨{ (RuSt.runPass ((s.sfuBank c).exp s.freeCtr) (k.tile p.tile).mem p k.ru).1 with queue := r, running := none }, st, nf, fr, ?_, rfl, rfl, RuSt.runPass_counts _ _ p k.ru⟩
    change execRuPass c s = _
    rw [execRuPass, if_pos hfree, ruStep_of_ready hrun hqueue hready, hgo]
  case rurd =>
    intro c f s h k i stat hq hr
    have hi : bitsOf f.imm.toNat 0 4 = i := bitsOf_zero ..
    have hwrites := writes32_rurd h (RuSt.idle_of_empty hq hr)
    rw [hi] at hwrites
    exact hwrites

/-- Settles O17: by the value of each lane where its table is there. -/
theorem veSpecialFunction : Obligations.VeSpecialFunction := by
  intro c f s h k bank func hhas
  have hfunc : bitsOf f.imm.toNat 0 5 = func := bitsOf_zero ..
  rw [← hfunc] at hhas ⊢
  exact ⟨writes32_sfn h ⟨rfl, hhas⟩, exec_sfn_half h ⟨rfl, hhas⟩⟩

end Sys2Proof.Machine
end

section
/-! SUPPORT. LD and ST (R164, R165, R179): elements from the bytes of a tile, and the bytes that a store leaves. -/

namespace Sys2Proof.Machine

variable {s : State} {k : VeSt} {c : Nat} {f : VEWord}

/-! ## Elements from bytes -/

theorem halvesOf_length : ∀ l : List Byte, (halvesOf l).length = l.length / 2
  | [] => rfl
  | [_] => by simp [halvesOf]
  | _ :: _ :: r => by simp only [halvesOf, List.length_cons, halvesOf_length r]; omega

theorem getD_halvesOf : ∀ (l : List Byte) (j : Nat), 2 * j + 1 < l.length →
    (halvesOf l).getD j 0 = BitVec.ofNat 16 ((l.getD (2 * j) 0).toNat + 256 * (l.getD (2 * j + 1) 0).toNat)
  | [], j, h => absurd h (by simp)
  | [_], j, h => absurd h (by simp)
  | a :: b :: r, 0, _ => by simp [halvesOf, leNat]
  | a :: b :: r, j + 1, h => by
    rw [halvesOf, List.getD_cons_succ, getD_halvesOf r j (by simp only [List.length_cons] at h; omega)]
    rfl

theorem wordsOf_length : ∀ l : List Byte, (wordsOf l).length = l.length / 4
  | [] => rfl
  | [_] => by simp [wordsOf]
  | [_, _] => by simp [wordsOf]
  | [_, _, _] => by simp [wordsOf]
  | _ :: _ :: _ :: _ :: r => by simp only [wordsOf, List.length_cons, wordsOf_length r]; omega

theorem getD_wordsOf : ∀ (l : List Byte) (j : Nat), 4 * j + 3 < l.length →
    (wordsOf l).getD j 0 = BitVec.ofNat 32 ((l.getD (4 * j) 0).toNat + 256 * (l.getD (4 * j + 1) 0).toNat +
      65536 * (l.getD (4 * j + 2) 0).toNat + 16777216 * (l.getD (4 * j + 3) 0).toNat)
  | [], j, h => absurd h (by simp)
  | [_], j, h => absurd h (by simp)
  | [_, _], j, h => absurd h (by simp)
  | [_, _, _], j, h => absurd h (by simp)
  | a :: b :: x :: d :: r, 0, _ => by
    simp only [wordsOf, leNat, List.getD_cons_zero]
    congr 1
    simp
    omega
  | a :: b :: x :: d :: r, j + 1, h => by
    rw [wordsOf, List.getD_cons_succ, getD_wordsOf r j (by simp only [List.length_cons] at h; omega)]
    rfl

/-! ## LD -/

/-- Byte `j` of the tile that an LD or ST names, from its address on, modulo the tile's size (R164). -/
def VeSt.ldByte (k : VeSt) (f : VEWord) (j : Nat) : Nat := (MemOps.read (k.tile (ldTile f)).mem ((k.ldAddr f + j) % 2 ^ 18)).toNat

theorem tileRead_length (m : Mem) (a n : Nat) : (tileRead m a n).length = n := by
  rw [tileRead, List.length_map, List.length_range]

theorem VeSt.getD_tileRead (k : VeSt) (f : VEWord) {n j : Nat} (hj : j < n) :
    ((tileRead (k.tile (ldTile f)).mem (k.ldAddr f) n).getD j 0).toNat = k.ldByte f j := by
  rw [tileRead, getD_map_range_of_lt _ 0 hj]
  rfl

/-- LD of 16-bit elements. -/
theorem writes16_ld (h : VeTakes s c 0x60 f) (hdrain : ((s.cluster c).ve.tile (ldTile f)).draining = false)
    (h16 : f.fmt = 1 ∨ f.fmt = 2) : let k := (s.cluster c).ve
    Writes16 (.ld c f) c f s (fun j => BitVec.ofNat 16 (k.ldByte f (2 * j) + 256 * k.ldByte f (2 * j + 1))) := by
  intro k
  refine writes16_of_put16 h rfl ((if_neg (by simp [hdrain])).trans (if_pos h16)) rfl (by rw [halvesOf_length, tileRead_length]) fun j hj => ?_
  rw [getD_halvesOf _ _ (by rw [tileRead_length]; omega), k.getD_tileRead f (by omega), k.getD_tileRead f (by omega)]

/-- LD of unsigned bytes. -/
theorem writes32_ld_u8 (h : VeTakes s c 0x60 f) (hdrain : ((s.cluster c).ve.tile (ldTile f)).draining = false) (h4 : f.fmt = 4) :
    Writes32 (.ld c f) c f s (fun j => BitVec.ofNat 32 ((s.cluster c).ve.ldByte f j)) := by
  refine writes32_of_put32 h rfl ((if_neg (by simp [hdrain])).trans ((if_neg (by rw [h4]; decide)).trans (if_pos h4))) rfl
    (by rw [List.length_map, tileRead_length]) fun j hj => ?_
  rw [getD_map_of_lt _ 0 0 (by rwa [tileRead_length]), VeSt.getD_tileRead _ f hj]

/-- LD of signed bytes. -/
theorem writes32_ld_s8 (h : VeTakes s c 0x60 f) (hdrain : ((s.cluster c).ve.tile (ldTile f)).draining = false) (h5 : f.fmt = 5) :
    let k := (s.cluster c).ve
    Writes32 (.ld c f) c f s (fun j =>
      BitVec.ofInt 32 (if k.ldByte f j < 128 then (k.ldByte f j : Int) else (k.ldByte f j : Int) - 256)) := by
  intro k
  refine writes32_of_put32 h rfl
    ((if_neg (by simp [hdrain])).trans ((if_neg (by rw [h5]; decide)).trans ((if_neg (by rw [h5]; decide)).trans (if_pos h5)))) rfl
    (by rw [List.length_map, tileRead_length]) fun j hj => ?_
  rw [getD_map_of_lt _ 0 0 (by rwa [tileRead_length]), BitVec.toInt_eq_toNat_cond, k.getD_tileRead f hj]
  congr 1
  by_cases hsign : k.ldByte f j < 128
  · rw [if_pos hsign, if_pos (by omega)]
  · rw [if_neg hsign, if_neg (by omega)]
    rfl

/-- LD of 32-bit lanes. -/
theorem writes32_ld (h : VeTakes s c 0x60 f) (hdrain : ((s.cluster c).ve.tile (ldTile f)).draining = false)
    (h1 : f.fmt ≠ 1) (h2 : f.fmt ≠ 2) (h4 : f.fmt ≠ 4) (h5 : f.fmt ≠ 5) : let k := (s.cluster c).ve
    Writes32 (.ld c f) c f s (fun j => BitVec.ofNat 32 (k.ldByte f (4 * j) + 256 * k.ldByte f (4 * j + 1) +
      65536 * k.ldByte f (4 * j + 2) + 16777216 * k.ldByte f (4 * j + 3))) := by
  intro k
  refine writes32_of_put32 h rfl
    ((if_neg (by simp [hdrain])).trans ((if_neg (not_or.2 ⟨h1, h2⟩)).trans ((if_neg h4).trans (if_neg h5)))) rfl
    (by rw [wordsOf_length, tileRead_length]) fun j hj => ?_
  rw [getD_wordsOf _ _ (by rw [tileRead_length]; omega), k.getD_tileRead f (by omega), k.getD_tileRead f (by omega), k.getD_tileRead f (by omega),
    k.getD_tileRead f (by omega)]

/-! ## Bytes written to a tile -/

/-- Bytes written from place `n` of a list on. -/
def tileWriteFrom (a n : Nat) (m : Mem) (l : List (Option Byte)) : Mem :=
  (l.zipIdx n).foldl (fun acc p => match p.1 with | some b => MemOps.write acc ((a + p.2) % tileSize) b | none => acc) m

theorem tileWriteFrom_none (a n : Nat) (m : Mem) (l : List (Option Byte)) : tileWriteFrom a n m (none :: l) = tileWriteFrom a (n + 1) m l := rfl
theorem tileWriteFrom_some (a n : Nat) (m : Mem) (b : Byte) (l : List (Option Byte)) :
    tileWriteFrom a n m (some b :: l) = tileWriteFrom a (n + 1) (MemOps.write m ((a + n) % tileSize) b) l := rfl

/-- A byte that no place of the list names reads as before. -/
theorem read_tileWriteFrom_of_outside {a x : Nat} (l : List (Option Byte)) (n : Nat) {m : Mem} (hm : Memory.wf m = true)
    (hx : ∀ (j : Nat) (b : Byte), l[j]? = some (some b) → x ≠ (a + (n + j)) % tileSize) :
    MemOps.read (tileWriteFrom a n m l) x = MemOps.read m x := by
  induction l generalizing n m with
  | nil => rfl
  | cons o l ih =>
    have hrest : ∀ (j : Nat) (b : Byte), l[j]? = some (some b) → x ≠ (a + (n + 1 + j)) % tileSize := fun j b hj => by
      rw [Nat.add_assoc, Nat.add_comm 1]
      exact hx (j + 1) b (by simpa using hj)
    cases o with
    | none => rw [tileWriteFrom_none, ih _ hm hrest]
    | some b =>
      rw [tileWriteFrom_some, ih _ (wf_write _ _ hm) hrest, read_write _ _ _ hm]
      exact if_neg (hx 0 b rfl)

/-- A byte that a place of the list names reads back, the list being no longer than the tile. -/
theorem read_tileWriteFrom_of_mem {a j : Nat} {b : Byte} (l : List (Option Byte)) (n : Nat) {m : Mem} (hm : Memory.wf m = true)
    (hlen : l.length ≤ tileSize) (hj : l[j]? = some (some b)) : MemOps.read (tileWriteFrom a n m l) ((a + (n + j)) % tileSize) = b := by
  induction l generalizing n m j with
  | nil => simp at hj
  | cons o l ih =>
    rw [List.length_cons] at hlen
    cases j with
    | zero =>
      obtain rfl : o = some b := by simpa using hj
      have hout : ∀ (i : Nat) (d : Byte), l[i]? = some (some d) → (a + (n + 0)) % tileSize ≠ (a + (n + 1 + i)) % tileSize := fun i d hi => by
        have hi' : i < l.length := (List.getElem?_eq_some_iff.1 hi).1
        simp only [tileSize] at hlen ⊢
        omega
      rw [tileWriteFrom_some, read_tileWriteFrom_of_outside l _ (wf_write _ _ hm) hout, read_write _ _ _ hm]
      exact if_pos rfl
    | succ j =>
      have hj' : l[j]? = some (some b) := by simpa using hj
      have hplace : n + (j + 1) = n + 1 + j := by omega
      rw [hplace]
      cases o with
      | none => exact ih (n + 1) hm (by omega) hj'
      | some d => exact ih (n + 1) (wf_write _ _ hm) (by omega) hj'

/-! ## The bytes of an ST -/

/-- The bytes of some elements of `w` bytes each, none where the element is disabled. -/
def stBytes (w : Nat) (mask : BitVec 2048) (vals : List Nat) : List (Option Byte) :=
  vals.zipIdx.flatMap (fun p => (natLe w p.1).map (fun b => if mask.getLsbD p.2 then some b else none))

theorem natLe_length (w v : Nat) : (natLe w v).length = w := by
  induction w generalizing v with
  | zero => rfl
  | succ w ih => rw [natLe, List.length_cons, ih]

theorem getElem?_natLe {w b : Nat} (v : Nat) (hb : b < w) : (natLe w v)[b]? = some (BitVec.ofNat 8 (v / 256 ^ b)) := by
  induction w generalizing v b with
  | zero => omega
  | succ w ih =>
    cases b with
    | zero => simp [natLe]
    | succ b => rw [natLe, List.getElem?_cons_succ, ih _ (by omega), Nat.div_div_eq_div_mul, ← Nat.pow_succ']

/-- An element of a list of pieces of one length. -/
theorem getElem?_flatMap_of_length {α β : Type} {g : α → List β} {w b : Nat} (hg : ∀ x, (g x).length = w) (hb : b < w) (l : List α) (i : Nat) :
    (l.flatMap g)[w * i + b]? = l[i]?.bind (fun x => (g x)[b]?) := by
  induction l generalizing i with
  | nil => simp
  | cons x l ih =>
    rw [List.flatMap_cons]
    cases i with
    | zero => rw [Nat.mul_zero, Nat.zero_add, List.getElem?_append_left (by rw [hg]; exact hb)]; rfl
    | succ i =>
      rw [List.getElem?_append_right (by rw [hg, Nat.mul_succ]; omega), hg,
        (by rw [Nat.mul_succ]; omega : w * (i + 1) + b - w = w * i + b), ih]
      rfl

theorem stBytes_length (w : Nat) (mask : BitVec 2048) (vals : List Nat) : (stBytes w mask vals).length = w * vals.length := by
  simp [stBytes, List.length_flatMap, natLe_length, Nat.mul_comm]

theorem getElem?_stBytes {w b : Nat} (mask : BitVec 2048) (vals : List Nat) (i : Nat) (hb : b < w) :
    (stBytes w mask vals)[w * i + b]? =
      vals[i]?.map (fun v => if mask.getLsbD i then some (BitVec.ofNat 8 (v / 256 ^ b)) else none) := by
  rw [stBytes, getElem?_flatMap_of_length (w := w) (fun p => by rw [List.length_map, natLe_length]) hb, List.getElem?_zipIdx, Nat.zero_add]
  cases vals[i]? with
  | none => rfl
  | some v => simp [getElem?_natLe v hb]

/-- The place of a byte that is there: its element is enabled. -/
theorem stBytes_enabled {w j : Nat} {b : Byte} {mask : BitVec 2048} {vals : List Nat} (hw : 0 < w)
    (hj : (stBytes w mask vals)[j]? = some (some b)) : j / w < vals.length ∧ mask.getLsbD (j / w) = true := by
  rw [← Nat.div_add_mod j w, getElem?_stBytes mask vals _ (Nat.mod_lt _ hw)] at hj
  obtain ⟨v, hv, hval⟩ := Option.map_eq_some_iff.1 hj
  refine ⟨(List.getElem?_eq_some_iff.1 hv).1, ?_⟩
  by_contra hoff
  simp [hoff] at hval

/-! ## ST -/

/-- The bytes of an element of an ST. -/
def stWidth (f : VEWord) : Nat := if f.fmt = 1 ∨ f.fmt = 2 then 2 else if f.fmt = 4 ∨ f.fmt = 5 then 1 else 4

/-- The elements that an ST writes, as numbers. -/
def VeSt.stVals (k : VeSt) (f : VEWord) : List Nat :=
  if f.fmt = 1 ∨ f.fmt = 2 then (elems (k.vr f.vd.toNat)).map (·.toNat) else (k.vr f.vd.toNat).map (·.toNat)

/-- The tile after an ST. -/
def VeSt.stMem (k : VeSt) (f : VEWord) : Mem :=
  tileWriteFrom (k.ldAddr f) 0 (k.tile (ldTile f)).mem (stBytes (stWidth f) (k.wm f) (k.stVals f))

theorem zipIdx_flatMap_toNat {n : Nat} (w : Nat) (mask : BitVec 2048) (l : List (BitVec n)) :
    l.zipIdx.flatMap (fun p => (natLe w p.1.toNat).map (fun b => if mask.getLsbD p.2 then some b else none)) =
      stBytes w mask (l.map (·.toNat)) := by
  rw [stBytes, List.zipIdx_map, List.flatMap_map]
  rfl

/-- A change of a tile puts the changed tile in its place. -/
theorem VeSt.onTile_eq (k : VeSt) (t : Nat) (g : TileSt → TileSt) : k.onTile t g = { k with tiles := k.tiles.modify t (fun _ => g (k.tile t)) } := by
  have hmodify : k.tiles.modify t g = k.tiles.modify t (fun _ => g (k.tile t)) := by
    refine List.ext_getElem? fun j => ?_
    rw [List.getElem?_modify, List.getElem?_modify]
    by_cases hj : t = j
    · subst hj
      cases htile : k.tiles[t]? with
      | none => rfl
      | some x => simp [VeSt.tile, List.getD_eq_getElem?_getD, htile]
    · simp [hj]
  rw [VeSt.onTile, hmodify]

theorem veSt_of_ready (hdrain : ((s.cluster c).ve.tile (ldTile f)).draining = false)
    (hpass : (s.cluster c).ve.passReads (ldTile f) = false) : let k := (s.cluster c).ve
    veSt c f s = veSet c (fun k' => k'.onTile (ldTile f) (fun x => { x with
      mem := tileWriteFrom (k.ldAddr f) 0 x.mem (stBytes (stWidth f) (k.wm f) (k.stVals f)) })) s := by
  intro k
  rw [veSt, if_neg (by simp [hdrain, hpass])]
  have hone : ∀ l : List Word, l.zipIdx.map (fun p => if (k.wm f).getLsbD p.2 then some (BitVec.ofNat 8 p.1.toNat) else none) =
      stBytes 1 (k.wm f) (l.map (·.toNat)) := fun l => by
    rw [← zipIdx_flatMap_toNat, List.map_eq_flatMap]
    rfl
  by_cases h16 : f.fmt = 1 ∨ f.fmt = 2
  · simp only [if_pos h16, zipIdx_flatMap_toNat, stWidth, VeSt.stVals]
    rfl
  · by_cases h8 : f.fmt = 4 ∨ f.fmt = 5
    · simp only [if_neg h16, if_pos h8, hone, stWidth, VeSt.stVals, k]
      rfl
    · simp only [if_neg h16, if_neg h8, zipIdx_flatMap_toNat, stWidth, VeSt.stVals]
      rfl

theorem exec_st (h : VeTakes s c 0x61 f) (hdrain : ((s.cluster c).ve.tile (ldTile f)).draining = false)
    (hpass : (s.cluster c).ve.passReads (ldTile f) = false) :
    exec (.st c f) s = .next (s.onVe c (fun k => { k with
      tiles := k.tiles.modify (ldTile f) (fun x => { x with mem := (s.cluster c).ve.stMem f }), pc := k.pc + 1 })) := by
  refine (exec_of_veTakes h rfl (veSt_of_ready hdrain hpass)).trans (congrArg Host.Outcome.next (State.onVe_congr ?_))
  have hconst := fun g => congrArg VeSt.tiles ((s.cluster c).ve.onTile_eq (ldTile f) g)
  simp only [VeSt.onTile] at hconst ⊢
  rw [hconst, hconst (fun x => { x with mem := (s.cluster c).ve.stMem f })]
  rfl

/-- Every tile is in the canonical form. -/
theorem VeSt.Ok.wf_tile (h : k.Ok) (t : Nat) : Memory.wf (k.tile t).mem = true := by
  rw [VeSt.tile]
  by_cases ht : t < k.tiles.length
  · rw [List.getD_eq_getElem _ _ ht]
    exact h.bytes _ (List.getElem_mem ht)
  · rw [List.getD_eq_default _ _ (Nat.not_lt.1 ht)]
    rfl

theorem stWidth_pos (f : VEWord) : 0 < stWidth f := by
  rw [stWidth]
  split
  · decide
  · split <;> decide

/-- The elements of an ST fill 1,024 bytes to 4,096. -/
theorem VeSt.Ok.stVals_length (h : k.Ok) : (k.stVals f).length = if f.fmt = 1 ∨ f.fmt = 2 then 2048 else 1024 := by
  rw [VeSt.stVals]
  split
  · rw [List.length_map, h.elems_vr_length]
  · rw [List.length_map, h.vr_length]

theorem VeSt.Ok.getElem?_stVals (h : k.Ok) {i : Nat} (hi : i < if f.fmt = 1 ∨ f.fmt = 2 then 2048 else 1024) :
    (k.stVals f)[i]? = some (if stWidth f = 2 then ((elems (k.vr f.vd.toNat)).getD i 0).toNat else ((k.vr f.vd.toNat).getD i 0).toNat) := by
  rw [VeSt.stVals, stWidth]
  by_cases h16 : f.fmt = 1 ∨ f.fmt = 2
  · have hlen := h.elems_vr_length f.vd.toNat
    rw [if_pos h16] at hi
    rw [if_pos h16, if_pos h16, if_pos rfl, List.getElem?_map, List.getElem?_eq_getElem (by omega), List.getD_eq_getElem _ _ (by omega)]
    rfl
  · have hlen := h.vr_length f.vd.toNat
    have hw : (if f.fmt = 4 ∨ f.fmt = 5 then 1 else 4) ≠ 2 := by split <;> decide
    rw [if_neg h16] at hi
    rw [if_neg h16, if_neg h16, if_neg hw, List.getElem?_map, List.getElem?_eq_getElem (by omega), List.getD_eq_getElem _ _ (by omega)]
    rfl

/-- The bytes of an enabled element read back. -/
theorem VeSt.Ok.read_stMem_of_enabled (h : k.Ok) {i b : Nat} (hi : i < if f.fmt = 1 ∨ f.fmt = 2 then 2048 else 1024) (hb : b < stWidth f)
    (hen : (k.wm f).getLsbD i = true) : (MemOps.read (k.stMem f) ((k.ldAddr f + (stWidth f * i + b)) % 2 ^ 18)).toNat =
      (if stWidth f = 2 then ((elems (k.vr f.vd.toNat)).getD i 0).toNat else ((k.vr f.vd.toNat).getD i 0).toNat) / 256 ^ b % 256 := by
  have hlen : (stBytes (stWidth f) (k.wm f) (k.stVals f)).length ≤ tileSize := by
    rw [stBytes_length, h.stVals_length, stWidth, tileSize]
    split
    · decide
    · split <;> decide
  have hbyte := (getElem?_stBytes (k.wm f) (k.stVals f) i hb).trans (by rw [h.getElem?_stVals hi, Option.map_some, if_pos hen])
  have hread := read_tileWriteFrom_of_mem (a := k.ldAddr f) _ 0 (h.wf_tile (ldTile f)) hlen hbyte
  rw [Nat.zero_add] at hread
  exact (congrArg BitVec.toNat hread).trans (BitVec.toNat_ofNat ..)

/-- Every byte that belongs to no enabled element reads as before. -/
theorem VeSt.Ok.read_stMem_of_outside (h : k.Ok) {x : Nat} (hx : ∀ i < if f.fmt = 1 ∨ f.fmt = 2 then 2048 else 1024, ∀ b < stWidth f,
      (k.wm f).getLsbD i = true → x ≠ (k.ldAddr f + (stWidth f * i + b)) % 2 ^ 18) :
    MemOps.read (k.stMem f) x = MemOps.read (k.tile (ldTile f)).mem x := by
  refine read_tileWriteFrom_of_outside _ 0 (h.wf_tile _) fun j b hj => ?_
  obtain ⟨hlt, hen⟩ := stBytes_enabled (stWidth_pos f) hj
  rw [h.stVals_length] at hlt
  rw [Nat.zero_add, ← Nat.div_add_mod j (stWidth f)]
  exact hx _ hlt _ (Nat.mod_lt _ (stWidth_pos f)) hen

end Sys2Proof.Machine
end

section
namespace Sys2Proof.Machine

/-- Settles O13: LD by the byte each element begins at, ST by the bytes of the enabled elements and the frame. -/
theorem veTileAccess : Obligations.VeTileAccess := by
  intro c f s k n t a byte
  refine ⟨fun h hdrain => ⟨writes16_ld h hdrain, writes32_ld_u8 h hdrain, writes32_ld_s8 h hdrain, writes32_ld h hdrain⟩,
    fun h hdrain hpass => ⟨k.stMem f, fun i hi b hb hen => ?_, fun x hx => ?_, exec_st h hdrain hpass⟩⟩
  · exact h.ok.read_stMem_of_enabled hi hb hen
  · exact h.ok.read_stMem_of_outside hx

end Sys2Proof.Machine
end

section
/-! SUPPORT. The tiles of the Vector Engine's streams (R162, R179, R324): refills, TIN and TOUT. -/

namespace Sys2Proof.Machine

variable {s u : State} {c : Nat} {f : VEWord}

/-! ## Refills -/

/-- A refill leaves the cluster there, its output buffers, the registers and place of its engine, and tile `t`. -/
structure RefillKeeps (c t : Nat) (s u : State) : Prop where
  lt : c < u.clusters.length
  outb : (u.cluster c).outb = (s.cluster c).outb
  vregs : (u.cluster c).ve.v = (s.cluster c).ve.v
  masks : (u.cluster c).ve.m = (s.cluster c).ve.m
  scalars : (u.cluster c).ve.s = (s.cluster c).ve.s
  pc : (u.cluster c).ve.pc = (s.cluster c).ve.pc
  tiles : (u.cluster c).ve.tiles.length = (s.cluster c).ve.tiles.length
  tile : (u.cluster c).ve.tile t = (s.cluster c).ve.tile t

theorem RefillKeeps.refl {t : Nat} (h : c < s.clusters.length) : RefillKeeps c t s s := ⟨h, rfl, rfl, rfl, rfl, rfl, rfl, rfl⟩

theorem RefillKeeps.trans {t : Nat} {s u x : State} (h : RefillKeeps c t s u) (g : RefillKeeps c t u x) : RefillKeeps c t s x :=
  ⟨g.lt, g.outb.trans h.outb, g.vregs.trans h.vregs, g.masks.trans h.masks, g.scalars.trans h.scalars, g.pc.trans h.pc,
    g.tiles.trans h.tiles, g.tile.trans h.tile⟩

/-- A change of the cluster that leaves these parts of it. -/
theorem refillKeeps_onCluster {t : Nat} {g : ClusterSt → ClusterSt} (hc : c < s.clusters.length)
    (hg : ∀ k : ClusterSt, (g k).outb = k.outb ∧ (g k).ve.v = k.ve.v ∧ (g k).ve.m = k.ve.m ∧ (g k).ve.s = k.ve.s ∧ (g k).ve.pc = k.ve.pc)
    (htiles : (g (s.cluster c)).ve.tiles.length = (s.cluster c).ve.tiles.length)
    (htile : (g (s.cluster c)).ve.tile t = (s.cluster c).ve.tile t) : RefillKeeps c t s (s.onCluster c g) := by
  have hcluster : (s.onCluster c g).cluster c = g (s.cluster c) := State.cluster_onCluster hc
  obtain ⟨houtb, hv, hm, hs, hpc⟩ := hg (s.cluster c)
  refine ⟨by simpa using hc, ?_, ?_, ?_, ?_, ?_, ?_, ?_⟩ <;> rw [hcluster] <;> assumption

/-- A tile other than the one that is changed reads as before. -/
theorem VeSt.tile_onTile_ne (k : VeSt) {t i : Nat} (g : TileSt → TileSt) (h : t ≠ i) : (k.onTile i g).tile t = k.tile t := by
  simp [VeSt.tile, VeSt.onTile, List.getD_eq_getElem?_getD, h.symm]

/-- A tile of the engine reads as it was last changed. -/
theorem VeSt.tile_onTile_same (k : VeSt) {t : Nat} (g : TileSt → TileSt) (h : t < k.tiles.length) : (k.onTile t g).tile t = g (k.tile t) := by
  simp [VeSt.tile, VeSt.onTile, List.getD_eq_getElem?_getD, h]

/-- A refill does not touch a tile whose unit has arrived (R324). -/
theorem refillKeeps_veRefill {t : Nat} (n : Nat) (hc : c < s.clusters.length) (ht : ((s.cluster c).ve.tile t).arrived = true) :
    RefillKeeps c t s (veRefill c n s) := by
  induction n generalizing s with
  | zero => exact .refl hc
  | succ n ih =>
    rw [veRefill]
    dsimp only
    split
    · exact .refl hc
    next b hb =>
      split
      · exact .refl hc
      next w rest hw =>
        split
        · exact .refl hc
        next hnext =>
          have hne : t ≠ (s.cluster c).ve.nextIn := by
            rintro rfl
            simp [ht] at hnext
          have htile := VeSt.tile_onTile_ne (s.cluster c).ve (fun x => { x with mem := MemOps.writeN x.mem 0 (w.take tileSize), arrived := true }) hne
          refine RefillKeeps.trans ?_ (ih ?_ ?_)
          · exact refillKeeps_onCluster hc (fun _ => ⟨rfl, rfl, rfl, rfl, rfl⟩) (List.length_modify ..) htile
          · simpa using hc
          · rw [State.cluster_onCluster hc]
            exact (congrArg TileSt.arrived htile).trans ht

/-! ## TIN and TOUT -/

/-- The tile's former unit given up, and the free input tiles refilled. -/
def tinRefilled (c : Nat) (f : VEWord) (s : State) : State :=
  veRefill c 4 (s.onVe c (fun k => k.onTile (bitsOf f.imm.toNat 0 2) (fun x => { x with held := false })))

/-- TIN of a tile whose next unit has arrived. -/
theorem veTin_of_arrived (hheld : let k := (s.cluster c).ve
      ¬((k.tile (bitsOf f.imm.toNat 0 2)).held = true ∧ k.ru.names (bitsOf f.imm.toNat 0 2) = true))
    (harr : (((tinRefilled c f s).cluster c).ve.tile (bitsOf f.imm.toNat 0 2)).arrived = true) :
    veTin c f s = veSet c (fun k => k.onTile (bitsOf f.imm.toNat 0 2) (fun x => { x with arrived := false, held := true })) (tinRefilled c f s) := by
  have hwait : ¬(((s.cluster c).ve.tile (bitsOf f.imm.toNat 0 2)).held && (s.cluster c).ve.ru.names (bitsOf f.imm.toNat 0 2)) = true := by
    simpa using hheld
  rw [veTin, if_neg hwait]
  exact if_pos harr

/-- TIN takes the unit that has arrived: the tile is held, its bytes stay, and the program moves on. -/
theorem exec_tin (h : VeTakes s c 0x90 f) (hheld : let k := (s.cluster c).ve
      ¬((k.tile (bitsOf f.imm.toNat 0 2)).held = true ∧ k.ru.names (bitsOf f.imm.toNat 0 2) = true))
    (harr : ((s.cluster c).ve.tile (bitsOf f.imm.toNat 0 2)).arrived = true) :
    let k := (s.cluster c).ve
    let t := bitsOf f.imm.toNat 0 2
    ∃ u, exec (.tin c f) s = .next u ∧ ((u.cluster c).ve.tile t).held = true ∧ ((u.cluster c).ve.tile t).arrived = false ∧
      ((u.cluster c).ve.tile t).mem = (k.tile t).mem ∧ (u.cluster c).ve.pc = k.pc + 1 ∧
      (u.cluster c).ve.v = k.v ∧ (u.cluster c).ve.m = k.m ∧ (u.cluster c).ve.s = k.s ∧ (u.cluster c).outb = (s.cluster c).outb := by
  intro k t
  have ht : t < k.tiles.length := by
    rw [h.ok.tiles]
    exact Nat.mod_lt _ (by decide)
  let released := s.onVe c (fun k => k.onTile t (fun x => { x with held := false }))
  have hrel : released.cluster c = { s.cluster c with ve := k.onTile t (fun x => { x with held := false }) } :=
    State.cluster_onCluster h.lt
  have htile : (released.cluster c).ve.tile t = { k.tile t with held := false } := by
    rw [hrel]
    exact VeSt.tile_onTile_same _ _ ht
  have hkeeps : RefillKeeps c t released (tinRefilled c f s) :=
    refillKeeps_veRefill 4 (by simpa [released, State.onVe] using h.lt) (by rw [htile]; exact harr)
  have hrefilled : ((tinRefilled c f s).cluster c).ve.tile t = { k.tile t with held := false } := hkeeps.tile.trans htile
  have htiles : t < ((tinRefilled c f s).cluster c).ve.tiles.length := by
    rw [hkeeps.tiles, hrel]
    exact lt_of_lt_of_eq ht (List.length_modify ..).symm
  have hlast := VeSt.tile_onTile_same ((tinRefilled c f s).cluster c).ve (fun x => { x with arrived := false, held := true }) htiles
  rw [hrefilled] at hlast
  let u := (tinRefilled c f s).onVe c (fun k => { k.onTile t (fun x => { x with arrived := false, held := true }) with pc := k.pc + 1 })
  have hu : u.cluster c = _ := State.cluster_onCluster hkeeps.lt
  refine ⟨u, (exec_of_veTakes_result h rfl).trans (congrArg (fun r => Host.Outcome.next (veResult c r))
    (veTin_of_arrived hheld (by rw [hrefilled]; exact harr))), ?_⟩
  rw [hu]
  exact ⟨(congrArg TileSt.held hlast :), (congrArg TileSt.arrived hlast :), (congrArg TileSt.mem hlast :),
    congrArg (· + 1) (hkeeps.pc.trans (by rw [hrel]; rfl)), hkeeps.vregs.trans (by rw [hrel]; rfl), hkeeps.masks.trans (by rw [hrel]; rfl),
    hkeeps.scalars.trans (by rw [hrel]; rfl), hkeeps.outb.trans (by rw [hrel])⟩

/-- TOUT hands the tile to the output stream and marks it draining (R162, R324). -/
theorem exec_tout (h : VeTakes s c 0x91 f) (hnames : (s.cluster c).ve.ru.names (bitsOf f.imm.toNat 0 2) = false)
    (hdrain : ((s.cluster c).ve.tile (bitsOf f.imm.toNat 0 2)).draining = false) :
    let k := (s.cluster c).ve
    let t := bitsOf f.imm.toNat 0 2
    exec (.tout c f) s = .next (s.onCluster c (fun q => { q with
      outUnit := kset q.outUnit k.outStream 2
      outb := outPut k.outStream (MemOps.readN (k.tile t).mem 0 (2 ^ 18)) k.status q.outb
      ve := { q.ve with
        tiles := q.ve.tiles.modify t (fun x => { x with draining := true })
        drains := q.ve.drains ++ [t]
        pc := q.ve.pc + 1 } })) := by
  intro k t
  rw [exec_of_veTakes_result h rfl, veTout, if_neg (by simp [hnames, hdrain])]
  exact congrArg Host.Outcome.next (State.onCluster_onCluster ..)

end Sys2Proof.Machine
end

section
/-! SUPPORT. The start of a VE command and the words that break its program's checks (R159, R180 to R185). -/

namespace Sys2Proof.Machine

variable {s : State} {c : Nat} {w : List Byte}

/-! ## VEPROG -/

/-- Nothing of a stream has come: there is nothing to refill with. -/
theorem veRefill_of_no_stream (n : Nat) (h : ((s.cluster c).inb.find? (fun b => b.num == (s.cluster c).ve.inStream)) = none) :
    veRefill c n s = s := by
  cases n with
  | zero => rfl
  | succ n => simp only [veRefill, h]

/-- The word of END with its other fields 0. -/
def endWord : Dword := BitVec.ofNat 64 (0xFF * 2 ^ 56)

theorem veChecked_endWord (c : Nat) (s : State) : veChecked (veOp endWord) c (veFields endWord) s = veEnd c (veFields endWord) s := by
  have hop : veOp endWord = 0xFF := by decide
  have hok : veWordOk 0xFF (veFields endWord) = true := by decide
  rw [hop, veChecked, if_pos hok]
  rfl

/-- A program that stands at END ends there. -/
theorem veRun_of_end (n : Nat) (hpc : (s.cluster c).ve.pc < 8192) (hi : (s.cluster c).ve.instr (s.cluster c).ve.pc = endWord) :
    veRun c (n + 1) s = veEnd c (veFields endWord) s := by
  rw [veRun]
  simp only [if_neg (Nat.not_le.2 hpc), hi, veChecked_endWord]
  rfl

/-- The entry of a command whose word passes its checks lies inside the instruction memory (R182). -/
theorem entry_lt_of_veCmdFail {lim : Nat} (h : veCmdFail lim w = none) : fld w 4 2 < lim :=
  of_decide_eq_true ((firstFail_eq_none_iff _).1 h _ (List.mem_of_getElem? (i := 4) rfl))

/-- A well-formed command on a free engine starts and runs. -/
theorem exec_veprog_of_starts (hfree : s.veFree c = true) (hw : w.length = 32) (hfail : veCmdFail 8192 w = none)
    (hbusy : (s.cluster c).veRegs.busy = false) : exec (.veprog c w false) s = .next (veGo c (veStart c w s)) := by
  change execVeprog c w false s = _
  simp [execVeprog, fit_of_length hw, hfree, hfail, hbusy]

/-- A cluster whose VE command has completed at END without an error. -/
def ClusterSt.veEnded (k : ClusterSt) : ClusterSt :=
  { k with
    veRegs := { k.veRegs with lastStatus := k.ve.status, lastTag := k.ve.tag, count := k.veRegs.count + 1, busy := false },
    inb := k.inb.filter (fun b => !(b.num == k.ve.inStream && b.tiles.isEmpty)) }

theorem veEnd_of_ok (f : VEWord) (hst : (s.cluster c).ve.status = stOk) : veEnd c f s = .fin (s.onCluster c .veEnded) := by
  refine congrArg VeRes.fin (State.onCluster_congr ?_)
  simp only [hst, if_true, ClusterSt.veEnded]

theorem getD_replicate_of_lt {α : Type} {n i : Nat} {a d : α} (h : i < n) : (List.replicate n a).getD i d = a := by
  rw [List.getD_eq_getElem _ _ (by rwa [List.length_replicate]), List.getElem_replicate]

/-- A cluster on which a VE command of word `w` has started and ended. -/
def ClusterSt.veDone (k : ClusterSt) (w : List Byte) : ClusterSt :=
  ClusterSt.veEnded { k with
    veRegs := { k.veRegs with busy := true }
    ve := { VeSt.reset with
      s := List.replicate 14 0 ++ [BitVec.ofNat 32 (fld w 0x10 4), BitVec.ofNat 32 (fld w 0x14 4)]
      pc := fld w 4 2, imem := k.ve.imem, tiles := k.ve.tiles.map (fun t => { t with arrived := false, held := false })
      tileMap := fld w 1 1, dom := bitsOf (fld w 2 1) 0 6
      inStream := fld w 8 2, outStream := fld w 0xA 2, nextIn := nextInput (fld w 1 1) 3
      drains := k.ve.drains, tag := BitVec.ofNat 32 (fld w 0x1C 4) } }

/-- A command that starts at END, with nothing of its input stream there, ends at once. -/
theorem veGo_veStart_of_end (hc : c < s.clusters.length) (hpc : fld w 4 2 < 8192)
    (hin : ((s.cluster c).inb.find? (fun b => b.num == fld w 8 2)) = none)
    (hend : (s.cluster c).ve.instr (fld w 4 2) = endWord) :
    veGo c (veStart c w s) = planDone (.cluster c) stOk (s.onCluster c (fun _ => (s.cluster c).veDone w)) := by
  let started := veStart c w s
  have hstarted : started.cluster c = _ := State.cluster_onCluster hc
  have hst : (started.cluster c).ve.status = stOk := by rw [hstarted]; rfl
  have hlt : c < started.clusters.length := by simpa [started, veStart] using hc
  have hended : started.onCluster c .veEnded = s.onCluster c (fun _ => (s.cluster c).veDone w) := by
    rw [← State.onCluster_onCluster_const, State.onCluster_eq_const hlt, hstarted]
    rfl
  have hendedSt : ((started.onCluster c .veEnded).cluster c).ve.status = stOk := by
    rw [State.cluster_onCluster hlt]
    exact hst
  rw [veGo, veRefill_of_no_stream 4 (by rw [hstarted]; exact hin), veRun_of_end _ (by rw [hstarted]; exact hpc) (by rw [hstarted]; exact hend),
    veEnd_of_ok _ hst, veResult, hendedSt, hended]

/-! ## A word that breaks the checks -/

/-- Each row of the Vector Engine's table is one instruction behind the checks of its opcode. -/
theorem exec_veRows : ∀ p ∈ veRows, ∃ g, ∀ c f s, exec (p.1 c f) s = veOne c (veGuard p.2 f g) s := by
  intro p hp
  fin_cases hp
  all_goals exact ⟨_, fun _ _ _ => rfl⟩

/-- The first element that a test holds of, after a change of it that the test does not see. -/
theorem find?_updFirst {α : Type} {p : α → Bool} {g : α → α} (hp : ∀ a, p (g a) = p a) (l : List α) :
    (updFirst l p g).find? p = (l.find? p).map g := by
  induction l with
  | nil => rfl
  | cons a l ih =>
    by_cases ha : p a = true
    · simp [updFirst, ha, hp a]
    · simp [updFirst, ha, ih]

/-- A unit handed over with a status: the stream keeps the first that is not OK. -/
theorem bufStatus_outPut (num : Nat) (tile : List Byte) (st : Half) (l : List StreamBuf) :
    bufStatus (outPut num tile st l) num = if bufStatus l num = stOk then st else bufStatus l num := by
  have hfirst : firstBad [st] = st := by
    rw [firstBad]
    split
    case isTrue h => rw [h]; rfl
    case isFalse => rfl
  rw [outPut, outPieces]
  simp only [List.map_cons, List.map_nil, hfirst]
  cases hfind : l.find? (fun b => b.num == num) with
  | none =>
    have hany : l.any (fun b => b.num == num) = false := by simpa [List.find?_eq_none] using hfind
    simp [bufStatus, hany, hfind, List.find?_append]
  | some b =>
    have hany : l.any (fun b => b.num == num) = true := by
      rw [List.any_eq_true]
      exact ⟨b, List.mem_of_find?_eq_some hfind, List.find?_some (p := fun b : StreamBuf => b.num == num) hfind⟩
    have hold : bufStatus l num = b.status := by rw [bufStatus, hfind]; rfl
    simp only [hany, if_true, hold]
    rw [bufStatus, find?_updFirst, hfind]
    · rfl
    · exact fun _ => rfl

end Sys2Proof.Machine
end

section
namespace Sys2Proof.Machine

/-- Settles O19: TIN by what a refill keeps, TOUT by its two changes of the cluster. -/
theorem veTileStreams : Obligations.VeTileStreams := by
  intro c f s k t
  have ht : bitsOf f.imm.toNat 0 2 = t := bitsOf_zero ..
  rw [← ht]
  exact ⟨exec_tin, exec_tout⟩

/-- Settles O21: the registers of the command that has ended are those that it started with. -/
theorem veProgramStart : Obligations.VeProgramStart := by
  intro c w s hok hfree hw hfail hbusy hin hend
  have hc : c < s.clusters.length := by
    obtain ⟨hlen, -⟩ := hok
    simp only [State.veFree, State.clusterUp, Bool.and_eq_true, decide_eq_true_eq] at hfree
    omega
  refine ⟨(s.cluster c).veDone w, ?_, fun i hi => ?_, fun i h1 h8 => ?_, fun i hi => ?_, rfl, rfl, rfl, rfl, rfl, rfl, rfl, rfl, rfl⟩
  · rw [exec_veprog_of_starts hfree hw hfail hbusy, veGo_veStart_of_end hc (entry_lt_of_veCmdFail hfail) hin hend]
  · exact getD_replicate_of_lt hi
  · obtain ⟨j, rfl⟩ := Nat.exists_eq_add_of_le' h1
    rw [VeSt.mr, if_neg (Nat.succ_ne_zero j)]
    exact List.getD_cons_succ.trans (getD_replicate_of_lt (by omega))
  · exact (List.getD_append _ _ _ _ (by rwa [List.length_replicate])).trans (getD_replicate_of_lt hi)

/-- Settles O59: the command ends with BAD_FORMAT before its instruction does anything. -/
theorem veBadWord : Obligations.VeBadWord := by
  intro p hp c f s hok hfree hbad
  obtain ⟨g, hg⟩ := exec_veRows p hp
  refine ⟨{ s.cluster c with
    veRegs := { (s.cluster c).veRegs with
      lastStatus := stBadFormat, lastTag := (s.cluster c).ve.tag, count := (s.cluster c).veRegs.count + 1, busy := false }
    outb := outPut (s.cluster c).ve.outStream [] stBadFormat (s.cluster c).outb }, ?_, rfl, rfl, rfl, rfl, ?_, fun hst => ?_⟩
  · rw [hg, veOne, if_pos hfree, veGuard, if_neg (by simp [hbad]), veResult, veBad]
    exact congrArg (fun t => Host.Outcome.next (dcpFault (planDone _ _ t))) (State.onCluster_congr rfl)
  · rw [bufStatus_outPut]
    split
    case isTrue => decide
    case isFalse h => exact h
  · rw [bufStatus_outPut, if_pos hst]

end Sys2Proof.Machine
end

section
/-! SUPPORT. Models and table sets (R181, R189 to R198, R485, R486): the bodies of their messages where every check passes, and the
completions that wait for work or for the last model that names a set. -/

namespace Sys2Proof.Machine

variable {m : Msg} {a s : State} {x : Model} {i : Nat}

theorem modelLoad_of_ok {pkg : Package} {place : Nat} (h : ModelLoadOk m pkg place a) : modelLoad m pkg a =
    (msgWork m .modelLoad a.loadIdx 0 a.loadIdx ((a.rand 16).2.onCtrl (fun k => { k with
      models := k.models ++ [loadingModel m pkg place a] })), waitFor m 0x0301 0 none 0) := by
  obtain ⟨hlive, hlen, hspace, hregions, hkv, hpkg, hown, hpass, hdoomed, hidx, hplace, hqueues, hchain⟩ := h
  have hall : (a.queuePlace pkg).all (fun q => decide (q.2 < 256)) = true := List.all_eq_true.2 fun q hq => decide_eq_true (hqueues q hq)
  rw [modelLoad, checked_of_pass _ _ (by simp [hlive, hlen, hspace, hregions, hkv, hpkg, hown, hpass, hdoomed, hidx, hplace, hall, hchain]),
    hplace]
  rfl

theorem modelUnload_of_ok (hlive : a.live 4 (m.f 0 4) = true) (hown : a.owns m.client 4 (m.f 0 4) = true)
    (hun : a.unloading (m.f 0 4) = false) (hbusy : a.modelBusy (hIdx (m.f 0 4)) = false) :
    let i := hIdx (m.f 0 4)
    modelUnload m a = (dropWork (fun b => decide (b.model = i) && (b.kind == .reuse || b.kind == .snapshot))
      (a.onModel i (fun k => { k with unloading := some (a.now + 2) })), waitFor m 0x0302 (m.f 0 4) (some (a.now + 2)) 0) := by
  intro i
  rw [modelUnload, checked_of_pass _ _ (by simp [hlive, hown, hun, hbusy])]

theorem modelSetTables_of_ok (h : SetTablesOk m x a) : modelSetTables m a =
    (a.onModel (hIdx (m.f 0 4)) (fun k => { k with nextTset := some (hIdx (m.f 4 4), a.now + 2) }),
      waitFor m 0x0303 (m.f 0 4) (some (a.now + 2)) 0) := by
  obtain ⟨hlive, hliveT, hmodel, hcompat, hslots, hexp, hown, hownT, hun, hdoomed, hnext⟩ := h
  have hexp' : (!pkgNeedsExp x.pkg || decide (tsExpSlot (a.tsetImg (hIdx (m.f 4 4))) ≠ 0xFF)) = true := by
    cases hneeds : pkgNeedsExp x.pkg with
    | false => rfl
    | true => simpa using hexp hneeds
  rw [modelSetTables, checked_of_pass _ _ ?_]
  simp only [hmodel, hcompat, beq_self_eq_true, hslots, hexp', hlive, hliveT, hown, hownT, hun, hdoomed, hnext]
  simp

/-- TSET_CREATE of an image that passes its checks, with an index and a place for it left. -/
theorem tsetCreate_of_ok {q : (Nat × Nat × Nat) × State} (hlen : m.refLen = 0x10400) (href : RefOk m 0x10400 false a)
    (himg : tsetFail (a.refRead m 0x10400) = none) (hidx : a.nextIdx 8 = some i)
    (hplace : (placeStripe 0 (a.domainOf m.client) none (a.refRead m 0x10400) a).isSome = true)
    (hq : let b := (a.issue 8 i).onCtrl (fun k => { k with
        tsets := k.tsets ++ [{ idx := i, client := m.client, image := a.refRead m 0x10400, destroying := none }] })
      placeStripe (BitVec.ofNat 32 (b.handleOf 8 i)) (a.domainOf m.client) none (a.refRead m 0x10400) b = some q) :
    tsetCreate m a = (q.2, .done stOk (natLe 4 (((a.issue 8 i).onCtrl (fun k => { k with
      tsets := k.tsets ++ [{ idx := i, client := m.client, image := a.refRead m 0x10400, destroying := none }] })).handleOf 8 i))) := by
  obtain ⟨hformat, hdomain⟩ := refChecks_pass href
  have himage : (if (decide (m.refLen = 0x10400) && (a.refChecks m m.refLen false).1.all (·.1) &&
      (a.refChecks m m.refLen false).2.all (·.1)) = true then a.refRead m m.refLen else []) = a.refRead m 0x10400 := by
    rw [hlen, if_pos]
    simp only [decide_true, Bool.true_and, Bool.and_eq_true, List.all_eq_true]
    exact ⟨hformat, hdomain⟩
  rw [tsetCreate]
  simp only [himage]
  rw [checked_of_pass]
  · simp only [hidx] at hq ⊢
    rw [hq]
  · rw [hlen]
    simp only [List.forall_mem_append, List.forall_mem_cons, himg, hidx, hplace]
    exact ⟨⟨⟨⟨⟨by simp, by simp⟩, hformat⟩, by simp, by simp⟩, hdomain⟩, by simp, by simp⟩

theorem tsetDestroy_of_ok (hlive : a.live 8 (m.f 0 4) = true) (hown : a.owns m.client 8 (m.f 0 4) = true)
    (hdoomed : a.tsetDoomed (hIdx (m.f 0 4)) = false) : tsetDestroy m a =
      if a.tsetNamed (hIdx (m.f 0 4)) then
        (a.onCtrl (fun k => { k with
          tsets := updAll k.tsets (·.idx == hIdx (m.f 0 4)) (fun t => { t with destroying := some (m.client, m.mbox) }) }),
          waitFor m 0x0312 (m.f 0 4) none 0)
      else (dropTset (hIdx (m.f 0 4)) a, .done stOk []) := by
  rw [tsetDestroy, checked_of_pass _ _ (by simp [hlive, hown, hdoomed])]

theorem exec_tsetDestroyComplete_of_unnamed {t : Tset} {w : Nat × Nat} (ht : s.tset i = some t) (hw : t.destroying = some w)
    (hnamed : s.tsetNamed i = false) : exec (.tsetDestroyComplete i) s = .next (completeOwned w.1 w.2 stOk [] (dropTset i s)) := by
  change execTsetDestroyComplete i s = _
  simp [execTsetDestroyComplete, ht, hw, hnamed]

/-! ## MODEL_LOAD_COMPLETE -/

/-- The class B work of a client's MODEL_LOAD in a mailbox. -/
def modelLoadWork (c b : Nat) (w : BWork) : Bool := w.kind == .modelLoad && w.client == c && w.mbox == b

variable {c b : Nat} {w : BWork}

/-- The load whose regions find their places: the model takes its index. -/
theorem exec_modelLoadComplete_of_placed {q : List (List (Nat × Nat × Nat)) × State} {t : List Nat × State}
    (hfind : s.plan.bwork.find? (modelLoadWork c b) = some w) (hmodel : s.model w.obj = some x) (hidx : s.nextIdx 4 = some i)
    (hruns : s.copyRuns (DcpCopy.isFor w.same) = true)
    (hq : let s1 := (dropLoad w.obj (dropWork (· == w) s)).issue 4 i
      placeModel (BitVec.ofNat 32 (s1.handleOf 4 i)) x.dom (s.stripeStks x.dom (s.svcList .nmu)) x.pkg s1 = some q)
    (ht : let s1 := (dropLoad w.obj (dropWork (· == w) s)).issue 4 i
      placeRotary (BitVec.ofNat 32 (s1.handleOf 4 i)) x.dom (s.stripeStks x.dom (s.svcList .nmu)) x.pkg q.2 = some t) :
    let s1 := (dropLoad w.obj (dropWork (· == w) s)).issue 4 i
    let y : Model := { x with
      idx := i, loaded := true, stripes := q.1, rotaryAt := t.1
      pkg := rebasePkg (match x.veBase with | [] => 0 | p :: _ => p.2.1) x.queues x.pkg }
    exec (.modelLoadComplete c b) s = .next (reviewModels (completeOwned c b stOk (natLe 4 (BitVec.ofNat 32 (s1.handleOf 4 i)).toNat)
      (relayAgain (setExp i (BitVec.ofNat 32 (s.handleOf 8 x.tset))
        (writePrograms y (t.2.onCtrl (fun k => { k with models := k.models ++ [y] }))))))) := by
  intro s1 y
  have hfind' : s.plan.bwork.find? (fun b' => b'.kind == .modelLoad && b'.client == c && b'.mbox == b) = some w := hfind
  change execModelLoadComplete c b s = _
  simp only [execModelLoadComplete, hfind', hruns, hmodel, hidx]
  simp only at hq ht
  simp only [hq, ht, Option.bind_some, Option.map_some]
  rfl

/-- The load that finds no place for the model's regions ends with REFUSED_PAGES. -/
theorem exec_modelLoadComplete_of_full (hfind : s.plan.bwork.find? (modelLoadWork c b) = some w) (hmodel : s.model w.obj = some x)
    (hidx : s.nextIdx 4 = some i) (hruns : s.copyRuns (DcpCopy.isFor w.same) = true)
    (hq : let s1 := (dropLoad w.obj (dropWork (· == w) s)).issue 4 i
      placeModel (BitVec.ofNat 32 (s1.handleOf 4 i)) x.dom (s.stripeStks x.dom (s.svcList .nmu)) x.pkg s1 = none) :
    exec (.modelLoadComplete c b) s = .next (completeOwned c b stRefusedPages [] (dropLoad w.obj (dropWork (· == w) s))) := by
  have hfind' : s.plan.bwork.find? (fun b' => b'.kind == .modelLoad && b'.client == c && b'.mbox == b) = some w := hfind
  change execModelLoadComplete c b s = _
  simp only [execModelLoadComplete, hfind', hruns, hmodel, hidx]
  simp only at hq
  simp only [hq, Option.bind_none]
  rfl

end Sys2Proof.Machine
end

section
namespace Sys2Proof.Machine

/-- Settles O50: each body replies as stated once its checks pass, and each completion finds what its message left. -/
theorem modelMessages : Obligations.ModelMessages := by
  refine ⟨?load, ?complete, ?unload, ?setTables, ?create, ?destroy, ?destroyed⟩
  case load =>
    intro m pkg s place h a hok
    exact waits_of_body rfl h (modelLoad_of_ok hok)
  case complete =>
    intro c b s w x i hfind hmodel hidx hruns s1 owner stks
    exact ⟨fun q t hq ht => exec_modelLoadComplete_of_placed hfind hmodel hidx hruns hq ht,
      fun hq => exec_modelLoadComplete_of_full hfind hmodel hidx hruns hq⟩
  case unload =>
    intro m s h a i hlive hown hun hbusy
    exact waits_of_body rfl h (modelUnload_of_ok hlive hown hun hbusy)
  case setTables =>
    intro m s x h a hok
    exact waits_of_body rfl h (modelSetTables_of_ok hok)
  case create =>
    intro m s i h a img b dom hlen href himg hidx hplace q hq
    exact answers_of_body rfl h (tsetCreate_of_ok hlen href himg hidx hplace hq)
  case destroy =>
    intro m s h a i hlive hown hdoomed
    have hbody := tsetDestroy_of_ok hlive hown hdoomed
    exact ⟨fun hnamed => answers_of_body rfl h (hbody.trans (if_neg (Bool.not_eq_true _ ▸ hnamed))),
      fun hnamed => waits_of_body rfl h (hbody.trans (if_pos hnamed))⟩
  case destroyed =>
    intro i s t w ht hw hnamed
    exact exec_tsetDestroyComplete_of_unnamed ht hw hnamed

end Sys2Proof.Machine
end

section
/-! SUPPORT. The parts of the state after reset (R44, R156, R270, R343, R352, R454, R530). -/

namespace Sys2Proof.Machine

theorem VeSt.ok_reset : VeSt.reset.Ok where
  vregs := List.length_replicate ..
  lanes r hr := by
    rw [List.eq_of_mem_replicate hr]
    exact List.length_replicate ..
  masks := rfl
  scalars := rfl
  tiles := rfl
  bytes t ht := by
    rw [List.eq_of_mem_replicate ht]
    rfl

theorem clustersOk_reset : ClustersOk State.reset.clusters :=
  ⟨List.length_replicate .., fun k hk => by rw [List.eq_of_mem_replicate hk]; exact VeSt.ok_reset⟩

theorem nmusOk_reset : NmusOk State.reset.nmus :=
  ⟨List.length_replicate .., fun k hk => by rw [List.eq_of_mem_replicate hk]; exact ⟨rfl, rfl, rfl⟩⟩

theorem PlanRegs.ok_empty : PlanRegs.empty.Ok := ⟨rfl, rfl, rfl, by decide⟩

theorem PlanSt.ok_reset : PlanSt.reset.Ok := ⟨PlanRegs.ok_empty, fun _ h => by cases h⟩

theorem MemSt.ok_reset : MemSt.reset.Ok := ⟨rfl, rfl, by decide, fun _ h => by cases h⟩

theorem YardSt.ok_reset : YardSt.reset.Ok where
  yarders := List.length_replicate ..
  legal y hy := by
    rw [List.eq_of_mem_replicate hy]
    exact ⟨rfl, rfl, rfl⟩
  split := by decide
  queues := List.length_replicate ..
  room q hq := by
    rw [List.eq_of_mem_replicate hq]
    exact Nat.zero_le _

theorem RotSt.ok_reset : RotSt.reset.Ok := ⟨rfl, rfl, fun _ h => by cases h⟩

theorem SafeSt.ok_reset : SafeSt.reset.Ok := fun _ => ⟨rfl, rfl, rfl⟩

theorem PowerSt.ok_reset : PowerSt.reset.Ok := ⟨rfl, rfl⟩

end Sys2Proof.Machine
end

section
namespace Sys2Proof.Machine

/-- Settles O2: part by part. -/
theorem resetInv : Obligations.ResetInv where
  clusters := clustersOk_reset
  nmus := nmusOk_reset
  plan := PlanSt.ok_reset
  mem := MemSt.ok_reset
  yard := YardSt.ok_reset
  links := List.length_replicate ..
  audio := ⟨rfl, rfl, rfl, rfl⟩
  safe := SafeSt.ok_reset
  rot := RotSt.ok_reset
  power := PowerSt.ok_reset
  bb := rfl

end Sys2Proof.Machine
end

section
/-! SUPPORT. The cap that a reset of the whole module loads: it comes from the NOR's copy of the configuration store. -/

namespace Sys2Proof.Machine

theorem windowParts_power (s : State) : (windowParts s).power = s.power := by
  unfold windowParts
  split
  · rfl
  · rfl

theorem bbAdd_power (type sev unit idx : Nat) (st : Half) (data : List Byte) (s : State) :
    (bbAdd type sev unit idx st data s).power = s.power := rfl

/-- The record of an image type whose trial a reset took back changes no power register. -/
theorem revertRecords_power (l : List (((ImgType × Bool) × ImgType) × Nat)) (s : State) :
    (l.foldl (fun (r : State) (p : ((ImgType × Bool) × ImgType) × Nat) =>
      if p.1.1.2 then bbAdd 0x61 1 0 0 stOk (natLe 1 (p.2 + 1) ++ natLe 1 (imgSvn p.1.2.trialSlot) ++ natLe 1 2) r else r) s).power =
      s.power := by
  induction l generalizing s with
  | nil => rfl
  | cons p l ih =>
    rw [List.foldl_cons, ih]
    split
    · exact bbAdd_power ..
    · rfl

theorem fullReset_capW (kind cause : Nat) (s : State) :
    (fullReset kind cause s).power.capW = BitVec.ofNat 16 s.power.nor.stored.capW :=
  congrArg PowerSt.capW ((bbAdd_power ..).trans ((revertRecords_power ..).trans (windowParts_power _)))

/-- An off module about to be powered up, everything at its reset value but the cap in the NOR's copy of the configuration
store: 0 W, which R562 does not allow. The invariant speaks of CAP_W and of the store the DCP works with, not of that copy. -/
def zeroCapState : State :=
  { State.reset.onPower (fun p => { p with mode := .off, nor := { p.nor with stored := { p.nor.stored with capW := 0 } } }) with
    pending := [.powerUp 54000] }

theorem zeroCapState_inv : zeroCapState.Inv :=
  have h : State.reset.Inv := resetInv
  { h with power := h.power }

/-- The input meets the start condition, so the command is a power-on reset. -/
theorem step_zeroCapState : ∃ s : State, step zeroCapState = .next (fullReset 0 1 s) ∧ s.power.nor.stored.capW = 0 :=
  ⟨_, rfl, rfl⟩

end Sys2Proof.Machine
end

section
namespace Sys2Proof.Machine

/-- Refutes O3: the invariant does not say that the NOR's copy of the configuration store holds a legal cap, and a reset of the
whole module loads CAP_W from that copy. From `zeroCapState`, which meets the invariant, POWER_UP leaves CAP_W at 0. -/
theorem not_stepKeepsInv : ¬ Obligations.StepKeepsInv := by
  unfold Obligations.StepKeepsInv
  intro keeps
  obtain ⟨s, hstep, hcap⟩ := step_zeroCapState
  obtain ⟨legal, -⟩ := (keeps _ _ zeroCapState_inv hstep).power
  rw [fullReset_capW, hcap] at legal
  exact absurd legal (by decide)

end Sys2Proof.Machine
end

section
/-! SUPPORT. What SFU_BANK_LOAD leaves: the bank that the set and the arrived bytes give, and the end of the planned load (R195, R197). -/

namespace Sys2Proof.Machine

variable {s : State} {c : Nat} {tset : Word} {image data : List Byte} {ts : Option Tset} {t : Tset}

/-- The table set of a handle, if it still exists. -/
def State.tsetOf (s : State) (tset : Word) : Option Tset := s.ctrl.tsets.find? (fun t => s.handleOf 8 t.idx == tset.toNat)

/-- The descriptors and coefficients that a load checks: what its stream has delivered, or the operand's where no stream has
(log entry 140). -/
def State.loadBytes (s : State) (c : Nat) (image : List Byte) : List Byte :=
  fit 66496 (if (s.cluster c).sfu.arrived = [] then image else (s.cluster c).sfu.arrived)

/-- The check of a load: its set exists and the bytes have the set's DATA_CRC. -/
def bankPasses (ts : Option Tset) (data : List Byte) : Bool :=
  match ts with
  | some t => decide ((crc32c data).toNat = fld t.image 0x38 4)
  | none => false

/-- The bank that a load of the set leaves: the set's header with the bytes, or nothing where the check fails. -/
def bankLoaded (tset : Word) (ts : Option Tset) (data : List Byte) : SfuBank :=
  match ts with
  | some t => if bankPasses (some t) data then { set := tset, valid := true, compat := tsCompat t.image, image := t.image.take 64 ++ data } else .empty
  | none => .empty

theorem bankLoaded_of_fails (h : bankPasses ts data = false) : bankLoaded tset ts data = .empty := by
  cases ts with
  | none => rfl
  | some t => exact if_neg (by simp [h])

theorem bankLoaded_of_passes (h : bankPasses (some t) data = true) :
    bankLoaded tset (some t) data = { set := tset, valid := true, compat := tsCompat t.image, image := t.image.take 64 ++ data } :=
  if_pos h

/-- The SFU when a load has ended with bank `b`: the bank that is active and the switch to it stay. -/
def SfuSt.loadEnded (k : SfuSt) (b : SfuBank) (ok : Bool) : SfuSt :=
  { k with
    bankA := if k.active then b else k.bankA, bankB := if k.active then k.bankB else b,
    loadErr := k.loadErr || !ok, loads := k.loads + 1, loading := false, arrived := [] }

/-- The plan with its due load of the set at its end. -/
def PlanSt.loadEnded (due : Option BankLoad) (ok : Bool) (p : PlanSt) : PlanSt :=
  { p with curRegs := { p.curRegs with
    loads := updFirst p.curRegs.loads (fun x => some x == due) (fun x => { x with done := true, failed := !ok }) } }

theorem exec_sfuBankLoad_of_due (hup : s.clusterUp c) (hdue : (s.loadDue c tset).isSome) :
    let ts := s.tsetOf tset
    let data := s.loadBytes c image
    exec (.sfuBankLoad c tset image) s = .next ((s.onPlan (.loadEnded (s.loadDue c tset) (bankPasses ts data))).onCluster c
      (fun k => { k with sfu := k.sfu.loadEnded (bankLoaded tset ts data) (bankPasses ts data) })) := by
  intro ts data
  have hruns : ¬ (!s.clusterUp c || (s.loadDue c tset).isNone) = true := by simp [hup, Option.isNone_eq_false_iff.2 hdue]
  change execSfuBankLoad c tset image s = _
  rw [execSfuBankLoad, if_neg hruns]
  simp only [List.isEmpty_iff]
  have hfind : s.ctrl.tsets.find? (fun t => s.handleOf 8 t.idx == tset.toNat) = ts := rfl
  rw [hfind]
  clear_value ts
  cases ts with
  | none => rfl
  | some t => rfl

end Sys2Proof.Machine
end

section
namespace Sys2Proof.Machine

/-- Settles O23: the bank is the one that the set and the checked bytes give, by the outcome of the check. -/
theorem sfuBankLoads : Obligations.SfuBankLoads := by
  intro c tset image s hup hdue ts data good
  refine ⟨bankLoaded tset ts data, exec_sfuBankLoad_of_due hup hdue, fun hbad => bankLoaded_of_fails hbad, fun t hts hgood => ?_⟩
  have hpass : bankPasses (some t) data = true := hts ▸ hgood
  rw [hts, bankLoaded_of_passes hpass]
  exact ⟨rfl, rfl, rfl⟩

end Sys2Proof.Machine
end

section
/-! SUPPORT. State objects (R217, R222 to R230, R487, R488): the bodies of their messages where every check passes, and the
completions that wait for the last pin of an object or for a plan's part of a copy. -/

namespace Sys2Proof.Machine

variable {m : Msg} {a s u : State} {o : StateObj} {x : Model} {i : Nat}

/-! ## Creation and destruction -/

/-- An object can be made only while an index is left to issue. -/
theorem nextIdx_isSome_of_newObj {client dom model heads dk16 dv16 layers : Nat} {owner : Word} {vec : Bool} {q : Nat × State}
    (h : newObj client dom model owner heads dk16 dv16 layers vec s = some q) : (s.nextIdx 3).isSome = true := by
  cases hidx : s.nextIdx 3 with
  | some j => rfl
  | none => simp [newObj, hidx] at h

theorem stateCreate_of_ok (h : StateCreateOk m x a)
    (hnew : newObj m.client (a.domainOf m.client) (hIdx (m.f 0 4)) (BitVec.ofNat 32 (m.f 4 4)) (m.f 8 1) (m.f 9 1) (m.f 0xA 1)
      (m.f 0xC 2) (m.f 0xB 1 == 1) a = some (i, u)) :
    stateCreate m a = (u, .done stOk (natLe 4 (u.handleOf 3 i))) := by
  have hidx := nextIdx_isSome_of_newObj hnew
  obtain ⟨hlive, hliveO, hh1, hh64, hk1, hk8, hv1, hv8, hvec, hl1, hl256, hbody, hz, hmodel, ⟨g, hg, hshape⟩, hown, hownO, hun⟩ := h
  have hrec : x.pkg.recurrent.any (fun g => g.heads == m.f 8 1 && g.dk16 == m.f 9 1 && g.dv16 == m.f 0xA 1 && g.layers == m.f 0xC 2 &&
      g.decayVec == (m.f 0xB 1 == 1)) = true := by
    obtain ⟨heads, dk16, dv16, layers, vec⟩ := hshape
    exact List.any_eq_true.2 ⟨g, hg, by simp [heads, dk16, dv16, layers, vec, beq_eq_decide]⟩
  rw [stateCreate, checked_of_pass _ _ (by
    simp only [List.forall_mem_cons, hlive, hliveO, hh1, hh64, hk1, hk8, hv1, hv8, hvec, hl1, hl256, hbody, hz, hmodel, hrec, hown,
      hownO, hun, hidx, and_self, decide_true, Bool.and_self, Bool.not_false, List.not_mem_nil, false_implies, implies_true])]
  simp only [hnew]

theorem stateDestroy_of_force (h : NamesObj m o a) (hforce : m.f 4 4 = 1) :
    stateDestroy m a = (forceDestroy (hIdx (m.f 0 4)) a, .done stOk []) := by
  obtain ⟨hlive, hown, -⟩ := h
  rw [stateDestroy, checked_of_pass _ _ (by simp [hlive, hown, hforce])]
  simp [hforce]

/-- Without FORCE an object at rest is dropped at once, or waits for its last pin (R228). -/
theorem stateDestroy_of_idle (h : NamesObj m o a) (hforce : m.f 4 4 = 0) (hswap : o.swap = none) (hdest : o.destroying = none)
    (hcopies : o.copies = 0) (howner : o.owner = 0) :
    let i := hIdx (m.f 0 4)
    stateDestroy m a =
      if a.pinned i then (a.onObj i (fun o => { o with destroying := some (m.client, m.mbox) }), waitFor m 0x0402 (m.f 0 4) none 0)
      else (dropObj i a, .done stOk []) := by
  obtain ⟨hlive, hown, hobj⟩ := h
  rw [stateDestroy, checked_of_pass _ _ (by simp [hlive, hown, hforce, hobj, hswap, hdest, hcopies, howner])]
  simp [hforce]

theorem exec_pinnedDestroy_of_unpinned {c b : Nat} (hobj : s.obj i = some o) (hdest : o.destroying = some (c, b))
    (hpin : s.pinned i = false) : exec (.pinnedDestroy i) s = .next (completeOwned c b stOk [] (dropObj i s)) := by
  change execPinnedDestroy i s = _
  simp [execPinnedDestroy, hobj, hdest, hpin]

/-! ## Resets and copies -/

theorem stateReset_of_ok (h : StateResetOk m o a) : stateReset m a =
    (a.onObj (hIdx (m.f 0 4)) (fun o => { o with resets := o.resets ++ (resetSteps m).filter (fun x => !o.resets.contains x) }),
      .done stOk []) := by
  obtain ⟨⟨hlive, hown, hobj⟩, hlen, hz, hmask, hlater⟩ := h
  have hsteps : (resetSteps m).all (fun x => decide (a.lastPlaced o < (x : Int))) = true :=
    List.all_eq_true.2 fun x hx => decide_eq_true (hlater x hx)
  rw [resetSteps] at hsteps ⊢
  rw [stateReset, checked_of_pass]
  simp only [List.forall_mem_cons, hlive, hown, hobj, hz, hlen, hmask, hsteps, decide_true, Bool.or_true, true_and, List.not_mem_nil,
    false_implies, implies_true]

theorem State.now_of_beat {t : State} (h : t.beat = s.beat) : t.now = s.now := by rw [State.now, State.now, h]

@[simp] theorem State.onObj_beat (f : StateObj → StateObj) : (s.onObj i f).beat = s.beat := rfl

@[simp] theorem clearMem_beat (addr n : Nat) : (clearMem addr n s).beat = s.beat := rfl

@[simp] theorem assignRegions_beat (lo n : Nat) (tag : Half) (dom : Nat) : (assignRegions lo n tag dom s).beat = s.beat := rfl

@[simp] theorem holdObj_beat (owner : Word) (dom lo n : Nat) : (holdObj owner dom lo n s).beat = s.beat := by
  rw [holdObj, State.onMem_beat, clearMem_beat, assignRegions_beat]

/-- Work asked for after a change of the state that keeps the beat is dated as before it. -/
theorem msgWork_of_now {kind : BKind} {obj arg model : Nat} {b : State} (h : b.now = a.now) : msgWork m kind obj arg model b =
    addWork { kind := kind, client := m.client, mbox := m.mbox, obj := obj, arg := arg, model := model, beat := a.now, taken := false } b := by
  rw [msgWork, h]

theorem stateCopy_of_run {q : Nat × Nat} (h : NamesObj m o a) (hz : m.z 4 4 = true) (hswap : o.swap = none)
    (hdest : o.destroying = none) (hidx : (a.nextIdx 3).isSome = true) (hrun : a.anyStackRun (a.domainOf m.client) o.regions = some q) :
    let i := hIdx (m.f 0 4)
    stateCopy m a = (msgWork m .stateCopy i (q.2 * regionSize) o.model
      ((holdObj (copyOwner m.client m.mbox) (a.domainOf m.client) q.2 o.regions a).onObj i (fun o => { o with copies := o.copies + 1 })),
      waitFor m 0x0405 (m.f 0 4) none 0) := by
  obtain ⟨hlive, hown, hobj⟩ := h
  rw [stateCopy, checked_of_pass _ _ (by simp [hlive, hown, hobj, hz, hswap, hdest, hidx])]
  rw [StateObj.regions] at hrun ⊢
  simp only [hobj, Option.getD_some, hrun]
  rw [msgWork_of_now (a := a) (State.now_of_beat (by rw [State.onObj_beat, holdObj_beat]))]

/-- The class B work of a client's STATE_COPY in a mailbox whose source has been taken. -/
def takenCopyWork (c b : Nat) (w : BWork) : Bool := w.kind == .stateCopy && w.client == c && w.mbox == b && w.taken

/-- The object that a copy to an address makes: step and INVALID as the header copied there gives them, the rest as its source has it. -/
def copiedObj (j c : Nat) (o : StateObj) (addr : Nat) (head : List Byte) : StateObj :=
  { freshObj j c o.model 0 o.heads o.dk16 o.dv16 o.layers o.decayVec addr with
    step := fld head 0x18 8, invalid := if fld head 2 1 % 2 = 1 then some (BitVec.ofNat 16 (fld head 0x14 2)) else none }

/-- The completion of a copy that runs: the regions held for it become the new object's. -/
theorem exec_stateCopyComplete_of_runs {c b j : Nat} {w : BWork} (hfind : s.plan.bwork.find? (takenCopyWork c b) = some w)
    (hobj : s.obj w.obj = some o) (hidx : s.nextIdx 3 = some j) (hruns : s.copyRuns (DcpCopy.isFor w.same) = true) :
    let s1 := ((dropWork (· == w) s).onObj w.obj (fun o => { o with copies := o.copies - 1 })).issue 3 j
    let h := BitVec.ofNat 32 (s1.handleOf 3 j)
    exec (.stateCopyComplete c b) s = .next (completeOwned c b stOk (natLe 4 h.toNat) (syncObj j
      ((s1.onMem (fun k => { k with held := updAll k.held (fun q => q.2.2 == copyOwner c b) (fun q => (q.1, q.2.1, h)) })).onCtrl
        (fun k => { k with objs := k.objs ++ [copiedObj j c o w.arg (MemOps.readN s.mem.dev w.arg 64)] })))) := by
  intro s1 h
  change execStateCopyComplete c b s = _
  rw [execStateCopyComplete]
  have hfind' : s.plan.bwork.find? (fun b' => b'.kind == .stateCopy && b'.client == c && b'.mbox == b && b'.taken) = some w := hfind
  simp only [hfind', hruns, hobj, hidx]
  rfl

end Sys2Proof.Machine
end

section
namespace Sys2Proof.Machine

/-- Settles O48: each body replies as stated once its checks pass, and each completion finds what its message left. -/
theorem stateObjectMessages : Obligations.StateObjectMessages := by
  refine ⟨?create, ?destroy, ?destroyed, ?reset, ?copy, ?copied⟩
  case create =>
    intro m s i u x h a hok hnew
    exact answers_of_body rfl h (stateCreate_of_ok hok hnew)
  case destroy =>
    intro m s o h a i ho
    refine ⟨fun hforce => answers_of_body rfl h (stateDestroy_of_force ho hforce), fun hforce hswap hdest hcopies howner => ?_⟩
    have hbody := stateDestroy_of_idle ho hforce hswap hdest hcopies howner
    exact ⟨fun hpin => answers_of_body rfl h (hbody.trans (if_neg (Bool.not_eq_true _ ▸ hpin))),
      fun hpin => waits_of_body rfl h (hbody.trans (if_pos hpin))⟩
  case destroyed =>
    intro i c b s o hobj hdest hpin
    exact exec_pinnedDestroy_of_unpinned hobj hdest hpin
  case reset =>
    intro m s o h a hok
    exact answers_of_body rfl h (stateReset_of_ok hok)
  case copy =>
    intro m s o q h a i dom ho hz hswap hdest hidx hrun
    exact waits_of_body rfl h (stateCopy_of_run ho hz hswap hdest hidx hrun)
  case copied =>
    intro c b s w o j hfind hobj hidx hruns head s1 h
    exact exec_stateCopyComplete_of_runs hfind hobj hidx hruns

end Sys2Proof.Machine
end

section
/-! SUPPORT. Swaps of state objects (R222 to R227): the body of STATE_SWAP where every check passes, the start of a copy and its end. -/

namespace Sys2Proof.Machine

variable {m : Msg} {a s : State} {o : StateObj} {i : Nat}

/-- The free run that the target of a swap takes: of a stack for HBM, behind a port for the CXL tier. -/
def State.swapRun (a : State) (m : Msg) (o : StateObj) : Option (Nat × Nat) :=
  if m.f 4 1 = 1 then a.anyStackRun (a.domainOf m.client) o.regions else a.anyPortRun (a.domainOf m.client) o.regions

/-- Every check of a STATE_SWAP passes, where the object lies already or may leave; what is left is its effect (R223). -/
theorem stateSwap_of_ok (h : StateSwapOk m o a)
    (hmay : m.f 4 1 = tierOf o ∨ (tierOf o = 2 ∨ a.reservedObj (hIdx (m.f 0 4)) = false) ∧ a.swaps < 64) :
    let asked := fun (lo : Nat) (s : State) => (swapAsked m lo s, waitFor m 0x0403 (m.f 0 4) none 0)
    stateSwap m a =
      if m.f 4 1 = tierOf o then (a, .done stOk (natLe 4 (m.f 0 4)))
      else if m.f 4 1 = 3 then asked 0 a
      else ((a.swapRun m o).map (fun q => asked q.2 (holdObj (swapOwner (hIdx (m.f 0 4))) (a.domainOf m.client) q.2 o.regions a))).getD
        (a, .done stRefusedPages []) := by
  intro asked
  obtain ⟨⟨hlive, hown, hobj⟩, hd1, hd3, hz, hmod, hother, hswap, hdest, hcopies⟩ := h
  have hmay' : (decide (m.f 4 1 = tierOf o) || ((tierOf o == 2 || !a.reservedObj (hIdx (m.f 0 4))) && decide (a.swaps < 64))) = true := by
    simpa using hmay
  have hother' : (!(decide (m.f 4 1 = 3) && decide (m.f 6 2 = a.links.moduleId.toNat))) = true := by
    simpa [← not_and_or] using hother
  rw [stateSwap]
  simp only [hobj, Option.getD_some]
  rw [checked_of_pass _ _ (by
    simp only [List.forall_mem_cons, hlive, hown, hz, hd1, hd3, hmod, hother', hswap, hdest, hcopies, hmay', and_self, decide_true,
      Bool.and_self, Option.isNone_none, List.not_mem_nil, false_implies, implies_true])]
  simp only [decide_eq_true_eq]
  rw [State.swapRun, StateObj.regions]
  cases (if m.f 4 1 = 1 then a.anyStackRun (a.domainOf m.client) (objRegions o.heads o.dk16 o.dv16 o.layers)
    else a.anyPortRun (a.domainOf m.client) (objRegions o.heads o.dk16 o.dv16 o.layers)) <;> rfl

/-- A copy's start leaves a pinned object's swap waiting (R222). -/
theorem exec_swapCopyStart : exec (.swapCopyStart i) s =
    .next (if s.pinned i then s else s.onObj i (fun o => { o with swap := o.swap.map (fun w => { w with copying := true }) })) :=
  rfl

/-- A swap whose copy is on its way ends refused (R227), or copied where a plan's part of it runs. -/
theorem exec_swapCopyComplete_of_copying {refused : Bool} {h : Word} {w : SwapSt} (hobj : s.obj i = some o) (hswap : o.swap = some w)
    (hcopying : w.copying = true) (hcopied : w.copied = none) :
    exec (.swapCopyComplete i refused h) s = .next
      (if refused then completeOwned w.client w.mbox stFenced [] ((releaseHeld (swapOwner i) s).onObj i (fun o => { o with swap := none }))
      else if s.copyRuns (· == .swap i) then s.onObj i (fun o => { o with
        swap := some { w with copied := some s.now, newHandle := if w.dest = 3 then h else w.newHandle } })
      else s) := by
  change execSwapCopyComplete i refused h s = _
  simp only [execSwapCopyComplete, hobj, Option.bind_some, hswap, hcopying, hcopied]
  cases s.copyRuns (· == .swap i) <;> rfl

end Sys2Proof.Machine
end

section
namespace Sys2Proof.Machine

/-- Settles O49: the body of STATE_SWAP by the tier it names, then the start and the end of the copy. -/
theorem stateObjectSwaps : Obligations.StateObjectSwaps := by
  refine ⟨?swap, ?start, ?pinned, ?copied⟩
  case swap =>
    intro m s o h a i dom hok
    refine ⟨fun hsame => answers_of_body rfl h ((stateSwap_of_ok hok (.inl hsame)).trans (if_pos hsame)), fun hother hfree hroom => ?_⟩
    have hbody := (stateSwap_of_ok hok (.inr ⟨hfree, hroom⟩)).trans (if_neg hother)
    refine ⟨fun hmod => waits_of_body rfl h (hbody.trans (if_pos hmod)), fun q htier hrun => waits_of_body rfl h (hbody.trans ?_)⟩
    have hrun' : a.swapRun m o = some q := hrun
    rw [if_neg htier, hrun']
    rfl
  case start =>
    intro i s hpin
    rw [exec_swapCopyStart, if_neg (by simp [hpin])]
  case pinned =>
    intro i s hpin
    rw [exec_swapCopyStart, if_pos hpin]
  case copied =>
    intro i h s o w hobj hswap hcopying hcopied
    refine ⟨exec_swapCopyComplete_of_copying hobj hswap hcopying hcopied, fun hruns => ?_⟩
    rw [exec_swapCopyComplete_of_copying hobj hswap hcopying hcopied, if_neg Bool.false_ne_true, if_pos hruns]

end Sys2Proof.Machine
end

section
/-! SUPPORT. The way of a Scan command of one row (R231 to R240): the streams that it takes, the row that it runs, its end. -/

namespace Sys2Proof.Machine

variable {s : State} {c num : Nat} {w row : List Byte} {r : ScanRun} {l : List StreamBuf}

/-! ## What a row leaves of the engines -/

/-- The clusters and the plan. -/
def State.engines (s : State) : List ClusterSt × PlanSt := (s.clusters, s.plan)

theorem refuseEngine_engines (dom : Nat) (write : Bool) (a : Nat) : (refuseEngine dom write a s).engines = s.engines := by
  rw [refuseEngine, refuse]
  split <;> rfl

theorem countUe_engines (a : Nat) : (countUe a s).engines = s.engines := by
  rw [countUe]
  split <;> rfl

theorem putMem_engines (a : Nat) (l : List Byte) : (putMem a l s).engines = s.engines := rfl

theorem clearMem_engines (a n : Nat) : (clearMem a n s).engines = s.engines := rfl

theorem State.onObj_engines (i : Nat) (f : StateObj → StateObj) : (s.onObj i f).engines = s.engines := rfl

theorem writeHeader_engines (i : Nat) : (writeHeader i s).engines = s.engines := by
  rw [writeHeader]
  split
  · exact putMem_engines ..
  · rfl

/-! One lemma for each step of a row that a condition decides, so that the conditions need no case split there. -/

section
variable {t : State} {p : Prop} [Decidable p]

theorem refusedUnless_engines {dom a : Nat} {write : Bool} : (if p then t else refuseEngine dom write a t).engines = t.engines := by
  split
  · rfl
  · exact refuseEngine_engines ..

theorem countedIf_engines {a : Nat} : (if p then countUe a t else t).engines = t.engines := by
  split
  · exact countUe_engines a
  · rfl

theorem writtenIf_engines {a : Nat} {l : List Byte} : (if p then putMem a l t else t).engines = t.engines := by
  split
  · exact putMem_engines ..
  · rfl

theorem recordedAs_engines {i : Nat} {f g : StateObj → StateObj} : (if p then t.onObj i f else t.onObj i g).engines = t.engines := by
  split
  · exact State.onObj_engines ..
  · exact State.onObj_engines ..

end

theorem RowRes.ite_engines {p : Prop} [Decidable p] {x y : RowRes} (hx : x.s.engines = s.engines) (hy : y.s.engines = s.engines) :
    (if p then x else y).s.engines = s.engines := by
  split
  · exact hx
  · exact hy

theorem zeroRow_engines : (zeroRow w row s).s.engines = s.engines := by
  rw [zeroRow]
  cases s.rowObj (fld row 0 4) with
  | none => rfl
  | some o =>
    exact RowRes.ite_engines rfl (RowRes.ite_engines
      ((writeHeader_engines _).trans ((State.onObj_engines ..).trans (clearMem_engines ..)))
      ((writeHeader_engines _).trans ((State.onObj_engines ..).trans (refuseEngine_engines ..))))

/-- Whatever its outcome, a CHUNK or STEP row changes memory, records and counts alone. -/
theorem scanRow_engines (exp : Fv → Fv) (expOk : Bool) (inSt : Half) (ue : Bool) (given : Option (List Byte × Half)) :
    (scanRow exp expOk w row inSt ue given s).s.engines = s.engines := by
  rw [scanRow]
  refine RowRes.ite_engines rfl (RowRes.ite_engines rfl ?_)
  cases s.rowObj (fld row 0 4) with
  | none => rfl
  | some o =>
    exact RowRes.ite_engines rfl ((writeHeader_engines _).trans (recordedAs_engines.trans (writtenIf_engines.trans
      (countedIf_engines.trans (refusedUnless_engines.trans refusedUnless_engines)))))

theorem freeCtr_engines (t : State) (n : Nat) : ({ t with freeCtr := n } : State).engines = t.engines := rfl

/-- A row changes neither a cluster nor the plan. -/
theorem scanOne_engines : (scanOne c r s).s.engines = s.engines :=
  RowRes.ite_engines zeroRow_engines (RowRes.ite_engines (scanRow_engines ..) ((freeCtr_engines ..).trans (scanRow_engines ..)))

/-! ## Streams -/

/-- The bytes that a stream has delivered are added after those that a command has taken. -/
theorem StreamBuf.take_flatten (b : StreamBuf) : (b.take l).tiles.flatten =
    b.tiles.flatten ++ (l.filter (fun x => x.num == b.num && x.ep == b.ep)).flatMap (fun x => x.tiles.flatten) := by
  rw [StreamBuf.take]
  generalize l.filter (fun x => x.num == b.num && x.ep == b.ep) = xs
  induction xs generalizing b with
  | nil => simp
  | cons x xs ih => simp [ih]

@[simp] theorem StreamBuf.take_num (b : StreamBuf) : (b.take l).num = b.num := by
  rw [StreamBuf.take]
  exact foldl_keeps StreamBuf.num (by intros; rfl) _ b

@[simp] theorem StreamBuf.drop_num (b : StreamBuf) (n : Nat) : (b.drop n).num = b.num := rfl

theorem dropUnits_flatten (n : Nat) (ts : List (List Byte)) : (dropUnits n ts).flatten = ts.flatten.drop n := by
  induction ts generalizing n with
  | nil => simp [dropUnits]
  | cons t ts ih =>
    rw [dropUnits, List.flatten_cons]
    split
    case isTrue hle => rw [ih, List.drop_append, List.drop_of_length_le hle, List.nil_append]
    case isFalse hlt => rw [List.flatten_cons, List.drop_append_of_le_length (by omega)]

theorem StreamBuf.drop_flatten (b : StreamBuf) (n : Nat) : (b.drop n).tiles.flatten = b.tiles.flatten.drop n := dropUnits_flatten n b.tiles

theorem StreamBuf.size_eq_length (b : StreamBuf) : b.size = b.tiles.flatten.length := by
  rw [StreamBuf.size, ← List.sum_eq_foldl, List.length_flatten]

/-- What a command leaves of a stream that it took. -/
def StreamBuf.left (b : StreamBuf) : List StreamBuf := if b.size = 0 then [] else [b]

theorem StreamBuf.bufBytes_left_same (b : StreamBuf) : bufBytes b.left b.num = b.tiles.flatten := by
  rw [StreamBuf.left]
  split
  case isTrue hempty =>
    rw [StreamBuf.size_eq_length, List.length_eq_zero_iff] at hempty
    rw [hempty]
    rfl
  case isFalse => simp [bufBytes]

theorem StreamBuf.bufBytes_left_other {b : StreamBuf} (h : b.num ≠ num) : bufBytes b.left num = [] := by
  rw [StreamBuf.left]
  split
  · rfl
  · simp [bufBytes, h]

theorem bufBytes_append (l' : List StreamBuf) : bufBytes (l ++ l') num = bufBytes l num ++ bufBytes l' num := by
  simp [bufBytes]

/-- A stream that lies at one endpoint alone leaves nothing behind when it is taken from there. -/
theorem bufBytes_bufsWithout_same {ep : Nat} (h : l.all (fun b => b.num != num || b.ep == ep) = true) :
    bufBytes (bufsWithout ep num l) num = [] := by
  rw [bufBytes, bufsWithout, List.filter_filter, List.filter_eq_nil_iff.2, List.flatMap_nil]
  intro b hb
  have hep := List.all_eq_true.1 h b hb
  cases hnum : b.num == num
  case false => simp
  case true =>
    have hend : (b.ep == ep) = true := by simpa [bne, hnum] using hep
    simp [hend]

theorem bufBytes_bufsWithout_other {ep num' : Nat} (h : num ≠ num') : bufBytes (bufsWithout ep num' l) num = bufBytes l num := by
  rw [bufBytes, bufsWithout, List.filter_filter, bufBytes]
  congr 1
  refine List.filter_congr fun b _ => ?_
  cases hnum : b.num == num
  case false => rfl
  case true => simp [beq_iff_eq.1 hnum, h]

/-- The bytes of a stream that a command takes from its one endpoint. -/
theorem StreamBuf.take_none_flatten {ep : Nat} (h : l.all (fun b => b.num != num || b.ep == ep) = true) :
    ((StreamBuf.none ep num).take l).tiles.flatten = bufBytes l num := by
  have hmine : l.filter (fun b => b.num == num && b.ep == ep) = l.filter (fun b => b.num == num) :=
    List.filter_congr fun b hb => by
      have hep := List.all_eq_true.1 h b hb
      cases hnum : b.num == num
      case false => rfl
      case true => simpa [bne, hnum] using hep
  rw [StreamBuf.take_flatten, bufBytes, ← hmine]
  rfl

/-! ## Begin, row and end -/

/-- A command that has begun and taken nothing yet. -/
def ScanRun.new (w : List Byte) : ScanRun :=
  { word := w, ecc := [], row := 0, buf := .none 4 (fld w 0xA 2), sbuf := .none 5 (fld w 0xC 2) }

/-- A command with what its cluster holds of its streams. -/
def ScanRun.taking (r : ScanRun) (k : ClusterSt) : ScanRun := { r with buf := r.buf.take k.inb, sbuf := r.sbuf.take k.inb }

/-- A command whose next row is consumed, with `n` bytes of STATE_STREAM. -/
def ScanRun.next (r : ScanRun) (n : Nat) : ScanRun :=
  { r with row := r.row + 1, buf := r.buf.drop (scRowBytes r.word), sbuf := r.sbuf.drop n }

/-- The cluster after a row with a result for the object of a handle (R238, R240). -/
def ScanRun.ran (r : ScanRun) (q : RowRes) (n : Nat) (h : Word) (k : ClusterSt) : ClusterSt :=
  let out := fld r.word 0xE 2
  { k with
    scan := k.scan.row q, scanRun := some (r.next n),
    outUnit := if scOp r.word = 2 then k.outUnit else kset k.outUnit out 3,
    outRows := if scOp r.word = 2 then k.outRows
      else kset k.outRows out (64 + scOutBytes r.word, (if r.row = 0 then [] else ((kget k.outRows out).getD (0, [])).2) ++ [h]),
    outb := if scOp r.word = 2 then k.outb else outPut out q.out q.st k.outb }

/-- The cluster after a command has ended with its last row. -/
def ScanRun.ended (r : ScanRun) (k : ClusterSt) : ClusterSt :=
  { k with scan := scanFinish r.word stOk k.scan, scanRun := none, inb := k.inb ++ r.buf.left ++ r.sbuf.left }

/-- A row whose bytes have come and that is not malformed runs, and the rows after it. -/
theorem scanRows_succ {n : Nat} (hr : (s.cluster c).scanRun = some r) (hrow : r.row < scRows r.word) (hwait : s.rowWaits c r = false)
    (hbad : (scanOne c r s).bad = false) :
    scanRows c (n + 1) s = scanRows c n (rowDone c r.row (scanOne c r s).st ((scanOne c r s).s.onCluster c
      (r.ran (scanOne c r s) (s.rowState c r) (BitVec.ofNat 32 (fld (s.rowNow c r) 0 4))))) := by
  rw [scanRows, hr]
  simp only [hwait, hbad, not_le.2 hrow, decide_false, Bool.or_self, Bool.false_eq_true, if_false]
  rfl

/-- The row of a command that the plan does not hold is told to no one. -/
theorem rowDone_of_unplanned (i : Nat) (st : Half) (h : s.runningCmd (.cluster c) = none) : rowDone c i st s = s := by
  rw [rowDone, h]

/-- The running command of an engine is read from the plan alone. -/
theorem State.runningCmd_of_plan {t : State} (h : t.plan = s.plan) (e : Engine) : t.runningCmd e = s.runningCmd e := by
  rw [State.runningCmd, State.runningCmd, h]

theorem State.cluster_of_engines {t : State} (h : t.engines = s.engines) : t.cluster c = s.cluster c := by
  rw [State.cluster, State.cluster, show t.clusters = s.clusters from congrArg Prod.fst h]

theorem scanTake_cluster (hc : c < s.clusters.length) : (scanTake c r s).cluster c = { s.cluster c with
    scanRun := some (r.taking (s.cluster c)), inb := bufsWithout 5 r.sbuf.num (bufsWithout 4 r.buf.num (s.cluster c).inb) } :=
  State.cluster_onCluster hc

/-- A command of one row, all of it there and in no plan, runs the row and ends. -/
theorem scanGo_of_one_row (hc : c < s.clusters.length) (hr : (s.cluster c).scanRun = some r) (hrow : r.row = 0)
    (hrows : scRows r.word = 1) (hplan : s.runningCmd (.cluster c) = none) :
    let u := scanTake c r s
    let r1 := r.taking (s.cluster c)
    let q := scanOne c r1 u
    let y := r1.ran q (u.rowState c r1) (BitVec.ofNat 32 (fld (u.rowNow c r1) 0 4)) (q.s.cluster c)
    u.rowWaits c r1 = false → q.bad = false →
    scanGo c s = planDone (.cluster c) stOk ((rowDone c 0 q.st (q.s.onCluster c (fun _ => y))).onCluster c
      (fun _ => (r1.next (u.rowState c r1)).ended y)) := by
  intro u r1 q y hwait hbad
  have hq : q.s.engines = u.engines := scanOne_engines
  have hlen : c < q.s.clusters.length := by
    rw [show q.s.clusters = u.clusters from congrArg Prod.fst hq]
    simpa [u, scanTake] using hc
  have hplan' : (q.s.onCluster c (fun _ => y)).runningCmd (.cluster c) = none :=
    (State.runningCmd_of_plan (show q.s.plan = u.plan from congrArg Prod.snd hq) _).trans hplan
  have hu : (u.cluster c).scanRun = some r1 := by rw [scanTake_cluster hc]
  have hran : scanRows c (scRows r.word) u = (q.s.onCluster c (fun _ => y), false) := by
    rw [hrows, scanRows_succ hu (show r.row < scRows r.word by omega) hwait hbad, State.onCluster_eq_const hlen]
    exact congrArg (·, false) (rowDone_of_unplanned _ _ hplan')
  have hy : (q.s.onCluster c (fun _ => y)).cluster c = y := State.cluster_onCluster hlen
  have hend : ¬ (r1.next (u.rowState c r1)).row < scRows r.word := by
    rw [hrows]
    exact Nat.not_lt.2 (Nat.le_add_left ..)
  rw [rowDone_of_unplanned _ _ hplan', scanGo, hr]
  simp only
  rw [hran]
  simp only [hy, show y.scanRun = some (r1.next (u.rowState c r1)) from rfl, hend, decide_false, Bool.false_and, Bool.or_self,
    Bool.false_eq_true, if_false]
  rw [State.onCluster_eq_const (by simpa using hlen), hy]
  rfl

/-- A row takes at least its descriptor from IN_STREAM (R235). -/
theorem scRowBytes_pos : 0 < scRowBytes w := by
  rw [scRowBytes]
  split <;> omega

/-- A cluster that holds the bytes of a row is one of the module's. -/
theorem State.lt_of_not_rowWaits {u : State} (h : u.rowWaits c ((ScanRun.new w).taking (s.cluster c)) = false) :
    c < s.clusters.length := by
  refine State.lt_of_cluster_ne_reset fun hreset => ?_
  rw [hreset, State.rowWaits, Bool.or_eq_false_iff, decide_eq_false_iff_not] at h
  exact h.1 scRowBytes_pos

/-- A well-formed Scan command with rows begins on a cluster that is free, and goes on as far as its streams let it (R231 to R236). -/
theorem scanCommand_of_begins {op : Nat} (hup : s.clusterUp c = true) (harr : (s.cluster c).arr.busy = false)
    (hve : (s.cluster c).veRegs.busy = false) (hrun : (s.cluster c).scanRun = none) (hw : w.length = 32)
    (hfail : scanWordFail true w = none) (hrows : scRows w ≠ 0) (hop : scOp w = op) :
    scanCommand op c w [] s = scanGo c (s.onCluster c (fun k => { k with scanRun := some (.new w) })) := by
  simp [scanCommand, fit_of_length hw, hup, harr, hve, hrun, hfail, hrows, hop, ScanRun.new]

/-- The three Scan instructions are the commands of the operations 0, 1 and 2. -/
theorem exec_scan : ∀ p ∈ ([(Instr.scanChunk c w [], 0), (Instr.scanStep c w [], 1), (Instr.scanZero c w, 2)] : List (Instr × Nat)),
    exec p.1 s = .next (scanCommand p.2 c w [] s) := by
  simp only [List.forall_mem_cons, List.not_mem_nil, false_implies, implies_true, and_true]
  exact ⟨rfl, rfl, rfl⟩

/-- What a cluster holds of IN_STREAM after a command's one row: the bytes of the row are consumed (R238). -/
theorem bufBytes_after_row {k : ClusterSt} {n : Nat} (hnum : fld w 0xA 2 ≠ fld w 0xC 2)
    (hep : k.inb.all (fun b => b.num != fld w 0xA 2 || b.ep == 4) = true) :
    let r := ((ScanRun.new w).taking k).next n
    bufBytes (bufsWithout 5 (fld w 0xC 2) (bufsWithout 4 (fld w 0xA 2) k.inb) ++ r.buf.left ++ r.sbuf.left) (fld w 0xA 2) =
      (bufBytes k.inb (fld w 0xA 2)).drop (scRowBytes w) := by
  intro r
  have hbuf : r.buf.num = fld w 0xA 2 := StreamBuf.take_num _
  have hsbuf : r.sbuf.num = fld w 0xC 2 := StreamBuf.take_num _
  have hleft : bufBytes r.buf.left (fld w 0xA 2) = (bufBytes k.inb (fld w 0xA 2)).drop (scRowBytes w) := by
    rw [← hbuf, StreamBuf.bufBytes_left_same, hbuf, ← StreamBuf.take_none_flatten hep]
    exact StreamBuf.drop_flatten _ _
  rw [bufBytes_append, bufBytes_append, bufBytes_bufsWithout_other hnum, bufBytes_bufsWithout_same hep, hleft,
    StreamBuf.bufBytes_left_other (hsbuf ▸ hnum.symm), List.nil_append, List.append_nil]

end Sys2Proof.Machine
end

section
namespace Sys2Proof.Machine

/-- Settles O24: a command that begins with its row there runs it and ends in the same step; the row leaves the clusters, so what the
command took from its streams is what its cluster held. -/
theorem scanCommands : Obligations.ScanCommands := by
  intro c w s hw k r0 r u q k' _ hup harr hve hrun hfail hrows hwait hplan hbad p hp hop
  have hc : c < s.clusters.length := State.lt_of_not_rowWaits (w := w) (u := u) hwait
  have hbegun : (s.onCluster c (fun k => { k with scanRun := some r0 })).cluster c = { k with scanRun := some r0 } :=
    State.cluster_onCluster hc
  have htaking : r0.taking ((s.onCluster c (fun k => { k with scanRun := some r0 })).cluster c) = r := by rw [hbegun]; rfl
  have hgo := scanGo_of_one_row (r := r0) (s := s.onCluster c (fun k => { k with scanRun := some r0 })) (by simpa using hc)
    (by rw [hbegun]) rfl hrows hplan
  rw [htaking] at hgo
  have hinb : k'.inb = bufsWithout 5 (fld w 0xC 2) (bufsWithout 4 (fld w 0xA 2) k.inb) := by
    rw [show k' = u.cluster c from State.cluster_of_engines scanOne_engines, scanTake_cluster (by simpa using hc), hbegun]
    rfl
  let y : ClusterSt := r.ran q (u.rowState c r) (BitVec.ofNat 32 (fld (u.rowNow c r) 0 4)) k'
  refine ⟨(r.next (u.rowState c r)).ended y, y, ?_, rfl, rfl, rfl, rfl, rfl, rfl, rfl, rfl, rfl, rfl, fun hnum hep => ?_, ?_,
    rfl, rfl, rfl, rfl⟩
  · exact (exec_scan p hp).trans (congrArg Host.Outcome.next ((scanCommand_of_begins hup harr hve hrun hw hfail
      (by rw [hrows]; exact Nat.one_ne_zero) hop).trans (hgo hwait hbad)))
  · rw [← bufBytes_after_row (n := u.rowState c r) hnum hep, ← hinb]
    rfl
  · rw [← hop]
    rfl

end Sys2Proof.Machine
end

section
/-! SUPPORT. GEMV where every read passes (R242, R243, R260, R264, R266): what it hands to its output stream, and its registers. -/

namespace Sys2Proof.Machine

variable {s : State} {k dom : Nat} {w : List Byte}

/-- Reads that the firewall passes, clear of uncorrectable words, leave the state. -/
theorem nmuTouch_of_reads {l : List (Nat × Nat)} (h : ∀ r ∈ l, s.rangePasses dom false (stackBase k + r.1) r.2 = true ∧
    s.rangePoisoned (stackBase k + r.1) r.2 = false) :
    nmuTouch k dom (l.map (fun r => (r.1, r.2, false))) s = (s, stOk) := by
  induction l with
  | nil => rfl
  | cons r l ih =>
    obtain ⟨⟨hpass, hclear⟩, hl⟩ := List.forall_mem_cons.1 h
    refine Eq.trans ?_ (ih hl)
    simp only [nmuTouch, List.map_cons, List.foldl_cons, hpass, hclear, Bool.not_true, Bool.false_eq_true, if_false, ite_self]

/-- A change of an NMU puts the changed NMU in its place. -/
theorem State.onNmu_eq_const (f : NmuSt → NmuSt) : s.onNmu k f = s.onNmu k (fun _ => f (s.nmu k)) := by
  refine congrArg (fun l => s.onNmus (fun _ => l)) ?_
  by_cases hk : k < s.nmus.length
  case pos =>
    rw [List.modify_eq_set_get f hk, List.set_eq_modify, State.nmu, List.getD_eq_getElem _ _ hk, List.get_eq_getElem]
  case neg =>
    rw [List.modify_eq_self (Nat.not_lt.1 hk), List.modify_eq_self (Nat.not_lt.1 hk)]

/-- The header of the stripe that a GEMV word names, as the command's domain reads it. -/
def State.gvHeader (s : State) (k : Nat) (w : List Byte) : List Byte :=
  (List.range 64).map (fun i => BitVec.ofNat 8 (s.nmuByte k (fld w 2 1 % 64) (fld w 8 8 + i)))

/-- The stripe and the activations that a GEMV word names, as the command's domain reads them. -/
def State.gvInput (s : State) (k : Nat) (w : List Byte) : GvIn :=
  { w := w, h := s.gvHeader k w, rd := fun i => s.nmuByte k (fld w 2 1 % 64) (fld w 8 8 + i), act := s.actByte k (fld w 2 1 % 64) }

/-- An NMU after a GEMV on the input `g` that ends with OK: its registers, its flag for poisoned tokens, its outputs handed over. -/
def NmuSt.gemvDone (n : NmuSt) (w : List Byte) (g : GvIn) : NmuSt :=
  { gvFinish w stOk stOk n with
    poison := n.poison || (List.range (gvTokens w)).any g.poison, outb := outPut (fld w 0x1E 2) g.drain stOk n.outb }

/-- GEMV of a well-formed word whose reads pass changes its NMU alone, and completes with OK. -/
theorem exec_gemv_of_passes (hw : w.length = 64) (hup : s.nmuUp k = true) (hfail : gemvFail k w (some (s.gvHeader k w)) = none)
    (hempty : gvEmpty w = false) (hrun : s.runStatus (.gemv k) = stOk)
    (hreads : ∀ r ∈ (fld w 8 8, 64) :: gvRanges w (s.gvHeader k w),
      s.rangePasses (fld w 2 1 % 64) false (stackBase k + r.1) r.2 = true ∧ s.rangePoisoned (stackBase k + r.1) r.2 = false)
    (hacts : ∀ r ∈ gvActs w (s.gvHeader k w), ∀ j < r.2, (s.nmu k).actPasses (fld w 2 1 % 64) (r.1 + j) = true) :
    exec (.gemv k w 0) s = .next (planDone (.gemv k) stOk (s.onNmu k (fun _ => (s.nmu k).gemvDone w (s.gvInput k w)))) := by
  obtain ⟨⟨hheader, -⟩, -⟩ := List.forall_mem_cons.1 hreads
  have htouch := nmuTouch_of_reads hreads
  have hread := actTouch_of_passes stOk hacts
  rw [← State.onNmu_eq_const (fun n => n.gemvDone w (s.gvInput k w))]
  change execGemv k w 0 s = _
  simp only [State.gvHeader, List.map_cons] at hfail htouch hread
  rw [execGemv, fit_of_length hw]
  simp only [hup, hheader, hempty, Bool.not_false, Bool.and_self, if_true, hfail, eccNote_clean, eccLost_clean, htouch, hread, hrun]
  rfl

end Sys2Proof.Machine
end

section
namespace Sys2Proof.Machine

/-- Settles O25: every read of the command passes, so that its NMU alone changes. -/
theorem gemvCompletes : Obligations.GemvCompletes := by
  intro k w s hw hup dom o h g hfail hempty hrun hreads hacts
  exact ⟨_, exec_gemv_of_passes hw hup hfail hempty hrun hreads hacts, rfl, rfl, rfl, rfl, rfl, rfl, rfl, rfl, rfl⟩

end Sys2Proof.Machine
end

section
/-! SUPPORT. The merge stage (R255, R256, R258): a slot replaced, its two phases at LEVEL 0, its output written, a contribution taken. -/

namespace Sys2Proof.Machine

variable {s : State} {m m' : MergeSlot} {slot : Nat}

/-! ## Slots replaced -/

/-- The first element that a test holds of, after a change of all such elements that the test does not see. -/
theorem find?_updAll {α : Type} {p : α → Bool} {g : α → α} (hp : ∀ a, p a = true → p (g a) = true) (l : List α) :
    (updAll l p g).find? p = (l.find? p).map g := by
  induction l with
  | nil => rfl
  | cons a l ih =>
    rw [updAll, List.map_cons]
    by_cases ha : p a = true
    · rw [if_pos ha, List.find?_cons_of_pos (hp a ha), List.find?_cons_of_pos ha, Option.map_some]
    · rw [if_neg ha, List.find?_cons_of_neg ha, List.find?_cons_of_neg ha]
      exact ih

theorem State.slot_of_merge (h : s.merge slot = some m) : m.slot = slot := by
  simpa using List.find?_some h

theorem State.merge_of_merges {t : State} (h : t.merges = s.merges) : t.merge slot = s.merge slot := by
  rw [State.merge, State.merge, h]

/-- A slot replaced reads as what replaced it. -/
theorem State.merge_setMerge (h : s.merge slot = some m) (hslot : m'.slot = slot) : (setMerge m' s).merge slot = some m' := by
  subst hslot
  rw [State.merge] at h ⊢
  rw [setMerge, State.onMerges_merges, find?_updAll (by simp), h]
  rfl

/-- Of two replacements of a slot the later one stands. -/
theorem setMerge_setMerge (hslot : m'.slot = m.slot) : setMerge m' (setMerge m s) = setMerge m' s := by
  refine congrArg (fun l => s.onMerges (fun _ => l)) ?_
  simp only [setMerge, State.onMerges_merges, updAll, List.map_map, hslot]
  refine List.map_congr_left fun x _ => ?_
  rw [Function.comp_apply]
  cases hx : x.slot == m.slot
  case true => simp only [if_true, beq_self_eq_true]
  case false => simp only [hx, Bool.false_eq_true, if_false]

/-! ## The pairs phase and the outputs phase (R256) -/

/-- A slot with the pairs of one more source, at the end. -/
def MergeSlot.withPairs (m : MergeSlot) (src : MergeSrc) (l : List (Word × Word)) (st : Half) : MergeSlot :=
  { m with pairs := m.pairs ++ [(src, l, tableStatus st)] }

/-- What the stacks of a slot have sent, in ascending order. -/
def MergeSlot.ownPairs (m : MergeSlot) : List (List (Word × Word) × Half) := m.stks.filterMap (fun i => m.pairOf (.stack i))

/-- A slot with its broadcast: (M, r) of each row over the stacks, and the first of their statuses that is not OK. -/
def MergeSlot.broadcast (m : MergeSlot) (exp : Fv → Fv) : MergeSlot := { m with
  bcast := some ((combinePairs exp m.rows (m.ownPairs.map (·.1))).map (fun p => (p.1, mergeR p)))
  bcastStatus := firstBad (m.ownPairs.map (·.2)) }

theorem MergeSlot.stacksIn_iff {α : Type} {l : List (MergeSrc × α)} :
    m.stacksIn l = true ↔ ∀ j ∈ m.stks, (l.find? (fun q => q.1 == .stack j)).isSome = true := by
  simp [MergeSlot.stacksIn, List.find?_isSome]

theorem mergePairs_of_missing {exp : Fv → Fv} {self : Nat} (h : m.stacksIn m.pairs = false) : mergePairs exp self m = m := by
  rw [mergePairs, h, if_pos (by simp)]

/-- At LEVEL 0 the pairs of all stacks make the broadcast. -/
theorem mergePairs_of_all {exp : Fv → Fv} {self : Nat} (hb : m.bcast = none) (hin : m.stacksIn m.pairs = true) (hlevel : m.level = 0) :
    mergePairs exp self m = m.broadcast exp := by
  rw [mergePairs, hb, hin, if_neg (by simp)]
  exact if_pos hlevel

theorem mergeParts_of_no_bcast {self : Nat} (hb : m.bcast = none) : mergeParts self m = m := by
  rw [mergeParts, hb, if_pos (by simp)]

/-- At LEVEL 0 the outputs phase changes the output alone. -/
theorem mergeParts_eq {self : Nat} (hlevel : m.level = 0) :
    ∃ (o : Option (List (List Word))) (st : Half), mergeParts self m = { m with out := o, outStatus := st } := by
  rw [mergeParts]
  split
  · exact ⟨m.out, m.outStatus, rfl⟩
  · simp only [hlevel]
    exact ⟨_, _, rfl⟩

/-! ## The output written -/

theorem refuse_merges (point dom kind : Nat) (write : Bool) (a : Nat) : (refuse point dom kind write a s).merges = s.merges := by
  rw [refuse]
  split <;> rfl

/-- Whether the firewall passes an output or not, its slot changes in the status of the output alone. -/
theorem mergeWrite_merges : ∃ f : Half → Half, (mergeWrite m s).merges =
    updAll s.merges (fun x => x.slot == m.slot) (fun x => { x with outStatus := f x.outStatus }) := by
  have hsame : s.merges = updAll s.merges (fun x => x.slot == m.slot) (fun x => { x with outStatus := id x.outStatus }) := by
    simp [updAll]
  rw [mergeWrite]
  split
  · exact ⟨id, hsame⟩
  split
  · exact ⟨id, hsame⟩
  dsimp only
  split
  · exact ⟨id, hsame⟩
  · refine ⟨fun st => firstBad [st, stDomainFault], ?_⟩
    rw [State.onMerges_merges, refuseEngine, refuse_merges]

theorem merge_mergeWrite (h : s.merge slot = some m) : ∃ st, (mergeWrite m s).merge slot = some { m with outStatus := st } := by
  obtain ⟨f, hf⟩ := mergeWrite_merges (m := m) (s := s)
  refine ⟨f m.outStatus, ?_⟩
  rw [State.slot_of_merge h] at hf
  rw [State.merge] at h ⊢
  rw [hf, find?_updAll (by simp), h]
  rfl

/-! ## A slot goes on, a contribution is taken, the deadline comes -/

/-- With pairs missing and nothing broadcast, a slot stays as it is. -/
theorem mergeRun_of_missing (h : s.merge slot = some m) (hb : m.bcast = none) (hout : m.out = none) (hin : m.stacksIn m.pairs = false) :
    mergeRun slot s = setMerge m s := by
  rw [mergeRun, h]
  simp only [mergePairs_of_missing hin, mergeParts_of_no_bcast hb, hb, hout]
  rfl

theorem useFree_merges (b : SfuBank) : (useFree b s).merges = s.merges := by
  rw [useFree]
  split <;> rfl

/-- With the pairs of all stacks in, a slot of LEVEL 0 has its broadcast; only its output may have come too. -/
theorem merge_mergeRun_of_all (h : s.merge slot = some m) (hb : m.bcast = none) (hin : m.stacksIn m.pairs = true) (hlevel : m.level = 0) :
    ∃ (o : Option (List (List Word))) (st : Half), (mergeRun slot s).merge slot =
      some { m.broadcast ((s.mergeExp m.model).exp s.freeCtr) with out := o, outStatus := st } := by
  have hslot : m.slot = slot := State.slot_of_merge h
  obtain ⟨o, st, hparts⟩ := mergeParts_eq (self := s.selfId)
    (show (m.broadcast ((s.mergeExp m.model).exp s.freeCtr)).level = 0 from hlevel)
  have hset (t : State) (ht : t.merges = s.merges) (m' : MergeSlot) (hm' : m'.slot = slot) : (setMerge m' t).merge slot = some m' :=
    State.merge_setMerge ((State.merge_of_merges ht).trans h) hm'
  rw [mergeRun, h]
  simp only [mergePairs_of_all hb hin hlevel, hparts]
  have hstate := hset (if (m.broadcast ((s.mergeExp m.model).exp s.freeCtr)).bcast.isSome && m.bcast.isNone
    then useFree (s.mergeExp m.model) s else s) (by split; exacts [useFree_merges _, rfl]) _
    (show ({ m.broadcast ((s.mergeExp m.model).exp s.freeCtr) with out := o, outStatus := st } : MergeSlot).slot = slot from hslot)
  split
  · obtain ⟨st', hwrite⟩ := merge_mergeWrite hstate
    exact ⟨o, st', hwrite⟩
  · exact ⟨o, st, hstate⟩

/-- The first pairs of a stack that its slot names join the slot, where no stack of the slot is fenced. -/
theorem mergeTake_stack_pairs {i : Nat} {l : List (Word × Word)} {st : Half} (h : s.merge slot = some m) (hnamed : m.stkMask.testBit i = true)
    (hi : i < 16) (hfenced : ∀ j ∈ m.stks, s.svc ⟨.nmu, j⟩ ≠ .fenced) (hfirst : m.pairOf (.stack i) = none) (hb : m.bcast = none) :
    mergeTake slot (.stack i) (.pairs l st) s = mergeRun slot (setMerge (m.withPairs (.stack i) l st) s) := by
  have hserve : m.stks.any (fun j => s.svc ⟨.nmu, j⟩ == .fenced) = false :=
    List.any_eq_false.2 fun j hj => by simpa using hfenced j hj
  have hopen : ((m.pairOf (.stack i)).isSome || m.bcast.isSome) = false := by rw [hfirst, hb]; rfl
  rw [mergeTake, h]
  simp only [hnamed, hi, hserve, hopen]
  rfl

theorem firstBad_singleton (st : Half) : firstBad [st] = st := by
  rw [firstBad]
  split
  case isTrue h => exact h.symm
  case isFalse => rfl

/-- A slot that ends without its output has an empty one, invalid with the status that says why. -/
theorem merge_mergeInvalid (st : Half) (h : s.merge slot = some m) (hout : m.out = none) (hst : m.bcastStatus = stOk) :
    ∃ m', (mergeInvalid st m s).merge slot = some m' ∧ m'.out.isSome = true ∧ m'.bcast.isSome = true ∧ m'.pairs = m.pairs ∧
      m'.parts = m.parts ∧ m'.outStatus = st := by
  have hslot : m.slot = slot := State.slot_of_merge h
  refine ⟨_, (State.merge_of_merges rfl).trans (State.merge_setMerge h hslot), rfl, rfl, rfl, rfl, ?_⟩
  rw [hout, hst]
  exact firstBad_singleton st

end Sys2Proof.Machine
end

section
namespace Sys2Proof.Machine

/-- Settles O28: what the pairs phase makes of the slot that a stack's pairs have joined, and what the deadline makes of it. -/
theorem mergeStage : Obligations.MergeStage := by
  constructor
  case left =>
    intro slot i l st s m h hlevel hnamed hi hfenced hfirst hb hout p own
    have hslot : m.slot = slot := State.slot_of_merge h
    have htake : exec (.mergeContribution slot (.stack i) (.pairs l st)) s =
        .next (mergeRun slot (setMerge (m.withPairs (.stack i) l st) s)) :=
      congrArg Host.Outcome.next (mergeTake_stack_pairs h hnamed hi hfenced hfirst hb)
    have hjoined : (setMerge (m.withPairs (.stack i) l st) s).merge slot = some (m.withPairs (.stack i) l st) :=
      State.merge_setMerge h hslot
    constructor
    case left =>
      rintro ⟨j, hj, hmissing⟩
      have hin : (m.withPairs (.stack i) l st).stacksIn p = false :=
        Bool.eq_false_iff.2 fun hall => absurd (MergeSlot.stacksIn_iff.1 hall j hj) (by simp [hmissing])
      rw [htake, mergeRun_of_missing hjoined hb hout hin, setMerge_setMerge rfl]
      rfl
    case right =>
      intro hall
      obtain ⟨o, st', hmerge⟩ := merge_mergeRun_of_all hjoined hb (MergeSlot.stacksIn_iff.2 hall) hlevel
      refine ⟨_, _, htake, hmerge, rfl, rfl, ?_⟩
      exact congrArg some (List.map_map ..)
  case right =>
    intro slot s m h hout hst
    obtain ⟨m', hmerge, hout', hbcast, hpairs, hparts, hstatus⟩ := merge_mergeInvalid
      (if m.stks.any (fun i => s.svc ⟨.nmu, i⟩ == .fenced) then stFenced else stBeatOverrun) h hout hst
    refine ⟨_, m', ?_, hmerge, hout', hbcast, hpairs, hparts, hstatus, rfl, rfl, rfl⟩
    change execMergeDeadline slot s = _
    simp only [execMergeDeadline, h, hout]
    rfl

end Sys2Proof.Machine
end

section
/-! SUPPORT. What a command's completion and its contribution to a merge leave (R67, R256): the plan keeps its commands, the merge stage
its slots. Where there are none, neither changes the state. -/

namespace Sys2Proof.Machine

variable {s : State} {slot : Nat} {m : MergeSlot}

/-! ## The completion of a command in the plan -/

theorem State.ite_plan {p : Prop} [Decidable p] {x y : State} {q : PlanSt} (hx : x.plan = q) (hy : y.plan = q) :
    (if p then x else y).plan = q := by
  split
  exacts [hx, hy]

theorem raiseIrq_plan (c : Nat) (en : CtrlBlock → Bool) (kind : Nat) : (raiseIrq c en kind s).plan = s.plan := by
  rw [raiseIrq]
  split <;> rfl

theorem complete_plan (c b : Nat) (st : Half) (reply : List Byte) : (complete c b st reply s).plan = s.plan := by
  rw [complete, signalDone, raiseIrq_plan]
  split <;> rfl

theorem foldl_complete_plan (st : Half) (l : List (Nat × Nat)) :
    (l.foldl (fun (s : State) (q : Nat × Nat) => complete q.1 q.2 st [] s) s).plan = s.plan := by
  induction l generalizing s with
  | nil => rfl
  | cons q l ih => rw [List.foldl_cons, ih, complete_plan]

theorem faultZero_plan (st : Half) (ch : Nat) : (faultZero st ch s).plan = s.plan := by
  rw [faultZero]
  split
  · rfl
  rw [State.onChannel, State.onAudio_plan]
  split
  · exact foldl_complete_plan st _
  · rfl

theorem faultSession_plan (st : Half) (i : Nat) : (faultSession st i s).plan = s.plan := by
  rw [faultSession]
  split
  · rfl
  · exact State.ite_plan rfl (State.ite_plan rfl (faultZero_plan ..))

theorem assertHold_plan (cause unit idx slot : Nat) : (assertHold cause unit idx slot s).plan = s.plan :=
  State.ite_plan rfl rfl

/-- Outputs that are invalid fault sessions, zero channels and assert the hold; the plan stays. -/
theorem affectOut_plan (st : Half) (cause : Nat) (p : PCmd) : (affectOut st cause p s).plan = s.plan := by
  unfold affectOut
  extract_lets s2 s3 s4 u
  have h2 : s2.plan = s.plan := State.ite_plan (faultSession_plan ..) rfl
  have h3 : s3.plan = s.plan := State.ite_plan (by split; exacts [(faultSession_plan ..).trans h2, h2]) h2
  have h4 : s4.plan = s.plan := State.ite_plan (State.ite_plan ((faultZero_plan ..).trans h3) h3) h3
  exact State.ite_plan ((assertHold_plan ..).trans h4) h4

theorem updFirst_length {α : Type} (p : α → Bool) (f : α → α) (l : List α) : (updFirst l p f).length = l.length := by
  induction l with
  | nil => rfl
  | cons a l ih =>
    rw [updFirst]
    split
    · rfl
    · rw [List.length_cons, ih, List.length_cons]

theorem planDone_cur_length (e : Engine) (st : Half) : (planDone e st s).plan.cur.length = s.plan.cur.length := by
  rw [planDone]
  split
  case h_1 => rfl
  case h_2 c _ =>
    extract_lets st' s1
    have hplan : (if st' = stOk then s1 else affectOut st' (causeOf st') c s1).plan = s1.plan := State.ite_plan rfl (affectOut_plan ..)
    rw [hplan]
    exact updFirst_length ..

/-- A completion that leaves a plan without commands has changed nothing. -/
theorem planDone_of_no_command {e : Engine} {st : Half} (h : (planDone e st s).plan.cur = []) : planDone e st s = s := by
  have hcur : s.plan.cur = [] := List.eq_nil_of_length_eq_zero (by rw [← planDone_cur_length e st, h, List.length_nil])
  rw [planDone, hcur]
  rfl

/-! ## A contribution to a merge -/

theorem setMerge_merges_length : (setMerge m s).merges.length = s.merges.length := by
  rw [setMerge, State.onMerges_merges, updAll, List.length_map]

theorem mergeWrite_merges_length : (mergeWrite m s).merges.length = s.merges.length := by
  obtain ⟨f, hf⟩ := mergeWrite_merges (m := m) (s := s)
  rw [hf, updAll, List.length_map]

theorem State.ite_merges_length {p : Prop} [Decidable p] {x y : State} {n : Nat} (hx : x.merges.length = n) (hy : y.merges.length = n) :
    (if p then x else y).merges.length = n := by
  split
  exacts [hx, hy]

theorem mergeRun_merges_length : (mergeRun slot s).merges.length = s.merges.length := by
  rw [mergeRun]
  split
  · rfl
  · have hset (m' : MergeSlot) (q : Prop) [Decidable q] (b : SfuBank) :
        (setMerge m' (if q then useFree b s else s)).merges.length = s.merges.length :=
      setMerge_merges_length.trans (State.ite_merges_length (congrArg List.length (useFree_merges b)) rfl)
    exact State.ite_merges_length (mergeWrite_merges_length.trans (hset ..)) (hset ..)

theorem mergeTake_merges_length (src : MergeSrc) (d : MergeData) : (mergeTake slot src d s).merges.length = s.merges.length := by
  rw [mergeTake]
  split
  · rfl
  · exact State.ite_merges_length rfl (State.ite_merges_length setMerge_merges_length
      (mergeRun_merges_length.trans setMerge_merges_length))

/-- A contribution that leaves no merge slot found none, and changed nothing. -/
theorem mergeTake_of_no_slot {src : MergeSrc} {d : MergeData} (h : (mergeTake slot src d s).merges = []) : mergeTake slot src d s = s := by
  have hmerges : s.merges = [] := List.eq_nil_of_length_eq_zero (by rw [← mergeTake_merges_length src d, h, List.length_nil])
  rw [mergeTake, State.merge, hmerges]
  rfl

/-! ## Scores over a store that is not canonical -/

/-- An ATT_SCORE of one row and one page of no filled slot: its 64 scores, −∞ each, go to the DRAM part of the score area. The page list
is at 64 MiB of the stack, and the command allows one open page. -/
def spillWord : List Byte :=
  [0x11, 0, 0, 1, 0, 1, 1, 0] ++ natLe 8 0x4000000 ++ natLe 2 1 ++ zeros 10 ++ natLe 4 scoreHeld ++ natLe 4 0x3F800000 ++
    natLe 2 1000 ++ natLe 2 1 ++ zeros 8 ++ natLe 4 54000 ++ zeros 12

/-- Reset with a device memory that lists the first byte of the DRAM scores of stack 0 twice, which the canonical form excludes
(`MemSt.Ok`), before the page list: an open page at 64 MiB + 4,096. A write of 0 removes the first of the two entries, and the second
reads on. -/
def twiceListedState : State :=
  State.reset.onDev (fun _ => [(scoreHeld, 1), (scoreHeld, 2), (0x4000001, 0x10), (0x4000003, 4)])

theorem spillWord_meets : spillWord.length = 64 ∧ fld spillWord 0 1 = 0x11 ∧ twiceListedState.nmuUp 0 = true ∧ atRows spillWord ≠ 0 ∧
    attFail spillWord (twiceListedState.fp8 (fld spillWord 7 1)) = none ∧
    twiceListedState.attBad 0 spillWord (twiceListedState.fp8 (fld spillWord 7 1)) = false := by
  decide +kernel

/-- The command completes with OK and changes neither plan nor slots; the first score byte, which is 0, reads as 2. -/
theorem exec_spillWord : ∃ t, exec (.attScore 0 spillWord 0) twiceListedState = .next t ∧ (t.nmu 0).lastStatus = stOk ∧ t.plan.cur = [] ∧
    t.merges = [] ∧ t.scoreByte 0 scoreHeld = 2 :=
  ⟨_, rfl, by decide +kernel, rfl, rfl, by decide +kernel⟩

theorem spillWord_scores : ((twiceListedState.attScores 0 spillWord).flatMap (fun r => r.flatMap bytesOfWords)).head? = some 0 := by
  decide +kernel

end Sys2Proof.Machine
end

section
namespace Sys2Proof.Machine

/-- Refutes O26: the statement does not ask that device memory be in its canonical form, in which alone a byte written reads back. In
`twiceListedState` the command `spillWord` completes with OK, and the first byte of its scores in DRAM reads as 2, not as the 0 that it
wrote. -/
theorem not_attentionCompletes : ¬ Obligations.AttentionCompletes := by
  intro completes
  obtain ⟨hw, hop, hup, hrows, hfail, hbad⟩ := spillWord_meets
  obtain ⟨hscore, -⟩ := completes 0 spillWord twiceListedState hw nmusOk_reset hup hrows hfail hbad
  obtain ⟨-, -, -, ⟨st, u, hexec, hread, -⟩, -⟩ := hscore hop
  obtain ⟨t, ht, -, hcur, hmerges, hbyte⟩ := exec_spillWord
  have hleft := Host.Outcome.next.inj (hexec.symm.trans ht)
  rw [← hleft] at hcur hmerges hbyte
  have hplan := planDone_of_no_command hcur
  rw [hplan] at hmerges hbyte
  rw [mergeTake_of_no_slot hmerges] at hbyte
  obtain ⟨l, hl⟩ := List.head?_eq_some_iff.1 spillWord_scores
  have hzero := hread 0 (by rw [hl]; exact Nat.succ_pos _)
  rw [hl] at hzero
  exact absurd (hbyte.symm.trans hzero : (2 : Nat) = 0) (by decide)

end Sys2Proof.Machine
end

section
/-! SUPPORT. Sessions (R302, R474, R489, R490, R493): the bodies of SESSION_OPEN, SESSION_CLOSE, SESSION_FORK and SESSION_QUERY where
every check passes. -/

namespace Sys2Proof.Machine

variable {m : Msg} {a : State} {x : Session} {k : Model} {i : Nat}

/-- The checks of a SESSION_OPEN's handles, audio sides and reservations are those of `SessionOpenOk`; what is left is its effect. -/
theorem sessionOpen_of_ok (hok : SessionOpenOk m i a) :
    let b := a.issue 2 i
    let h := b.handleOf 2 i
    let own := fun (o : Nat) => setOwnerOf (BitVec.ofNat 32 (m.f o 4)) (BitVec.ofNat 32 h)
    sessionOpen m a = (addReservations (openResvs m a) (startRing (m.f 0x28 8) (own 4 (own 0x14 (own 0x1C (b.onCtrl (fun k => { k with
      sessions := k.sessions ++ [openedSession m i a] })))))), .done stOk (natLe 4 h)) := by
  intro b h own
  obtain ⟨hhandles, hlive, hobj, hin, hout, hctx1, hctxMost, hctx64, hz, hring, hun, hunEnc, hunDec, hfreeIn, hfreeOut, hresEnc, hresDec,
    hidx, hadmit, hpages⟩ := hok
  simp only [List.forall_mem_cons] at hhandles
  rw [firstFail_eq_none_iff] at hring
  have hresv : ((openResvs m a).isEmpty || a.admits (openResvs m a)) = true := by simpa using hadmit
  rw [sessionOpen, checked_of_pass]
  · simp only [hidx]
    rfl
  simp only [List.forall_mem_append, List.forall_mem_cons]
  refine ⟨⟨⟨by simp [hlive, hhandles], ?state, hin, hout, by simp [hctx1, hctxMost], by simp [hctx64], hz, by simp⟩, hring⟩,
    by simp [hhandles], ?beat, hpages, by simp⟩
  case state =>
    split_ifs at hobj ⊢
    · cases hmodel : a.model (hIdx (m.f 0 4)) with
      | none => rfl
      | some y => simpa [hmodel] using hobj
    · exact hobj
  case beat =>
    exact Bool.and_eq_true_iff.2 ⟨by simp [hun, hunEnc, hunDec, hfreeIn, hfreeOut, hresEnc, hresDec, hidx], hresv⟩

theorem sessionClose_of_names (hs : NamesSession m x a) (hopen : x.closing = none) : sessionClose m a =
    ((releaseSession x (BitVec.ofNat 32 (m.f 0 4)) a).onSession (hIdx (m.f 0 4)) (fun y => { y with left := 0, closing := some (a.now + 2) }),
      waitFor m 0x0502 (m.f 0 4) (some (a.now + 2)) 0) := by
  obtain ⟨hlive, howns, hx⟩ := hs
  rw [sessionClose, checked_of_pass _ _ (by simp [hlive, howns, hx, hopen])]
  simp only [hx]

/-- SESSION_FORK, with a state object for the child or for a model that needs none (R302). -/
theorem sessionFork_of_ok (hok : SessionForkOk m x k i a) :
    let b := a.issue 2 i
    let h := b.handleOf 2 i
    sessionFork m a = (startRing (m.f 0x10 8) (setOwnerOf (BitVec.ofNat 32 (m.f 8 4)) (BitVec.ofNat 32 h)
      (((x.pages.take (cdiv (m.f 4 4) 64)).foldl (fun (s : State) (f : Nat) => s.onSet f (fun y => { y with refs := y.refs + 1 })) b).onCtrl
        (fun q => { q with sessions := q.sessions ++ [forkedSession m x i a] }))), .done stOk (natLe 4 h)) := by
  intro b h
  obtain ⟨⟨hlive, howns, hx⟩, hliveO, hat, hk, hplain, hobj, hz, hring, hownO, hstep, hfault, hpre, hclose, hun, hidx⟩ := hok
  rw [firstFail_eq_none_iff] at hring
  simp only [sessionFork, hx, Option.getD_some, hk]
  rw [checked_of_pass]
  · simp only [hidx]
    rfl
  simp only [List.forall_mem_append, List.forall_mem_cons]
  refine ⟨⟨⟨by simp [hlive, hliveO], hat, ?state, hz, by simp⟩, hring⟩, by simp [howns, hownO],
    by simp [hstep, hfault, hpre, hclose, hun, hidx], by simp⟩
  case state =>
    split_ifs with hrs
    · simp [hplain hrs]
    · obtain ⟨hfree, hsame⟩ := hobj hrs
      cases ho : a.obj (hIdx (m.f 8 4)) with
      | none => simp [ho] at hsame
      | some o => simpa [hfree, ho] using hsame

theorem sessionQuery_of_ok (h : SessionQueryOk m x a) : sessionQuery m a =
    (refWrite m ((List.range (m.f 8 4)).flatMap (fun i => a.pageRow x (a.layersOf x) (m.f 4 4 + i))) a,
      .done stOk (natLe 1 x.state ++ natLe 1 (lenBucket x.positions) ++ zeros 2 ++ natLe 4 x.positions ++ natLe 4 x.holds ++ zeros 4)) := by
  obtain ⟨⟨hlive, howns, hx⟩, href, hlen, hrows, hz⟩ := h
  obtain ⟨hformat, hdomain⟩ := refChecks_pass href
  simp only [sessionQuery, hx, Option.getD_some]
  rw [checked_of_pass]
  simp only [List.forall_mem_append]
  simpa [hlive, howns, hlen, hrows, hz] using And.intro hformat hdomain

end Sys2Proof.Machine
end

section
namespace Sys2Proof.Machine

/-- Settles O51: the body of each message replies as stated once its checks pass. -/
theorem sessionMessages : Obligations.SessionMessages := by
  refine ⟨?opens, ?closes, ?forks, ?queries⟩
  case opens =>
    intro m s i h a b hb own hok
    exact answers_of_body rfl h (sessionOpen_of_ok hok)
  case closes =>
    intro m s x h a hb hs hopen
    exact waits_of_body rfl h (sessionClose_of_names hs hopen)
  case forks =>
    intro m s x k i h a b hb hok
    exact answers_of_body rfl h (sessionFork_of_ok hok)
  case queries =>
    intro m s x h a hok
    exact answers_of_body rfl h (sessionQuery_of_ok hok)

end Sys2Proof.Machine
end

section
/-! SUPPORT. What a session's work leaves when it completes (R281, R290, R291, R298, R490). -/

namespace Sys2Proof.Machine

variable {s : State} {i : Nat} {x : Session} {b : BWork} {st : Half}

/-! ## PREFILL_COMPLETE -/

/-- What a write of device memory does not change, the writes of a set's trailers do not change. -/
theorem writeTrailers_keeps {γ : Type} (g : State → γ) (hmem : ∀ addr l s, g (putMem addr l s) = g s) (owner : Nat) :
    g (writeTrailers i owner s) = g s := by
  rw [writeTrailers]
  split
  case h_1 => rfl
  case h_2 =>
    split
    case h_1 => rfl
    case h_2 => exact foldl_keeps g (fun t q => by dsimp only; rw [apply_ite g, hmem, ite_self]) _ s

/-- The class B work of a session's prefill. -/
def prefillWork (i : Nat) (w : BWork) : Bool := w.kind == .prefill && decide (w.obj = i)

/-- The frame sets that the prefill `p` of a session has written: each filled up to its last position, and marked invalid where the
prefill ended with another status than OK (R281). -/
def prefillPages (st : Half) (x : Session) (p : Nat × Nat × Nat × Bool) (s : State) : State :=
  let mine := (x.pages.take (cdiv (p.1 + p.2.1) 64)).drop (p.1 / 64)
  let filled := (mine.zipIdx.map (fun q => (q.1, q.2 + p.1 / 64))).foldl (fun (s : State) (q : Nat × Nat) =>
    s.onSet q.1 (fun y => { y with fill := min 64 (p.1 + p.2.1 - 64 * q.2) })) s
  if st = stOk then filled else mine.foldl (fun (s : State) (f : Nat) => invalidSet st f s) filled

/-- A session once its prefill has run up to position `n` with a status. -/
def prefilledSession (n : Nat) (st : Half) (now : Nat) (y : Session) : Session :=
  { y with positions := n, lastStatus := st, lastActive := now }

/-- The answer of a prefill dated for the next tick, with its status and whether its pages are to be published (R298). -/
def prefillDated (st : Half) (pub : Bool) (now : Nat) (q : PendMsg) : PendMsg :=
  { q with doneBeat := some (now + 1), arg := st.toNat + 65536 * b2n pub }

/-- The pages of a prefill reach the frame sets and, by their trailers, device memory: nothing else. -/
theorem prefillPages_keeps {γ : Type} (g : State → γ) (hmem : ∀ addr l s, g (putMem addr l s) = g s)
    (hset : ∀ i f (s : State), g (s.onSet i f) = g s) (p : Nat × Nat × Nat × Bool) : g (prefillPages st x p s) = g s := by
  have hinvalid (t : State) (f : Nat) : g (invalidSet st f t) = g t := by
    rw [invalidSet, writeTrailers_keeps g hmem, hset]
  rw [prefillPages, apply_ite g, foldl_keeps g hinvalid, foldl_keeps g (fun _ _ => hset ..), ite_self]

/-- A prefill that has run: its work ends, its pages and its session's positions are recorded, its answer is dated. -/
theorem exec_prefillComplete_of_work {p : Nat × Nat × Nat × Bool} (hx : s.session i = some x)
    (hb : s.plan.bwork.find? (prefillWork i) = some b) (hp : x.prefill = some p) :
    exec (.prefillComplete i st) s = .next (((prefillPages (tableStatus st) x p (dropWork (· == b) s)).onSession i
      (prefilledSession (p.1 + p.2.1) (tableStatus st) s.now)).onCtrl (fun k => { k with
        pend := updAll k.pend (fun q => q.client == b.client && q.mbox == b.mbox) (prefillDated (tableStatus st) p.2.2.2 s.now) })) := by
  have hb' : s.plan.bwork.find? (fun b => b.kind == .prefill && decide (b.obj = i)) = some b := hb
  change execPrefillComplete i st s = _
  simp only [execPrefillComplete, hx, hb', hp]
  rfl

/-! ## Copies that a plan's part runs -/

theorem not_not_copyRuns {q : DcpCopy → Bool} (hr : s.copyRuns q = true) : ¬(!s.copyRuns q) = true := by simp [hr]

/-- Work marked as taken: `reuseTick` and `moveTick` read the mark at the next tick (R290, R298). -/
def takeWork (p : BWork → Bool) (s : State) : State :=
  s.onPlan (fun k => { k with bwork := updAll k.bwork p (fun b => { b with taken := true }) })

/-- The class B work of the copy of a node's snapshot. -/
def snapshotWork (node : Nat) (w : BWork) : Bool := w.kind == .snapshot && decide (w.obj = node)

/-- The class B work that moves a frame set of a session to the CXL tier. -/
def pageMoveWork (i f : Nat) (w : BWork) : Bool := w.kind == .pageMove && decide (w.obj = i ∧ w.arg = f)

/-- The class B work of the requests that wait for a session's pages. -/
def pageBackWork (i : Nat) (w : BWork) : Bool := w.kind == .pageBack && decide (w.obj = i)

theorem exec_reusePointReady_of_runs {n : Nat} (hr : s.copyRuns (DcpCopy.isFor (snapshotWork n)) = true) :
    exec (.reusePointReady n) s = .next (takeWork (snapshotWork n) s) :=
  congrArg Host.Outcome.next (if_neg (not_not_copyRuns hr))

theorem exec_pageMoveComplete_of_runs {p f : Nat} (hx : s.session i = some x) (hf : x.pages[p]? = some f)
    (hr : s.copyRuns (DcpCopy.isFor (pageMoveWork i f)) = true) :
    exec (.pageMoveComplete i p) s = .next (takeWork (pageMoveWork i f) s) := by
  change execPageMoveComplete i p s = _
  simp only [execPageMoveComplete, hx, hf]
  exact congrArg Host.Outcome.next (if_neg (not_not_copyRuns hr))

/-- The requests that waited end together where a page found no place, or are checked in the order in which they came (R291). -/
theorem exec_pageMoveBackComplete_of_runs (hx : s.session i = some x) (hhit : s.plan.bwork.filter (pageBackWork i) ≠ [])
    (hr : s.copyRuns (DcpCopy.isFor (pageBackWork i)) = true) :
    let hit := s.plan.bwork.filter (pageBackWork i)
    let s0 := dropWork (pageBackWork i) s
    exec (.pageMoveBackComplete i) s = .next ((backPages x s0).elim
      (hit.foldl (fun s b => completeOwned b.client b.mbox stRefusedPages [] s) s0)
      (fun s1 => hit.foldl (fun s b => checkNow b s) s1)) := by
  intro hit s0
  have hgo : ¬(hit.isEmpty || !s.copyRuns (DcpCopy.isFor (pageBackWork i))) = true := by simpa [hr, hit] using hhit
  change execPageMoveBackComplete i s = _
  simp only [execPageMoveBackComplete, hx]
  refine congrArg Host.Outcome.next ((if_neg hgo).trans ?_)
  split
  case h_1 hback =>
    rw [show backPages x s0 = none from hback]
    rfl
  case h_2 s1 hback =>
    rw [show backPages x s0 = some s1 from hback]
    rfl

end Sys2Proof.Machine
end

section
namespace Sys2Proof.Machine

/-- Settles O53: a prefill's completion sets every record of its session and of its answer; a copy that runs marks its work, and
one that brings pages back goes on with the requests that wait. -/
theorem sessionEvents : Obligations.SessionEvents := by
  refine ⟨?prefill, ?snapshot, ?move, ?back⟩
  case prefill =>
    intro i st s x b p hx hb hp
    refine ⟨_, exec_prefillComplete_of_work hx hb hp, ?_, ?_, ?_⟩
    · rw [State.onCtrl_plan, State.onSession, State.onCtrl_plan, prefillPages_keeps State.plan (fun _ _ _ => rfl) (fun _ _ _ => rfl)]
      rfl
    · intro y hy hi
      obtain ⟨z, -, rfl⟩ := exists_eq_of_mem_updAll hy (by simpa using hi)
      exact ⟨rfl, rfl⟩
    · intro q hq hc hm
      obtain ⟨w, -, rfl⟩ := exists_eq_of_mem_updAll hq (by simp [hc, hm])
      exact ⟨rfl, rfl⟩
  case snapshot =>
    intro n s mine hr
    exact exec_reusePointReady_of_runs hr
  case move =>
    intro i p f s x hx hf mine hr
    exact exec_pageMoveComplete_of_runs hx hf hr
  case back =>
    intro i s x hx hit s0 hhit hr
    refine (exec_pageMoveBackComplete_of_runs hx hhit hr).trans (congrArg Host.Outcome.next ?_)
    change Option.elim (backPages x s0) _ _ = _
    cases backPages x s0 <;> rfl

end Sys2Proof.Machine
end

section
/-! SUPPORT. Skid queues (R306, R327, R332, R333): what a push appends, how the placeholders that wait join the queue, and that a pop and
a placeholder lose none of them. -/

namespace Sys2Proof.Machine

variable {q : SkidQ}

/-- The entry that a push appends: it takes the queue's count of pushes as its SEQ (R327). -/
def SkidQ.entryOf (q : SkidQ) (addr len : Nat) (st : Half) : SkidEntry :=
  { addr := addr % 2 ^ 60, len := len % 2 ^ 32, status := st, seq := q.pushSeq }

theorem SkidQ.room_iff : q.room = true ↔ q.entries.length < skidCap := decide_eq_true_iff

theorem SkidQ.push_entries_of_room (addr len : Nat) (st : Half) (h : q.room = true) :
    (q.push addr len st).entries = q.entries ++ [q.entryOf addr len st] := by
  rw [SkidQ.push, if_pos h]
  rfl

theorem SkidQ.push_of_full (addr len : Nat) (st : Half) (h : ¬q.room = true) : q.push addr len st = q := if_neg h

/-- A push leaves the placeholders that wait. -/
@[simp] theorem SkidQ.push_late (addr len : Nat) (st : Half) : (q.push addr len st).late = q.late := by
  rw [SkidQ.push]
  split <;> rfl

/-! ## Placeholders that wait -/

/-- No placeholder waits while the queue has room (R332, R333): they have joined it, or the queue is full. -/
def SkidQ.Caught (q : SkidQ) : Prop := q.late = [] ∨ q.entries.length = skidCap

theorem SkidQ.takeLate_of_none {n : Nat} (h : q.late = []) : q.takeLate n = q := by
  cases n with
  | zero => rfl
  | succ n => rw [SkidQ.takeLate, h]

theorem SkidQ.takeLate_of_full {n : Nat} (h : ¬q.room = true) : q.takeLate n = q := by
  cases n with
  | zero => rfl
  | succ n =>
    rw [SkidQ.takeLate]
    split
    · exact if_neg h
    · rfl

theorem SkidQ.takeLate_of_room {n : Nat} {e : SkidEntry} {r : List SkidEntry} (hlate : q.late = e :: r) (h : q.room = true) :
    q.takeLate (n + 1) = ({ q with late := r }.push e.addr e.len e.status).takeLate n := by
  rw [SkidQ.takeLate, hlate]
  exact if_pos h

/-- The placeholders that wait follow the entries that stand, as many as the queue has room for; the others wait on (R332, R333). -/
theorem SkidQ.takeLate_joins {n : Nat} (hn : q.late.length = n) (hcap : q.entries.length ≤ skidCap) :
    ∃ new : List SkidEntry, (q.takeLate n).entries = q.entries ++ new ∧ new.length + (q.takeLate n).late.length = n ∧
      (q.takeLate n).entries.length ≤ skidCap ∧ (q.takeLate n).Caught := by
  induction n generalizing q with
  | zero => exact ⟨[], (List.append_nil _).symm, (Nat.zero_add _).trans hn, hcap, .inl (List.length_eq_zero_iff.1 hn)⟩
  | succ n ih =>
    obtain ⟨e, r, hlate⟩ := List.exists_cons_of_length_eq_add_one hn
    by_cases hroom : q.room = true
    case neg =>
      rw [SkidQ.takeLate_of_full hroom]
      exact ⟨[], (List.append_nil _).symm, (Nat.zero_add _).trans hn, hcap,
        .inr (hcap.antisymm (not_lt.1 fun h => hroom (SkidQ.room_iff.2 h)))⟩
    case pos =>
      have hrest : r.length = n := by simpa [hlate] using hn
      have hpush := SkidQ.push_entries_of_room (q := { q with late := r }) e.addr e.len e.status hroom
      obtain ⟨new, hentries, hcount, hcap', hcaught⟩ := ih (q := { q with late := r }.push e.addr e.len e.status)
        ((congrArg List.length (SkidQ.push_late ..)).trans hrest)
        (by rw [hpush, List.length_append]; exact SkidQ.room_iff.1 hroom)
      rw [SkidQ.takeLate_of_room hlate hroom]
      refine ⟨q.entryOf e.addr e.len e.status :: new, ?_, by rw [List.length_cons]; omega, hcap', hcaught⟩
      rw [hentries, hpush, List.append_assoc]
      rfl

/-! ## Pops and placeholders -/

theorem SkidQ.pop_entries_of_none_late (n : Nat) (h : q.late = []) : (q.pop n).entries = q.entries.drop n := by
  rw [SkidQ.pop, SkidQ.takeLate_of_none]
  exact h

/-- A pop takes the oldest entries; placeholders that waited follow those that stay, and none is lost (R330, R332). -/
theorem SkidQ.pop_joins (n : Nat) (hcap : q.entries.length ≤ skidCap) :
    ∃ new : List SkidEntry, (q.pop n).entries = q.entries.drop n ++ new ∧ new.length + (q.pop n).late.length = q.late.length ∧
      (q.pop n).entries.length ≤ skidCap ∧ (q.pop n).Caught :=
  SkidQ.takeLate_joins rfl ((List.length_drop ..).trans_le ((Nat.sub_le ..).trans hcap))

/-- A placeholder stands in the queue, or waits behind those that wait (R332; log entry 42). -/
theorem SkidQ.place_count (addr : Nat) (st : Half) :
    (q.place addr st).entries.length + (q.place addr st).late.length = q.entries.length + q.late.length + 1 := by
  rw [SkidQ.place]
  split
  case isTrue h =>
    rw [Bool.and_eq_true] at h
    rw [SkidQ.push_entries_of_room _ _ _ h.1, SkidQ.push_late, List.length_append, List.length_singleton, Nat.add_right_comm]
  case isFalse => rw [List.length_append, List.length_singleton, Nat.add_assoc]

end Sys2Proof.Machine
end

section
namespace Sys2Proof.Machine

/-- Settles O56: a push appends or finds the queue full; a pop is the drop of the oldest followed by the placeholders that join, by
induction on those that wait; a placeholder is counted where it stands or waits. -/
theorem skidQueueOrder : Obligations.SkidQueueOrder := by
  intro q addr len n st
  refine ⟨fun hroom => ?push, fun hfull => ?full, SkidQ.pop_entries_of_none_late n, SkidQ.pop_joins n, SkidQ.place_count addr st⟩
  case push => exact ⟨_, SkidQ.push_entries_of_room addr len st (SkidQ.room_iff.2 hroom), rfl, rfl, rfl⟩
  case full => rw [SkidQ.push_of_full addr len st fun hroom => (SkidQ.room_iff.1 hroom).not_ge hfull]

end Sys2Proof.Machine
end

section
/-! SUPPORT. Streams of a yarder (R307 to R317, R330): the start of a STREAM or COPY, and one whose list is empty. -/

namespace Sys2Proof.Machine

variable {s : State} {y : Nat} {w : List Byte} {copy : Bool}

theorem State.onYarder_onYarder (f g : YarderSt → YarderSt) : (s.onYarder y f).onYarder y g = s.onYarder y (fun k => g (f k)) := by
  simp only [State.onYarder, State.onYard, List.modify_modify_eq]
  rfl

/-- A word of STREAM or COPY that its yarder takes: of the instruction's opcode, well formed, and none that a planned command holds
back (R310, R313, R314, R408). -/
structure StartsOn (y : Nat) (w : List Byte) (copy : Bool) (s : State) : Prop where
  size : w.length = 64
  up : s.yardUp y = true
  op : yIsCopy w = copy
  wellFormed : yardWordFail y w = none
  egress : egressBad w s = false
  moves : s.mayMove y (yNum w) = true

/-- The checks of a word that its yarder takes pass: what is left is the list, the context and the pop. -/
theorem startStream_of_startsOn (h : StartsOn y w copy s) :
    startStream y w copy s = if fld w 0x10 2 = 0 then
        planDoneStream y (yNum w) stOk (endEndpoint y (newCtx y w s) (yardFinish w stOk y
          (s.onYarder y (fun k => { k with ctxs := k.ctxs.filter (fun x => !(x.num == yNum w)) }))))
      else
        let c := (s.ctx y (yNum w)).getD (newCtx y w s)
        if c.started then pump y (yNum w) s
        else if c.held then runStream y c s
        else if 16 ≤ s.ctxsUsed y then s
        else (popFor w s).elim s (fun q => runStream y (c.pop q.1) q.2) := by
  have hgoes : ¬(!s.yardUp y || (yIsCopy w != copy && decide (fld w 0 1 = 0x20 ∨ fld w 0 1 = 0x21)) || !s.mayMove y (yNum w)) = true := by
    simp [h.up, h.op, h.moves]
  have hchecks : ¬((yardWordFail y w).isSome = true ∨ egressBad w s = true) := by simp [h.wellFormed, h.egress]
  rw [startStream, fit_of_length h.size]
  dsimp only
  rw [if_neg hgoes, if_neg hchecks]
  cases popFor w s <;> rfl

/-- An empty list ends at once: its context is free, the registers show and count it (R317). -/
theorem startStream_of_empty (h : StartsOn y w copy s) (hempty : fld w 0x10 2 = 0) :
    startStream y w copy s = planDoneStream y (yNum w) stOk (endEndpoint y (newCtx y w s) (s.onYarder y (fun k => { k with
      ctxs := k.ctxs.filter (fun x => !(x.num == yNum w))
      lastStatus := stOk
      lastTag := BitVec.ofNat 32 (fld w 0x2C 4)
      count := k.count + 1 }))) := by
  rw [startStream_of_startsOn h, if_pos hempty, yardFinish, State.onYarder_onYarder]

/-- A context that has fetched nothing owes nothing, so that a command that pops no entries leaves it as it is (R330). -/
theorem newCtx_pop_none : (newCtx y w s).pop none = newCtx y w s := by
  have howed : ((newCtx y w s).pop none).owed = [] := ite_self _
  change { newCtx y w s with popped := none, owed := ((newCtx y w s).pop none).owed } = _
  rw [howed]
  rfl

/-- A stream that is new, pops nothing and finds a context starts in it (R307, R310). -/
theorem startStream_of_new (h : StartsOn y w copy s) (hlist : fld w 0x10 2 ≠ 0) (hnew : s.ctx y (yNum w) = none)
    (hfree : s.ctxsUsed y < 16) (hpops : skidIn w = none) : startStream y w copy s = runStream y (newCtx y w s) s := by
  have hpop : popFor w s = some (none, s) := by rw [popFor, hpops]
  have hstopped : ¬(newCtx y w s).started = true := Bool.false_ne_true
  have hunheld : ¬(newCtx y w s).held = true := Bool.false_ne_true
  rw [startStream_of_startsOn h, if_neg hlist, hnew, hpop]
  dsimp only [Option.getD_none, Option.elim_some]
  rw [if_neg hstopped, if_neg hunheld, if_neg hfree.not_ge, newCtx_pop_none]

end Sys2Proof.Machine
end

section
namespace Sys2Proof.Machine

/-- Settles O29: STREAM and COPY are one start, with the opcode that each names; its checks pass, and its list is empty or its context
is new. -/
theorem yarderStarts : Obligations.YarderStarts := by
  intro p hp y w s hw hup hop hform hegress hmoves
  have hstarts : StartsOn y w p.2 s := ⟨hw, hup, hop, hform, hegress, hmoves⟩
  have hexec : exec (p.1 y w) s = .next (startStream y w p.2 s) := by
    rcases List.mem_pair.1 hp with rfl | rfl <;> rfl
  rw [hexec]
  refine ⟨fun hempty => ⟨_, congrArg Host.Outcome.next (startStream_of_empty hstarts hempty), rfl⟩, fun hlist hnew hfree hpops => ?_⟩
  rw [startStream_of_new hstarts hlist hnew hfree hpops]
  rfl

end Sys2Proof.Machine
end

section
/-! SUPPORT. Descriptor fetches and transfers of a stream (R310, R318 to R321, R341): the burst that comes next, and local reads and writes
that the firewall passes. -/

namespace Sys2Proof.Machine

variable {s : State} {y num dom idx sym a n : Nat} {c c' : StreamCtx} {l : ListSt} {x : Xfer}

/-! ## Fetches -/

/-- A stream with a read list alone fetches its next burst as soon as it wants one, once it runs; the first before that (R310, R318). -/
theorem StreamCtx.nextBurst_of_read (hwr : c.wr = none) (hrd : c.rd = some l) (hwants : l.wants = true)
    (hruns : c.started = true ∨ l.bursts = 0) : c.nextBurst = some (false, l) := by
  rw [StreamCtx.nextBurst, hwr, hrd]
  rcases hruns with hstarted | hfirst
  · by_cases hfirst : l.bursts = 0 <;> simp [hstarted, hfirst, hwants]
  · simp [hfirst, hwants]

/-- A burst of a read list whose descriptors are well formed counts in the list (R318). -/
theorem fetchBurst_bursts (h : (fetchBurst y false l c sym s).2 = some c') : c'.rd.map (·.bursts) = some (l.bursts + 1) := by
  rw [fetchBurst] at h
  dsimp only at h
  rw [apply_ite Prod.snd, Option.ite_none_left_eq_some] at h
  obtain rfl := Option.some.inj h.2
  rfl

theorem fetchNext_of_fetched {write : Bool} (hc : s.ctx y num = some c) (hnext : c.nextBurst = some (write, l))
    (hfetched : (fetchBurst y write l c sym s).2 = some c') :
    fetchNext y num sym s = (fetchBurst y write l c sym s).1.onCtx y num (fun _ => c') := by
  have hburst : fetchBurst y write l c sym s = ((fetchBurst y write l c sym s).1, some c') := Prod.ext rfl hfetched
  rw [fetchNext, hc, Option.bind_some, hnext, Option.map_some]
  dsimp only
  rw [hburst]

theorem exec_descriptorFetch_of_ctx (hup : s.yardUp y = true) (hc : s.ctx y num = some c) :
    exec (.descriptorFetch y ⟨num, sym⟩) s = .next (pump y num (fetchNext y num sym s)) := by
  change execDescriptorFetch y ⟨num, sym⟩ s = _
  simp [execDescriptorFetch, hup, hc]

/-! ## Reads and writes that pass -/

section
variable {γ : Type} {g : State → γ} (hmem : ∀ (f : MemSt → MemSt) (t : State), (∀ m, (f m).dev = m.dev) → g (t.onMem f) = g t)
include hmem

/-! What no change of memory but one of its bytes touches, a read leaves: it changes the order of cached lines and the counts of corrected
words (R354, R363). -/

theorem lcTouch_keeps (line : Nat) : g (lcTouch line s) = g s := by
  rw [lcTouch]
  dsimp only
  split
  case isTrue => rfl
  case isFalse => exact hmem _ _ fun m => by split <;> rfl

theorem eccNote_keeps (a sym : Nat) : g (eccNote a sym s) = g s := by
  rw [eccNote]
  split
  case isFalse => rfl
  case isTrue =>
    rw [countFixed]
    split
    · exact hmem _ _ fun _ => rfl
    · rfl

theorem lcLines_eccNote_keeps (a n sym : Nat) : g (lcLines a n (eccNote a sym s)) = g s :=
  (foldl_keeps g (fun _ _ => lcTouch_keeps hmem _) _ _).trans (eccNote_keeps hmem a sym)

end

/-- A local read that passes, of words that the code gives back, takes the bytes and the status OK (R341, R362). -/
theorem localRead_of_passes (hpass : s.readPasses dom a n = true) (hecc : eccLost sym = false) (hclear : s.rangePoisoned a n = false) :
    localRead y dom a n sym s = (MemOps.readN s.mem.dev a n, stOk, lcLines a n (eccNote a sym s)) := by
  simp [localRead, hpass, hecc, hclear]

/-- A local write that passes stores its bytes, or adds its values where it accumulates, with the status OK (R341, R356). -/
theorem localWrite_of_passes {acc : Bool} {d : List Byte} (hpass : s.rangePasses dom true a d.length = true)
    (hclear : acc = true → s.rangePoisoned a d.length = false) :
    localWrite y dom a acc d s = (stOk, if acc then s.onDev (fun m => accWrite m a d)
      else clearPoison a d.length (s.onDev (fun m => MemOps.writeN m a d))) := by
  cases acc
  case false => simp [localWrite, hpass, putMem]
  case true => simp [localWrite, hpass, hclear]

/-! ## Completion -/

/-- An outstanding transfer of a stream that reads or writes this module's memory. -/
structure OutstandingHere (y num idx : Nat) (c : StreamCtx) (x : Xfer) (s : State) : Prop where
  up : s.yardUp y = true
  ctx : s.ctx y num = some c
  found : c.xfers.find? (fun x => x.idx == idx && !x.done) = some x
  moves : x.zero = false
  here : s.isLocal x.addr = true

/-- A local write that no earlier write of the stream holds back and that starts no verdict completes with its status (R319, R341). -/
theorem exec_transferComplete_of_write {u : State} (h : OutstandingHere y num idx c x s)
    (hwrite : x.write = true) (hfirst : c.behind x = false) (hplace : yIsCopy c.word = true ∨ verdictPlace (devAddr x.addr) x.len = none)
    (hwrites : localWrite y c.dom (devAddr x.addr) x.acc x.data s = (stOk, u)) :
    exec (.transferComplete y num idx sym) s = .next (pump y num (doneXfer y num idx x.data stOk u)) := by
  have hplace : (if yIsCopy c.word then none else verdictPlace (devAddr x.addr) x.len) = none := ite_eq_left_iff.2 fun h => hplace.resolve_left h
  change execTransferComplete y num idx sym s = _
  simp only [execTransferComplete, h.ctx, Option.bind_some, h.found, Option.map_some, h.up, hfirst, h.moves, h.here, hwrite, hplace, hwrites]
  rfl

/-- A local read completes with what it has read (R319, R341). -/
theorem exec_transferComplete_of_read (h : OutstandingHere y num idx c x s) (hread : x.write = false) :
    exec (.transferComplete y num idx sym) s = .next (pump y num (
      let r := localRead y c.dom (devAddr x.addr) x.len sym s
      doneXfer y num idx r.1 r.2.1 r.2.2)) := by
  have hfirst : c.behind x = false := by rw [StreamCtx.behind, hread, Bool.false_and]
  change execTransferComplete y num idx sym s = _
  simp only [execTransferComplete, h.ctx, Option.bind_some, h.found, Option.map_some, h.up, hfirst, h.moves, h.here, hread]
  rfl

end Sys2Proof.Machine
end

section
namespace Sys2Proof.Machine

/-- Settles O30: a fetch takes the burst that the read list wants next; a completion takes the bytes that a passing read gives, or leaves
what a passing write does. -/
theorem yarderTransfers : Obligations.YarderTransfers := by
  refine ⟨?fetch, ?complete⟩
  case fetch =>
    intro y num sym s c l hup hc hwr hrd hwants hruns c' hfetched
    refine ⟨?_, fetchBurst_bursts hfetched⟩
    rw [exec_descriptorFetch_of_ctx hup hc, fetchNext_of_fetched hc (StreamCtx.nextBurst_of_read hwr hrd hwants hruns) hfetched]
  case complete =>
    intro y num idx sym s c x hup hc hx hzero hlocal a
    have hxfer : OutstandingHere y num idx c x s := ⟨hup, hc, hx, hzero, hlocal⟩
    refine ⟨fun hwrite hfirst hplace hpass hclear => ?write, fun hread hecc hpass hclear => ?read⟩
    case write =>
      exact exec_transferComplete_of_write hxfer hwrite hfirst hplace (localWrite_of_passes hpass hclear)
    case read =>
      refine ⟨lcLines a x.len (eccNote a sym s), ?_, ?mem, ?yard, ?clusters⟩
      · rw [exec_transferComplete_of_read hxfer hread, localRead_of_passes hpass hecc hclear]
      case mem => exact lcLines_eccNote_keeps (g := (·.mem.dev)) (fun _ _ h => h _) ..
      case yard => exact lcLines_eccNote_keeps (g := State.yard) (fun _ _ _ => rfl) ..
      case clusters => exact lcLines_eccNote_keeps (g := State.clusters) (fun _ _ _ => rfl) ..

end Sys2Proof.Machine
end

section
/-! SUPPORT. Tiles and pushes of a stream (R306, R322, R323, R329, R333): a read stream gives a tile, a write stream takes one, a complete
descriptor is pushed. -/

namespace Sys2Proof.Machine

variable {s : State} {y num : Nat} {c : StreamCtx}

/-! ## Changes of a context -/

/-- Two changes that agree on the first element that a test finds leave the same list. -/
theorem updFirst_congr {α : Type} {p : α → Bool} {f g : α → α} {a : α} {l : List α} (hfind : l.find? p = some a) (h : f a = g a) :
    updFirst l p f = updFirst l p g := by
  induction l with
  | nil => rfl
  | cons b l ih =>
    cases hp : p b with
    | true =>
      obtain rfl : b = a := Option.some.inj ((List.find?_cons_of_pos hp).symm.trans hfind)
      rw [updFirst, updFirst, if_pos hp, if_pos hp, h]
    | false =>
      have hnot : ¬p b = true := by simp [hp]
      rw [updFirst, updFirst, if_neg hnot, if_neg hnot, ih ((List.find?_cons_of_neg hnot).symm.trans hfind)]

/-- Two changes that agree on a yarder as it stands leave the same state. -/
theorem State.onYarder_congr {f g : YarderSt → YarderSt} (h : f (s.yarder y) = g (s.yarder y)) : s.onYarder y f = s.onYarder y g := by
  have hmodify : s.yard.yards.modify y f = s.yard.yards.modify y g := by
    by_cases hy : y < s.yard.yards.length
    · rw [State.yarder, List.getD_eq_getElem _ _ hy] at h
      rw [List.modify_eq_set_get f hy, List.modify_eq_set_get g hy, List.get_eq_getElem, h]
    · rw [List.modify_eq_self (not_lt.1 hy), List.modify_eq_self (not_lt.1 hy)]
  exact congrArg (fun l => s.onYard (fun k => { k with yards := l })) hmodify

/-- Two changes that agree on a stream's context as it stands leave the same state. -/
theorem State.onCtx_congr {f g : StreamCtx → StreamCtx} (hc : s.ctx y num = some c) (h : f c = g c) : s.onCtx y num f = s.onCtx y num g :=
  State.onYarder_congr (congrArg (fun l => { s.yarder y with ctxs := l }) (updFirst_congr hc h))

/-! ## Tiles and pushes -/

/-- A stream between memory and an endpoint that runs at a yarder. -/
structure RunsTiles (y num : Nat) (c : StreamCtx) (s : State) : Prop where
  up : s.yardUp y = true
  ctx : s.ctx y num = some c
  started : c.started = true
  notCopy : yIsCopy c.word = false

/-- A read stream whose next tile is whole, or is the rest of its list, hands it to an endpoint that has room (R322, R323). -/
theorem exec_tileDeliver_of_read {n : Nat} (h : RunsTiles y num c s) (hreads : yWrites c.word = false)
    (hn : min (s.tileBytes c) (stagedLen c.staged) = n) (hsome : n ≠ 0) (hroom : s.tileRoom c n = true)
    (hwhole : n = s.tileBytes c ∨ (c.listsEnd = true ∧ c.xfers = [])) :
    exec (.tileDeliver y num) s = .next (pump y num (giveTile c c.donePos (headStaged n c.staged) (s.onCtx y num (fun c => { c with
      staged := (takeStaged n c.staged).2.2, donePos := c.donePos + n })))) := by
  have hgoes : ¬(n = 0 ∨ (n < s.tileBytes c ∧ (c.listsEnd && c.xfers.isEmpty) = false)) := by
    rintro (hzero | ⟨hpart, hmore⟩)
    · exact hsome hzero
    · rcases hwhole with htile | ⟨hend, hidle⟩
      · exact hpart.ne htile
      · simp [hend, hidle] at hmore
  change execTileDeliver y num s = _
  simp only [execTileDeliver, h.ctx, h.up, h.started, h.notCopy, hreads, hn, if_neg hgoes, hroom]
  exact congrArg (fun t => Host.Outcome.next (pump y num (giveTile c c.donePos (headStaged n c.staged) t))) (State.onCtx_congr h.ctx rfl)

/-- The tiles that a write stream holds: staged, or under way to memory (R322). -/
def StreamCtx.heldTiles (c : StreamCtx) : Nat :=
  cdiv (stagedLen c.staged + ((c.xfers.filter (·.write)).map (·.len)).foldl (· + ·) 0) (yTile c.word)

/-- A write stream that holds fewer than LEAD tiles takes what its endpoint has released (R322, R323). -/
theorem exec_tileDeliver_of_write (h : RunsTiles y num c s) (hwrites : yWrites c.word = true)
    (hlead : c.heldTiles < yLead c.word) (hsome : (takeTile y c s).1 ≠ []) :
    exec (.tileDeliver y num) s = .next (pump y num ((takeTile y c s).2.onCtx y num (fun c' => { c' with
      staged := c'.staged ++ (takeTile y c s).1
      status := if c'.status = stOk && !s.rowStream y c' then firstBad ((takeTile y c s).1.map (·.2)) else c'.status }))) := by
  have hlead : ¬yLead c.word ≤ c.heldTiles := hlead.not_ge
  rw [StreamCtx.heldTiles] at hlead
  change execTileDeliver y num s = _
  simp [execTileDeliver, h.ctx, h.up, h.started, h.notCopy, hwrites, hlead, hsome]

/-- The next descriptor that is complete is pushed to a queue with room (R329, R333). -/
theorem exec_skidPush_of_room {q : Nat} {o : Owed} {r : List Owed} (hup : s.yardUp y = true) (hc : s.ctx y num = some c)
    (hout : skidOut c.word = some q) (howed : c.owed = o :: r) (hdone : o.upto ≤ c.donePos) (hroom : (s.skid q).room = true) :
    exec (.skidPush y num) s = .next (pump y num ((s.onSkid q (SkidQ.push o.addr o.len o.status)).onCtx y num (fun c => { c with
      owed := r, pushed := c.pushed + 1 }))) := by
  change execSkidPush y num s = _
  simp [execSkidPush, hc, hup, hout, howed, hdone.not_gt, hroom]

end Sys2Proof.Machine
end

section
namespace Sys2Proof.Machine

/-- Settles O31: a tile that is whole and has room is given, one below LEAD is taken, and a complete descriptor is pushed; the tile's bytes
leave the context that the stream has. -/
theorem yarderTiles : Obligations.YarderTiles := by
  intro y num s c hup hc
  refine ⟨?read, ?write, ?push⟩
  case read =>
    intro hstarted hcopy hreads n hsome hroom hwhole
    exact exec_tileDeliver_of_read ⟨hup, hc, hstarted, hcopy⟩ hreads rfl hsome hroom hwhole
  case write =>
    intro hstarted hcopy hwrites hlead hsome
    exact exec_tileDeliver_of_write ⟨hup, hc, hstarted, hcopy⟩ hwrites hlead hsome
  case push =>
    intro q o r hout howed hdone hroom
    exact exec_skidPush_of_room hup hc hout howed hdone hroom

end Sys2Proof.Machine
end

section
/-! SUPPORT. The messages that go no further than their mailbox: an owned mailbox, an unbound page, a failing header (R457, R462, R466). -/

namespace Sys2Proof.Machine

variable {op : Nat} {plen : Option Nat} {ref : Bool} {m : Msg} {s : State}

/-- The application cores take a message into a mailbox that is the client's. -/
theorem withMsg_of_free (body : State → State × Reply) (hup : s.coresUp = true) (hfree : s.boxOwned m.client m.mbox = false) :
    withMsg op plen ref m body s = if !((s.taking op m).block m.client).bound then complete m.client m.mbox stBadHandle [] (s.taking op m)
      else match headerFail plen ref m with
        | some st => complete m.client m.mbox st [] (s.taking op m)
        | none => replied m (body (s.taking op m)) := by
  rw [State.boxOwned] at hfree
  rw [withMsg, if_neg (by simp [hup]), if_neg (by simp [hfree])]
  rfl

/-- A mailbox that the DCP owns ignores the write (R457). -/
theorem withMsg_of_owned (body : State → State × Reply) (hup : s.coresUp = true) (hown : s.boxOwned m.client m.mbox = true) :
    withMsg op plen ref m body s = s.onBlock m.client (fun b => { b with wrDrop := true }) := by
  rw [State.boxOwned] at hown
  rw [withMsg, if_neg (by simp [hup]), if_pos hown]

theorem withMsg_of_unbound (body : State → State × Reply) (hup : s.coresUp = true) (hfree : s.boxOwned m.client m.mbox = false)
    (hbound : (s.block m.client).bound = false) :
    withMsg op plen ref m body s = complete m.client m.mbox stBadHandle [] (s.taking op m) := by
  have hb : ((s.taking op m).block m.client).bound = false := hbound
  rw [withMsg_of_free body hup hfree, hb, Bool.not_false, if_pos rfl]

theorem withMsg_of_headerFail {st : Half} (body : State → State × Reply) (hup : s.coresUp = true) (hfree : s.boxOwned m.client m.mbox = false)
    (hbound : (s.block m.client).bound = true) (hhead : headerFail plen ref m = some st) :
    withMsg op plen ref m body s = complete m.client m.mbox st [] (s.taking op m) := by
  have hb : ((s.taking op m).block m.client).bound = true := hbound
  rw [withMsg_of_free body hup hfree, hb, Bool.not_true, if_neg Bool.false_ne_true, hhead]

/-- What a message row does with a message that does not reach its checks. -/
def TurnsAway (i : Msg → Instr) (op : Nat) (plen : Option Nat) (ref : Bool) : Prop := ∀ (m : Msg) (s : State), s.coresUp = true →
  (s.boxOwned m.client m.mbox = true → exec (i m) s = .next (s.onBlock m.client (fun b => { b with wrDrop := true }))) ∧
  (s.boxOwned m.client m.mbox = false → (s.block m.client).bound = false →
    exec (i m) s = .next (complete m.client m.mbox stBadHandle [] (s.taking op m))) ∧
  (∀ st, s.boxOwned m.client m.mbox = false → (s.block m.client).bound = true → headerFail plen ref m = some st →
    exec (i m) s = .next (complete m.client m.mbox st [] (s.taking op m)))

theorem turnsAway_of_withMsg {i : Msg → Instr} {body : Msg → State → State × Reply}
    (hi : ∀ m s, exec (i m) s = .next (withMsg op plen ref m (body m) s)) : TurnsAway i op plen ref := by
  intro m s hup
  rw [hi]
  refine ⟨fun hown => ?_, fun hfree hunbound => ?_, fun st hfree hbound hhead => ?_⟩
  · rw [withMsg_of_owned _ hup hown]
  · rw [withMsg_of_unbound _ hup hfree hunbound]
  · rw [withMsg_of_headerFail _ hup hfree hbound hhead]

end Sys2Proof.Machine
end

section
namespace Sys2Proof.Machine

/-- Settles O60: every row named is a `withMsg` of its own body. -/
theorem messageTaken : Obligations.MessageTaken := by
  have row {i : Msg → Instr} {op : Nat} {plen : Option Nat} {ref : Bool} {body : Msg → State → State × Reply} :=
    turnsAway_of_withMsg (i := i) (op := op) (plen := plen) (ref := ref) (body := body)
  unfold Obligations.MessageTaken
  simp only [List.forall_mem_cons]
  exact ⟨row (body := clientCreate) fun _ _ => rfl, row (body := clientDestroy) fun _ _ => rfl, row (body := poolConfig) fun _ _ => rfl,
    row (body := memAlloc) fun _ _ => rfl, row (body := memFree) fun _ _ => rfl, row (body := memCopy) fun _ _ => rfl,
    row (body := stateCreate) fun _ _ => rfl, row (body := stateSwap) fun _ _ => rfl, row (body := sessionOpen) fun _ _ => rfl,
    row (body := sessionQuery) fun _ _ => rfl, row (body := channelOpen) fun _ _ => rfl, row (body := stopwordStart) fun _ _ => rfl,
    fun _ h => absurd h List.not_mem_nil⟩

/-- Settles O1: `step` splits on the queue. -/
theorem stepRunsFrontCommand : Obligations.StepRunsFrontCommand := by
  refine ⟨fun c s => ?front, fun s hempty => ?idle⟩
  case front => exact congrArg (exec c) rfl
  case idle => rw [step, hempty]

end Sys2Proof.Machine
end

section
/-! SUPPORT. The one pending change of a channel: a request on a channel with none, a second one merged into it, its application (R440, R441). -/

namespace Sys2Proof.Machine

variable {c : Channel} {g g2 : Option Word} {r r2 m m2 : Option Bool} {x x2 : Bool} {q q2 : List (Nat × Nat)} {n n2 : Nat} {p : GainChange}

/-- The change that a request makes on a channel with none pending. -/
def requestedChange (gain : Option Word) (run mute : Option Bool) (close : Bool) (req : List (Nat × Nat)) (n : Nat) : GainChange :=
  { gain := gain, run := run, mute := mute, beat := n + 2, s0 := none, closing := close, clients := req }

theorem mergeChange_of_none (h : c.pendingCh = none) :
    mergeChange g r m x q n c = { c with pendingCh := some (requestedChange g r m x q n) } := by
  rw [mergeChange, h]
  rfl

theorem mergeChange_of_some (h : c.pendingCh = some p) : mergeChange g r m x q n c = { c with pendingCh := some { p with
    gain := g.or p.gain, run := r.or p.run, mute := m.or p.mute, closing := p.closing || x, clients := p.clients ++ q } } := by
  simp only [mergeChange, h, Option.orElse_eq_or]

theorem Channel.change_of_some (h : c.pendingCh = some p) : c.change = { c with
    gain := p.gain.getD c.gain, running := p.run.getD c.running, muted := p.mute.getD c.muted, pendingCh := none
    applied := if p.run.getD c.running = true ∧ p.mute.getD c.muted = false then p.gain.getD c.gain else 0 } := by
  simp [Channel.change, h, Channel.goal]

/-- The change that two requests leave pending: each target of the second where that names it, else of the first. -/
theorem mergeChange_mergeChange (h : c.pendingCh = none) : mergeChange g2 r2 m2 x2 q2 n2 (mergeChange g r m x q n c) = { c with
    pendingCh := some (requestedChange (g2.or g) (r2.or r) (m2.or m) (x || x2) (q ++ q2) n) } := by
  rw [mergeChange_of_none h, mergeChange_of_some rfl]
  rfl

end Sys2Proof.Machine
end

section
namespace Sys2Proof.Machine

/-- Settles O57: the second request merges into the change of the first, and the application sets what the merged change names. -/
theorem pendingChangeMerges : Obligations.PendingChangeMerges := by
  intro c g1 g2 r1 r2 m1 m2 x1 x2 q1 q2 n1 n2 hnone
  rw [mergeChange_mergeChange hnone]
  intro d
  rw [Channel.change_of_some (c := d) rfl]
  exact ⟨⟨_, rfl, rfl, rfl, rfl, rfl⟩, rfl, Option.getD_or .., Option.getD_or .., Option.getD_or .., rfl, rfl, rfl, rfl⟩

end Sys2Proof.Machine
end

section
/-! SUPPORT. What leaves the latched hold as it is (R515): the vocabulary. `f_hold` says that `f` leaves the hold as it is, `f_held` that the hold
stays asserted through `f`. Most operations are updates of other parts of the state, so most of these lemmas are the branches of a
definition, each closed by the lemmas before it. -/

namespace Sys2Proof.Machine

variable {s : State} {α β : Type}

/-- The latched hold of the Safety Monitor (R515). -/
def State.hold (s : State) : Bool := s.safe.hold

/-! ## Updates of one part of the state -/

@[simp] theorem State.onBeat_hold {f} : (s.onBeat f).hold = s.hold := by rfl
@[simp] theorem State.onPlan_hold {f} : (s.onPlan f).hold = s.hold := by rfl
@[simp] theorem State.onNmus_hold {f} : (s.onNmus f).hold = s.hold := by rfl
@[simp] theorem State.onMerges_hold {f} : (s.onMerges f).hold = s.hold := by rfl
@[simp] theorem State.onPages_hold {f} : (s.onPages f).hold = s.hold := by rfl
@[simp] theorem State.onYard_hold {f} : (s.onYard f).hold = s.hold := by rfl
@[simp] theorem State.onMem_hold {f} : (s.onMem f).hold = s.hold := by rfl
@[simp] theorem State.onLinks_hold {f} : (s.onLinks f).hold = s.hold := by rfl
@[simp] theorem State.onAudio_hold {f} : (s.onAudio f).hold = s.hold := by rfl
@[simp] theorem State.onCtrl_hold {f} : (s.onCtrl f).hold = s.hold := by rfl
@[simp] theorem State.onRot_hold {f} : (s.onRot f).hold = s.hold := by rfl
@[simp] theorem State.onPower_hold {f} : (s.onPower f).hold = s.hold := by rfl
@[simp] theorem State.onBb_hold {f} : (s.onBb f).hold = s.hold := by rfl
@[simp] theorem State.onPins_hold {f} : (s.onPins f).hold = s.hold := by rfl
@[simp] theorem State.onUnits_hold {f} : (s.onUnits f).hold = s.hold := by rfl
@[simp] theorem State.onCluster_hold {i f} : (s.onCluster i f).hold = s.hold := by rfl
@[simp] theorem State.onNmu_hold {i f} : (s.onNmu i f).hold = s.hold := by rfl
@[simp] theorem State.onYarder_hold {i f} : (s.onYarder i f).hold = s.hold := by rfl
@[simp] theorem State.onLink_hold {i f} : (s.onLink i f).hold = s.hold := by rfl
@[simp] theorem State.onDev_hold {f} : (s.onDev f).hold = s.hold := by rfl
@[simp] theorem State.onSafe_hold {f} : (s.onSafe f).hold = (f s.safe).hold := by rfl
@[simp] theorem State.free_hold : s.free.2.hold = s.hold := by rfl
@[simp] theorem State.freeCtr_hold {n} : ({ s with freeCtr := n } : State).hold = s.hold := by rfl
@[simp] theorem State.safe_hold : s.safe.hold = s.hold := by rfl

/-! ## Branches, folds and pairs -/

@[simp] theorem ite_hold {p : Prop} [Decidable p] {a b : State} :
    (if p then a else b).hold = if p then a.hold else b.hold := apply_ite (fun t : State => t.hold) ..

@[simp] theorem ite_fst_hold {p : Prop} [Decidable p] {a b : State × β} :
    (if p then a else b).1.hold = if p then a.1.hold else b.1.hold := apply_ite (fun t : State × β => t.1.hold) ..

@[simp] theorem ite_snd_hold {p : Prop} [Decidable p] {a b : β × State} :
    (if p then a else b).2.hold = if p then a.2.hold else b.2.hold := apply_ite (fun t : β × State => t.2.hold) ..

@[simp] theorem foldl_hold {f : State → α → State} {l : List α} (hf : ∀ s x, (f s x).hold = s.hold) :
    (l.foldl f s).hold = s.hold := foldl_keeps (·.hold) hf l s

@[simp] theorem foldl_fst_hold {f : State × β → α → State × β} {l : List α} {p : State × β}
    (hf : ∀ p x, (f p x).1.hold = p.1.hold) : (l.foldl f p).1.hold = p.1.hold := foldl_keeps (·.1.hold) hf l p

@[simp] theorem foldl_held {f : State → α → State} {l : List α} (hf : ∀ s x, s.hold = true → (f s x).hold = true)
    (h : s.hold = true) : (l.foldl f s).hold = true := by
  induction l generalizing s with
  | nil => exact h
  | cons x l ih => exact ih (hf s x h)

theorem hold_of_fst {p : State × β} {t : State} {x : β} (e : p = (t, x)) : t.hold = p.1.hold := by rw [e]

/-! ## Operations that may have no answer -/

@[simp] theorem optAll_some_iff {P : β → Prop} {b : β} : OptAll P (some b) ↔ P b := ⟨fun h => h b rfl, optAll_some⟩

@[simp] theorem optAll_none_iff {P : β → Prop} : OptAll P none ↔ True := iff_true_intro optAll_none

@[simp] theorem optAll_map_iff {P : β → Prop} {o : Option α} {f : α → β} : OptAll P (o.map f) ↔ OptAll (fun a => P (f a)) o :=
  ⟨fun h a e => h (f a) (by rw [e]; rfl), optAll_map⟩

@[simp] theorem optAll_true {o : Option α} : OptAll (fun _ => True) o := optAll_any fun _ => trivial

theorem optAll_foldl_of_step {P : β → Prop} {f : Option β → α → Option β} {l : List α} {b : β} (hb : P b)
    (hf : ∀ o x, OptAll P o → OptAll P (f o x)) : OptAll P (l.foldl f (some b)) := optAll_foldl f hf l (optAll_some hb)

theorem hold_getD {o : Option State} {d : State} {x : Bool} (h : OptAll (fun t => t.hold = x) o) (hd : d.hold = x) :
    (o.getD d).hold = x := by
  cases o with
  | none => exact hd
  | some t => exact h t rfl

/-! ## Ends of an instruction and of a step -/

/-- The state that an instruction of the Vector Engine leaves. -/
def VeRes.state : VeRes → State
  | .go s => s
  | .stall s => s
  | .fin s => s
  | .bad s => s

@[simp] theorem VeRes.state_go : (VeRes.go s).state = s := rfl
@[simp] theorem VeRes.state_stall : (VeRes.stall s).state = s := rfl
@[simp] theorem VeRes.state_fin : (VeRes.fin s).state = s := rfl
@[simp] theorem VeRes.state_bad : (VeRes.bad s).state = s := rfl

/-- A step that has a next state has one in which the hold is asserted. -/
def HeldAfter (o : Host.Outcome State Fault Refusal) : Prop := ∀ t, o = .next t → t.hold = true

@[simp] theorem heldAfter_next : HeldAfter (.next s) ↔ s.hold = true :=
  ⟨fun h => h s rfl, fun h _ e => by cases e; exact h⟩

end Sys2Proof.Machine
end

section
/-! SUPPORT. What leaves the latched hold as it is (R515): the state and what reacts to a fault. -/

namespace Sys2Proof.Machine

variable {s : State}

/-! ## Machine/Ops -/

@[simp] theorem State.setSvc_hold {u v} : (State.setSvc u v s).hold = s.hold := by simp [State.setSvc]
@[simp] theorem bbAdd_hold {type sev unit idx status data} : (bbAdd type sev unit idx status data s).hold = s.hold := by simp [bbAdd]
@[simp] theorem telemEvent_hold {client type body} : (telemEvent client type body s).hold = s.hold := by simp [telemEvent]
@[simp] theorem eventRec_hold {client h1 st} : (eventRec client h1 st s).hold = s.hold := by simp [eventRec]
@[simp] theorem State.issue_hold {kind idx} : (State.issue kind idx s).hold = s.hold := by simp [State.issue]
@[simp] theorem State.retire_hold {kind idx} : (State.retire kind idx s).hold = s.hold := by simp [State.retire]
@[simp] theorem assertHold_hold {cause unit idx slot} : (assertHold cause unit idx slot s).hold = true := by simp [assertHold]
@[simp] theorem State.onBlock_hold {c f} : (State.onBlock c f s).hold = s.hold := by simp [State.onBlock]
@[simp] theorem raiseIrq_hold {c en kind} : (raiseIrq c en kind s).hold = s.hold := by simp [raiseIrq]
@[simp] theorem State.onBox_hold {c m f} : (State.onBox c m f s).hold = s.hold := by simp [State.onBox]
@[simp] theorem signalDone_hold {c m} : (signalDone c m s).hold = s.hold := by simp [signalDone]
@[simp] theorem complete_hold {c m st reply} : (complete c m st reply s).hold = s.hold := by simp [complete]
@[simp] theorem completeOwned_hold {c m st reply} : (completeOwned c m st reply s).hold = s.hold := by simp [completeOwned]
@[simp] theorem interim_hold {c m} : (interim c m s).hold = s.hold := by simp [interim]
@[simp] theorem withMsg_hold {op plen ref m body} (hbody : ∀ u, (body u).1.hold = u.hold) :
    (withMsg op plen ref m body s).hold = s.hold := by
  unfold withMsg
  split
  · rfl
  · split
    · rfl
    · dsimp only
      split
      · simp
      · split
        · simp
        · split
          · next e => simp [hold_of_fst e, hbody]
          · next e => simp [hold_of_fst e, hbody]
@[simp] theorem withMsg_held {op plen ref m body} (hbody : ∀ u : State, u.hold = true → (body u).1.hold = true) (h : s.hold = true) :
    (withMsg op plen ref m body s).hold = true := by
  have hcomplete : ∀ st reply (u : State), u.hold = true → (complete m.client m.mbox st reply u).hold = true :=
    fun st reply u hu => complete_hold.trans hu
  unfold withMsg
  split
  · exact h
  · split
    · exact h
    · dsimp only
      split
      · exact hcomplete _ _ _ h
      · split
        · exact hcomplete _ _ _ h
        · split
          · next e => exact hcomplete _ _ _ ((hold_of_fst e).trans (hbody _ h))
          · next e => exact interim_hold.trans ((hold_of_fst e).trans (hbody _ h))
@[simp] theorem checked_hold {checks effect} (he : (effect s).1.hold = s.hold) : (checked checks effect s).1.hold = s.hold := by
  unfold checked
  split
  · rfl
  · exact he

/-! ## Machine/Objects -/

@[simp] theorem windowParts_hold : (windowParts s).hold = s.hold := by simp [windowParts]
@[simp] theorem clearPoison_hold {a n} : (clearPoison a n s).hold = s.hold := by simp [clearPoison]
@[simp] theorem putMem_hold {a l} : (putMem a l s).hold = s.hold := by simp [putMem]
@[simp] theorem clearMem_hold {a n} : (clearMem a n s).hold = s.hold := by simp [clearMem]
@[simp] theorem copyMem_hold {src dst n} : (copyMem src dst n s).hold = s.hold := by simp [copyMem]
@[simp] theorem carveWrite_hold {a l} : (carveWrite a l s).hold = s.hold := by simp [carveWrite]
@[simp] theorem assignRegions_hold {lo n tag dom} : (assignRegions lo n tag dom s).hold = s.hold := by simp [assignRegions]
@[simp] theorem releaseRegions_hold {lo n} : (releaseRegions lo n s).hold = s.hold := by simp [releaseRegions]
@[simp] theorem releaseHeld_hold {owner} : (releaseHeld owner s).hold = s.hold := by simp [releaseHeld]
@[simp] theorem State.onObj_hold {i f} : (State.onObj i f s).hold = s.hold := by simp [State.onObj]
@[simp] theorem syncObj_hold {i} : (syncObj i s).hold = s.hold := by
  unfold syncObj
  split <;> simp
@[simp] theorem invalidObj_hold {st i} : (invalidObj st i s).hold = s.hold := by simp [invalidObj]
@[simp] theorem dropObj_hold {i} : (dropObj i s).hold = s.hold := by simp [dropObj]
@[simp] theorem State.onSession_hold {i f} : (State.onSession i f s).hold = s.hold := by simp [State.onSession]
@[simp] theorem State.onChannel_hold {i f} : (State.onChannel i f s).hold = s.hold := by simp [State.onChannel]
@[simp] theorem State.onModel_hold {i f} : (State.onModel i f s).hold = s.hold := by simp [State.onModel]
@[simp] theorem State.onSet_hold {i f} : (State.onSet i f s).hold = s.hold := by simp [State.onSet]

/-! ## Machine/Firewall -/

@[simp] theorem refuse_hold {point dom kind write addr} : (refuse point dom kind write addr s).hold = s.hold := by simp [refuse]
@[simp] theorem refuseEngine_hold {dom write a} : (refuseEngine dom write a s).hold = s.hold := by simp [refuseEngine]
@[simp] theorem countUe_hold {a} : (countUe a s).hold = s.hold := by
  unfold countUe
  split <;> simp
@[simp] theorem countFixed_hold {a} : (countFixed a s).hold = s.hold := by
  unfold countFixed
  split <;> simp
@[simp] theorem eccNote_hold {a sym} : (eccNote a sym s).hold = s.hold := by simp [eccNote]
@[simp] theorem lcTouch_hold {line} : (lcTouch line s).hold = s.hold := by simp [lcTouch]
@[simp] theorem lcInvalidate_hold {region} : (lcInvalidate region s).hold = s.hold := by simp [lcInvalidate]

/-! ## Machine/PageOps -/

@[simp] theorem State.onPool_hold {k f} : (State.onPool k f s).hold = s.hold := by simp [State.onPool]
theorem State.takeFrame_hold {k model dom} : OptAll (fun q => q.2.hold = s.hold) (State.takeFrame s k model dom) := by
  simp only [State.takeFrame]
  repeat' split
  all_goals simp
@[simp] theorem assignSet_hold {i} : (assignSet i s).1.hold = s.hold := by
  unfold assignSet
  split
  · rfl
  · split
    · rfl
    · refine foldl_fst_hold fun p a => ?_
      dsimp only
      split
      · split
        · rfl
        · split
          · next h => exact State.onSet_hold.trans (State.takeFrame_hold _ h)
          · rfl
      · rfl
@[simp] theorem newSet_hold {model dom page layers} : (newSet model dom page layers s).1.hold = s.hold := by simp [newSet]
@[simp] theorem writeTrailers_hold {i owner} : (writeTrailers i owner s).hold = s.hold := by
  simp only [writeTrailers]
  repeat' split
  all_goals simp
@[simp] theorem invalidSet_hold {st i} : (invalidSet st i s).hold = s.hold := by simp [invalidSet]
@[simp] theorem invalidPage_hold {st k off} : (invalidPage st k off s).hold = s.hold := by
  unfold invalidPage
  split <;> simp
@[simp] theorem returnRegions_hold {k} : (returnRegions k s).hold = s.hold := by simp [returnRegions]
@[simp] theorem freeSet_hold {i} : (freeSet i s).hold = s.hold := by simp [freeSet]
@[simp] theorem unrefSet_hold {i} : (unrefSet i s).hold = s.hold := by
  unfold unrefSet
  split <;> simp
@[simp] theorem relaySets_hold : (relaySets s).1.hold = s.hold := by
  unfold relaySets
  refine (foldl_hold fun s k => returnRegions_hold).trans (foldl_fst_hold fun p x => ?_)
  split
  · rfl
  · rw [ite_fst_hold, ite_self]
    refine foldl_fst_hold fun b a => ?_
    split
    · dsimp only
      split
      · split
        · next h => exact State.onSet_hold.trans (copyMem_hold.trans (State.takeFrame_hold _ h))
        · rfl
      · rfl
    · rfl

/-! ## Machine/Reset -/

@[simp] theorem bbCommitAll_hold : (bbCommitAll s).hold = s.hold := by simp [bbCommitAll]
@[simp] theorem writeSnapshot_hold {cause kind} : (writeSnapshot cause kind s).hold = s.hold := by
  unfold writeSnapshot
  exact State.onBb_hold.trans State.freeCtr_hold
@[simp] theorem fullReset_hold {kind cause} : (fullReset kind cause s).hold = true := by
  unfold fullReset
  rw [bbAdd_hold, foldl_hold, windowParts_hold]
  · rfl
  · intro s x
    simp
@[simp] theorem resetRecord_hold {kind cause} : (resetRecord kind cause s).hold = s.hold := by simp [resetRecord]
@[simp] theorem holdReset_held : (holdReset s).hold = true := by simp [holdReset]
@[simp] theorem moduleResetTo_held {cause} (h : s.hold = true) : (moduleResetTo cause s).hold = true := by simp [moduleResetTo, h]
@[simp] theorem warmRun_held {cause} : (warmRun cause s).hold = true := by simp [warmRun]
@[simp] theorem warmResetTo_held {cause} (h : s.hold = true) : (warmResetTo cause s).hold = true := by simp [warmResetTo, h]
@[simp] theorem dcpFault_held (h : s.hold = true) : (dcpFault s).hold = true := by simp [dcpFault, h]
@[simp] theorem faultZero_hold {st ch} : (faultZero st ch s).hold = s.hold := by
  simp only [faultZero]
  repeat' split
  all_goals simp
@[simp] theorem faultSession_hold {st i} : (faultSession st i s).hold = s.hold := by
  unfold faultSession
  split <;> simp
@[simp] theorem endCopy_hold {b} : (endCopy b s).hold = s.hold := by
  unfold endCopy
  split <;> simp
@[simp] theorem endWork_hold {p st} : (endWork p st s).hold = s.hold := by simp [endWork]
@[simp] theorem endBackground_hold {st} : (endBackground st s).hold = s.hold := by
  unfold endBackground
  simp only [State.onPages_hold, State.onCtrl_hold]
  rw [foldl_hold fun s o => ?_, endWork_hold]
  split <;> simp
@[simp] theorem endSlots_hold : (endSlots s).hold = s.hold := by
  unfold endSlots
  refine Eq.trans rfl (foldl_hold fun s w => ?_)
  dsimp only
  split <;> simp
@[simp] theorem computeEnd_hold {cause} : (computeEnd cause s).hold = s.hold := by rfl
@[simp] theorem computeResetTo_held {cause} (h : s.hold = true) : (computeResetTo cause s).hold = true := by simp [computeResetTo, h]

/-! ## Machine/Placement -/

theorem placeStripe_hold {owner dom stack bytes} : OptAll (fun q => q.2.hold = s.hold) (placeStripe owner dom stack bytes s) := by
  unfold placeStripe
  exact optAll_map (optAll_any fun q => by rw [State.onMem_hold, putMem_hold, assignRegions_hold])
theorem placeTensor_hold {owner dom stks tensor x} : OptAll (fun q => q.2.hold = s.hold) (placeTensor owner dom stks tensor x s) := by
  unfold placeTensor
  split
  · refine optAll_foldl_of_step rfl fun o x h =>
      optAll_bind (optAll_mono h fun q hq => optAll_map (optAll_mono placeStripe_hold fun r hr => hr.trans hq))
  · exact optAll_map placeStripe_hold
@[simp] theorem releaseStripes_hold {l} : (releaseStripes l s).hold = s.hold := by simp [releaseStripes]
theorem placeModel_hold {owner dom stks pkg} : OptAll (fun q => q.2.hold = s.hold) (placeModel owner dom stks pkg s) :=
  optAll_foldl_of_step rfl fun _ _ h => optAll_bind (optAll_mono h fun _ hq => optAll_map (optAll_mono placeTensor_hold fun _ hr => hr.trans hq))
theorem relayModel_hold {i stks touch} : OptAll (fun t => t.hold = s.hold) (relayModel i stks touch s) := by
  unfold relayModel
  split
  · exact optAll_some rfl
  · refine optAll_foldl_of_step rfl fun o x h => optAll_bind (optAll_mono h fun t ht => ?_)
    split
    · exact optAll_some ht
    · exact optAll_map (optAll_mono placeTensor_hold fun r hr => by simp [hr, ht])
theorem moveTensors_hold {i place} : OptAll (fun t => t.hold = s.hold) (moveTensors i place s) := by
  unfold moveTensors
  split
  · exact optAll_some rfl
  · refine optAll_foldl_of_step rfl fun o x h => optAll_bind (optAll_mono h fun t ht => ?_)
    split
    · exact optAll_some ht
    · exact optAll_map (optAll_mono placeTensor_hold fun r hr => by simp [hr, ht])

/-! ## Machine/Skid -/

@[simp] theorem State.onSkid_hold {q f} : (State.onSkid q f s).hold = s.hold := by simp [State.onSkid]
@[simp] theorem placeholders_hold {w done st} : (placeholders w done st s).hold = s.hold := by
  unfold placeholders
  split <;> simp
@[simp] theorem stopStream_hold {y num st} : (stopStream y num st s).hold = s.hold := by
  unfold stopStream
  split <;> simp
@[simp] theorem dropStream_hold {c st} : (dropStream c st s).hold = s.hold := by
  unfold dropStream
  split <;> simp

/-! ## Machine/React -/

@[simp] theorem releaseDecode_hold {i} : (releaseDecode i s).hold = s.hold := by simp [releaseDecode]
@[simp] theorem stopSession_hold {st i} : (stopSession st i s).hold = s.hold := by
  unfold stopSession
  split <;> simp
@[simp] theorem suspendModel_hold {st i} : (suspendModel st i s).hold = s.hold := by
  unfold suspendModel
  split <;> simp
@[simp] theorem resumeModel_hold {i} : (resumeModel i s).hold = s.hold := by
  unfold resumeModel
  split <;> simp
@[simp] theorem reviewModels_hold : (reviewModels s).hold = s.hold := by
  refine foldl_hold fun s _ => ?_
  repeat' split
  all_goals simp
@[simp] theorem affectOut_held {st cause p} (h : s.hold = true) : (affectOut st cause p s).hold = true := by
  simp only [affectOut]
  repeat' split
  all_goals simp [h]
@[simp] theorem affectWork_held {st cause p} (h : s.hold = true) : (affectWork st cause p s).hold = true := by simp [affectWork, h]
@[simp] theorem planDone_held {e st} (h : s.hold = true) : (planDone e st s).hold = true := by
  unfold planDone
  split <;> simp [h]
@[simp] theorem abandonCmds_held {p st cause} (h : s.hold = true) : (abandonCmds p st cause s).hold = true := by
  simp only [abandonCmds]
  simp_all
@[simp] theorem loseChannel_held {unit idx ch} (h : s.hold = true) : (loseChannel unit idx ch s).hold = true := by simp [loseChannel, h]
@[simp] theorem fencePort_held {u} (h : s.hold = true) : (fencePort u s).hold = true := by
  unfold fencePort
  dsimp only
  split
  · refine State.onAudio_hold.trans (foldl_held (fun t c ht => loseChannel_held ?_) h)
    rw [State.onChannel_hold]
    split <;> simp [ht]
  · refine foldl_held (fun t c ht => loseChannel_held ?_) h
    rw [State.onChannel_hold]
    split <;> simp [ht]
@[simp] theorem loseIds_hold {gone} : (loseIds gone s).hold = s.hold := by simp [loseIds]
@[simp] theorem loseSets_hold {p} : (loseSets p s).hold = s.hold := by simp [loseSets]
@[simp] theorem loseObj_hold {i} : (loseObj i s).hold = s.hold := by
  simp only [loseObj]
  repeat' split
  all_goals simp
@[simp] theorem abandonSwaps_hold {p} : (abandonSwaps p s).hold = s.hold := by
  refine foldl_hold fun s _ => ?_
  repeat' split
  all_goals simp
@[simp] theorem loseModel_hold {i} : (loseModel i s).hold = s.hold := by simp [loseModel]
@[simp] theorem loseRuns_hold {p} : (loseRuns p s).hold = s.hold := by simp [loseRuns]
theorem moveRun_hold {r} : OptAll (fun t => t.hold = s.hold) (moveRun r s) := by
  unfold moveRun
  exact optAll_map (optAll_any fun q => by rw [State.onMem_hold, releaseRegions_hold, copyMem_hold, assignRegions_hold])
@[simp] theorem moveRuns_hold {p} : (moveRuns p s).1.hold = s.hold := by
  refine foldl_fst_hold fun p x => ?_
  split
  · next h => exact moveRun_hold _ h
  · simp
@[simp] theorem loseData_hold {place} : (loseData place s).hold = s.hold := by simp [loseData]
theorem moveObj_hold {i} : OptAll (fun t => t.hold = s.hold) (moveObj i s) := by
  unfold moveObj
  split
  · exact optAll_some rfl
  · refine optAll_map (optAll_any fun q => ?_)
    rw [State.onObj_hold, State.onMem_hold, releaseRegions_hold, State.onMem_hold, copyMem_hold, assignRegions_hold]
@[simp] theorem rotaryBack_hold {k} : (rotaryBack k s).hold = s.hold := by
  refine foldl_hold fun s _ => ?_
  split
  · simp
  · split
    · next h => simp [placeStripe_hold _ h]
    · rfl
@[simp] theorem moveTsets_hold {p} : (moveTsets p s).1.hold = s.hold := by
  refine foldl_fst_hold fun p _ => ?_
  dsimp only
  split
  · rfl
  · split
    · next h => simp [placeStripe_hold _ h]
    · simp
@[simp] theorem moveStack_hold {k} : (moveStack k s).1.hold = s.hold := by
  unfold moveStack
  simp only [State.onPool_hold, moveRuns_hold, loseIds_hold, relaySets_hold]
  rw [foldl_fst_hold (fun p i => ?_), foldl_fst_hold (fun p i => ?_), moveTsets_hold]
  · split
    · next h => exact relayModel_hold _ h
    · simp
  · split
    · next h => exact moveObj_hold _ h
    · simp
theorem moveSetPort_hold {p i} : OptAll (fun t => t.hold = s.hold) (moveSetPort p i s) := by
  unfold moveSetPort
  split
  · exact optAll_some rfl
  · refine optAll_foldl_of_step rfl fun o x h => optAll_bind (optAll_mono h fun t ht => optAll_map (optAll_any fun q => ?_))
    rw [State.onSet_hold, releaseRegions_hold, State.onMem_hold, copyMem_hold, assignRegions_hold, ht]
@[simp] theorem movePort_hold {p} : (movePort p s).1.hold = s.hold := by
  unfold movePort
  simp only [moveRuns_hold, loseIds_hold]
  rw [foldl_fst_hold (fun p i => ?_), foldl_fst_hold (fun p i => ?_), foldl_fst_hold (fun p i => ?_), moveTsets_hold]
  · split
    · next h => exact moveTensors_hold _ h
    · simp
  · split
    · next h => exact moveObj_hold _ h
    · simp
  · split
    · next h => exact moveSetPort_hold _ h
    · rfl
@[simp] theorem moveSlice_hold {i dest} : (moveSlice i dest s).hold = s.hold := by simp [moveSlice]
theorem moveSlices_hold {k} : OptAll (fun t => t.hold = s.hold) (moveSlices k s) :=
  optAll_foldl_of_step rfl fun o i h => optAll_bind (optAll_mono h fun t ht => optAll_map (optAll_any fun d => by simp [ht]))
@[simp] theorem leaveGroups_hold {c} : (leaveGroups c s).hold = s.hold := by simp [leaveGroups]
@[simp] theorem splitCheck_held (h : s.hold = true) : (splitCheck s).hold = true := by
  simp only [splitCheck]
  repeat' split
  all_goals simp_all
@[simp] theorem unitAfter_held {u} (h : s.hold = true) : (unitAfter u s).hold = true := by
  unfold unitAfter
  split <;> simp [h]
@[simp] theorem completeFences_hold {u lost} : (completeFences u lost s).hold = s.hold := by simp [completeFences]
@[simp] theorem completeUnfences_hold {u st} : (completeUnfences u st s).hold = s.hold := by simp [completeUnfences]
@[simp] theorem fenceInEffect_held {u lost anyLost} (h : s.hold = true) : (fenceInEffect u lost anyLost s).hold = true :=
  by simp [fenceInEffect, h]
@[simp] theorem finishFence_held {u lost sliceSaved} (h : s.hold = true) : (finishFence u lost sliceSaved s).hold = true := by
  unfold finishFence
  split
  · have after : ∀ t : State, t.hold = true → (if lost then fenceInEffect u true true (loseData u.index t)
        else fenceInEffect u false (moveStack u.index t).2 (moveStack u.index t).1).hold = true := by
      intro t ht
      split
      · exact fenceInEffect_held (loseData_hold.trans ht)
      · exact fenceInEffect_held (moveStack_hold.trans ht)
    dsimp only
    split
    · exact after _ h
    · split
      · exact warmResetTo_held h
      · next hmoved =>
        split
        · exact after _ ((moveSlices_hold _ hmoved).trans h)
        · exact warmResetTo_held h
  · dsimp only
    split
    · exact fenceInEffect_held (loseData_hold.trans h)
    · exact fenceInEffect_held (movePort_hold.trans h)
  · exact fenceInEffect_held h
@[simp] theorem faultFenceUnit_held {u lost sliceSaved} (h : s.hold = true) : (faultFenceUnit u lost sliceSaved s).hold = true :=
  by simp [faultFenceUnit, h]
@[simp] theorem fenceByFault_held {u} (h : s.hold = true) : (fenceByFault u s).hold = true := by simp [fenceByFault, h]

end Sys2Proof.Machine
end

section
/-! SUPPORT. What leaves the latched hold as it is (R515): the Vector Engine and the commands of a tile. -/

namespace Sys2Proof.Machine

variable {s : State}

/-! ## Machine/VectorCalc -/

@[simp] theorem State.onVe_hold {c g} : (State.onVe c g s).hold = s.hold := by simp [State.onVe]
@[simp] theorem veSet_hold {c g} : (veSet c g s).state.hold = s.hold := by simp [veSet]
@[simp] theorem stallVe_hold {c} : (stallVe c s).hold = s.hold := by simp [stallVe]
@[simp] theorem veStall_hold {c} : (veStall c s).state.hold = s.hold := by simp [veStall]
@[simp] theorem veBin_hold {c f op iop} : (veBin c f op iop s).state.hold = s.hold := by simp [veBin]
@[simp] theorem veAdd_hold {c f} : (veAdd c f s).state.hold = s.hold := by simp [veAdd]
@[simp] theorem veSub_hold {c f} : (veSub c f s).state.hold = s.hold := by simp [veSub]
@[simp] theorem veMul_hold {c f} : (veMul c f s).state.hold = s.hold := by simp [veMul]
@[simp] theorem veFma_hold {c f} : (veFma c f s).state.hold = s.hold := by simp [veFma]
@[simp] theorem veMax_hold {c f} : (veMax c f s).state.hold = s.hold := by simp [veMax]
@[simp] theorem veMin_hold {c f} : (veMin c f s).state.hold = s.hold := by simp [veMin]
@[simp] theorem veUn_hold {c f op} : (veUn c f op s).state.hold = s.hold := by simp [veUn]
@[simp] theorem veAbs_hold {c f} : (veAbs c f s).state.hold = s.hold := by simp [veAbs]
@[simp] theorem veNeg_hold {c f} : (veNeg c f s).state.hold = s.hold := by simp [veNeg]
@[simp] theorem veCmp_hold {c f op iop} : (veCmp c f op iop s).state.hold = s.hold := by simp [veCmp]
@[simp] theorem veCeq_hold {c f} : (veCeq c f s).state.hold = s.hold := by simp [veCeq]
@[simp] theorem veClt_hold {c f} : (veClt c f s).state.hold = s.hold := by simp [veClt]
@[simp] theorem veCle_hold {c f} : (veCle c f s).state.hold = s.hold := by simp [veCle]
@[simp] theorem veCun_hold {c f} : (veCun c f s).state.hold = s.hold := by simp [veCun]
@[simp] theorem veSel_hold {c f} : (veSel c f s).state.hold = s.hold := by simp [veSel]
@[simp] theorem veCvt_hold {c f} : (veCvt c f s).state.hold = s.hold := by simp [veCvt]
@[simp] theorem vePack_hold {c f} : (vePack c f s).state.hold = s.hold := by simp [vePack]
@[simp] theorem veUnpk_hold {c f} : (veUnpk c f s).state.hold = s.hold := by simp [veUnpk]
@[simp] theorem veLqu8_hold {c f} : (veLqu8 c f s).state.hold = s.hold := by simp [veLqu8]
@[simp] theorem veLqs8_hold {c f} : (veLqs8 c f s).state.hold = s.hold := by simp [veLqs8]
@[simp] theorem veLdq_hold {c f} : (veLdq c f s).state.hold = s.hold := by simp [veLdq]
@[simp] theorem vePerm_hold {c f} : (vePerm c f s).state.hold = s.hold := by simp [vePerm]
@[simp] theorem veShuf_hold {c f} : (veShuf c f s).state.hold = s.hold := by simp [veShuf]
@[simp] theorem veInt_hold {c f op} : (veInt c f op s).state.hold = s.hold := by simp [veInt]
@[simp] theorem veIadd_hold {c f} : (veIadd c f s).state.hold = s.hold := by simp [veIadd]
@[simp] theorem veIand_hold {c f} : (veIand c f s).state.hold = s.hold := by simp [veIand]
@[simp] theorem veIor_hold {c f} : (veIor c f s).state.hold = s.hold := by simp [veIor]
@[simp] theorem veIxor_hold {c f} : (veIxor c f s).state.hold = s.hold := by simp [veIxor]
@[simp] theorem veIshl_hold {c f} : (veIshl c f s).state.hold = s.hold := by simp [veIshl]
@[simp] theorem veIshr_hold {c f} : (veIshr c f s).state.hold = s.hold := by simp [veIshr]
@[simp] theorem veIota_hold {c f} : (veIota c f s).state.hold = s.hold := by simp [veIota]
@[simp] theorem veMaskOp_hold {c f op} : (veMaskOp c f op s).state.hold = s.hold := by simp [veMaskOp]
@[simp] theorem veMand_hold {c f} : (veMand c f s).state.hold = s.hold := by simp [veMand]
@[simp] theorem veMor_hold {c f} : (veMor c f s).state.hold = s.hold := by simp [veMor]
@[simp] theorem veMxor_hold {c f} : (veMxor c f s).state.hold = s.hold := by simp [veMxor]
@[simp] theorem veMnot_hold {c f} : (veMnot c f s).state.hold = s.hold := by simp [veMnot]
@[simp] theorem veLd_hold {c f} : (veLd c f s).state.hold = s.hold := by
  simp only [veLd]
  repeat' split
  all_goals simp
@[simp] theorem veSt_hold {c f} : (veSt c f s).state.hold = s.hold := by
  simp only [veSt]
  repeat' split
  all_goals simp
@[simp] theorem veTree_hold {c f op} : (veTree c f op s).state.hold = s.hold := by simp [veTree]
@[simp] theorem veRsum_hold {c f} : (veRsum c f s).state.hold = s.hold := by simp [veRsum]
@[simp] theorem veRmax_hold {c f} : (veRmax c f s).state.hold = s.hold := by simp [veRmax]
@[simp] theorem veRmin_hold {c f} : (veRmin c f s).state.hold = s.hold := by simp [veRmin]
@[simp] theorem veRamax_hold {c f} : (veRamax c f s).state.hold = s.hold := by simp [veRamax]
@[simp] theorem veRugo_hold {c f} : (veRugo c f s).state.hold = s.hold := by
  unfold veRugo
  split <;> simp
@[simp] theorem veRuwait_hold {c x1} : (veRuwait c x1 s).state.hold = s.hold := by
  unfold veRuwait
  split <;> simp
@[simp] theorem veRufin_hold {c x1} : (veRufin c x1 s).state.hold = s.hold := by
  unfold veRufin
  split <;> simp
@[simp] theorem veRurd_hold {c f} : (veRurd c f s).state.hold = s.hold := by
  unfold veRurd
  split <;> rfl
@[simp] theorem ruStep.go_hold {c p rest} : (ruStep.go c p rest s).1.hold = s.hold := by rfl
@[simp] theorem ruStep_hold {c} : (ruStep c s).1.hold = s.hold := by
  simp only [ruStep]
  repeat' split
  all_goals simp
@[simp] theorem veSfn_hold {c f} : (veSfn c f s).state.hold = s.hold := by
  unfold veSfn veSet
  dsimp only [VeRes.state]
  rw [State.onVe_hold]
  split <;> simp
@[simp] theorem veNop_hold {c x1} : (veNop c x1 s).state.hold = s.hold := by simp [veNop]
@[simp] theorem veSmov_hold {c f} : (veSmov c f s).state.hold = s.hold := by simp [veSmov]
@[simp] theorem veSadd_hold {c f} : (veSadd c f s).state.hold = s.hold := by simp [veSadd]
@[simp] theorem veSget_hold {c f} : (veSget c f s).state.hold = s.hold := by simp [veSget]
@[simp] theorem veRefill_hold {c n} : (veRefill c n s).hold = s.hold := by
  induction n generalizing s with
  | zero => rfl
  | succ n ih =>
    unfold veRefill
    dsimp only
    repeat' split
    all_goals simp [ih]
@[simp] theorem veTin_hold {c f} : (veTin c f s).state.hold = s.hold := by
  simp only [veTin]
  repeat' split
  all_goals simp
@[simp] theorem veTout_hold {c f} : (veTout c f s).state.hold = s.hold := by
  simp only [veTout]
  repeat' split
  all_goals simp
@[simp] theorem veLoop_hold {c f} : (veLoop c f s).state.hold = s.hold := by
  simp only [veLoop]
  repeat' split
  all_goals simp
@[simp] theorem veEndl_hold {c x1} : (veEndl c x1 s).state.hold = s.hold := by
  simp only [veEndl]
  repeat' split
  all_goals simp
@[simp] theorem veSkip_hold {any c f} : (veSkip any c f s).state.hold = s.hold := by
  unfold veSkip
  dsimp only [VeRes.state]
  exact State.onVe_hold
@[simp] theorem veSka_hold {c f} : (veSka c f s).state.hold = s.hold := by simp [veSka]
@[simp] theorem veSkn_hold {c f} : (veSkn c f s).state.hold = s.hold := by simp [veSkn]
@[simp] theorem veEnd_hold {c x1} : (veEnd c x1 s).state.hold = s.hold := by simp [veEnd]
@[simp] theorem veInstr_hold {op c f} : (veInstr op c f s).state.hold = s.hold := by
  unfold veInstr
  split <;> simp
@[simp] theorem veChecked_hold {op c f} : (veChecked op c f s).state.hold = s.hold := by
  unfold veChecked
  split <;> simp
@[simp] theorem veRun_hold {c n} : (veRun c n s).state.hold = s.hold := by
  induction n generalizing s with
  | zero => rfl
  | succ n ih =>
    unfold veRun
    dsimp only
    split
    · rfl
    · have hstep : (veChecked (veOp ((s.cluster c).ve.instr (s.cluster c).ve.pc)) c
          (veFields ((s.cluster c).ve.instr (s.cluster c).ve.pc)) s).state.hold = s.hold := veChecked_hold
      split
      · next e => rw [ih]; rw [e] at hstep; exact hstep
      · next e =>
        rw [e] at hstep
        split
        · rw [ih, ruStep_hold]; exact hstep
        · exact hstep
      · next e => rw [e] at hstep; exact hstep
      · next e => rw [e] at hstep; exact hstep
@[simp] theorem veStart_hold {c w} : (veStart c w s).hold = s.hold := by simp [veStart]

/-! ## Machine/ArrayExec -/

@[simp] theorem arrGo_held {c} (h : s.hold = true) : (arrGo c s).hold = true := by
  simp only [arrGo]
  repeat' split
  all_goals simp [h]
@[simp] theorem execMatmul_held {c w0 ecc} (h : s.hold = true) : HeldAfter (execMatmul c w0 ecc s) := by
  simp only [execMatmul]
  repeat' split
  all_goals simp [h]
@[simp] theorem execArrayStall_held {c cycles} (h : s.hold = true) : HeldAfter (execArrayStall c cycles s) := by
  unfold execArrayStall
  split <;> simp [h]

/-! ## Machine/LinkOps -/

@[simp] theorem sendFrame_hold {l f} : (sendFrame l f s).hold = s.hold := by simp [sendFrame]
@[simp] theorem queueFrame_hold {l prio f} : (queueFrame l prio f s).hold = s.hold := by simp [queueFrame]
@[simp] theorem queueCtl_hold {l prio type seq t1 t2 t3} : (queueCtl l prio type seq t1 t2 t3 s).hold = s.hold := by simp [queueCtl]
@[simp] theorem sendAddressed_hold {cls dom ga src urg body} : (sendAddressed cls dom ga src urg body s).2.hold = s.hold := by
  unfold sendAddressed
  split <;> simp
@[simp] theorem sendRead_hold {dom ga n num urg} : (sendRead dom ga n num urg s).2.hold = s.hold := by simp [sendRead]
@[simp] theorem sendWrite_hold {dom ga data num acc urg} : (sendWrite dom ga data num acc urg s).2.hold = s.hold := by simp [sendWrite]

/-! ## Machine/BackExec -/

@[simp] theorem bgDone_hold {t} : (bgDone t s).hold = s.hold := by simp [bgDone]
@[simp] theorem execFaultFence_held {u lost sliceSaved} (h : s.hold = true) : HeldAfter (execFaultFence u lost sliceSaved s) :=
  by simp [execFaultFence, h]
@[simp] theorem execFenceDataMoveComplete_held {u fault sliceSaved} (h : s.hold = true) :
    HeldAfter (execFenceDataMoveComplete u fault sliceSaved s) := by
  unfold execFenceDataMoveComplete
  split <;> simp [h]
@[simp] theorem relayAll_hold : (relayAll s).hold = s.hold := foldl_hold fun _ _ => hold_getD relayModel_hold rfl
@[simp] theorem execRelayComplete_held (h : s.hold = true) : HeldAfter (execRelayComplete s) := by simp [execRelayComplete, h]
@[simp] theorem formPool_hold {k} : (formPool k s).hold = s.hold := by
  simp only [formPool]
  repeat' split
  all_goals simp
@[simp] theorem unitBack_hold {u} : (unitBack u s).hold = s.hold := by
  unfold unitBack
  split <;> simp
@[simp] theorem blazeBack_hold {u} : (blazeBack u s).hold = s.hold := by simp [blazeBack]
@[simp] theorem execUnitReturn_held {u} (h : s.hold = true) : HeldAfter (execUnitReturn u s) := by
  unfold execUnitReturn
  split <;> simp [h]
@[simp] theorem execCatchUpCalibration_held {u} (h : s.hold = true) : HeldAfter (execCatchUpCalibration u s) :=
  by simp [execCatchUpCalibration, h]
@[simp] theorem execStackCalibration_held {i} (h : s.hold = true) : HeldAfter (execStackCalibration i s) :=
  by simp [execStackCalibration, h]
@[simp] theorem execLinkCalibration_held {l} (h : s.hold = true) : HeldAfter (execLinkCalibration l s) := by simp [execLinkCalibration, h]
@[simp] theorem execCxlCalibration_held {p} (h : s.hold = true) : HeldAfter (execCxlCalibration p s) := by simp [execCxlCalibration, h]
@[simp] theorem execTelemetrySampling_held {vin iin pin temps} (h : s.hold = true) :
    HeldAfter (execTelemetrySampling vin iin pin temps s) :=
  by simp [execTelemetrySampling, h]
@[simp] theorem scrubStep_hold {i step size} : (scrubStep i step size s).hold = s.hold := by simp [scrubStep]
@[simp] theorem countCe_hold {i addrs keep} : (countCe i addrs keep s).hold = s.hold := by simp [countCe]
@[simp] theorem tellUe_hold {p a} : (tellUe p a s).hold = s.hold := by simp [tellUe]
@[simp] theorem ueOwner_hold {h0} : (ueOwner h0 s).hold = s.hold := by
  unfold ueOwner
  split <;> simp
@[simp] theorem ueArea_held {a} (h : s.hold = true) : (ueArea a s).hold = true := by
  simp only [ueArea]
  repeat' split
  all_goals simp [h]
@[simp] theorem scrubUe_held {a} (h : s.hold = true) : (scrubUe a s).hold = true := by simp [scrubUe, h]
@[simp] theorem execPatrolScrub_held {k corrected uncorrectable} (h : s.hold = true) :
    HeldAfter (execPatrolScrub k corrected uncorrectable s) := by
  simp only [execPatrolScrub, heldAfter_next]
  split
  · exact h
  · refine foldl_held (fun s o h => scrubUe_held h) ?_
    rw [countCe_hold, scrubStep_hold, bgDone_hold, h]
@[simp] theorem lcUe_hold {i o} : (lcUe i o s).hold = s.hold := by simp [lcUe]
@[simp] theorem execLcPatrolScrub_held {i corrected uncorrectable} (h : s.hold = true) :
    HeldAfter (execLcPatrolScrub i corrected uncorrectable s) := by
  simp only [execLcPatrolScrub, heldAfter_next]
  split
  · exact h
  · refine foldl_held (fun s o h => lcUe_hold.trans h) ?_
    rw [countCe_hold, scrubStep_hold, bgDone_hold, h]
@[simp] theorem moveFrames_hold {k r} : (moveFrames k r s).hold = s.hold := by
  unfold moveFrames
  refine loseSets_hold.trans ((foldl_hold fun s x => foldl_hold fun s a => ?_).trans rfl)
  dsimp only
  split
  · split
    · split
      · next h => exact State.onSet_hold.trans (copyMem_hold.trans (State.takeFrame_hold _ h))
      · rfl
    · rfl
  · rfl
@[simp] theorem moveRotary_hold {i a} : (moveRotary i a s).hold = s.hold := by
  unfold moveRotary
  split
  · rfl
  · refine foldl_hold fun s b => ?_
    split
    · rfl
    · split
      · next h => rw [State.onModel_hold, State.onMem_hold, releaseRegions_hold, placeStripe_hold _ h]
      · rfl
@[simp] theorem moveSliceOf_hold {k i} : (moveSliceOf k i s).hold = s.hold := by
  unfold moveSliceOf
  split <;> simp
@[simp] theorem moveRegion_hold {r} : (moveRegion r s).hold = s.hold := by
  unfold moveRegion
  dsimp only
  split
  · split
    · rw [moveRotary_hold, hold_getD relayModel_hold (loseModel_hold)]
    · exact hold_getD moveObj_hold (loseObj_hold)
    · simp
    · rfl
  · split
    · exact hold_getD moveRun_hold rfl
    · simp
    · split <;> simp
@[simp] theorem execRegionRetire_held {r} (h : s.hold = true) : HeldAfter (execRegionRetire r s) := by
  obtain ⟨f, hf⟩ : ∃ f, f = execRegionRetire := ⟨_, rfl⟩
  obtain ⟨stackOf, hstack⟩ : ∃ g, g = stackOfAddr := ⟨_, rfl⟩
  rw [← hf]
  delta execRegionRetire at hf
  rw [← hstack] at hf
  subst hf
  dsimp only
  split
  · exact heldAfter_next.2 h
  · rw [heldAfter_next]
    split
    · exact h
    · split
      · exact fenceByFault_held (moveRegion_hold.trans (bbAdd_hold.trans h))
      · exact moveRegion_hold.trans (bbAdd_hold.trans h)

end Sys2Proof.Machine
end

section
/-! SUPPORT. What leaves the latched hold as it is (R515): the Safety Monitor, the scan, the yarders and their commands. -/

namespace Sys2Proof.Machine

variable {s : State}

/-! ## Machine/SafetyExec -/

@[simp] theorem State.onSwPath_hold {slot path f} : (State.onSwPath slot path f s).hold = s.hold := by simp [State.onSwPath]
@[simp] theorem State.onSwSlot_hold {slot f} : (State.onSwSlot slot f s).hold = s.hold := by simp [State.onSwSlot]
@[simp] theorem clearVerdict_hold {slot path} : (clearVerdict slot path s).hold = s.hold := by
  simp only [clearVerdict]
  repeat' split
  all_goals simp
@[simp] theorem verdictTake_held {dom slot path r0 status} (h : s.hold = true) : (verdictTake dom slot path r0 status s).hold = true := by
  simp only [verdictTake]
  repeat' split
  all_goals simp [h]
@[simp] theorem execVerdictWrite_held {dom slot path r status} (h : s.hold = true) :
    HeldAfter (execVerdictWrite dom slot path r status s) :=
  by simp [execVerdictWrite, h]
@[simp] theorem execVerdictDeadline_held {slot path} (h : s.hold = true) : HeldAfter (execVerdictDeadline slot path s) := by
  simp only [execVerdictDeadline]
  repeat' split
  all_goals simp [h]
@[simp] theorem execVerdictStarvation_held {slot path} (h : s.hold = true) : HeldAfter (execVerdictStarvation slot path s) := by
  unfold execVerdictStarvation
  split <;> simp [h]
@[simp] theorem outMismatch_held : (outMismatch s).hold = true := by simp [outMismatch]
@[simp] theorem execTestPulse_held {channelB readLow readHigh} (h : s.hold = true) :
    HeldAfter (execTestPulse channelB readLow readHigh s) :=
  by simp [execTestPulse, h]
@[simp] theorem execTickLoss_held : HeldAfter (execTickLoss s) := by simp [execTickLoss]
@[simp] theorem execRefclkLoss_held : HeldAfter (execRefclkLoss s) := by simp [execRefclkLoss]
@[simp] theorem affectUnit_hold {u st} : (affectUnit u st s).hold = s.hold := by
  refine (foldl_hold fun s c => ?_).trans rfl
  dsimp only
  split <;> simp
@[simp] theorem blazeFail_held {u sigs expected set} (h : s.hold = true) : (blazeFail u sigs expected set s).hold = true :=
  by simp [blazeFail, h]
@[simp] theorem execBlazeFrame_held {sigs expected invalid} (h : s.hold = true) : HeldAfter (execBlazeFrame sigs expected invalid s) :=
  by simp [execBlazeFrame, h]
@[simp] theorem checkerResult_hold {t c pass} : (checkerResult t c pass s).hold = s.hold := by simp [checkerResult]
@[simp] theorem execSelfTestSlice_held {e start tests} (h : s.hold = true) : HeldAfter (execSelfTestSlice e start tests s) :=
  by simp [execSelfTestSlice, h]
@[simp] theorem execLockstepTest_held {pass} (h : s.hold = true) : HeldAfter (execLockstepTest pass s) := by simp [execLockstepTest, h]
@[simp] theorem latentReact_held {c} (h : s.hold = true) : (latentReact c s).hold = true := by
  simp only [latentReact]
  repeat' split
  all_goals simp [h]
@[simp] theorem execLatentCheck_held {now} (h : s.hold = true) : HeldAfter (execLatentCheck now s) := by
  unfold execLatentCheck
  split
  · exact heldAfter_next.2 h
  · rw [heldAfter_next]
    have hreacted : ∀ (l : List Checker) (t : State), t.hold = true → (l.foldl (fun s c => latentReact c s) t).hold = true :=
      fun l t => foldl_held fun s c => latentReact_held
    split
    · exact warmResetTo_held (hreacted _ _ h)
    · split
      · exact hreacted _ _ h
      · exact computeResetTo_held (hreacted _ _ h)

/-! ## Machine/ScanExec -/

@[simp] theorem writeHeader_hold {i} : (writeHeader i s).hold = s.hold := by
  unfold writeHeader
  split <;> simp
@[simp] theorem scanBad_held {c w} (h : s.hold = true) : (scanBad c w s).hold = true := by simp [scanBad, h]
@[simp] theorem rowDone_held {c i st} (h : s.hold = true) : (rowDone c i st s).hold = true := by
  unfold rowDone
  split <;> simp [h]
@[simp] theorem rowPlain_hold {out st bad} : (rowPlain s out st bad).s.hold = s.hold := by rfl
@[simp] theorem zeroRow_hold {w row} : (zeroRow w row s).s.hold = s.hold := by
  unfold zeroRow
  dsimp only
  split
  · rfl
  · split
    · rfl
    · split <;> simp [rowPlain_hold]
@[simp] theorem scanRow_hold {exp expOk w row inSt ue given} : (scanRow exp expOk w row inSt ue given s).s.hold = s.hold := by
  unfold scanRow
  extract_lets dom h v zeroOut gst n reset0 rowSt
  split
  · rfl
  · split
    · rfl
    · split
      · rfl
      · extract_lets hdr body crcOk hdr' canR canW poison stBytes objInv st out s1 s2 s3 s4 s5
        have h1 : s1.hold = s.hold := by simp only [s1, ite_hold, refuseEngine_hold, ite_self]
        have h2 : s2.hold = s.hold := by simp only [s2, ite_hold, refuseEngine_hold, ite_self, h1]
        have h3 : s3.hold = s.hold := by simp only [s3, ite_hold, countUe_hold, ite_self, h2]
        have h4 : s4.hold = s.hold := by simp only [s4, ite_hold, putMem_hold, ite_self, h3]
        have h5 : s5.hold = s.hold := by simp only [s5, ite_hold, State.onObj_hold, ite_self, h4]
        split
        · rfl
        · exact writeHeader_hold.trans h5
@[simp] theorem scanOne_hold {c r} : (scanOne c r s).s.hold = s.hold := by
  unfold scanOne
  dsimp only
  split
  · exact zeroRow_hold
  · split
    · exact scanRow_hold
    · exact scanRow_hold
@[simp] theorem scanRows_held {c n} (h : s.hold = true) : (scanRows c n s).1.hold = true := by
  induction n generalizing s with
  | zero => exact h
  | succ n ih =>
    unfold scanRows
    split
    · exact h
    · dsimp only
      split
      · exact h
      · split
        · exact h
        · exact ih (rowDone_held (State.onCluster_hold.trans (scanOne_hold.trans h)))
@[simp] theorem scanTake_hold {c r} : (scanTake c r s).hold = s.hold := by simp [scanTake]
@[simp] theorem scanGo_held {c} (h : s.hold = true) : (scanGo c s).hold = true := by
  simp only [scanGo]
  repeat' split
  all_goals simp [h]
@[simp] theorem scanCommand_held {op c w0 ecc} (h : s.hold = true) : (scanCommand op c w0 ecc s).hold = true := by simp [scanCommand, h]
@[simp] theorem execScanChunk_held {c w ecc} (h : s.hold = true) : HeldAfter (execScanChunk c w ecc s) := by simp [execScanChunk, h]
@[simp] theorem execScanStep_held {c w ecc} (h : s.hold = true) : HeldAfter (execScanStep c w ecc s) := by simp [execScanStep, h]
@[simp] theorem execScanZero_held {c w} (h : s.hold = true) : HeldAfter (execScanZero c w s) := by simp [execScanZero, h]

/-! ## Machine/VectorExec -/

@[simp] theorem veBad_held {c} (h : s.hold = true) : (veBad c s).hold = true := by simp [veBad, h]
@[simp] theorem veResult_held {c r} (h : r.state.hold = true) : (veResult c r).hold = true := by
  cases r with
  | go t => exact h
  | stall t => exact h
  | fin t => exact planDone_held h
  | bad t => exact veBad_held h
@[simp] theorem veGuard_hold {op f g c} (hg : (g c f s).state.hold = s.hold) : (veGuard op f g c s).state.hold = s.hold := by
  unfold veGuard
  split
  · exact hg
  · rfl
@[simp] theorem veOne_held {c g} (hg : (g c s).state.hold = s.hold) (h : s.hold = true) : HeldAfter (veOne c g s) := by
  unfold veOne
  split
  · exact heldAfter_next.2 (veResult_held (hg.trans h))
  · exact heldAfter_next.2 h
@[simp] theorem veGo_held {c} (h : s.hold = true) : (veGo c s).hold = true := by simp [veGo, h]
@[simp] theorem execVeprog_held {c w0 ecc} (h : s.hold = true) : HeldAfter (execVeprog c w0 ecc s) := by
  simp only [execVeprog]
  repeat' split
  all_goals simp [h]
@[simp] theorem execRuPass_held {c} (h : s.hold = true) : HeldAfter (execRuPass c s) := by
  unfold execRuPass
  split <;> simp [h]
@[simp] theorem execNop_held {c f} (h : s.hold = true) : HeldAfter (execNop c f s) := by simp [execNop, h]
@[simp] theorem execAdd_held {c f} (h : s.hold = true) : HeldAfter (execAdd c f s) := by simp [execAdd, h]
@[simp] theorem execSub_held {c f} (h : s.hold = true) : HeldAfter (execSub c f s) := by simp [execSub, h]
@[simp] theorem execMul_held {c f} (h : s.hold = true) : HeldAfter (execMul c f s) := by simp [execMul, h]
@[simp] theorem execFma_held {c f} (h : s.hold = true) : HeldAfter (execFma c f s) := by simp [execFma, h]
@[simp] theorem execMax_held {c f} (h : s.hold = true) : HeldAfter (execMax c f s) := by simp [execMax, h]
@[simp] theorem execMin_held {c f} (h : s.hold = true) : HeldAfter (execMin c f s) := by simp [execMin, h]
@[simp] theorem execAbs_held {c f} (h : s.hold = true) : HeldAfter (execAbs c f s) := by simp [execAbs, h]
@[simp] theorem execNeg_held {c f} (h : s.hold = true) : HeldAfter (execNeg c f s) := by simp [execNeg, h]
@[simp] theorem execCeq_held {c f} (h : s.hold = true) : HeldAfter (execCeq c f s) := by simp [execCeq, h]
@[simp] theorem execClt_held {c f} (h : s.hold = true) : HeldAfter (execClt c f s) := by simp [execClt, h]
@[simp] theorem execCle_held {c f} (h : s.hold = true) : HeldAfter (execCle c f s) := by simp [execCle, h]
@[simp] theorem execCun_held {c f} (h : s.hold = true) : HeldAfter (execCun c f s) := by simp [execCun, h]
@[simp] theorem execSel_held {c f} (h : s.hold = true) : HeldAfter (execSel c f s) := by simp [execSel, h]
@[simp] theorem execCvt_held {c f} (h : s.hold = true) : HeldAfter (execCvt c f s) := by simp [execCvt, h]
@[simp] theorem execPack_held {c f} (h : s.hold = true) : HeldAfter (execPack c f s) := by simp [execPack, h]
@[simp] theorem execUnpk_held {c f} (h : s.hold = true) : HeldAfter (execUnpk c f s) := by simp [execUnpk, h]
@[simp] theorem execLqu8_held {c f} (h : s.hold = true) : HeldAfter (execLqu8 c f s) := by simp [execLqu8, h]
@[simp] theorem execLqs8_held {c f} (h : s.hold = true) : HeldAfter (execLqs8 c f s) := by simp [execLqs8, h]
@[simp] theorem execLdq_held {c f} (h : s.hold = true) : HeldAfter (execLdq c f s) := by simp [execLdq, h]
@[simp] theorem execPerm_held {c f} (h : s.hold = true) : HeldAfter (execPerm c f s) := by simp [execPerm, h]
@[simp] theorem execShuf_held {c f} (h : s.hold = true) : HeldAfter (execShuf c f s) := by simp [execShuf, h]
@[simp] theorem execIadd_held {c f} (h : s.hold = true) : HeldAfter (execIadd c f s) := by simp [execIadd, h]
@[simp] theorem execIand_held {c f} (h : s.hold = true) : HeldAfter (execIand c f s) := by simp [execIand, h]
@[simp] theorem execIor_held {c f} (h : s.hold = true) : HeldAfter (execIor c f s) := by simp [execIor, h]
@[simp] theorem execIxor_held {c f} (h : s.hold = true) : HeldAfter (execIxor c f s) := by simp [execIxor, h]
@[simp] theorem execIshl_held {c f} (h : s.hold = true) : HeldAfter (execIshl c f s) := by simp [execIshl, h]
@[simp] theorem execIshr_held {c f} (h : s.hold = true) : HeldAfter (execIshr c f s) := by simp [execIshr, h]
@[simp] theorem execIota_held {c f} (h : s.hold = true) : HeldAfter (execIota c f s) := by simp [execIota, h]
@[simp] theorem execMand_held {c f} (h : s.hold = true) : HeldAfter (execMand c f s) := by simp [execMand, h]
@[simp] theorem execMor_held {c f} (h : s.hold = true) : HeldAfter (execMor c f s) := by simp [execMor, h]
@[simp] theorem execMxor_held {c f} (h : s.hold = true) : HeldAfter (execMxor c f s) := by simp [execMxor, h]
@[simp] theorem execMnot_held {c f} (h : s.hold = true) : HeldAfter (execMnot c f s) := by simp [execMnot, h]
@[simp] theorem execLd_held {c f} (h : s.hold = true) : HeldAfter (execLd c f s) := by simp [execLd, h]
@[simp] theorem execSt_held {c f} (h : s.hold = true) : HeldAfter (execSt c f s) := by simp [execSt, h]
@[simp] theorem execRsum_held {c f} (h : s.hold = true) : HeldAfter (execRsum c f s) := by simp [execRsum, h]
@[simp] theorem execRmax_held {c f} (h : s.hold = true) : HeldAfter (execRmax c f s) := by simp [execRmax, h]
@[simp] theorem execRmin_held {c f} (h : s.hold = true) : HeldAfter (execRmin c f s) := by simp [execRmin, h]
@[simp] theorem execRamax_held {c f} (h : s.hold = true) : HeldAfter (execRamax c f s) := by simp [execRamax, h]
@[simp] theorem execRugo_held {c f} (h : s.hold = true) : HeldAfter (execRugo c f s) := by simp [execRugo, h]
@[simp] theorem execRuwait_held {c f} (h : s.hold = true) : HeldAfter (execRuwait c f s) := by simp [execRuwait, h]
@[simp] theorem execRurd_held {c f} (h : s.hold = true) : HeldAfter (execRurd c f s) := by simp [execRurd, h]
@[simp] theorem execRufin_held {c f} (h : s.hold = true) : HeldAfter (execRufin c f s) := by simp [execRufin, h]
@[simp] theorem execSfn_held {c f} (h : s.hold = true) : HeldAfter (execSfn c f s) := by simp [execSfn, h]
@[simp] theorem execSmov_held {c f} (h : s.hold = true) : HeldAfter (execSmov c f s) := by simp [execSmov, h]
@[simp] theorem execSadd_held {c f} (h : s.hold = true) : HeldAfter (execSadd c f s) := by simp [execSadd, h]
@[simp] theorem execSget_held {c f} (h : s.hold = true) : HeldAfter (execSget c f s) := by simp [execSget, h]
@[simp] theorem execTin_held {c f} (h : s.hold = true) : HeldAfter (execTin c f s) := by simp [execTin, h]
@[simp] theorem execTout_held {c f} (h : s.hold = true) : HeldAfter (execTout c f s) := by simp [execTout, h]
@[simp] theorem execLoop_held {c f} (h : s.hold = true) : HeldAfter (execLoop c f s) := by simp [execLoop, h]
@[simp] theorem execEndl_held {c f} (h : s.hold = true) : HeldAfter (execEndl c f s) := by simp [execEndl, h]
@[simp] theorem execSka_held {c f} (h : s.hold = true) : HeldAfter (execSka c f s) := by simp [execSka, h]
@[simp] theorem execSkn_held {c f} (h : s.hold = true) : HeldAfter (execSkn c f s) := by simp [execSkn, h]
@[simp] theorem execEndP_held {c f} (h : s.hold = true) : HeldAfter (execEndP c f s) := by simp [execEndP, h]
@[simp] theorem execSfuBankLoad_held {c tset image} (h : s.hold = true) : HeldAfter (execSfuBankLoad c tset image s) := by
  unfold execSfuBankLoad
  split <;> simp [h]

/-! ## Machine/YardExec -/

@[simp] theorem State.onCtx_hold {y num f} : (State.onCtx y num f s).hold = s.hold := by simp [State.onCtx]
@[simp] theorem planDoneStream_held {y num st} (h : s.hold = true) : (planDoneStream y num st s).hold = true := by
  simp only [planDoneStream]
  repeat' split
  all_goals simp [h]
@[simp] theorem yardFinish_hold {w st y} : (yardFinish w st y s).hold = s.hold := by simp [yardFinish]
@[simp] theorem endEndpoint_hold {y c} : (endEndpoint y c s).hold = s.hold := by
  unfold endEndpoint
  dsimp only
  split
  · exact foldl_hold fun _ _ => rfl
  · repeat' split
    all_goals rfl
@[simp] theorem endBound_held {num} (h : s.hold = true) : (endBound num s).hold = true := by
  unfold endBound
  split <;> simp [h]
@[simp] theorem yardFault_held {y num} (h : s.hold = true) : (yardFault y num s).hold = true :=
  dcpFault_held (endBound_held (planDoneStream_held (stopStream_hold.trans h)))
@[simp] theorem cxlPoison_hold {a} : (cxlPoison a s).hold = s.hold := by
  unfold cxlPoison
  split <;> simp
@[simp] theorem yardUe_hold {y a} : (yardUe y a s).hold = s.hold := by simp [yardUe]
@[simp] theorem yardRefused_hold {y dom write a} : (yardRefused y dom write a s).hold = s.hold := by simp [yardRefused]
@[simp] theorem lcLines_hold {a n} : (lcLines a n s).hold = s.hold := by simp [lcLines]
@[simp] theorem fetchBurst_hold {y write l c sym} : (fetchBurst y write l c sym s).1.hold = s.hold := by simp [fetchBurst]
@[simp] theorem fetchNext_held {y num sym} (h : s.hold = true) : (fetchNext y num sym s).hold = true := by
  unfold fetchNext
  split
  · exact h
  · split
    · next e => exact yardFault_held ((hold_of_fst e).trans (fetchBurst_hold.trans h))
    · next e => exact (hold_of_fst e).trans (fetchBurst_hold.trans h)
@[simp] theorem issueRead_hold {c l d} : (issueRead c l d s).1.hold = s.hold := by simp [issueRead]
@[simp] theorem issueWrite_hold {c l d} : (issueWrite c l d s).1.hold = s.hold := by simp [issueWrite]
@[simp] theorem issueAll_hold {y num n} : (issueAll y num n s).hold = s.hold := by
  induction n generalizing s with
  | zero => rfl
  | succ n ih =>
    unfold issueAll
    split
    · rfl
    · dsimp only
      split
      · rfl
      · split
        · simp [ih]
        · split
          · simp [ih]
          · rfl
@[simp] theorem finishStream_held {y num} (h : s.hold = true) : (finishStream y num s).hold = true := by
  unfold finishStream
  split <;> simp [h]
@[simp] theorem pump_held {y num} (h : s.hold = true) : (pump y num s).hold = true := by simp [pump, h]
@[simp] theorem fetchFirst_held {y num} (h : s.hold = true) : (fetchFirst y num s).hold = true := by
  simp only [fetchFirst]
  repeat' split
  all_goals simp [h]
theorem popFor_hold {w} : OptAll (fun q => q.2.hold = s.hold) (popFor w s) := by
  simp only [popFor]
  repeat' split
  all_goals simp
@[simp] theorem freshIngress_hold {w} : (freshIngress w s).hold = s.hold := by simp [freshIngress]
@[simp] theorem freshBufs_hold {c} : (freshBufs c s).hold = s.hold := by
  unfold freshBufs
  split
  · exact foldl_hold fun _ _ => rfl
  · split <;> rfl
@[simp] theorem runStream_held {y c} (h : s.hold = true) : (runStream y c s).hold = true :=
  pump_held (fetchFirst_held (fetchFirst_held (freshBufs_hold.trans (freshIngress_hold.trans h))))
@[simp] theorem startStream_held {y w0 copy} (h : s.hold = true) : (startStream y w0 copy s).hold = true := by
  unfold startStream
  dsimp only
  split
  · exact h
  · split
    · exact yardFault_held h
    · split
      · exact planDoneStream_held (endEndpoint_hold.trans (yardFinish_hold.trans h))
      · split
        · exact pump_held h
        · split
          · exact runStream_held h
          · split
            · exact h
            · split
              · exact h
              · next hp => exact runStream_held ((popFor_hold _ hp).trans h)
@[simp] theorem execStream_held {y w} (h : s.hold = true) : HeldAfter (execStream y w s) := by simp [execStream, h]
@[simp] theorem execCopy_held {y w} (h : s.hold = true) : HeldAfter (execCopy y w s) := by simp [execCopy, h]
@[simp] theorem execDescriptorFetch_held {y r} (h : s.hold = true) : HeldAfter (execDescriptorFetch y r s) := by
  simp only [execDescriptorFetch]
  repeat' split
  all_goals simp [h]
@[simp] theorem localRead_hold {y dom a n sym} : (localRead y dom a n sym s).2.2.hold = s.hold := by
  unfold localRead
  split <;> simp
@[simp] theorem localWrite_hold {y dom a acc l} : (localWrite y dom a acc l s).2.hold = s.hold := by simp [localWrite]
@[simp] theorem doneXfer_hold {y num idx data st0} : (doneXfer y num idx data st0 s).hold = s.hold := by simp [doneXfer]
@[simp] theorem outRefused_held {y num pos} (h : s.hold = true) : (outRefused y num pos s).hold = true := by
  simp only [outRefused]
  repeat' split
  all_goals simp [h]
@[simp] theorem yardRemote_hold {y write st} : (yardRemote y write st s).hold = s.hold := by simp [yardRemote]
@[simp] theorem execTransferComplete_held {y num idx sym} (h : s.hold = true) : HeldAfter (execTransferComplete y num idx sym s) := by
  simp only [execTransferComplete]
  repeat' split
  all_goals simp [h]
@[simp] theorem clusterGo_held {c} (h : s.hold = true) : (clusterGo c s).hold = true := by simp [clusterGo, h]
@[simp] theorem giveCluster_held {i ep num l} (h : s.hold = true) : (giveCluster i ep num l s).hold = true := by simp [giveCluster, h]
@[simp] theorem giveTile_held {c pos l} (h : s.hold = true) : (giveTile c pos l s).hold = true := by
  simp only [giveTile]
  repeat' split
  all_goals simp_all
@[simp] theorem takeTile_hold {y c} : (takeTile y c s).2.hold = s.hold := by
  simp only [takeTile]
  repeat' split
  all_goals simp
@[simp] theorem yardStall_hold {y} : (yardStall y s).hold = s.hold := by simp [yardStall]
@[simp] theorem execTileDeliver_held {y num} (h : s.hold = true) : HeldAfter (execTileDeliver y num s) := by
  unfold execTileDeliver
  split <;> simp [h]
@[simp] theorem execSkidPush_held {y num} (h : s.hold = true) : HeldAfter (execSkidPush y num s) := by
  simp only [execSkidPush]
  repeat' split
  all_goals simp [h]
@[simp] theorem dropTiles_hold {c num} : (dropTiles c num s).hold = s.hold := by simp [dropTiles]
@[simp] theorem discardFor_hold {c keep} : (discardFor c keep s).hold = s.hold := by simp [discardFor]
@[simp] theorem resumeOne_held {y num} (h : s.hold = true) : (resumeOne y num s).hold = true := by
  simp only [resumeOne]
  repeat' split
  all_goals simp [h]
@[simp] theorem resumeStreams_held {nums} (h : s.hold = true) : (resumeStreams nums s).hold = true :=
  foldl_held (fun _ _ h => foldl_held (fun _ _ h => resumeOne_held h) h) h
@[simp] theorem unicast_held {c nums} (h : s.hold = true) : (unicast c nums s).hold = true := by
  refine foldl_held (fun s num h => ?_) h
  dsimp only
  split
  · split <;> simp [h]
  · exact h

end Sys2Proof.Machine
end

section
/-! SUPPORT. What leaves the latched hold as it is (R515): audio, the objects, control and the Root of Trust. -/

namespace Sys2Proof.Machine

variable {s : State}

/-! ## Machine/Plan -/

@[simp] theorem addReservations_hold {l} : (addReservations l s).hold = s.hold := by simp [addReservations]

/-! ## Machine/MsgOps -/

@[simp] theorem refWrite_hold {m l} : (refWrite m l s).hold = s.hold := by simp [refWrite]
@[simp] theorem addWork_hold {b} : (addWork b s).hold = s.hold := by simp [addWork]
@[simp] theorem dropWork_hold {p} : (dropWork p s).hold = s.hold := by simp [dropWork]
@[simp] theorem startRing_hold {addr} : (startRing addr s).hold = s.hold := by simp [startRing]

/-! ## Machine/AudioOps -/

@[simp] theorem State.onGroup_hold {g f} : (State.onGroup g f s).hold = s.hold := by simp [State.onGroup]
@[simp] theorem State.onSap_hold {p f} : (State.onSap p f s).hold = s.hold := by simp [State.onSap]
@[simp] theorem removeChan_hold {i} : (removeChan i s).hold = s.hold := by
  simp only [removeChan]
  repeat' split
  all_goals simp
@[simp] theorem applyChange_hold {i} : (applyChange i s).hold = s.hold := by
  unfold applyChange
  split <;> simp
@[simp] theorem pushChunk_hold {i} : (pushChunk i s).hold = s.hold := by
  unfold pushChunk
  split <;> simp
@[simp] theorem makeChunks_hold {i x1} : (makeChunks i x1 s).hold = s.hold := by
  induction x1 generalizing s with
  | zero => rfl
  | succ n ih =>
    unfold makeChunks
    split <;> simp [ih]
@[simp] theorem headerWrite_hold {a l} : (headerWrite a l s).hold = s.hold := by simp [headerWrite]
@[simp] theorem ringOut_hold {c} : (ringOut c s).hold = s.hold := by simp [ringOut]
@[simp] theorem afeBusy_hold : (afeBusy s).hold = s.hold := by simp [afeBusy]
@[simp] theorem ringRefused_hold {c write n} : (ringRefused c write n s).hold = s.hold := by simp [ringRefused]
@[simp] theorem inputBeat_hold {i} : (inputBeat i s).hold = s.hold := by
  unfold inputBeat
  split <;> simp
@[simp] theorem outputSample_hold {n y} {p0} : (outputSample n y p0).1.hold = p0.1.hold := by
  simp only [outputSample]
  repeat' split
  all_goals simp
@[simp] theorem sinkOut_hold {c l} : (sinkOut c l s).hold = s.hold := by simp [sinkOut]
@[simp] theorem playBeat_hold {i portUp} : (playBeat i portUp s).hold = s.hold := by
  unfold playBeat
  split
  · rfl
  · dsimp only
    split
    all_goals
      simp only [afeBusy_hold, State.onChannel_hold, sinkOut_hold, foldl_fst_hold fun _ _ => outputSample_hold, State.onAudio_hold]
      repeat' split
      all_goals simp
@[simp] theorem outputBeat_hold {i portUp} : (outputBeat i portUp s).hold = s.hold := by
  simp only [outputBeat]
  repeat' split
  all_goals simp
@[simp] theorem slipSap_held {p cause} (h : s.hold = true) : (slipSap p cause s).hold = true := by simp [slipSap, h]
@[simp] theorem pllTick_hold {g} : (pllTick g s).hold = s.hold := by simp [pllTick]
@[simp] theorem rejoinTrig_hold {edge} : (rejoinTrig edge s).hold = s.hold := by simp [rejoinTrig]
@[simp] theorem afeTick_hold {t} : (afeTick t s).hold = s.hold := by simp [afeTick]
@[simp] theorem closeInputs_hold : (closeInputs s).hold = s.hold := by simp [closeInputs]

/-! ## Machine/AudioExec -/

@[simp] theorem channelOpen_hold {m} : (channelOpen m s).1.hold = s.hold := by
  unfold channelOpen
  refine checked_hold ?_
  split <;> simp
@[simp] theorem execChannelOpen_held {m} (h : s.hold = true) : HeldAfter (execChannelOpen m s) := by simp [execChannelOpen, h]
@[simp] theorem channelClose_held {m} (h : s.hold = true) : (channelClose m s).1.hold = true := by simp [channelClose, h]
@[simp] theorem execChannelClose_held {m} (h : s.hold = true) : HeldAfter (execChannelClose m s) := by
  unfold execChannelClose
  exact heldAfter_next.2 (withMsg_held (fun u hu => channelClose_held hu) h)
@[simp] theorem channelCtrl_hold {op gain run mute m} : (channelCtrl op gain run mute m s).1.hold = s.hold := by
  unfold channelCtrl
  refine checked_hold ?_
  split <;> simp
@[simp] theorem execChannelStart_held {m} (h : s.hold = true) : HeldAfter (execChannelStart m s) := by simp [execChannelStart, h]
@[simp] theorem execChannelStop_held {m} (h : s.hold = true) : HeldAfter (execChannelStop m s) := by simp [execChannelStop, h]
@[simp] theorem execChannelMute_held {m} (h : s.hold = true) : HeldAfter (execChannelMute m s) := by simp [execChannelMute, h]
@[simp] theorem execChannelUnmute_held {m} (h : s.hold = true) : HeldAfter (execChannelUnmute m s) := by simp [execChannelUnmute, h]
@[simp] theorem execChannelGain_held {m} (h : s.hold = true) : HeldAfter (execChannelGain m s) := by simp [execChannelGain, h]
@[simp] theorem execZeroCrossingApply_held {ch} (h : s.hold = true) : HeldAfter (execZeroCrossingApply ch s) := by
  unfold execZeroCrossingApply
  split <;> simp [h]
@[simp] theorem execZcTimeout_held {ch} (h : s.hold = true) : HeldAfter (execZcTimeout ch s) := by
  simp only [execZcTimeout]
  repeat' split
  all_goals simp [h]
@[simp] theorem execAfeInputProcess_held {ch} (h : s.hold = true) : HeldAfter (execAfeInputProcess ch s) := by
  unfold execAfeInputProcess
  split <;> simp [h]
@[simp] theorem execAfeOutputProcess_held {ch} (h : s.hold = true) : HeldAfter (execAfeOutputProcess ch s) := by
  unfold execAfeOutputProcess
  split <;> simp [h]
@[simp] theorem portgroupConfig_hold {m} : (portgroupConfig m s).1.hold = s.hold := by simp [portgroupConfig]
@[simp] theorem execPortgroupConfig_held {m} (h : s.hold = true) : HeldAfter (execPortgroupConfig m s) := by simp [execPortgroupConfig, h]
@[simp] theorem portgroupArm_hold {m} : (portgroupArm m s).1.hold = s.hold := by simp [portgroupArm]
@[simp] theorem execPortgroupArm_held {m} (h : s.hold = true) : HeldAfter (execPortgroupArm m s) := by simp [execPortgroupArm, h]
@[simp] theorem execTrigInEdge_held {t} (h : s.hold = true) : HeldAfter (execTrigInEdge t s) := by simp [execTrigInEdge, h]
@[simp] theorem startGroup_hold {g} : (startGroup g s).hold = s.hold := by
  simp only [startGroup]
  repeat' split
  all_goals simp
@[simp] theorem execGroupStart_held {g} (h : s.hold = true) : HeldAfter (execGroupStart g s) := by simp [execGroupStart, h]
@[simp] theorem execSlip_held {p cause} (h : s.hold = true) : HeldAfter (execSlip p cause s) := by simp [execSlip, h]
@[simp] theorem execSlipRejoin_held {p} (h : s.hold = true) : HeldAfter (execSlipRejoin p s) := by simp [execSlipRejoin, h]
@[simp] theorem execClkLost_held {g} (h : s.hold = true) : HeldAfter (execClkLost g s) := by
  simp only [execClkLost]
  repeat' split
  all_goals simp_all
@[simp] theorem sapInside_hold {p} : (sapInside p s).hold = s.hold := by simp [sapInside]
@[simp] theorem sapStopped_hold {p} : (sapStopped p s).hold = s.hold := by simp [sapStopped]
@[simp] theorem sapFrame_held {p adj span frame} (h : s.hold = true) : (sapFrame p adj span frame s).hold = true := by
  simp only [sapFrame]
  repeat' split
  all_goals simp_all
@[simp] theorem pdmLine_hold {l bits} : (pdmLine l bits s).hold = s.hold := by simp [pdmLine]
@[simp] theorem execGroupFrame_held {g rx pdm} (h : s.hold = true) : HeldAfter (execGroupFrame g rx pdm s) := by
  simp only [execGroupFrame]
  repeat' split
  all_goals simp_all

/-! ## Machine/ObjExec -/

@[simp] theorem holdObj_hold {owner dom lo n} : (holdObj owner dom lo n s).hold = s.hold := by simp [holdObj]
theorem newObj_hold {client dom model owner heads dk16 dv16 layers vec} :
    OptAll (fun q => q.2.hold = s.hold) (newObj client dom model owner heads dk16 dv16 layers vec s) := by
  unfold newObj
  dsimp only
  split
  · rw [optAll_some_iff, syncObj_hold, State.onCtrl_hold, holdObj_hold, State.issue_hold]
  · exact optAll_none
@[simp] theorem stateCreate_hold {m} : (stateCreate m s).1.hold = s.hold := by
  unfold stateCreate
  refine checked_hold ?_
  split
  · next h => exact newObj_hold _ h
  · rfl
@[simp] theorem execStateCreate_held {m} (h : s.hold = true) : HeldAfter (execStateCreate m s) := by simp [execStateCreate, h]
@[simp] theorem forceDestroy_hold {i} : (forceDestroy i s).hold = s.hold := by
  simp only [forceDestroy]
  repeat' split
  all_goals simp
@[simp] theorem stateDestroy_hold {m} : (stateDestroy m s).1.hold = s.hold := by simp [stateDestroy]
@[simp] theorem execStateDestroy_held {m} (h : s.hold = true) : HeldAfter (execStateDestroy m s) := by simp [execStateDestroy, h]
@[simp] theorem execPinnedDestroy_held {i} (h : s.hold = true) : HeldAfter (execPinnedDestroy i s) := by
  unfold execPinnedDestroy
  split <;> simp [h]
@[simp] theorem stateSwap_hold {m} : (stateSwap m s).1.hold = s.hold := by
  unfold stateSwap
  refine checked_hold ?_
  repeat' split
  all_goals simp
@[simp] theorem execStateSwap_held {m} (h : s.hold = true) : HeldAfter (execStateSwap m s) := by simp [execStateSwap, h]
@[simp] theorem execSwapCopyStart_held {i} (h : s.hold = true) : HeldAfter (execSwapCopyStart i s) := by simp [execSwapCopyStart, h]
@[simp] theorem execSwapCopyComplete_held {i refused newHandle} (h : s.hold = true) :
    HeldAfter (execSwapCopyComplete i refused newHandle s) := by
  unfold execSwapCopyComplete
  split <;> simp [h]
@[simp] theorem relocateObj_hold {i} : (relocateObj i s).hold = s.hold := by
  simp only [relocateObj]
  repeat' split
  all_goals simp
@[simp] theorem stateReset_hold {m} : (stateReset m s).1.hold = s.hold := by simp [stateReset]
@[simp] theorem execStateReset_held {m} (h : s.hold = true) : HeldAfter (execStateReset m s) := by simp [execStateReset, h]
@[simp] theorem stateCopy_hold {m} : (stateCopy m s).1.hold = s.hold := by
  unfold stateCopy
  refine checked_hold ?_
  split <;> simp
@[simp] theorem execStateCopy_held {m} (h : s.hold = true) : HeldAfter (execStateCopy m s) := by simp [execStateCopy, h]
@[simp] theorem takeCopies_hold : (takeCopies s).hold = s.hold := by
  refine foldl_hold fun s _ => ?_
  repeat' split
  all_goals simp
@[simp] theorem execStateCopyComplete_held {client mbox} (h : s.hold = true) : HeldAfter (execStateCopyComplete client mbox s) := by
  simp only [execStateCopyComplete]
  repeat' split
  all_goals simp [h]
@[simp] theorem objTick_hold : (objTick s).hold = s.hold := by simp [objTick]

/-! ## Machine/CtrlExec -/

@[simp] theorem clientCreate_hold {m} : (clientCreate m s).1.hold = s.hold := by
  unfold clientCreate
  refine checked_hold ?_
  split <;> simp
@[simp] theorem execClientCreate_held {m} (h : s.hold = true) : HeldAfter (execClientCreate m s) := by simp [execClientCreate, h]
@[simp] theorem stopSlots_hold {p beat} : (stopSlots p beat s).hold = s.hold := by simp [stopSlots]
@[simp] theorem shutChannel_held {beat c} (h : s.hold = true) : (shutChannel beat c s).hold = true := by simp [shutChannel, h]
@[simp] theorem shutClient_held {i} (h : s.hold = true) : (shutClient i s).hold = true := by
  simp only [shutClient]
  simp_all
@[simp] theorem clientDestroy_held {m} (h : s.hold = true) : (clientDestroy m s).1.hold = true := by simp [clientDestroy, h]
@[simp] theorem execClientDestroy_held {m} (h : s.hold = true) : HeldAfter (execClientDestroy m s) := by
  unfold execClientDestroy
  exact heldAfter_next.2 (withMsg_held (fun u hu => clientDestroy_held hu) h)
@[simp] theorem armChange_hold {cfg holdMax beat} : (armChange cfg holdMax beat s).hold = s.hold := by simp [armChange]
@[simp] theorem beatConfig_hold {m} : (beatConfig m s).1.hold = s.hold := by simp [beatConfig]
@[simp] theorem execBeatConfig_held {m} (h : s.hold = true) : HeldAfter (execBeatConfig m s) := by simp [execBeatConfig, h]
@[simp] theorem execChainChangeCheck_held {cfg holdMax} (h : s.hold = true) : HeldAfter (execChainChangeCheck cfg holdMax s) :=
  by simp [execChainChangeCheck, h]
@[simp] theorem execChainChangeAnswer_held {modul accept} (h : s.hold = true) : HeldAfter (execChainChangeAnswer modul accept s) := by
  unfold execChainChangeAnswer
  split <;> simp [h]
@[simp] theorem topology_hold {m} : (topology m s).1.hold = s.hold := by
  unfold topology
  refine checked_hold ?_
  rfl
@[simp] theorem execTopology_held {m} (h : s.hold = true) : HeldAfter (execTopology m s) := by simp [execTopology, h]
@[simp] theorem poolConfig_hold {m} : (poolConfig m s).1.hold = s.hold := by
  unfold poolConfig
  refine checked_hold ?_
  split <;> simp
@[simp] theorem execPoolConfig_held {m} (h : s.hold = true) : HeldAfter (execPoolConfig m s) := by simp [execPoolConfig, h]
@[simp] theorem fenceMsg_hold {m} : (fenceMsg m s).1.hold = s.hold := by simp [fenceMsg]
@[simp] theorem execFence_held {m} (h : s.hold = true) : HeldAfter (execFence m s) := by simp [execFence, h]
@[simp] theorem trainedPort_hold {u t} : (trainedPort u t s).hold = s.hold := by
  unfold trainedPort
  split <;> simp
@[simp] theorem unfenceMsg_hold {m t} : (unfenceMsg m t s).1.hold = s.hold := by simp [unfenceMsg]
@[simp] theorem execUnfence_held {m test} (h : s.hold = true) : HeldAfter (execUnfence m test s) := by simp [execUnfence, h]
@[simp] theorem telemetryConfig_hold {m} : (telemetryConfig m s).1.hold = s.hold := by simp [telemetryConfig]
@[simp] theorem execTelemetryConfig_held {m} (h : s.hold = true) : HeldAfter (execTelemetryConfig m s) := by simp [execTelemetryConfig, h]
@[simp] theorem faultClear_hold {m} : (faultClear m s).1.hold = s.hold := by
  unfold faultClear
  refine checked_hold ?_
  split <;> simp
@[simp] theorem execFaultClear_held {m} (h : s.hold = true) : HeldAfter (execFaultClear m s) := by simp [execFaultClear, h]
@[simp] theorem memAlloc_hold {m} : (memAlloc m s).1.hold = s.hold := by
  simp only [memAlloc]
  repeat' split
  all_goals simp
@[simp] theorem execMemAlloc_held {m} (h : s.hold = true) : HeldAfter (execMemAlloc m s) := by simp [execMemAlloc, h]
@[simp] theorem memFree_hold {m} : (memFree m s).1.hold = s.hold := by
  simp only [memFree]
  repeat' split
  all_goals simp
@[simp] theorem execMemFree_held {m} (h : s.hold = true) : HeldAfter (execMemFree m s) := by simp [execMemFree, h]
@[simp] theorem memCopy_hold {m} : (memCopy m s).1.hold = s.hold := by simp [memCopy]
@[simp] theorem execMemCopy_held {m} (h : s.hold = true) : HeldAfter (execMemCopy m s) := by simp [execMemCopy, h]
@[simp] theorem runCopy_hold {dom w} : (runCopy dom w s).1.hold = s.hold := by simp [runCopy]
@[simp] theorem execMemCopyComplete_held {client mbox status} (h : s.hold = true) : HeldAfter (execMemCopyComplete client mbox status s) :=
  by simp [execMemCopyComplete, h]
@[simp] theorem execMailboxWriteDrop_held {client mbox} (h : s.hold = true) : HeldAfter (execMailboxWriteDrop client mbox s) :=
  by simp [execMailboxWriteDrop, h]
@[simp] theorem execMailboxReservedOpcode_held {opcode m} (h : s.hold = true) : HeldAfter (execMailboxReservedOpcode opcode m s) :=
  by simp [execMailboxReservedOpcode, h]

/-! ## Machine/RotExec -/

@[simp] theorem bootType_hold {t} : (bootType t s).1.hold = s.hold := by
  simp only [bootType]
  repeat' split
  all_goals simp
@[simp] theorem enterRecovery_hold {t st} : (enterRecovery t st s).hold = s.hold := by simp [enterRecovery]
@[simp] theorem bootTypes_hold {x0 x1} : (bootTypes x0 x1 s).hold = s.hold := by
  induction x0 generalizing x1 s with
  | zero => rfl
  | succ n ih =>
    unfold bootTypes
    dsimp only
    split <;> simp [ih]
@[simp] theorem trainCxl_hold {p} : (trainCxl p s).hold = s.hold := by simp [trainCxl]
@[simp] theorem execBoot_held {katOk cxl} (h : s.hold = true) : HeldAfter (execBoot katOk cxl s) := by
  simp only [execBoot]
  repeat' split
  all_goals simp_all
@[simp] theorem execTrialTimeout_held (h : s.hold = true) : HeldAfter (execTrialTimeout s) := by
  unfold execTrialTimeout
  split <;> simp [h]
@[simp] theorem rotReply_hold {st data} : (rotReply st data s).hold = s.hold := by simp [rotReply]
@[simp] theorem rotOp_hold {ok body} (hbody : (body s).hold = s.hold) : (rotOp ok body s).hold = s.hold := by
  unfold rotOp
  split
  · rfl
  · split <;> simp [hbody]
@[simp] theorem State.rand_hold {n} : (State.rand s n).2.hold = s.hold := by simp [State.rand]
@[simp] theorem identitySign_hold {msg} : (identitySign msg s).2.hold = s.hold := by simp [identitySign]
@[simp] theorem execGetCerts_held {payload} (h : s.hold = true) : HeldAfter (execGetCerts payload s) := by simp [execGetCerts, h]
@[simp] theorem execAttest_held {payload} (h : s.hold = true) : HeldAfter (execAttest payload s) := by simp [execAttest, h]
@[simp] theorem execStageBegin_held {payload} (h : s.hold = true) : HeldAfter (execStageBegin payload s) := by
  unfold execStageBegin
  refine heldAfter_next.2 ((rotOp_hold ?_).trans h)
  dsimp only
  repeat' split
  all_goals simp
@[simp] theorem execStageData_held {payload} (h : s.hold = true) : HeldAfter (execStageData payload s) := by
  unfold execStageData
  refine heldAfter_next.2 ((rotOp_hold ?_).trans h)
  dsimp only
  repeat' split
  all_goals simp
@[simp] theorem execStageEnd_held {payload} (h : s.hold = true) : HeldAfter (execStageEnd payload s) := by
  unfold execStageEnd
  refine heldAfter_next.2 ((rotOp_hold ?_).trans h)
  dsimp only
  repeat' split
  all_goals simp
@[simp] theorem execCommit_held {payload} (h : s.hold = true) : HeldAfter (execCommit payload s) := by simp [execCommit, h]
@[simp] theorem execStageAbort_held {payload} (h : s.hold = true) : HeldAfter (execStageAbort payload s) := by simp [execStageAbort, h]
@[simp] theorem execKeyEnroll_held {payload} (h : s.hold = true) : HeldAfter (execKeyEnroll payload s) := by simp [execKeyEnroll, h]
@[simp] theorem execDebugChallenge_held {payload} (h : s.hold = true) : HeldAfter (execDebugChallenge payload s) :=
  by simp [execDebugChallenge, h]
@[simp] theorem execDebugUnlock_held {payload} (h : s.hold = true) : HeldAfter (execDebugUnlock payload s) := by
  unfold execDebugUnlock
  refine heldAfter_next.2 ((rotOp_hold ?_).trans h)
  dsimp only
  repeat' split
  all_goals simp
@[simp] theorem execRotReplyRead_held {off} (h : s.hold = true) : HeldAfter (execRotReplyRead off s) := by
  unfold execRotReplyRead
  split <;> simp [h]
@[simp] theorem execRotReservedOperation_held {op} (h : s.hold = true) : HeldAfter (execRotReservedOperation op s) := by
  simp only [execRotReservedOperation]
  repeat' split
  all_goals simp [h]
@[simp] theorem execDrbgReseed_held {entropy} (h : s.hold = true) : HeldAfter (execDrbgReseed entropy s) := by
  unfold execDrbgReseed
  split <;> simp [h]

end Sys2Proof.Machine
end

section
/-! SUPPORT. What leaves the latched hold as it is (R515): links, registers, beats, models and memory. -/

namespace Sys2Proof.Machine

variable {s : State}

/-! ## Machine/LinkExec -/

@[simp] theorem dropEgress_hold {l t} : (dropEgress l t s).hold = s.hold := by
  unfold dropEgress
  refine (foldl_hold fun s y => ?_).trans (refuse_hold.trans rfl)
  split
  · split <;> rfl
  · rfl
@[simp] theorem sendStream_hold {l t} : (sendStream l t s).hold = s.hold := by
  simp only [sendStream]
  repeat' split
  all_goals simp
@[simp] theorem sendItem_hold {l it rest} : (sendItem l it rest s).hold = s.hold := by simp [sendItem]
theorem sendFirst_hold {l p ok} : OptAll (fun t => t.hold = s.hold) (sendFirst l p ok s) := by simp [sendFirst]
@[simp] theorem sendNum_hold {l p num} : (sendNum l p num s).hold = s.hold := by
  unfold sendNum
  split
  · next h => exact sendFirst_hold _ h
  · split <;> simp
@[simp] theorem turned_hold {l n s2} : (turned l n s2 s).hold = s.hold := by simp [turned]
@[simp] theorem dataOut_hold {l} : (dataOut l s).hold = s.hold := by
  unfold dataOut
  split
  · next h => exact sendFirst_hold _ h
  · simp
  · rw [turned_hold, hold_getD sendFirst_hold rfl]
  · simp
  · rfl
@[simp] theorem frameOut_hold {l} : (frameOut l s).hold = s.hold := by
  unfold frameOut
  split
  · next h => exact sendFirst_hold _ h
  · next h => exact sendFirst_hold _ h
  · next h => exact sendFirst_hold _ h
  · exact dataOut_hold
@[simp] theorem execFrameEgress_held {l} (h : s.hold = true) : HeldAfter (execFrameEgress l s) := by simp [execFrameEgress, h]
@[simp] theorem execEpochRollover_held {l σ} (h : s.hold = true) : HeldAfter (execEpochRollover l σ s) := by simp [execEpochRollover, h]
@[simp] theorem countNak_held {l} (h : s.hold = true) : (countNak l s).hold = true := by simp [countNak, h]
@[simp] theorem sendNak_held {l} (h : s.hold = true) : (sendNak l s).hold = true := by simp [sendNak, h]
@[simp] theorem sendAck_hold {l} : (sendAck l s).hold = s.hold := by simp [sendAck]
@[simp] theorem tagFail_held {l f} (h : s.hold = true) : (tagFail l f s).hold = true := by simp [tagFail, h]
theorem routeFrame_hold {sel f} : OptAll (fun t => t.hold = s.hold) (routeFrame sel f s) := by
  simp only [routeFrame]
  repeat' split
  all_goals simp
@[simp] theorem refuseFrame_hold {sel write ga f} : (refuseFrame sel write ga f s).hold = s.hold := by
  unfold refuseFrame
  split <;> simp
@[simp] theorem sendReply_hold {cls f body} : (sendReply cls f body s).hold = s.hold := by
  exact hold_getD routeFrame_hold (by simp)
@[simp] theorem answerWrite_hold {f st} : (answerWrite f st s).hold = s.hold := by simp [answerWrite]
@[simp] theorem answerRead_hold {f st data} : (answerRead f st data s).hold = s.hold := by simp [answerRead]
@[simp] theorem remoteWrite_hold {f sym} : (remoteWrite f sym s).hold = s.hold := by simp [remoteWrite]
@[simp] theorem remoteRead_hold {f sym} : (remoteRead f sym s).hold = s.hold := by simp [remoteRead]
@[simp] theorem blockCorrupt_held {l y num} (h : s.hold = true) : (blockCorrupt l y num s).hold = true := by
  simp only [blockCorrupt]
  repeat' split
  all_goals simp [h]
@[simp] theorem deliverStream_held {l f} (h : s.hold = true) : (deliverStream l f s).hold = true := by
  simp only [deliverStream]
  repeat' split
  all_goals simp [h]
@[simp] theorem deliver_held {l f sym} (h : s.hold = true) : (deliver l f sym s).hold = true := by
  unfold deliver
  dsimp only
  split
  · split <;> simp [h]
  · split
    · next hr => exact (routeFrame_hold _ hr).trans h
    · split <;> simp [h]
@[simp] theorem fecSeen_hold {l r} : (fecSeen l r s).hold = s.hold := by simp [fecSeen]
@[simp] theorem frameIn_held {l r} (h : s.hold = true) : (frameIn l r s).hold = true := by simp [frameIn, h]
@[simp] theorem execFrameStream_held {l r} (h : s.hold = true) : HeldAfter (execFrameStream l r s) := by simp [execFrameStream, h]
@[simp] theorem execFrameWrite_held {l r} (h : s.hold = true) : HeldAfter (execFrameWrite l r s) := by simp [execFrameWrite, h]
@[simp] theorem execFrameRead_held {l r} (h : s.hold = true) : HeldAfter (execFrameRead l r s) := by simp [execFrameRead, h]
@[simp] theorem execFrameReadData_held {l r} (h : s.hold = true) : HeldAfter (execFrameReadData l r s) := by simp [execFrameReadData, h]
@[simp] theorem execFrameWriteDone_held {l r} (h : s.hold = true) : HeldAfter (execFrameWriteDone l r s) := by simp [execFrameWriteDone, h]
@[simp] theorem ctlIn_held {l r cls type act} (hact : ∀ b u, u.hold = true → (act b u).hold = true) (h : s.hold = true) :
    (ctlIn l r cls type act s).hold = true := by
  unfold ctlIn
  split
  · exact h
  · dsimp only
    split
    · simp [h]
    · split
      · simp [h]
      · split
        · simp [h]
        · exact hact _ _ (by simp [h])
@[simp] theorem ackTake_hold {l b} : (ackTake l b s).hold = s.hold := by simp [ackTake]
@[simp] theorem execAck_held {l r} (h : s.hold = true) : HeldAfter (execAck l r s) := by simp [execAck, h]
@[simp] theorem execAckTimer_held {l} (h : s.hold = true) : HeldAfter (execAckTimer l s) := by simp [execAckTimer, h]
@[simp] theorem execNak_held {l r} (h : s.hold = true) : HeldAfter (execNak l r s) := by
  unfold execNak
  exact heldAfter_next.2 (ctlIn_held (fun b u hu => countNak_held hu) h)
@[simp] theorem execLinkDelayMeasurement_held {l t} (h : s.hold = true) : HeldAfter (execLinkDelayMeasurement l t s) :=
  by simp [execLinkDelayMeasurement, h]
@[simp] theorem execDelayReq_held {l r t2 t3} (h : s.hold = true) : HeldAfter (execDelayReq l r t2 t3 s) := by simp [execDelayReq, h]
@[simp] theorem delayTake_hold {l t4 b} : (delayTake l t4 b s).hold = s.hold := by simp [delayTake]
@[simp] theorem execDelayResp_held {l head rest cw t4} (h : s.hold = true) : HeldAfter (execDelayResp l head rest cw t4 s) :=
  by simp [execDelayResp, h]
@[simp] theorem execCorrupt_held {l r} (h : s.hold = true) : HeldAfter (execCorrupt l r s) := by
  unfold execCorrupt
  exact heldAfter_next.2 (ctlIn_held (fun b u hu => fenceByFault_held hu) h)
@[simp] theorem makeHello_hold {l} : (makeHello l s).hold = s.hold := by simp [makeHello]
@[simp] theorem execLinkTrainingComplete_held {l lanesOk} (h : s.hold = true) : HeldAfter (execLinkTrainingComplete l lanesOk s) :=
  by simp [execLinkTrainingComplete, h]
@[simp] theorem execHelloRepeat_held {l} (h : s.hold = true) : HeldAfter (execHelloRepeat l s) := by simp [execHelloRepeat, h]
@[simp] theorem execHello_held {l r} (h : s.hold = true) : HeldAfter (execHello l r s) := by
  simp only [execHello]
  repeat' split
  all_goals simp [h]
@[simp] theorem execKeyed_held {l r} (h : s.hold = true) : HeldAfter (execKeyed l r s) := by
  unfold execKeyed
  split <;> simp [h]
@[simp] theorem execLaneLoss_held {l} (h : s.hold = true) : HeldAfter (execLaneLoss l s) := by simp [execLaneLoss, h]
@[simp] theorem enableLink_hold {l} : (enableLink l s).hold = s.hold := by simp [enableLink]
@[simp] theorem retrainLink_held {l} (h : s.hold = true) : (retrainLink l s).hold = true := by simp [retrainLink, h]
@[simp] theorem execDlkEnable_held {dom l} (h : s.hold = true) : HeldAfter (execDlkEnable dom l s) := by simp [execDlkEnable, h]
@[simp] theorem execDlkRetrain_held {dom l} (h : s.hold = true) : HeldAfter (execDlkRetrain dom l s) := by simp [execDlkRetrain, h]

/-! ## Machine/RegExec -/

@[simp] theorem refuseReg_hold {dom o} : (refuseReg dom o s).hold = s.hold := by simp [refuseReg]
@[simp] theorem sysWrite_hold {dom o f} (hf : (f s).hold = s.hold) : (sysWrite dom o f s).hold = s.hold := by
  unfold sysWrite
  split <;> simp [hf]
@[simp] theorem coreFault_hold {addr write} : (coreFault addr write s).hold = s.hold := by simp [coreFault]
@[simp] theorem beatCfgErr_hold : (beatCfgErr s).hold = s.hold := by simp [beatCfgErr]
@[simp] theorem beatCtrlWrite_hold {v} : (beatCtrlWrite v s).hold = s.hold := by simp [beatCtrlWrite]
@[simp] theorem beatApplyWrite_hold {v} : (beatApplyWrite v s).hold = s.hold := by simp [beatApplyWrite]
@[simp] theorem beatRegWrite_hold {o v} : (beatRegWrite o v s).hold = s.hold := by simp [beatRegWrite]
@[simp] theorem clusterRegWrite_hold {c o v} : (clusterRegWrite c o v s).hold = s.hold := by simp [clusterRegWrite]
@[simp] theorem nmuShare_hold {i n} : (nmuShare i n s).hold = s.hold := by simp [nmuShare]
@[simp] theorem nmuRegWrite_hold {i o v} : (nmuRegWrite i o v s).hold = s.hold := by simp [nmuRegWrite]
@[simp] theorem yardOutst_hold {y n} : (yardOutst y n s).hold = s.hold := by simp [yardOutst]
@[simp] theorem yardRegWrite_hold {y o v} : (yardRegWrite y o v s).hold = s.hold := by simp [yardRegWrite]
@[simp] theorem yardSplit_hold {n} : (yardSplit n s).hold = s.hold := by simp [yardSplit]
@[simp] theorem lcPart_hold {n} : (lcPart n s).hold = s.hold := by simp [lcPart]
@[simp] theorem regionTag_hold {region n} : (regionTag region n s).hold = s.hold := by simp [regionTag]
@[simp] theorem memRegWrite_hold {o v} : (memRegWrite o v s).hold = s.hold := by simp [memRegWrite]
@[simp] theorem dlkWrite_held {l n} (h : s.hold = true) : (dlkWrite l n s).hold = true := by simp [dlkWrite, h]
@[simp] theorem linkRegWrite_held {l o v} (h : s.hold = true) : (linkRegWrite l o v s).hold = true := by simp [linkRegWrite, h]
@[simp] theorem routeWrite_hold {o v} : (routeWrite o v s).hold = s.hold := by simp [routeWrite]
@[simp] theorem sapCtrlWrite_hold {p n} : (sapCtrlWrite p n s).hold = s.hold := by simp [sapCtrlWrite]
@[simp] theorem afeRegWrite_hold {o v} : (afeRegWrite o v s).hold = s.hold := by simp [afeRegWrite]
@[simp] theorem slotRegWrite_hold {dom} : (slotRegWrite dom s).hold = s.hold := by simp [slotRegWrite]
@[simp] theorem safeRegWrite_hold {o v} : (safeRegWrite o v s).hold = s.hold := by simp [safeRegWrite]
@[simp] theorem refreshCap_hold {l} : (refreshCap l s).hold = s.hold := by simp [refreshCap]
@[simp] theorem writeCap_hold {n} : (writeCap n s).hold = s.hold := by simp [writeCap]
@[simp] theorem pwrCapWrite_hold {n} : (pwrCapWrite n s).hold = s.hold := by simp [pwrCapWrite]
@[simp] theorem powerRegWrite_hold {o v} : (powerRegWrite o v s).hold = s.hold := by simp [powerRegWrite]
@[simp] theorem gpioWrite_hold {n} : (gpioWrite n s).hold = s.hold := by simp [gpioWrite]
@[simp] theorem regEffect_held {o v} (h : s.hold = true) : (regEffect o v s).hold = true := by
  unfold regEffect
  simp [h]
@[simp] theorem blockWrite_hold {a v} : (blockWrite a v s).hold = s.hold := by
  unfold blockWrite
  dsimp only
  split <;> rfl
@[simp] theorem regWrite_held {dom addr v} (h : s.hold = true) : (regWrite dom addr v s).hold = true := by
  simp only [regWrite]
  repeat' split
  all_goals simp [h]
@[simp] theorem execNmuShareWrite_held {dom i v} (h : s.hold = true) : HeldAfter (execNmuShareWrite dom i v s) :=
  by simp [execNmuShareWrite, h]
@[simp] theorem execYardOutstWrite_held {dom y v} (h : s.hold = true) : HeldAfter (execYardOutstWrite dom y v s) :=
  by simp [execYardOutstWrite, h]
@[simp] theorem execYardSplitWrite_held {dom v} (h : s.hold = true) : HeldAfter (execYardSplitWrite dom v s) :=
  by simp [execYardSplitWrite, h]
@[simp] theorem execLcPartWrite_held {dom v} (h : s.hold = true) : HeldAfter (execLcPartWrite dom v s) := by simp [execLcPartWrite, h]
@[simp] theorem execRegionTagWrite_held {dom region v} (h : s.hold = true) : HeldAfter (execRegionTagWrite dom region v s) :=
  by simp [execRegionTagWrite, h]
@[simp] theorem execPwrCapWrite_held {dom v} (h : s.hold = true) : HeldAfter (execPwrCapWrite dom v s) := by simp [execPwrCapWrite, h]
@[simp] theorem execGpioCtrlWrite_held {dom v} (h : s.hold = true) : HeldAfter (execGpioCtrlWrite dom v s) := by simp [execGpioCtrlWrite, h]
@[simp] theorem execBeatApplyWrite_held {dom v} (h : s.hold = true) : HeldAfter (execBeatApplyWrite dom v s) :=
  by simp [execBeatApplyWrite, h]
@[simp] theorem execRegisterWrite_held {dom addr v} (h : s.hold = true) : HeldAfter (execRegisterWrite dom addr v s) :=
  by simp [execRegisterWrite, h]
@[simp] theorem execAccessFault_held {core addr write} (h : s.hold = true) : HeldAfter (execAccessFault core addr write s) :=
  by simp [execAccessFault, h]
@[simp] theorem execErrorInterrupt_held {unit} (h : s.hold = true) : HeldAfter (execErrorInterrupt unit s) :=
  by simp [execErrorInterrupt, h]

/-! ## Machine/BeatExec -/

@[simp] theorem execBeatInEdge_held {t} (h : s.hold = true) : HeldAfter (execBeatInEdge t s) := by simp [execBeatInEdge, h]
@[simp] theorem execBeatInTimeout_held (h : s.hold = true) : HeldAfter (execBeatInTimeout s) := by simp [execBeatInTimeout, h]
@[simp] theorem execBeatEnable_held {dom t} (h : s.hold = true) : HeldAfter (execBeatEnable dom t s) := by simp [execBeatEnable, h]
@[simp] theorem sendCopies_hold {links mk} : (sendCopies links mk s).hold = s.hold := by simp [sendCopies]
@[simp] theorem sendMarkers_hold {links mk} : (sendMarkers links mk s).hold = s.hold := by simp [sendMarkers]
@[simp] theorem execMarkerSend_held {t} (h : s.hold = true) : HeldAfter (execMarkerSend t s) := by
  simp only [execMarkerSend]
  repeat' split
  all_goals simp [h]
@[simp] theorem markerTake_hold {l mk t} : (markerTake l mk t s).hold = s.hold := by simp [markerTake]
@[simp] theorem markerGot_hold {l t mk} : (markerGot l t mk s).hold = s.hold := by simp [markerGot]
@[simp] theorem execMarkerReceive_held {l r t} (h : s.hold = true) : HeldAfter (execMarkerReceive l r t s) := by simp [execMarkerReceive, h]
@[simp] theorem execMarkerMissing_held (h : s.hold = true) : HeldAfter (execMarkerMissing s) := by simp [execMarkerMissing, h]

/-! ## Machine/ModelExec -/

@[simp] theorem dropTset_hold {i} : (dropTset i s).hold = s.hold := by simp [dropTset]
@[simp] theorem tsetCreate_hold {m} : (tsetCreate m s).1.hold = s.hold := by
  unfold tsetCreate
  refine checked_hold ?_
  split
  · rfl
  · dsimp only
    split
    · next h => exact (placeStripe_hold _ h).trans rfl
    · rfl
@[simp] theorem execTsetCreate_held {m} (h : s.hold = true) : HeldAfter (execTsetCreate m s) := by simp [execTsetCreate, h]
@[simp] theorem tsetDestroy_hold {m} : (tsetDestroy m s).1.hold = s.hold := by simp [tsetDestroy]
@[simp] theorem execTsetDestroy_held {m} (h : s.hold = true) : HeldAfter (execTsetDestroy m s) := by simp [execTsetDestroy, h]
@[simp] theorem execTsetDestroyComplete_held {i} (h : s.hold = true) : HeldAfter (execTsetDestroyComplete i s) := by
  unfold execTsetDestroyComplete
  split <;> simp [h]
@[simp] theorem modelLoad_hold {m pkg} : (modelLoad m pkg s).1.hold = s.hold := by simp [modelLoad]
@[simp] theorem execModelLoad_held {m pkg} (h : s.hold = true) : HeldAfter (execModelLoad m pkg s) := by simp [execModelLoad, h]
@[simp] theorem writePrograms_hold {m} : (writePrograms m s).hold = s.hold := foldl_hold fun _ _ => rfl
theorem placeRotary_hold {owner dom stks k} : OptAll (fun q => q.2.hold = s.hold) (placeRotary owner dom stks k s) := by
  unfold placeRotary
  split
  · exact optAll_some rfl
  · exact optAll_foldl_of_step rfl fun o p h =>
      optAll_bind (optAll_mono h fun q hq => optAll_map (optAll_mono placeStripe_hold fun r hr => hr.trans hq))
@[simp] theorem setExp_hold {model h1} : (setExp model h1 s).hold = s.hold := by simp [setExp]
@[simp] theorem dropLoad_hold {i} : (dropLoad i s).hold = s.hold := by simp [dropLoad]
@[simp] theorem relayAgain_hold : (relayAgain s).hold = s.hold := by simp [relayAgain]
@[simp] theorem execModelLoadComplete_held {client mbox} (h : s.hold = true) : HeldAfter (execModelLoadComplete client mbox s) := by
  unfold execModelLoadComplete
  rw [heldAfter_next]
  split
  · exact h
  · dsimp only
    split
    · exact h
    · split
      · split
        · simp [h]
        · next hq =>
          have hplaced := optAll_bind (P := fun q => q.2.2.hold = _) (optAll_mono placeModel_hold fun q hq =>
            optAll_map (optAll_mono placeRotary_hold fun t ht => ht.trans hq)) _ hq
          simp [hplaced, h]
      · simp [h]
      · simp [h]
@[simp] theorem modelSetTables_hold {m} : (modelSetTables m s).1.hold = s.hold := by simp [modelSetTables]
@[simp] theorem execModelSetTables_held {m} (h : s.hold = true) : HeldAfter (execModelSetTables m s) := by simp [execModelSetTables, h]
@[simp] theorem switchTables_hold : (switchTables s).hold = s.hold := by
  refine foldl_hold fun s _ => ?_
  split <;> simp
@[simp] theorem modelUnload_hold {m} : (modelUnload m s).1.hold = s.hold := by simp [modelUnload]
@[simp] theorem execModelUnload_held {m} (h : s.hold = true) : HeldAfter (execModelUnload m s) := by simp [execModelUnload, h]
@[simp] theorem dropTree_hold {p} : (dropTree p s).hold = s.hold := by
  unfold dropTree
  refine (foldl_hold fun s n => ?_).trans rfl
  dsimp only
  split <;> simp
@[simp] theorem finishUnload_hold {i} : (finishUnload i s).hold = s.hold := by
  unfold finishUnload
  split
  · rfl
  · simp only [ite_hold, State.retire_hold, foldl_hold fun _ _ => State.onSkid_hold, dropLoad_hold, State.onPlan_hold, State.onNmus_hold,
      foldl_hold fun _ _ => State.onCluster_hold, releaseHeld_hold, dropTree_hold, ite_self]
    refine foldl_hold fun s o => ?_
    split <;> simp
@[simp] theorem unloadTick_hold : (unloadTick s).hold = s.hold := by simp [unloadTick]

/-! ## Machine/NmuExec -/

@[simp] theorem actTouch_hold {k dom l} {p0} : (actTouch k dom l p0).1.hold = p0.1.hold := by
  refine foldl_fst_hold fun p r => ?_
  split <;> simp
@[simp] theorem nmuWrite_hold {k dom o l} : (nmuWrite k dom o l s).hold = s.hold := by simp [nmuWrite]
@[simp] theorem nmuTouch_hold {k dom l} : (nmuTouch k dom l s).1.hold = s.hold := by
  refine foldl_fst_hold fun p r => ?_
  dsimp only
  repeat' split
  all_goals simp
@[simp] theorem useFree_hold {b} : (useFree b s).hold = s.hold := by
  unfold useFree
  split <;> rfl
@[simp] theorem setMerge_hold {m} : (setMerge m s).hold = s.hold := by simp [setMerge]
@[simp] theorem mergeWrite_hold {m} : (mergeWrite m s).hold = s.hold := by
  unfold mergeWrite
  split <;> simp
@[simp] theorem mergeRun_hold {slot} : (mergeRun slot s).hold = s.hold := by
  unfold mergeRun
  split <;> simp
@[simp] theorem mergeInvalid_hold {st m} : (mergeInvalid st m s).hold = s.hold := by rfl
@[simp] theorem mergeTake_hold {slot src d} : (mergeTake slot src d s).hold = s.hold := by
  unfold mergeTake
  split <;> simp
@[simp] theorem execMergeContribution_held {slot src d} (h : s.hold = true) : HeldAfter (execMergeContribution slot src d s) :=
  by simp [execMergeContribution, h]
@[simp] theorem execMergeDeadline_held {slot} (h : s.hold = true) : HeldAfter (execMergeDeadline slot s) := by
  simp only [execMergeDeadline]
  repeat' split
  all_goals simp [h]
@[simp] theorem nmuBad_held {e k f} (h : s.hold = true) : (nmuBad e k f s).hold = true := by simp [nmuBad, h]
@[simp] theorem execGemv_held {k w0 sym} (h : s.hold = true) : HeldAfter (execGemv k w0 sym s) := by
  simp only [execGemv]
  repeat' split
  all_goals simp [h]
@[simp] theorem scoreWrite_hold {k off l} : (scoreWrite k off l s).hold = s.hold := by simp [scoreWrite]
@[simp] theorem scoreTouch_hold {k write w} {p0} : (scoreTouch k write w p0).1.hold = p0.1.hold := by simp [scoreTouch]
@[simp] theorem execAttScore_held {k w0 sym} (h : s.hold = true) : HeldAfter (execAttScore k w0 sym s) := by
  simp only [execAttScore]
  repeat' split
  all_goals simp [h]
@[simp] theorem execAttValue_held {k w0 sym} (h : s.hold = true) : HeldAfter (execAttValue k w0 sym s) := by
  simp only [execAttValue]
  repeat' split
  all_goals simp [h]
@[simp] theorem execKvput_held {k w0 sym} (h : s.hold = true) : HeldAfter (execKvput k w0 sym s) := by
  simp only [execKvput]
  repeat' split
  all_goals simp_all
@[simp] theorem execKvseal_held {k w0 sym} (h : s.hold = true) : HeldAfter (execKvseal k w0 sym s) := by
  simp only [execKvseal]
  split
  · exact heldAfter_next.2 h
  · split
    · exact heldAfter_next.2 (nmuBad_held h)
    · refine heldAfter_next.2 (planDone_held ?_)
      rw [ite_hold, invalidPage_hold, ite_self]
      simp [h]

end Sys2Proof.Machine
end

section
/-! SUPPORT. What leaves the latched hold as it is (R515): sessions and stop-words. -/

namespace Sys2Proof.Machine

variable {s : State}

/-! ## Machine/SessOps -/

theorem backSet_hold {owner i} : OptAll (fun t => t.hold = s.hold) (backSet owner i s) := by
  unfold backSet
  split
  · exact optAll_some rfl
  · split
    · exact optAll_some rfl
    · split
      · exact optAll_some rfl
      · refine optAll_map (optAll_mono (optAll_foldl_of_step (P := fun t => t.hold = s.hold) rfl fun o x h =>
          optAll_bind (optAll_mono h fun t ht => ?_))
          fun t ht => writeTrailers_hold.trans (releaseHeld_hold.trans ht))
        dsimp only
        split
        · split
          · exact optAll_some ht
          · exact optAll_map (optAll_mono State.takeFrame_hold fun q hq => State.onSet_hold.trans (copyMem_hold.trans (hq.trans ht)))
        · exact optAll_some ht
theorem backPages_hold {x} : OptAll (fun t => t.hold = s.hold) (backPages x s) :=
  optAll_foldl_of_step rfl fun _ _ h => optAll_bind (optAll_mono h fun _ ht => optAll_mono backSet_hold fun _ hq => hq.trans ht)
@[simp] theorem moveSetOut_hold {owner i} : (moveSetOut owner i s).hold = s.hold := by
  simp only [moveSetOut]
  repeat' split
  all_goals simp
@[simp] theorem publishFrom_hold {x m l p parent prev last} : (publishFrom x m l p parent prev last s).2.hold = s.hold := by
  induction l generalizing p parent prev last s with
  | nil => rfl
  | cons f r ih =>
    unfold publishFrom
    dsimp only
    split
    · rfl
    · rw [ih, writeTrailers_hold]
      rfl
@[simp] theorem takeSnapshot_hold {x node} : (takeSnapshot x node s).hold = s.hold := by
  unfold takeSnapshot
  split
  · rfl
  · split
    · rfl
    · next hnew =>
      have hn := newObj_hold _ hnew
      split
      · exact hn
      · simpa using hn
@[simp] theorem reuseCopy_hold {b} : (reuseCopy b s).hold = s.hold := by
  simp only [reuseCopy]
  repeat' split
  all_goals simp
@[simp] theorem publish_hold {i} : (publish i s).hold = s.hold := by
  simp only [publish]
  repeat' split
  all_goals simp
@[simp] theorem setOwnerOf_hold {h0 owner} : (setOwnerOf h0 owner s).hold = s.hold := by simp [setOwnerOf]
@[simp] theorem disown_hold {i x} : (disown i x s).hold = s.hold := by
  refine foldl_hold fun s _ => ?_
  repeat' split
  all_goals simp
@[simp] theorem finishClose_hold {i} : (finishClose i s).hold = s.hold := by
  unfold finishClose
  split <;> simp
@[simp] theorem releaseSession_hold {x h1} : (releaseSession x h1 s).hold = s.hold := by simp [releaseSession]

/-! ## Machine/RunExec -/

@[simp] theorem State.onTally_hold {client f} : (State.onTally client f s).hold = s.hold := by simp [State.onTally]
@[simp] theorem State.onCmd_hold {id f} : (State.onCmd id f s).hold = s.hold := by simp [State.onCmd]
@[simp] theorem dateDone_held {now c} (h : s.hold = true) : (dateDone now c s).hold = true := by simp [dateDone, h]
@[simp] theorem endParts_hold {e} : (endParts e s).hold = s.hold := by
  refine (foldl_hold fun s b => ?_).trans rfl
  split <;> simp
@[simp] theorem boundary_held {e now} (h : s.hold = true) : (boundary e now s).hold = true := by
  simp only [boundary]
  repeat' split
  all_goals simp_all
@[simp] theorem activateBank_hold {c set} : (activateBank c set s).hold = s.hold := by simp [activateBank]
@[simp] theorem putList_hold {k c} : (putList k c s).hold = s.hold := by
  unfold putList
  refine foldl_hold fun t p => ?_
  split
  · exact clearPoison_hold.trans rfl
  · rfl
@[simp] theorem engineStart_held {c} (h : s.hold = true) : (engineStart c s).hold = true := by
  unfold engineStart
  split
  · have hstream : ∀ i l, (unicast i l (resumeStreams l (discardFor i l
      (if fld (fit 32 c.t.word) 0 1 = 1 ∧ arrWordFail (fit 32 c.t.word) = none then
        s.onCluster i (fun k => { k with arr := { k.arr with curMode := BitVec.ofNat 2 (arrMode (fit 32 c.t.word)) } }) else s)))).hold = true := by
      intro i l
      refine unicast_held (resumeStreams_held (discardFor_hold.trans ?_))
      split <;> exact h
    dsimp only
    split
    · exact activateBank_hold.trans (hstream _ _)
    · exact hstream _ _
  · dsimp only
    split
    · exact h
    · split
      · next hp => exact (popFor_hold _ hp).trans h
      · exact h
  · split
    · exact h
    · exact putList_hold.trans h
  · exact h
@[simp] theorem preemption_hold {now c} : (preemption now c s).hold = s.hold := by
  simp only [preemption]
  repeat' split
  all_goals simp
@[simp] theorem startCmd_held {now c} (h : s.hold = true) : (startCmd now c s).hold = true := by
  simp only [startCmd]
  repeat' split
  all_goals simp [h]
@[simp] theorem contextFree_held {e} (h : s.hold = true) : (contextFree e s).hold = true := by
  simp only [contextFree]
  repeat' split
  all_goals simp [h]
@[simp] theorem execCommandStart_held {e t} (h : s.hold = true) : HeldAfter (execCommandStart e t s) := by
  unfold execCommandStart
  have h1 : ∀ now, (contextFree e (boundary e now (s.onBeat (fun b => { b with clock := max b.clock now })))).hold = true :=
    fun now => contextFree_held (boundary_held h)
  rw [heldAfter_next]
  split
  · exact h
  · dsimp only
    split
    · exact startCmd_held (h1 _)
    · exact h1 _
@[simp] theorem overrunNow_hold : (overrunNow s).hold = s.hold := by simp [overrunNow]
@[simp] theorem engineFault_held {e} (h : s.hold = true) : (engineFault e s).hold = true := by
  unfold engineFault
  split <;> simp [h]
@[simp] theorem doubleFault_held {now} (h : s.hold = true) : (doubleFault now s).hold = true := by
  have hfold : ∀ l : List Engine, (l.foldl (fun (s : State) e => engineFault e s) (s.onPlan (fun p => { p with incomplete := now }))).hold = true :=
    fun l => foldl_held (fun s e h => engineFault_held h) h
  unfold doubleFault
  dsimp only
  split
  · exact computeResetTo_held (hfold _)
  · exact hfold _
@[simp] theorem execExecWindowEnd_held (h : s.hold = true) : HeldAfter (execExecWindowEnd s) := by
  unfold execExecWindowEnd
  rw [heldAfter_next]
  split
  · exact h
  · dsimp only
    split
    · exact h
    · refine doubleFault_held (overrunNow_hold.trans (foldl_held (fun s c => affectWork_held) ?_))
      exact abandonCmds_held h
@[simp] theorem closeBackground_hold : (closeBackground s).hold = s.hold := by simp [closeBackground]
@[simp] theorem execKerfStart_held (h : s.hold = true) : HeldAfter (execKerfStart s) := by simp [execKerfStart, h]
@[simp] theorem execWatchdogTrip_held {e} (h : s.hold = true) : HeldAfter (execWatchdogTrip e s) := by simp [execWatchdogTrip, h]

/-! ## Machine/SessExec -/

@[simp] theorem sessionOpen_hold {m} : (sessionOpen m s).1.hold = s.hold := by
  unfold sessionOpen
  refine checked_hold ?_
  split <;> simp
@[simp] theorem execSessionOpen_held {m} (h : s.hold = true) : HeldAfter (execSessionOpen m s) := by simp [execSessionOpen, h]
@[simp] theorem sessionClose_hold {m} : (sessionClose m s).1.hold = s.hold := by
  unfold sessionClose
  refine checked_hold ?_
  split <;> simp
@[simp] theorem execSessionClose_held {m} (h : s.hold = true) : HeldAfter (execSessionClose m s) := by simp [execSessionClose, h]
@[simp] theorem withPages_hold {m op n body} (hbody : (body s).1.hold = s.hold) : (withPages m op n body s).1.hold = s.hold := by
  unfold withPages
  dsimp only
  split
  · split
    · split <;> simp
    · exact hbody
  · exact hbody
@[simp] theorem attachNodes_hold {i l} : (attachNodes i l s).hold = s.hold := by simp [attachNodes]
@[simp] theorem startPrefill_hold {m x k ids} : (startPrefill m x k ids s).hold = s.hold := by
  simp only [startPrefill]
  repeat' split
  all_goals simp
@[simp] theorem prefillMsg_hold {m} : (prefillMsg m s).1.hold = s.hold := by
  simp only [prefillMsg]
  repeat' split
  all_goals simp
@[simp] theorem execPrefill_held {m} (h : s.hold = true) : HeldAfter (execPrefill m s) := by simp [execPrefill, h]
@[simp] theorem execPrefillComplete_held {i status0} (h : s.hold = true) : HeldAfter (execPrefillComplete i status0 s) := by
  simp only [execPrefillComplete]
  repeat' split
  all_goals simp_all
@[simp] theorem execReusePointReady_held {node} (h : s.hold = true) : HeldAfter (execReusePointReady node s) :=
  by simp [execReusePointReady, h]
@[simp] theorem reuseTick_hold : (reuseTick s).hold = s.hold := by simp [reuseTick]
@[simp] theorem decodeStart_hold {m} : (decodeStart m s).1.hold = s.hold := by simp [decodeStart]
@[simp] theorem execDecodeStart_held {m} (h : s.hold = true) : HeldAfter (execDecodeStart m s) := by simp [execDecodeStart, h]
@[simp] theorem decodeStop_hold {m} : (decodeStop m s).1.hold = s.hold := by
  unfold decodeStop
  refine checked_hold ?_
  repeat' split
  all_goals simp
@[simp] theorem execDecodeStop_held {m} (h : s.hold = true) : HeldAfter (execDecodeStop m s) := by simp [execDecodeStop, h]
@[simp] theorem sessionFork_hold {m} : (sessionFork m s).1.hold = s.hold := by
  unfold sessionFork
  refine checked_hold ?_
  split
  · rfl
  · simp only [startRing_hold, setOwnerOf_hold, State.onCtrl_hold]
    exact (foldl_hold fun _ _ => State.onSet_hold).trans State.issue_hold
@[simp] theorem execSessionFork_held {m} (h : s.hold = true) : HeldAfter (execSessionFork m s) := by simp [execSessionFork, h]
@[simp] theorem sessionQuery_hold {m} : (sessionQuery m s).1.hold = s.hold := by simp [sessionQuery]
@[simp] theorem execSessionQuery_held {m} (h : s.hold = true) : HeldAfter (execSessionQuery m s) := by simp [execSessionQuery, h]
@[simp] theorem execPageMoveComplete_held {i p} (h : s.hold = true) : HeldAfter (execPageMoveComplete i p s) := by
  simp only [execPageMoveComplete]
  repeat' split
  all_goals simp [h]
@[simp] theorem moveTick_hold : (moveTick s).hold = s.hold := by simp [moveTick]
@[simp] theorem checkNow_hold {b} : (checkNow b s).hold = s.hold := by
  simp only [checkNow]
  repeat' split
  all_goals simp
@[simp] theorem execPageMoveBackComplete_held {i} (h : s.hold = true) : HeldAfter (execPageMoveBackComplete i s) := by
  unfold execPageMoveBackComplete
  rw [heldAfter_next]
  split
  · dsimp only
    split
    · exact h
    · split
      · simp [h]
      · next hb => simp [backPages_hold _ hb, h]
  · exact h
@[simp] theorem writeToken_hold {i x1} : (writeToken i x1 s).hold = s.hold := by
  unfold writeToken
  split <;> simp
@[simp] theorem execTokenRecordWrite_held {i token status} (h : s.hold = true) : HeldAfter (execTokenRecordWrite i token status s) := by
  simp only [execTokenRecordWrite]
  repeat' split
  all_goals simp [h]
@[simp] theorem execTelemetryWrite_held {client} (h : s.hold = true) : HeldAfter (execTelemetryWrite client s) := by
  unfold execTelemetryWrite
  split <;> simp [h]
@[simp] theorem readRings_hold : (readRings s).hold = s.hold := by simp [readRings]
@[simp] theorem publishTick_hold : (publishTick s).hold = s.hold := by simp [publishTick]
@[simp] theorem closeTick_hold : (closeTick s).hold = s.hold := by simp [closeTick]

/-! ## Machine/StopExec -/

@[simp] theorem stopwordStart_hold {m} : (stopwordStart m s).1.hold = s.hold := by simp [stopwordStart]
@[simp] theorem execStopwordStart_held {m} (h : s.hold = true) : HeldAfter (execStopwordStart m s) := by simp [execStopwordStart, h]
@[simp] theorem stopwordStop_held {m} (h : s.hold = true) : (stopwordStop m s).1.hold = true := by
  simp only [stopwordStop]
  repeat' split
  all_goals simp [h]
@[simp] theorem execStopwordStop_held {m} (h : s.hold = true) : HeldAfter (execStopwordStop m s) := by
  unfold execStopwordStop
  exact heldAfter_next.2 (withMsg_held (fun u hu => stopwordStop_held hu) h)
@[simp] theorem stopTick_held (h : s.hold = true) : (stopTick s).hold = true := by
  unfold stopTick
  dsimp only
  split
  · exact assertHold_hold
  · refine foldl_held (fun s w h => ?_) h
    split
    · rw [completeOwned_hold, ite_hold, completeOwned_hold, ite_self]
      exact h
    · rw [ite_hold, completeOwned_hold, ite_self]
      exact h

end Sys2Proof.Machine
end

section
/-! SUPPORT. What leaves the latched hold as it is (R515): the plan, power and the tick. -/

namespace Sys2Proof.Machine

variable {s : State}

/-! ## Machine/PlanExec -/

@[simp] theorem markResv_hold {r susp} : (markResv r susp s).hold = s.hold := by simp [markResv]
@[simp] theorem endPending_hold {st i} : (endPending st i s).hold = s.hold := by
  unfold endPending
  split <;> simp
@[simp] theorem endRecord_hold {last st i} : (endRecord last st i s).hold = s.hold := by
  unfold endRecord
  split <;> simp
@[simp] theorem suspendResv_hold {r} : (suspendResv r s).hold = s.hold := by
  unfold suspendResv
  split <;> simp
@[simp] theorem resumeResv_hold {r} : (resumeResv r s).hold = s.hold := by
  unfold resumeResv
  split <;> simp
@[simp] theorem suspendUntil_hold {cfg x1} : (suspendUntil cfg x1 s).hold = s.hold := by
  fun_induction suspendUntil <;> simp_all
@[simp] theorem resumeAll_hold {cfg} : (resumeAll cfg s).hold = s.hold := by simp [resumeAll]
@[simp] theorem restoreFit_hold {cfg} : (restoreFit cfg s).hold = s.hold := by simp [restoreFit]
@[simp] theorem reclaimStack_hold {k x1} {p0} : (reclaimStack k x1 p0).1.hold = p0.1.hold := by
  fun_induction reclaimStack <;> simp_all
@[simp] theorem reclaimAll_hold : (reclaimAll s).1.hold = s.hold := by simp [reclaimAll]
@[simp] theorem growPages_hold {i layers x2} : (growPages i layers x2 s).hold = s.hold := by
  induction x2 generalizing s with
  | zero => rfl
  | succ n ih =>
    unfold growPages
    split <;> simp [ih]
@[simp] theorem assignPages_hold {i pages} : (assignPages i pages s).hold = s.hold := by
  refine foldl_hold fun s _ => ?_
  repeat' split
  all_goals simp
@[simp] theorem limitContexts_hold : (limitContexts s).hold = s.hold := by simp [limitContexts]
@[simp] theorem holdStep_hold {i} : (holdStep i s).hold = s.hold := by simp [holdStep]
@[simp] theorem holdToken_hold {i} : (holdToken i s).hold = s.hold := by
  unfold holdToken
  split <;> simp
@[simp] theorem stepOne_hold {i} {p0} : (stepOne i p0).1.hold = p0.1.hold := by
  simp only [stepOne]
  repeat' split
  all_goals simp
theorem twinSet_hold {f} : OptAll (fun q => q.1.hold = s.hold) (twinSet f s) := by
  unfold twinSet
  split
  · exact optAll_none
  · refine optAll_map (optAll_foldl_of_step (P := fun t : State => t.hold = s.hold) ?_ fun o x h =>
      optAll_bind (optAll_mono h fun t ht => optAll_map (optAll_mono State.takeFrame_hold fun q hq => ?_)))
    · exact newSet_hold
    · exact State.onSet_hold.trans (hq.trans ht)
theorem takeTwins_hold {l out q} (h : takeTwins l s out = .inr q) : q.1.hold = s.hold := by
  induction l generalizing s out with
  | nil => cases h; rfl
  | cons i r ih =>
    unfold takeTwins at h
    split at h
    · exact ih h
    · split at h
      · cases h
      · next hq => exact (ih h).trans (twinSet_hold _ hq)
@[simp] theorem holdWriter_hold {i} : (holdWriter i s).hold = s.hold := by simp [holdWriter]
@[simp] theorem copyWriters_hold {n l} : (copyWriters n l s).1.hold = s.hold := by
  induction n generalizing l s with
  | zero => rfl
  | succ n ih =>
    unfold copyWriters
    split
    · next h => exact takeTwins_hold h
    · simp [ih]
@[simp] theorem planSteps_hold : (planSteps s).1.hold = s.hold := by simp [planSteps]
@[simp] theorem readyPart_hold {i layers first count named l} : (readyPart i layers first count named l s).1.hold = s.hold := by
  induction l generalizing s with
  | nil => rfl
  | cons t r ih =>
    unfold readyPart
    split
    · exact ih
    · dsimp only
      split
      · split <;> simp [ih]
      · simp [ih]
@[simp] theorem prefillOne_hold {beat cfg barred b} {p0} : (prefillOne beat cfg barred p0 b).1.hold = p0.1.hold := by
  unfold prefillOne
  split
  · rfl
  · dsimp only
    split
    · rfl
    · split
      · rfl
      · next h =>
        have hback := backPages_hold _ h
        split
        · split <;> simp [hback]
        · split <;> simp [hback]
@[simp] theorem prefills_hold {beat cfg barred l cows} : (prefills beat cfg barred s l cows).1.hold = s.hold := by simp [prefills]
@[simp] theorem composeCmds_hold {beat cfg n steps pre barred} : (composeCmds beat cfg n s steps pre barred).1.hold = s.hold := by
  induction n generalizing s steps pre barred with
  | zero => rfl
  | succ n ih =>
    unfold composeCmds
    dsimp only
    split
    · simp [ih]
    · simp
    · split <;> simp [ih]
@[simp] theorem composeNow_hold : (composeNow s).hold = s.hold := by
  unfold composeNow
  dsimp only
  split <;> simp
@[simp] theorem compose_held (h : s.hold = true) : (compose s).hold = true := by simp [compose, h]
@[simp] theorem execPlanCompose_held (h : s.hold = true) : HeldAfter (execPlanCompose s) := by simp [execPlanCompose, h]

/-! ## Machine/PowerExec -/

@[simp] theorem darkTo_hold {mode} : (darkTo mode s).hold = s.hold := by rfl
@[simp] theorem powerFailSeq_held {cause vin pin} : (powerFailSeq cause vin pin s).hold = true := by simp [powerFailSeq]
@[simp] theorem startUp_held (h : s.hold = true) : (startUp s).hold = true := by simp [startUp, h]
@[simp] theorem execPowerUp_held {vin} (h : s.hold = true) : HeldAfter (execPowerUp vin s) := by simp [execPowerUp, h]
@[simp] theorem execPowerFail_held {vin pin} (h : s.hold = true) : HeldAfter (execPowerFail vin pin s) := by simp [execPowerFail, h]
@[simp] theorem execProtectiveShed_held {vin pin} (h : s.hold = true) : HeldAfter (execProtectiveShed vin pin s) :=
  by simp [execProtectiveShed, h]
@[simp] theorem execVinBrownout_held {vin} (h : s.hold = true) : HeldAfter (execVinBrownout vin s) := by simp [execVinBrownout, h]
@[simp] theorem thermalStep_hold {hot} : (thermalStep hot s).hold = s.hold := by simp [thermalStep]
@[simp] theorem execThermalCapStep_held {temps} (h : s.hold = true) : HeldAfter (execThermalCapStep temps s) :=
  by simp [execThermalCapStep, h]
@[simp] theorem execModelHigh_held {measured} (h : s.hold = true) : HeldAfter (execModelHigh measured s) := by simp [execModelHigh, h]
@[simp] theorem execBbCommit_held (h : s.hold = true) : HeldAfter (execBbCommit s) := by simp [execBbCommit, h]
@[simp] theorem refreshBlock_hold {b} : (refreshBlock b s).hold = s.hold := by
  unfold refreshBlock
  split <;> simp
@[simp] theorem execNorRefresh_held {corrections} (h : s.hold = true) : HeldAfter (execNorRefresh corrections s) :=
  by simp [execNorRefresh, h]
@[simp] theorem execMrstNPulse_held {ns} (h : s.hold = true) : HeldAfter (execMrstNPulse ns s) := by simp [execMrstNPulse, h]
@[simp] theorem execModuleReset_held {cause} (h : s.hold = true) : HeldAfter (execModuleReset cause s) := by simp [execModuleReset, h]
@[simp] theorem execWarmReset_held {cause} (h : s.hold = true) : HeldAfter (execWarmReset cause s) := by simp [execWarmReset, h]
@[simp] theorem execComputeReset_held {cause} (h : s.hold = true) : HeldAfter (execComputeReset cause s) := by simp [execComputeReset, h]
@[simp] theorem execRefclkWithinLimits_held {ms} (h : s.hold = true) : HeldAfter (execRefclkWithinLimits ms s) :=
  by simp [execRefclkWithinLimits, h]
@[simp] theorem stateRec_hold {old new} : (stateRec old new s).hold = s.hold := by simp [stateRec]
@[simp] theorem enterStandby_hold : (enterStandby s).hold = true := by
  simp only [enterStandby, State.hold]
  rw [State.safe_hold, assertHold_hold]
@[simp] theorem leaveStandby_hold : (leaveStandby s).hold = s.hold := by rfl
@[simp] theorem enterSleep_held : (enterSleep s).hold = true := by simp [enterSleep]
@[simp] theorem takeWanted_held (h : s.hold = true) : (takeWanted s).hold = true := by
  unfold takeWanted
  split <;> simp [h]
@[simp] theorem askState_held {m} (h : s.hold = true) : (askState m s).hold = true := by simp [askState, h]
@[simp] theorem execPowerStateStandby_held (h : s.hold = true) : HeldAfter (execPowerStateStandby s) := by simp [execPowerStateStandby, h]
@[simp] theorem execPowerStateSleep_held (h : s.hold = true) : HeldAfter (execPowerStateSleep s) := by simp [execPowerStateSleep, h]
@[simp] theorem execPowerStateActive_held (h : s.hold = true) : HeldAfter (execPowerStateActive s) := by
  simp only [execPowerStateActive]
  repeat' split
  all_goals simp [h]
@[simp] theorem pmbus_hold {bytes} : (pmbus bytes s).hold = s.hold := by simp [pmbus]
@[simp] theorem pmbusCml_hold : (pmbusCml s).hold = s.hold := by simp [pmbusCml]
@[simp] theorem execOperationOn_held (h : s.hold = true) : HeldAfter (execOperationOn s) := by simp [execOperationOn, h]
@[simp] theorem execOperationOff_held (h : s.hold = true) : HeldAfter (execOperationOff s) := by simp [execOperationOff, h]
@[simp] theorem execClearFaults_held (h : s.hold = true) : HeldAfter (execClearFaults s) := by simp [execClearFaults, h]
@[simp] theorem execStatusWord_held (h : s.hold = true) : HeldAfter (execStatusWord s) := by simp [execStatusWord, h]
@[simp] theorem execStatusInput_held (h : s.hold = true) : HeldAfter (execStatusInput s) := by simp [execStatusInput, h]
@[simp] theorem execStatusTemperature_held (h : s.hold = true) : HeldAfter (execStatusTemperature s) := by simp [execStatusTemperature, h]
@[simp] theorem execReadVin_held (h : s.hold = true) : HeldAfter (execReadVin s) := by simp [execReadVin, h]
@[simp] theorem execReadIin_held (h : s.hold = true) : HeldAfter (execReadIin s) := by simp [execReadIin, h]
@[simp] theorem execReadPin_held (h : s.hold = true) : HeldAfter (execReadPin s) := by simp [execReadPin, h]
@[simp] theorem execReadTemperature1_held (h : s.hold = true) : HeldAfter (execReadTemperature1 s) := by simp [execReadTemperature1, h]
@[simp] theorem execPmbusRevision_held (h : s.hold = true) : HeldAfter (execPmbusRevision s) := by simp [execPmbusRevision, h]
@[simp] theorem execPmbusUnsupported_held {code} (h : s.hold = true) : HeldAfter (execPmbusUnsupported code s) :=
  by simp [execPmbusUnsupported, h]
@[simp] theorem execMfrPowerCap_held {write} (h : s.hold = true) : HeldAfter (execMfrPowerCap write s) := by
  simp only [execMfrPowerCap]
  repeat' split
  all_goals simp [h]
@[simp] theorem execMfrResetWarm_held (h : s.hold = true) : HeldAfter (execMfrResetWarm s) := by simp [execMfrResetWarm, h]
@[simp] theorem execMfrResetModule_held (h : s.hold = true) : HeldAfter (execMfrResetModule s) := by simp [execMfrResetModule, h]
@[simp] theorem execMfrResetCompute_held (h : s.hold = true) : HeldAfter (execMfrResetCompute s) := by simp [execMfrResetCompute, h]
@[simp] theorem execMfrBbRead_held {off} (h : s.hold = true) : HeldAfter (execMfrBbRead off s) := by simp [execMfrBbRead, h]

/-! ## Machine/TickExec -/

@[simp] theorem applyTopo_hold {n} : (applyTopo n s).hold = s.hold := by
  unfold applyTopo
  split <;> simp
@[simp] theorem chainTimeout_hold {n} : (chainTimeout n s).hold = s.hold := by
  unfold chainTimeout
  split <;> simp
@[simp] theorem tickBeat_hold {n t off} : (tickBeat n t off s).hold = s.hold := by simp [tickBeat]
@[simp] theorem telemTick_hold : (telemTick s).hold = s.hold := by simp [telemTick]
@[simp] theorem endBeat_hold : (endBeat s).hold = s.hold := by simp [endBeat]
@[simp] theorem releasePlan_hold {n} : (releasePlan n s).hold = s.hold := by simp [releasePlan]
@[simp] theorem putLists_hold {c} : (putLists c s).hold = s.hold := by
  simp only [putLists]
  repeat' split
  all_goals simp
@[simp] theorem fillPlan_hold : (fillPlan s).hold = s.hold := by simp [fillPlan]
@[simp] theorem bgTick_hold {n} : (bgTick n s).hold = s.hold := by simp [bgTick]
@[simp] theorem dropFenced_held (h : s.hold = true) : (dropFenced s).hold = true := by simp [dropFenced, h]
@[simp] theorem loadRegs_hold : (loadRegs s).hold = s.hold := by simp [loadRegs]
@[simp] theorem takeCow_hold {c} : (takeCow c s).hold = s.hold := by
  simp only [takeCow]
  repeat' split
  all_goals simp
@[simp] theorem treeTick_hold : (treeTick s).hold = s.hold := by simp [treeTick]
@[simp] theorem releaseFaulted_hold : (releaseFaulted s).hold = s.hold := by
  refine foldl_hold fun s _ => ?_
  simp
@[simp] theorem fencesDue_held (h : s.hold = true) : (fencesDue s).hold = true := by
  simp only [fencesDue]
  simp_all
@[simp] theorem finishMsg_hold {p} : (finishMsg p s).hold = s.hold := by
  unfold finishMsg
  split <;> simp
@[simp] theorem finishMsgs_hold : (finishMsgs s).hold = s.hold := by simp [finishMsgs]
@[simp] theorem sweepClient_hold {i} : (sweepClient i s).hold = s.hold := by simp [sweepClient]
@[simp] theorem closeClients_hold : (closeClients s).hold = s.hold := by simp [closeClients]
@[simp] theorem windowTick_hold : (windowTick s).hold = s.hold := by
  unfold windowTick
  split <;> simp
@[simp] theorem safetyTick_hold : (safetyTick s).hold = s.hold := by simp [safetyTick]
@[simp] theorem tickNow_held {n t off} (h : s.hold = true) : (tickNow n t off s).hold = true := by
  have hbegun : (tickBeat n t off (if s.beat.ticked then endBeat s else s)).hold = true := by simp [h]
  have hloaded (f) : (loadRegs (dropFenced (releasePlan n (bgTick n
      ((tickBeat n t off (if s.beat.ticked then endBeat s else s)).onPower f))))).hold = true :=
    loadRegs_hold.trans (dropFenced_held (by simp [hbegun]))
  unfold tickNow
  refine takeWanted_held ?_
  simp only [safetyTick_hold, windowTick_hold, closeClients_hold, finishMsgs_hold, unloadTick_hold, closeTick_hold, closeInputs_hold, afeTick_hold]
  refine stopTick_held (objTick_hold.trans (fencesDue_held ?_))
  simp only [chainTimeout_hold, readRings_hold, switchTables_hold, releaseFaulted_hold, fillPlan_hold, treeTick_hold,
    foldl_hold fun _ _ => takeCow_hold, moveTick_hold]
  exact hloaded _
@[simp] theorem execTick_held {t} (h : s.hold = true) : HeldAfter (execTick t s) := by simp [execTick, h]

end Sys2Proof.Machine
end

section
/-! O4: the latched hold (R515, R516, R592). -/

namespace Sys2Proof.Machine

variable {s : State}

/-- An acknowledge edge is the only command that can release an asserted hold. -/
theorem exec_held {i : Instr} (h : s.hold = true) (hi : ∀ lo hi, i ≠ .safeAckEdge lo hi) : HeldAfter (exec i s) := by
  cases i with
  | safeAckEdge lo hi' => exact absurd rfl (hi lo hi')
  | _ => simp [exec, h]

theorem execSafeAckEdge_releases {lo hi : Nat} {t : State} (he : execSafeAckEdge lo hi s = .next t) (h : s.safe.hold = true)
    (ht : t.safe.hold = false) : 20 ≤ lo ∧ 20 ≤ hi ∧ s.causePresent = false ∧ s.allClear = true := by
  unfold execSafeAckEdge at he
  injection he with he
  subst he
  split at ht
  · rw [h] at ht; cases ht
  · next hlevels =>
    split at ht
    · next hfree =>
      simp only [not_or, Nat.not_lt] at hlevels
      simp only [Bool.and_eq_true, Bool.not_eq_true'] at hfree
      obtain ⟨⟨-, hcause⟩, hclear⟩ := hfree
      exact ⟨hlevels.1, hlevels.2, hcause, hclear⟩
    · rw [h] at ht; cases ht

theorem swRun_of_causePresent (h : s.causePresent = false) : s.safe.swRun ≠ 0 := by
  intro hrun
  simp [State.causePresent, hrun] at h

end Sys2Proof.Machine

namespace Sys2Proof.Machine

/-- Settles O4: every command but an acknowledge edge keeps an asserted hold (`exec_held`), and the edge releases it only when
nothing is missing (`execSafeAckEdge_releases`). -/
theorem holdLatched : Obligations.HoldLatched := by
  unfold Obligations.HoldLatched
  intro c s t he h ht
  by_cases hc : ∃ lo hi, c = .safeAckEdge lo hi
  · obtain ⟨lo, hi, rfl⟩ := hc
    obtain ⟨hlo, hhi, hcause, hclear⟩ := execSafeAckEdge_releases he h ht
    exact ⟨⟨lo, hi, rfl, hlo, hhi⟩, hcause, swRun_of_causePresent hcause, hclear⟩
  · exact absurd (exec_held h (fun lo hi e => hc ⟨lo, hi, e⟩) t he) (by rw [← State.safe_hold, ht]; decide)

end Sys2Proof.Machine
end

section
/-! SUPPORT. Clients (R470, R471, R473, R492, R497): the bodies of CLIENT_CREATE, CLIENT_DESTROY, TELEMETRY_CONFIG and FAULT_CLEAR where
every check passes. -/

namespace Sys2Proof.Machine

variable {m : Msg} {a : State} {i : Nat}

theorem clientCreate_of_ok (h : ClientCreateOk m i a) :
    let b := a.issue 7 i
    clientCreate m a = ((b.onBlock i (fun k => { k with
      bound := true, domain := BitVec.ofNat 6 (m.f 0 1), handle := BitVec.ofNat 32 (b.handleOf 7 i) })).onCtrl (fun k => { k with
      tallies := kset k.tallies i .zero }), .done stOk (natLe 4 (b.handleOf 7 i))) := by
  obtain ⟨hdom, hz, hsys, hlo, hpart, hidx⟩ := h
  rw [clientCreate, checked_of_pass _ _ (by simpa [hdom, hz, hsys, hlo, hidx] using hpart)]
  simp only [hidx]

theorem clientDestroy_of_ok (h : ClientDestroyOk m a) :
    clientDestroy m a = ((shutClient (hIdx (m.f 0 4)) a).onCtrl (fun k => { k with
      closingClients := k.closingClients ++ [(hIdx (m.f 0 4), a.now + 2, m.client, m.mbox)] }), waitFor m 0x0102 (m.f 0 4) none 0) := by
  obtain ⟨hh, hsys, hother, hopen⟩ := h
  rw [clientDestroy, checked_of_pass _ _ (by simpa [hh, hsys, hother] using hopen)]

/-- The part of the carve-out that holds a range holds what the range begins with. -/
theorem inCarve_of_le {p n k : Nat} (h : inCarve p k = true) (hn : n ≤ k) : inCarve p n = true := by
  simp only [inCarve, decide_eq_true_eq] at h ⊢
  omega

/-- The state without the telemetry ring of the message's client. -/
def ringGone (m : Msg) (a : State) : State := a.onCtrl (fun k => { k with telems := k.telems.filter (fun t => decide (t.client ≠ m.client)) })

/-- A TELEMETRY_CONFIG of address 0 and mask 0 removes the client's ring. -/
theorem telemetryConfig_of_zero (hz : m.z 9 3 = true) (ha : m.f 0 8 = 0) (hmask : m.f 0xC 4 = 0) :
    telemetryConfig m a = (ringGone m a, .done stOk []) := by
  simp only [telemetryConfig, ha, hmask, beq_self_eq_true, Bool.and_self, if_true]
  exact checked_of_pass _ _ (by simpa using hz)

theorem telemetryConfig_of_ring (hz : m.z 9 3 = true) (hset : m.f 0 8 ≠ 0 ∨ m.f 0xC 4 ≠ 0) (hlo : 6 ≤ m.f 8 1) (hhi : m.f 8 1 ≤ 16)
    (hring : inCarve (m.f 0 8) (64 + 2 ^ m.f 8 1 * 64) = true) :
    telemetryConfig m a = (startRing (m.f 0 8) ((ringGone m a).onCtrl (fun k => { k with telems := k.telems ++ [{
      client := m.client, ring := a.newRing (m.f 0 8) (m.f 8 1), mask := BitVec.ofNat 32 (m.f 0xC 4), events := [], ready := []
      lastWritten := none }] })), .done stOk []) := by
  have hkept : (m.f 0 8 == 0 && m.f 0xC 4 == 0) = false := by simpa [or_iff_not_imp_left] using hset
  have hhead : inCarve (m.f 0 8) 64 = true := inCarve_of_le hring (Nat.le_add_right ..)
  simp only [telemetryConfig, hkept, Bool.false_eq_true, if_false]
  exact checked_of_pass _ _ (by simp [hhead, ringSizeChecks, hlo, hhi, hring, hz])

theorem faultClear_of_ok (h : FaultClearOk m a) :
    faultClear m a = ((a.faultChans (m.f 0 4)).foldl (fun (s : State) (c : Nat) => s.onChannel c (fun c => { c with faultStatus := none })) a,
      .done stOk []) := by
  obtain ⟨hlive, howns, hgone⟩ := h
  rw [faultClear, checked_of_pass _ _ (by simp [hlive, howns])]
  simp only [List.findSome?_eq_none_iff.2 hgone]

end Sys2Proof.Machine
end

section
namespace Sys2Proof.Machine

/-- Settles O45: the body of each message replies as stated once its checks pass. -/
theorem clientMessages : Obligations.ClientMessages := by
  refine ⟨fun m s i h hok => answers_of_body rfl h (clientCreate_of_ok hok),
    fun m s h hok => waits_of_body rfl h (clientDestroy_of_ok hok),
    fun m s h hz => ⟨fun ha hmask => ?_, fun hset hlo hhi hring => ?_⟩,
    fun m s h hok => answers_of_body rfl h (faultClear_of_ok hok)⟩
  · exact answers_of_body rfl h (telemetryConfig_of_zero hz ha hmask)
  · exact answers_of_body rfl h (telemetryConfig_of_ring hz hset hlo hhi hring)

end Sys2Proof.Machine
end

section
/-! SUPPORT. Channels (R420 to R423, R440 to R442, R491): the bodies of CHANNEL_OPEN, CHANNEL_CLOSE and CHANNEL_CTRL where every check
passes, and a channel's pending change and its work of the beat. -/

namespace Sys2Proof.Machine

variable {m : Msg} {a s : State} {c : Channel} {i : Nat}

theorem channelOpen_of_ok (h : ChannelOpenOk m i a) : channelOpen m a =
    ((a.issue 1 i).onAudio (fun k => { k with chans := insertBy (·.idx) (a.newChannel i m.client (fit 64 m.payload)) k.chans }),
      .done stOk (natLe 4 ((a.issue 1 i).handleOf 1 i))) := by
  obtain ⟨hrecord, hdom, hring, hidx⟩ := h
  rw [firstFail_eq_none_iff] at hrecord
  rw [channelOpen, checked_of_pass]
  · simp only [hidx]
    rfl
  · simp only [List.forall_mem_append, List.forall_mem_cons]
    refine ⟨hrecord, by simp [hdom], ?_, by simp [hidx], by simp⟩
    simpa only [Bool.or_eq_true, Bool.not_eq_true', ← Bool.not_eq_true, ← imp_iff_not_or] using hring

theorem channelClose_of_open (hlive : a.live 1 (m.f 0 4) = true) (howns : a.owns m.client 1 (m.f 0 4) = true)
    (hfree : a.chanNamed (m.f 0 4) = false) (hc : a.channel (hIdx (m.f 0 4)) = some c) (hopen : c.closing = none) :
    channelClose m a = ((loseChannel 0 0 (hIdx (m.f 0 4)) a).onChannel (hIdx (m.f 0 4)) (fun c =>
      if c.isIn then { c with closing := some (m.client, m.mbox), closeAt := some (a.now + 2) }
      else mergeChange none (some false) none true [] a.now { c with closing := some (m.client, m.mbox) }),
        waitFor m 0x0602 (m.f 0 4) none 0) := by
  rw [channelClose, checked_of_pass _ _ (by simp [hlive, howns, hfree, hc, hopen])]

/-- The checks of a CHANNEL_CTRL all pass; its change joins the channel's pending one. -/
theorem channelCtrl_of_ok {op : Nat} {gain run mute : Msg → Bool} (h : ChannelCtrlOk m op c a) : channelCtrl op gain run mute m a =
    (a.onChannel (hIdx (m.f 0 4)) (mergeChange (if gain m then some (BitVec.ofNat 32 (m.f 8 4)) else none)
      (if op ≤ 2 then some (run m) else none) (if op = 3 ∨ op = 4 then some (mute m) else none) false [(m.client, m.mbox)] a.now),
      waitFor m 0x0603 (m.f 0 4) none op) := by
  obtain ⟨hlive, howns, hc, hout, hop, hz, hzero, hfin, hlo, hhi, hfault⟩ := h
  rw [channelCtrl, checked_of_pass _ _ (by simpa [hlive, howns, hc, hout, hop, hz, hfin, hlo, hhi] using hzero)]
  simp only [hc, hfault, Option.bind_some]

variable {g : GainChange}

theorem exec_zeroCrossingApply_of_due (hc : s.channel i = some c) (hg : c.pendingCh = some g) (hdue : g.due s.now = true) :
    exec (.zeroCrossingApply i) s = .next (applyChange i s) := by
  change execZeroCrossingApply i s = _
  simp [execZeroCrossingApply, hc, hg, hdue]

theorem exec_zcTimeout_of_due (hc : s.channel i = some c) (hg : c.pendingCh = some g) (hdue : g.due s.now = true) :
    exec (.zcTimeout i) s =
      .next ((applyChange i s).onAudio (fun a => { a with zcTimeout := a.zcTimeout || decide (c.r 0x21 1 ≠ 0) })) := by
  change execZcTimeout i s = _
  simp only [execZcTimeout, hc, hg, hdue, if_true]

theorem exec_afeInputProcess_of_turn (hc : s.channel i = some c) (hopen : s.beatOpen c = true) (hin : c.isIn = true)
    (hturn : s.queueTurn c = true) : exec (.afeInputProcess i) s = .next (inputBeat i s) := by
  change execAfeInputProcess i s = _
  simp [execAfeInputProcess, hc, hopen, hin, hturn]

theorem exec_afeOutputProcess_of_open (hc : s.channel i = some c) (hopen : s.beatOpen c = true) (hout : c.isIn = false) :
    exec (.afeOutputProcess i) s = .next (outputBeat i (c.net || (s.sap (c.r 2 1)).running) s) := by
  change execAfeOutputProcess i s = _
  simp [execAfeOutputProcess, hc, hopen, hout]

end Sys2Proof.Machine
end

section
namespace Sys2Proof.Machine

/-- Settles O43: the body of each message replies as stated once its checks pass; a due change applies, and a channel whose beat is open
does its work of the beat. -/
theorem channelsLive : Obligations.ChannelsLive := by
  refine ⟨fun m s i h hok => answers_of_body rfl h (channelOpen_of_ok hok),
    fun m s c h hlive howns hfree hc hopen => waits_of_body rfl h (channelClose_of_open hlive howns hfree hc hopen), ?ctrl,
    fun i s c g hc hg hdue => ⟨exec_zeroCrossingApply_of_due hc hg hdue, exec_zcTimeout_of_due hc hg hdue⟩,
    fun i s c hc hopen => ⟨exec_afeInputProcess_of_turn hc hopen, exec_afeOutputProcess_of_open hc hopen⟩⟩
  case ctrl =>
    simp only [List.forall_mem_cons, List.not_mem_nil, false_implies, implies_true, and_true]
    refine ⟨?_, ?_, ?_, ?_, ?_⟩ <;> exact fun m s c h hok => waits_of_body rfl h (channelCtrl_of_ok hok)

end Sys2Proof.Machine
end

section
/-! SUPPORT. Audio ports and port groups (R445 to R452, R482): the record of a port or of a group after a change of it, the bodies of
PORTGROUP_CONFIG and PORTGROUP_ARM where every check passes, and the rows of a group. -/

namespace Sys2Proof.Machine

variable {m : Msg} {a s : State} {g p : Nat}

theorem State.sap_onSap {f : SapSt → SapSt} (hp : p < s.audio.saps.length) : (s.onSap p f).sap p = f (s.sap p) := by
  simp [State.sap, State.onSap, State.onAudio, List.getD_eq_getElem?_getD, hp]

theorem State.group_onGroup {f : GroupSt → GroupSt} (hg : g < s.audio.groups.length) : (s.onGroup g f).group g = f (s.group g) := by
  simp [State.group, State.onGroup, State.onAudio, List.getD_eq_getElem?_getD, hg]

/-- Every check of a PORTGROUP_CONFIG passes; the group and the registers of its members are set. -/
theorem portgroupConfig_of_ok (hok : a.audio.Ok) (h : PortgroupOk m a) : ∃ u : State,
    portgroupConfig m a = (u, .done stOk (natLe 4 (u.handleOf 6 (m.f 0 1)))) ∧ u.group (m.f 0 1) = groupOfMsg m ∧
    (∀ p ∈ pgSaps m, u.sap p = sapSet (m.f 0 1) (pgSap m p) (a.sap p)) ∧
    (∀ c ∈ pgPdms m, u.audio.pdms[c]? = (a.audio.pdms[c]?).map (pdmSet (m.f 0 1) (pgPdm m c))) := by
  obtain ⟨hg, hpll, hslave, htrig, hformat, hsys, hfree, harmed⟩ := h
  have haudio : (if (a.group (m.f 0 1)).exists_ = true then a else a.issue 6 (m.f 0 1)).audio = a.audio := by
    split <;> rfl
  rw [portgroupConfig, checked_of_pass]
  · refine ⟨_, rfl, State.group_onGroup ?_, fun p hp => ?_, fun c hc => ?_⟩
    · simp only [State.onAudio, haudio, hok.groups]
      omega
    · have hport : p < a.audio.saps.length := by
        rw [hok.saps]
        exact List.mem_range.1 (List.mem_of_mem_filter hp)
      simp [State.sap, State.onGroup, State.onAudio, haudio, hp, hport]
    · simp only [State.onGroup, State.onAudio, haudio, List.getElem?_map, List.getElem?_zipIdx]
      cases a.audio.pdms[c]? <;> simp [hc]
  · simpa [hg, hpll, hslave, htrig, hformat, hsys, harmed, ← imp_iff_not_or] using hfree

theorem portgroupArm_of_idle (hh : a.hValid 6 (m.f 0 4) = true) (hsys : m.sys = true) (harmed : (a.group (hIdx (m.f 0 4))).armedFrom = none)
    (hrun : (a.group (hIdx (m.f 0 4))).running = false) : portgroupArm m a =
      (a.onGroup (hIdx (m.f 0 4)) (fun k => { k with armedFrom := some (a.now + 2), armMsg := some (m.client, m.mbox) }),
        waitFor m 0x0109 (m.f 0 4) none 0) := by
  rw [portgroupArm, checked_of_pass _ _ (by simp [hh, hsys, harmed, hrun])]

/-- A trigger edge is counted, marks the ports due to rejoin, and dates each group that waits for it. -/
theorem exec_trigInEdge_of_ready {t : Nat} (hr : s.rot.dcpReady = true) : ∃ u : State, exec (.trigInEdge t) s = .next u ∧
    u.audio.trigCount = s.audio.trigCount + 1 ∧ u.audio.chans = s.audio.chans ∧ u.audio.saps = (rejoinTrig true s).audio.saps ∧
    ∀ (g : Nat) (k : GroupSt), s.audio.groups[g]? = some k → u.audio.groups[g]? = some (match k.armedFrom with
     | some b => if k.trigIn ∧ k.trigAt = none ∧ b ≤ s.now then { k with trigAt := some t } else k
     | none => k) := by
  refine ⟨_, congrArg Host.Outcome.next (if_neg (by simp [hr])), rfl, rfl, rfl, fun g k hk => ?_⟩
  have hgroup : (rejoinTrig true s).audio.groups[g]? = some k := hk
  simp only [State.onAudio, List.getElem?_map, hgroup, Option.map_some]
  cases k.armedFrom <;> simp [and_assoc]

theorem exec_groupStart_of_armed (hr : s.rot.dcpReady = true) (ht : (s.group g).trigAt.isSome = true)
    (harmed : (s.group g).armedFrom.isSome = true) : exec (.groupStart g) s = .next (startGroup g s) :=
  congrArg Host.Outcome.next (if_pos (by rw [hr, ht, harmed]; rfl))

theorem exec_slip_of_running {cause : Nat} (hr : s.rot.dcpReady = true) (hrun : (s.sap p).running = true)
    (hcause : cause = 2 → (s.sap p).master = false) : exec (.slip p cause) s = .next (slipSap p cause s) :=
  congrArg Host.Outcome.next (if_pos (by simpa [hr, hrun, imp_iff_not_or] using hcause))

/-- A port that rejoins runs again with its FIFOs as at a start. -/
theorem exec_slipRejoin_of_due (hr : s.rot.dcpReady = true) (hre : (s.sap p).rearmed = true) (hdue : (s.sap p).rejoinDue = true)
    (hsvc : s.serves ⟨.sap, p⟩ = true) : ∃ u : State, exec (.slipRejoin p) s = .next u ∧
      u.audio.saps = s.audio.saps.modify p (fun k => { k with
        running := true, rearmed := false, rejoinDue := false, rx := [], tx := txFill k, primed := false, acc := 0 }) ∧
      u.audio.chans = s.audio.chans :=
  ⟨_, congrArg Host.Outcome.next (if_pos (by rw [hr, hre, hdue, hsvc]; rfl)), rfl, rfl⟩

theorem exec_clkLost_of_running (hr : s.rot.dcpReady = true) (he : (s.group g).exists_ = true) (hsl : (s.group g).slave = true)
    (hrun : (s.group g).running = true) : exec (.clkLost g) s =
      .next (((List.range 4).filter (fun p => (s.group g).saps.testBit p && (s.sap p).running)).foldl
        (fun (s : State) (p : Nat) => slipSap p 3 s) ((s.onSap (s.group g).refSap (fun p => { p with clkLost := true })).onAudio
          (fun a => { a with plls := a.plls.modify (s.group g).pll (fun l => { l with hold := true }) }))) :=
  congrArg Host.Outcome.next (if_neg (by simp [hr, he, hsl, hrun]))

/-- A frame of a running group, which each member takes as the group's PLL paces it. -/
theorem exec_groupFrame_of_running {rx : PinFrames} {pdm : List (Nat × List Bool)} (hr : s.rot.dcpReady = true)
    (he : (s.group g).exists_ = true) (hrun : (s.group g).running = true) : exec (.groupFrame g rx pdm) s =
      .next (((pdm.filter (fun q => decide (q.1 < 8) && (s.group g).pdms.testBit (q.1 / 2))).foldl
        (fun (s : State) (q : Nat × List Bool) => pdmLine q.1 q.2 s)
        (((List.range 4).filter (fun p => (s.group g).saps.testBit p)).foldl (fun (t : State) (p : Nat) => sapFrame p
          (s.groupPace g rx.span).1 (s.groupPace g rx.span).2 ((kget rx.frames p).getD []) t) s)).onGroup g
        (fun k => { k with frame := k.frame + 1 })) :=
  congrArg Host.Outcome.next (if_neg (by simp [hr, he, hrun]))

end Sys2Proof.Machine
end

section
/-! SUPPORT. A frame of a serial port (R449, R451, R452): the received frame enters its FIFO, the oldest queued frame leaves at the pins, and
the internal side moves at the pace of its PLL. -/

namespace Sys2Proof.Machine

variable {s t : State} {p span : Nat} {adj : Int} {frame out : List Word} {rest : List (List Word)}

theorem sapFrame_of_full (hrun : (s.sap p).running = true) (hfull : 64 ≤ (s.sap p).rx.length) :
    sapFrame p adj span frame s = sapStopped p (slipSap p 0 s) := by
  rw [sapFrame, if_neg (by simp [hrun]), if_pos hfull]

theorem sapFrame_of_empty (hrun : (s.sap p).running = true) (hroom : (s.sap p).rx.length < 64) (hempty : (s.sap p).tx = []) :
    sapFrame p adj span frame s = sapStopped p (slipSap p 1 s) := by
  simp only [sapFrame, hrun, Bool.not_true, Bool.false_eq_true, if_false, if_neg (Nat.not_le.2 hroom), hempty]

/-- The frames at the pins are exchanged: the received one is queued, and the oldest of those to send leaves. -/
def pinsMoved (p acc : Nat) (frame out : List Word) (rest : List (List Word)) (s : State) : State :=
  s.onSap p (fun k => { k with rx := k.rx ++ [frame], tx := rest, pins := [out], acc := acc })

theorem sapFrame_of_queued (hrun : (s.sap p).running = true) (hroom : (s.sap p).rx.length < 64) (hq : (s.sap p).tx = out :: rest) :
    sapFrame p adj span frame s = (List.range (insideFrames adj span (s.sap p).acc).1).foldl (fun (s : State) _ => sapInside p s)
      (pinsMoved p (insideFrames adj span (s.sap p).acc).2 frame out rest s) := by
  simp only [sapFrame, hrun, Bool.not_true, Bool.false_eq_true, if_false, if_neg (Nat.not_le.2 hroom), hq, pinsMoved]

/-- A running port with these pins, at most 64 received frames, and at most `n` frames to send. -/
structure SapMoves (p : Nat) (pins : List (List Word)) (n : Nat) (s : State) : Prop where
  inRange : p < s.audio.saps.length
  pins : (s.sap p).pins = pins
  running : (s.sap p).running = true
  rx : (s.sap p).rx.length ≤ 64
  tx : (s.sap p).tx.length ≤ n

theorem SapMoves.onSap {pins : List (List Word)} {n : Nat} {f : SapSt → SapSt} (hp : p < s.audio.saps.length)
    (h1 : (f (s.sap p)).pins = pins) (h2 : (f (s.sap p)).running = true) (h3 : (f (s.sap p)).rx.length ≤ 64)
    (h4 : (f (s.sap p)).tx.length ≤ n) : SapMoves p pins n (s.onSap p f) := by
  refine ⟨by simpa [State.onSap, State.onAudio] using hp, ?_, ?_, ?_, ?_⟩ <;> simpa [State.sap_onSap hp]

theorem length_ite_drop_le {α : Type} {c : Prop} [Decidable c] (l : List α) (n : Nat) :
    (if c then l.drop n else l).length ≤ l.length := by
  split
  · rw [List.length_drop]
    exact Nat.sub_le ..
  · exact le_rfl

/-- The internal side takes a frame and queues one only where there is room. -/
theorem sapInside_moves {pins : List (List Word)} {n : Nat} (hn : 64 ≤ n) (h : SapMoves p pins n s) : SapMoves p pins n (sapInside p s) := by
  obtain ⟨hp, hpins, hrun, hrx, htx⟩ := h
  rw [sapInside]
  refine SapMoves.onSap hp hpins hrun ?_ ?_
  · exact (length_ite_drop_le ..).trans hrx
  · dsimp only
    split
    · next hput =>
      rw [List.length_append, List.length_singleton]
      exact (Nat.succ_le_of_lt (of_decide_eq_true hput)).trans hn
    · exact htx

theorem sapFrame_moves (hp : p < s.audio.saps.length) (hrun : (s.sap p).running = true) (hroom : (s.sap p).rx.length < 64)
    (hq : (s.sap p).tx = out :: rest) : SapMoves p [out] (max 64 rest.length) (sapFrame p adj span frame s) := by
  rw [sapFrame_of_queued hrun hroom hq]
  refine List.foldlRecOn _ _ (SapMoves.onSap hp rfl hrun ?_ (le_max_right ..)) fun t ht _ _ => sapInside_moves (le_max_left ..) ht
  rw [List.length_append, List.length_singleton]
  exact hroom

/-- The internal side does not move where its PLL has not reached the next frame. -/
theorem sapFrame_rx_of_short (hp : p < s.audio.saps.length) (hrun : (s.sap p).running = true) (hroom : (s.sap p).rx.length < 64)
    (hq : (s.sap p).tx = out :: rest) (hshort : (s.sap p).acc + ((span : Int) + (span : Int) * adj / 2 ^ 32).toNat < 2 ^ 32) :
    ((sapFrame p adj span frame s).sap p).rx = (s.sap p).rx ++ [frame] := by
  have hnone : (insideFrames adj span (s.sap p).acc).1 = 0 := Nat.div_eq_of_lt hshort
  rw [sapFrame_of_queued hrun hroom hq, hnone, List.range_zero, List.foldl_nil, pinsMoved, State.sap_onSap hp]

end Sys2Proof.Machine
end

section
namespace Sys2Proof.Machine

/-- Settles O44: the body of each message replies as stated once its checks pass; the rows of a group and of a port by their conditions;
a frame of a port by its FIFOs. -/
theorem portsAndGroups : Obligations.PortsAndGroups := by
  refine ⟨fun m s h hok hgroup => ?_, fun m s h hh hsys harmed hrun => waits_of_body rfl h (portgroupArm_of_idle hh hsys harmed hrun),
    fun t s hr => exec_trigInEdge_of_ready hr, fun g s hr ht harmed => exec_groupStart_of_armed hr ht harmed,
    fun p cause s hr hrun hcause => exec_slip_of_running hr hrun hcause,
    fun p s hr hre hdue hsvc => exec_slipRejoin_of_due hr hre hdue hsvc,
    fun g s hr he hsl hrun => exec_clkLost_of_running hr he hsl hrun, fun g rx pdm s hr he hrun => ?_,
    fun p span adj frame s hp hrun => ⟨fun hfull => sapFrame_of_full hrun hfull, fun hroom hempty => sapFrame_of_empty hrun hroom hempty,
      fun hroom out rest hq => ?_⟩⟩
  · obtain ⟨u, hbody, hset⟩ := portgroupConfig_of_ok hok hgroup
    exact ⟨u, answers_of_body rfl h hbody, hset⟩
  · rw [exec_groupFrame_of_running hr he hrun, State.groupPace]
    split <;> rfl
  · obtain ⟨-, hpins, hruns, hrx, htx⟩ := sapFrame_moves (adj := adj) (span := span) (frame := frame) hp hrun hroom hq
    exact ⟨hpins, hruns, hrx, htx, sapFrame_rx_of_short hp hrun hroom hq⟩

end Sys2Proof.Machine
end

section
/-! SUPPORT. What a link sends next (R336, R382, R383): the item of the highest priority, and of its urgent streams the most urgent. -/

namespace Sys2Proof.Machine

variable {l p n m : Nat} {s : State}

/-- The stream `n` is more urgent than `m`: fewer bytes for its RATE, or as many and a lower number (R336). -/
def State.UrgentBefore (s : State) (n m : Nat) : Prop :=
  s.urgBytes n * s.rateOf m < s.urgBytes m * s.rateOf n ∨ (s.urgBytes n * s.rateOf m = s.urgBytes m * s.rateOf n ∧ n < m)

theorem State.UrgentBefore.asymm (h : s.UrgentBefore n m) : ¬ s.UrgentBefore m n := by
  unfold State.UrgentBefore at h ⊢
  omega

/-- The more urgent of the best stream so far and the next. -/
def State.moreUrgent (s : State) (best : Option Nat) (m : Nat) : Option Nat :=
  match best with
  | none => some m
  | some b => if s.urgBytes m * s.rateOf b < s.urgBytes b * s.rateOf m ∨ (s.urgBytes m * s.rateOf b = s.urgBytes b * s.rateOf m ∧ m < b)
    then some m else best

theorem State.mostUrgent_eq_foldl (l : List Nat) : s.mostUrgent l = l.foldl s.moreUrgent none := rfl

theorem State.moreUrgent_of_best (h : m ≠ n → s.UrgentBefore n m) : s.moreUrgent (some n) m = some n := by
  refine if_neg fun hm => ?_
  by_cases he : m = n
  · subst he
    exact State.UrgentBefore.asymm hm hm
  · exact (h he).asymm hm

theorem State.moreUrgent_of_next {best : Option Nat} (h : ∀ b, best = some b → b ≠ n → s.UrgentBefore n b) :
    s.moreUrgent best n = some n := by
  cases best with
  | none => rfl
  | some b =>
    by_cases he : b = n
    · subst he
      exact State.moreUrgent_of_best fun h => absurd rfl h
    · exact if_pos (h b rfl he)

theorem State.moreUrgent_cases (best : Option Nat) (m : Nat) : s.moreUrgent best m = some m ∨ s.moreUrgent best m = best := by
  cases best with
  | none => exact .inl rfl
  | some b => exact ite_eq_or_eq ..

/-- The stream that goes before every other is the one that the search ends with. -/
theorem State.foldl_moreUrgent {l : List Nat} (hl : ∀ m ∈ l, m ≠ n → s.UrgentBefore n m) {best : Option Nat}
    (hb : best = some n ∨ n ∈ l ∧ ∀ b, best = some b → b ≠ n → s.UrgentBefore n b) : l.foldl s.moreUrgent best = some n := by
  induction l generalizing best with
  | nil => simpa using hb
  | cons m l ih =>
    obtain ⟨hm, hl⟩ := List.forall_mem_cons.1 hl
    rw [List.foldl_cons]
    refine ih hl ?_
    rcases hb with rfl | ⟨hn, hb⟩
    · exact .inl (State.moreUrgent_of_best hm)
    · by_cases he : n = m
      · subst he
        exact .inl (State.moreUrgent_of_next hb)
      · refine .inr ⟨List.mem_of_ne_of_mem he hn, fun b hbest => ?_⟩
        rcases State.moreUrgent_cases (s := s) best m with hmore | hmore
        · obtain rfl : m = b := by simpa [hmore] using hbest
          exact hm
        · exact hb b (hmore ▸ hbest)

theorem State.mostUrgent_eq {l : List Nat} (hn : n ∈ l) (hl : ∀ m ∈ l, m ≠ n → s.UrgentBefore n m) : s.mostUrgent l = some n :=
  State.foldl_moreUrgent hl (.inr ⟨hn, fun _ h => nomatch h⟩)

/-! ## The item of the highest priority -/

theorem takeFirst_eq_none {α : Type} {f : α → Bool} {l : List α} (h : ∀ x ∈ l, f x = false) : takeFirst f l = none := by
  induction l with
  | nil => rfl
  | cons x l ih =>
    obtain ⟨hx, hl⟩ := List.forall_mem_cons.1 h
    simp [takeFirst, hx, ih hl]

/-- No item of a priority below `p` waits, but those of priority 0, which are not sent. -/
def LowestPrio (l p : Nat) (s : State) : Prop := ∀ e ∈ (s.link l).egress, e.prio = 0 ∨ p ≤ e.prio

theorem sendFirst_of_lower {k : Nat} {ok : EgressItem → Bool} (h : LowestPrio l p s) (h0 : k ≠ 0) (hk : k < p) : sendFirst l k ok s = none := by
  rw [sendFirst, takeFirst_eq_none, Option.map_none]
  intro e he
  have hprio : e.prio ≠ k := by
    rcases h e he with h | h <;> omega
  simp [hprio]

theorem sendFirst_of_take {ok : EgressItem → Bool} {q : EgressItem × List EgressItem}
    (hq : takeFirst (fun (e : EgressItem) => e.prio == p && ok e) (s.link l).egress = some q) : sendFirst l p ok s = some (sendItem l q.1 q.2 s) := by
  rw [sendFirst, hq, Option.map_some]

theorem frameOut_of_prio {q : EgressItem × List EgressItem} (h1 : 1 ≤ p) (h3 : p ≤ 3) (h : LowestPrio l p s)
    (hq : takeFirst (fun (e : EgressItem) => e.prio == p) (s.link l).egress = some q) : frameOut l s = sendItem l q.1 q.2 s := by
  have hsend : sendFirst l p (fun _ => true) s = some (sendItem l q.1 q.2 s) := sendFirst_of_take (by simpa using hq)
  have hlower : ∀ k, 1 ≤ k → k < p → sendFirst l k (fun _ => true) s = none := fun k hk => sendFirst_of_lower h (by omega)
  obtain rfl | rfl | rfl : p = 1 ∨ p = 2 ∨ p = 3 := by omega
  · simp only [frameOut, hsend]
  · simp only [frameOut, hlower 1 le_rfl (by decide), hsend]
  · simp only [frameOut, hlower 1 le_rfl (by decide), hlower 2 (by decide) (by decide), hsend]

theorem frameOut_of_data (h : LowestPrio l 4 s) : frameOut l s = dataOut l s := by
  have hlower : ∀ k, k ≠ 0 → k < 4 → sendFirst l k (fun _ => true) s = none := fun k => sendFirst_of_lower h
  simp only [frameOut, hlower 1 (by decide) (by decide), hlower 2 (by decide) (by decide), hlower 3 (by decide) (by decide)]

theorem dataOut_of_urgent {q : EgressItem × List EgressItem}
    (hq : takeFirst (fun (e : EgressItem) => e.prio == 4 && e.src == none) (s.link l).egress = some q) : dataOut l s = sendItem l q.1 q.2 s := by
  simp only [dataOut, sendFirst_of_take hq]

theorem dataOut_of_mostUrgent (hq : takeFirst (fun (e : EgressItem) => e.prio == 4 && e.src == none) (s.link l).egress = none)
    (hn : s.mostUrgent (s.egressNums l true) = some n) : dataOut l s = sendNum l 4 n s := by
  simp only [dataOut, sendFirst, hq, Option.map_none, hn]

/-! ## A data frame that arrives -/

theorem frameIn_of_linkUp {r : RxFrame} (h : s.linkUp l = true) : frameIn l r s = frameTaken l r s := by
  rw [frameIn, if_neg (by simp [h])]
  refine if_congr ?_ rfl (if_congr Iff.rfl rfl (if_congr ?_ rfl rfl))
  · simp [rxBad, rxLost, cwLost, or_assoc]
  · simp

end Sys2Proof.Machine
end

section
namespace Sys2Proof.Machine

/-- Settles O41: the search for the next item by priority, then by urgency; a frame that arrives by its checks. -/
theorem linkFrames : Obligations.LinkFrames := by
  refine ⟨fun l s hup => ⟨congrArg Host.Outcome.next (if_pos hup), fun p q h1 h3 hlow hq => frameOut_of_prio h1 h3 hlow hq,
    fun hlow => ⟨fun q hq => ?_, fun hq n hn hfirst => ?_⟩⟩, fun l sp s => rfl, ?_⟩
  · rw [frameOut_of_data hlow, dataOut_of_urgent hq]
  · rw [frameOut_of_data hlow, dataOut_of_mostUrgent hq (State.mostUrgent_eq hn hfirst)]
  · simp only [List.forall_mem_cons, List.not_mem_nil, false_implies, implies_true, and_true]
    refine ⟨?_, ?_, ?_, ?_, ?_⟩ <;> exact fun l r s hup => congrArg Host.Outcome.next (frameIn_of_linkUp hup)

end Sys2Proof.Machine
end

section
/-! SUPPORT. Control frames and the bring-up of a link (R378, R386 to R389, R400 to R405, R415): the frames of the control space that a link
takes, HELLO and KEYED by what they hold, and DLK_CTRL by the domain that writes it. -/

namespace Sys2Proof.Machine

variable {l : Nat} {r : RxFrame} {s : State}

/-- What a change of a link leaves as it is reads after it as before, whether or not the link exists. -/
theorem State.link_onLink {α : Type} (g : LinkSt → α) {f : LinkSt → LinkSt} (h : ∀ k, g (f k) = g k) :
    g ((s.onLink l f).link l) = g (s.link l) := by
  rw [State.onLink, State.link, State.link, State.onLinks]
  simp only [List.getD_eq_getElem?_getD, List.getElem?_modify_eq]
  cases s.links.links[l]? with
  | none => rfl
  | some k => exact h k

theorem exec_ackTimer_of_due (hup : s.linkUp l = true) (h : 0 < (s.link l).sinceAck) : exec (.ackTimer l) s = .next (sendAck l s) :=
  congrArg Host.Outcome.next (if_pos (by simp [hup, h]))

theorem exec_linkDelayMeasurement_of_due {t : Nat} (hup : s.linkUp l = true) (hdue : s.bgRuns (.delay l) = true) :
    exec (.linkDelayMeasurement l t) s =
      .next (queueCtl l 1 3 0 t 0 0 ((bgDone (.delay l) s).onLink l (fun k => { k with delayT1 := t }))) :=
  congrArg Host.Outcome.next (if_pos (by rw [hup, hdue]; rfl))

theorem exec_laneLoss_of_up (h : (s.link l).up = true) :
    exec (.laneLoss l) s = .next (fenceByFault ⟨.link, l⟩ (s.onLink l (fun k => { k with laneFail := true }))) :=
  congrArg Host.Outcome.next (if_pos h)

theorem exec_linkTrainingComplete_of_training (hmay : s.linkMay l = true) (hdown : (s.link l).up = false)
    (ht : (s.link l).training = true) (ok : Bool) : exec (.linkTrainingComplete l ok) s =
      .next (if ok then makeHello l s else s.onLink l (fun k => { k with laneFail := true, training := false })) :=
  congrArg Host.Outcome.next (if_neg (by simp [hmay, hdown, ht]))

theorem exec_helloRepeat_of_waiting (hmay : s.linkMay l = true) (ht : (s.link l).training = true) (hout : (s.link l).helloOut ≠ [])
    (hgot : (s.link l).keyedGot = false) :
    exec (.helloRepeat l) s = .next (s.onLink l (fun k => { k with wire := k.wire ++ [helloFrame k.helloOut] })) :=
  congrArg Host.Outcome.next (if_pos (by simp [hmay, ht, hout, hgot]))

theorem exec_hello_of_training (hmay : s.linkMay l = true) (ht : (s.link l).training = true) (hout : (s.link l).helloOut ≠ [])
    (hfirst : (s.link l).peerHello = none) (hrx : rxBad r = false) (hok : helloOk r.fr = true) : exec (.hello l r) s =
      .next (match helloSecret l r.fr (rxCounted l r s) with
        | some z => helloTaken l r.fr z (rxCounted l r s)
        | none => (rxCounted l r s).onLink l (fun k => { k with peerFail := true, training := false })) := by
  have hpriv : ((rxCounted l r s).link l).ephPriv = (s.link l).ephPriv := State.link_onLink (·.ephPriv) fun _ => rfl
  have hnonce : ((rxCounted l r s).link l).nonce = (s.link l).nonce := State.link_onLink (·.nonce) fun _ => rfl
  have hcw : rxLost r = false := by
    simp only [rxBad, Bool.or_eq_false_iff] at hrx
    exact hrx.1
  have hcounted : fecSeen l r s = rxCounted l r s := rfl
  change execHello l r s = _
  simp only [execHello, hcounted, helloSecret, hpriv, helloTaken, hnonce]
  rw [if_neg (by simp [hmay, ht, hout]), if_neg (by simp [hfirst, hcw, hok])]
  refine congrArg Host.Outcome.next ?_
  cases hkey : chainKey (rxCounted l r s).rot.rootPub (r.fr.body.drop 0x98) with
  | none => rfl
  | some key =>
    simp only [Option.bind_some, Bool.and_eq_true, decide_eq_true_eq]
    split
    · next hsecret => rw [hsecret]
    · next hsecret => rw [hsecret]

theorem exec_keyed_of_waiting (hmay : s.linkMay l = true) (hdown : (s.link l).up = false) (hsent : (s.link l).keyedSent = true) :
    exec (.keyed l r) s = .next (keyedTaken l r s) := by
  change execKeyed l r s = _
  simp only [execKeyed]
  rw [if_neg (by simp [hmay, hdown, hsent])]
  refine congrArg Host.Outcome.next ?_
  by_cases hlost : ctlLost l r s
  · rw [ctlOpen_of_lost hlost]
    exact (if_pos hlost).symm
  · rw [ctlOpen_of_not_lost hlost]
    refine Eq.trans ?_ (if_neg hlost).symm
    refine if_congr Iff.rfl rfl ?_
    rw [← ite_not]
    refine if_congr ?_ rfl rfl
    simp only [not_or, not_ne_iff]
    exact Iff.rfl

/-- DLK_CTRL is domain 0's alone (R415). -/
theorem dlkCtrl_of_domain {dom : Nat} (hl : l < 24) (u : State) :
    (if 24 ≤ l then s else if dom ≠ 0 then refuse 0x3C dom 2 true (dlkCtrl l) s else u) =
      if dom = 0 then u else refuse 0x3C dom 2 true (dlkCtrl l) s := by
  rw [if_neg (Nat.not_le.2 hl), ite_not]

end Sys2Proof.Machine
end

section
namespace Sys2Proof.Machine

/-- Settles O42: a frame of the control space on a link that is up by its checks; the other rows by their conditions. -/
theorem linkControlAndBringUp : Obligations.LinkControlAndBringUp := by
  refine ⟨fun l r s hup => ⟨?_, ?_⟩, fun l s hup h => exec_ackTimer_of_due hup h, fun l t1 t2 t3 r s hup =>
      ⟨?_, fun hdue => exec_linkDelayMeasurement_of_due hup hdue, fun head rest cw t4 => ?_, ?_⟩,
    fun l s h => exec_laneLoss_of_up h, fun l s hmay hdown ht ok => exec_linkTrainingComplete_of_training hmay hdown ht ok,
    fun l s hmay ht hout hgot => exec_helloRepeat_of_waiting hmay ht hout hgot,
    fun l r s hmay => ⟨fun ht hout hfirst hrx hok => exec_hello_of_training hmay ht hout hfirst hrx hok,
      fun hdown hsent => exec_keyed_of_waiting hmay hdown hsent⟩,
    fun l s hl dom => ⟨congrArg Host.Outcome.next (dlkCtrl_of_domain hl _), congrArg Host.Outcome.next (dlkCtrl_of_domain hl _)⟩⟩
  all_goals exact congrArg Host.Outcome.next (ctlIn_of_linkUp hup)

end Sys2Proof.Machine
end

section
/-! SUPPORT. The Root of Trust (R531, R538 to R551): an operation while it is up, by the length of its payload and then by what its body
checks. -/

namespace Sys2Proof.Machine

variable {w : List Byte} {s : State} {g : Staging} {k : CustKey} {ok : Bool} {body : State → State}

theorem rotOp_of_length (hup : s.rotUp = true) (hlen : ok = true) : rotOp ok body s = body s := by
  rw [rotOp, hup, hlen]
  rfl

theorem rotOp_of_badLength (hup : s.rotUp = true) (hlen : ok = false) : rotOp ok body s = rotReply stBadLength [] s := by
  rw [rotOp, hup, hlen]
  rfl

theorem exec_stageBegin_of_ok (hup : s.rotUp = true) (hlen : w.length = 5) (ht1 : 1 ≤ fld w 0 1) (ht6 : fld w 0 1 ≤ 6)
    (htotal : fld w 1 4 ≠ 0) (hfree : s.rot.staging = none) (htrial : s.rot.anyTrial = false) : exec (.stageBegin w) s =
      .next (rotReply stOk [] (s.onRot (fun r => { r.onImg (fld w 0 1) (fun i => { setTrialSlot none i with pending := false }) with
        staging := some { type := fld w 0 1, total := fld w 1 4, data := [], have_ := [] } }))) := by
  have hpass : firstFail [(decide (1 ≤ fld w 0 1 ∧ fld w 0 1 ≤ 6), stBadFormat), (decide (fld w 1 4 ≠ 0), stBadLength),
      (s.rot.staging.isNone && !s.rot.anyTrial, stRefusedBeat)] = none :=
    (firstFail_eq_none_iff _).2 (by simp [ht1, ht6, htotal, hfree, htrial])
  change execStageBegin w s = _
  rw [execStageBegin, rotOp_of_length hup (by simp [hlen])]
  simp only [hpass]

theorem exec_stageData_of_ok (hup : s.rotUp = true) (hlo : 5 ≤ w.length) (hhi : w.length ≤ 228) (hg : s.rot.staging = some g)
    (htotal : fld w 0 4 + (w.length - 4) ≤ g.total) (hslot : fld w 0 4 + (w.length - 4) ≤ slotBytes g.type) : exec (.stageData w) s =
      .next (rotReply stOk [] (s.onRot (fun r => { r with staging := some { g with
        data := MemOps.writeN g.data (fld w 0 4) (w.drop 4), have_ := insertBy (·.1) (fld w 0 4, (w.drop 4).length) g.have_ } }))) := by
  have hfits : ¬ min g.total (slotBytes g.type) < fld w 0 4 + (w.drop 4).length := by
    rw [List.length_drop]
    omega
  change execStageData w s = _
  rw [execStageData, rotOp_of_length hup (by simp [hlo, hhi])]
  simp only [hg, if_neg hfits]

theorem exec_stageEnd_of_covered (hup : s.rotUp = true) (hg : s.rot.staging = some g) (hall : g.total ≤ covered g.have_) :
    exec (.stageEnd []) s = .next (stagedImage g s) := by
  change execStageEnd [] s = _
  rw [execStageEnd, rotOp_of_length hup List.isEmpty_nil]
  simp only [hg, if_neg (Nat.not_lt.2 hall)]
  rfl

theorem exec_commit_of_type (hup : s.rotUp = true) (hlen : w.length = 1) (ht1 : 1 ≤ fld w 0 1) (ht6 : fld w 0 1 ≤ 6) :
    exec (.commit w) s = .next (rotReply stOk [] (if (s.rot.img (fld w 0 1)).trial then committed (fld w 0 1) s else s)) := by
  change execCommit w s = _
  rw [execCommit, rotOp_of_length hup (by simp [hlen]), if_neg (by simp [ht1, ht6])]
  cases (s.rot.img (fld w 0 1)).trial <;> rfl

/-- KEY_ENROLL of customer slot 0, which takes a key only while it has none. -/
theorem exec_keyEnroll_of_slot_zero (hup : s.rotUp = true) (hlen : w.length = 129) (hslot : fld w 0 1 = 0) (hk : s.rot.cust[0]? = some k) :
    exec (.keyEnroll w) s = .next (if k.hash.isNone = true then
      let g := identitySign (natLe 8 s.rot.deviceId.toNat ++ natLe 1 0 ++ (w.drop 1).take 64)
        (s.onRot (fun r => { r with cust := r.cust.modify 0 (fun k => { k with hash := some (digestOf ((w.drop 1).take 64)) }) }))
      rotReply stOk g.1 g.2 else rotReply stRefusedDomain [] s) := by
  change execKeyEnroll w s = _
  rw [execKeyEnroll, rotOp_of_length hup (by simp [hlen])]
  simp only [hslot, List.getD_eq_getElem?_getD, hk, Option.getD_some, if_true]
  cases k.hash <;> rfl

/-- Checks that all have one status fail with it. -/
theorem firstFail_const (st : Half) (l : List Bool) : firstFail (l.map (·, st)) = if l.all id = true then none else some st := by
  induction l with
  | nil => rfl
  | cons b l ih =>
    cases b with
    | false => rfl
    | true => simpa [firstFail] using ih

/-- What an unlock token must satisfy, its form aside: it names this device, holds the standing challenge, and verifies (R550, R551). -/
def tokenChecks (w : List Byte) (s : State) : List Bool := [
  decide (fld w 8 8 = s.rot.deviceId.toNat),
  decide (s.rot.challenge = some ((w.drop 0x10).take 16)),
  ecdsaVerify s.rot.rootPub ((w.drop 0x20).take 64) ((w.drop 0x60).take 64),
  ecdsaVerify ((w.drop 0x20).take 64) (w.take 0xA0) ((w.drop 0xA0).take 64)]

theorem tokenChecks_all : (tokenChecks w s).all id = tokenOk w s := by
  simp [tokenChecks, tokenOk, Bool.and_assoc]

theorem exec_debugUnlock_of_form (hup : s.rotUp = true) (hlen : w.length = 224) (hver : fld w 0 2 = 1) (hlevel : fld w 2 2 < 8)
    (hz : allZero w 4 4 = true) : exec (.debugUnlock w) s =
      let a := s.onRot (fun k => { k with challenge := none })
      .next (if tokenOk w s then rotReply stOk [] (bbAdd 0x62 1 0 0 stOk (natLe 2 (fld w 2 2))
        (a.onRot (fun k => { k with debugPending := some (BitVec.ofNat 16 (fld w 2 2)) }))) else rotReply stIntegrityFail [] a) := by
  have hfail : firstFail ((decide (fld w 0 2 = 1) && decide (fld w 2 2 < 8) && allZero w 4 4, stBadFormat) ::
      (tokenChecks w s).map (·, stIntegrityFail)) = if tokenOk w s = true then none else some stIntegrityFail := by
    rw [firstFail, if_pos (by simp [hver, hlevel, hz]), firstFail_const, tokenChecks_all]
  simp only [tokenChecks, List.map_cons, List.map_nil] at hfail
  change execDebugUnlock w s = _
  rw [execDebugUnlock, rotOp_of_length hup (by simp [hlen])]
  simp only [hfail]
  cases tokenOk w s <;> rfl

theorem exec_rotReservedOperation_of_reserved {op : Byte} (hup : s.rotUp = true)
    (h : op.toNat ∉ [0x01, 0x02, 0x10, 0x11, 0x12, 0x13, 0x14, 0x20, 0x30, 0x31, 0x80]) :
    exec (.rotReservedOperation op) s = .next (rotReply stBadFormat [] s) := by
  change execRotReservedOperation op s = _
  rw [execRotReservedOperation, if_neg (by simpa using h), if_pos hup]

theorem exec_rotReplyRead_of_up {off : Nat} (hup : s.rotUp = true) (h : off < 65536) : exec (.rotReplyRead off) s =
    .next (s.onRot (fun r => { r with
      smbusOut := ((natLe 2 r.replyStatus.toNat ++ natLe 2 r.reply.length ++ r.reply).drop off).take 240 })) := by
  change execRotReplyRead off s = _
  rw [execRotReplyRead, if_pos hup, Nat.mod_eq_of_lt h]

end Sys2Proof.Machine
end

section
namespace Sys2Proof.Machine

/-- Settles O40: each operation by the length of its payload, then by the outcome of its body's checks. -/
theorem rootOfTrustRows : Obligations.RootOfTrustRows := by
  refine ⟨fun s hup => ⟨?certs, ?abort, ?challenge, ?lengths⟩, fun w s hup hlen => ?attest,
    fun w s hup hlen ht1 ht6 htotal hfree htrial => exec_stageBegin_of_ok hup hlen ht1 ht6 htotal hfree htrial,
    fun w s g hup hlo hhi hg htotal hslot => exec_stageData_of_ok hup hlo hhi hg htotal hslot,
    fun s g hup hg hall => exec_stageEnd_of_covered hup hg hall,
    fun w s hup hlen ht1 ht6 => exec_commit_of_type hup hlen ht1 ht6,
    fun w s k hup hlen hslot hk hnone => ?enrolled, fun w s k h hup hlen hslot hk hsome => ?taken,
    fun w s hup hlen hver hlevel hz => exec_debugUnlock_of_form hup hlen hver hlevel hz,
    fun off s hup hoff => exec_rotReplyRead_of_up hup hoff, fun op s hup hop => exec_rotReservedOperation_of_reserved hup hop,
    fun e s hup => if_pos hup⟩
  case certs => exact congrArg Host.Outcome.next (rotOp_of_length hup List.isEmpty_nil)
  case abort => exact congrArg Host.Outcome.next (rotOp_of_length hup List.isEmpty_nil)
  case challenge => exact congrArg Host.Outcome.next (rotOp_of_length hup List.isEmpty_nil)
  case lengths =>
    simp only [List.forall_mem_cons, List.not_mem_nil, false_implies, implies_true, and_true]
    refine ⟨?_, ?_, ?_, ?_⟩ <;>
      exact fun w hw => congrArg Host.Outcome.next (rotOp_of_badLength hup (List.isEmpty_eq_false_iff.2 hw))
  case attest => exact congrArg Host.Outcome.next (rotOp_of_length hup (by simp [hlen]))
  case enrolled => rw [exec_keyEnroll_of_slot_zero hup hlen hslot hk, if_pos (by simp [hnone])]
  case taken => rw [exec_keyEnroll_of_slot_zero hup hlen hslot hk, if_neg (by simp [hsome])]

end Sys2Proof.Machine
end

section
/-! SUPPORT. PMBus (R557 to R562, R567, R579, R582): the commands of the management island while it has its input, and a start of the
module. -/

namespace Sys2Proof.Machine

variable {s : State}

theorem pmbus_of_island (h : s.island = true) (l : List Byte) : pmbus l s = s.onPower (fun p => { p with pmbusOut := l }) := if_pos h

theorem pmbusCml_of_island (h : s.island = true) : pmbusCml s = s.onPower (fun p => { p with statusCml := true, pmbusOut := [] }) := if_pos h

theorem exec_pmbusUnsupported_of_unknown {code : Byte} (h : s.island = true)
    (hc : code.toNat ∉ [0x01, 0x03, 0x79, 0x7C, 0x7D, 0x88, 0x89, 0x97, 0x8D, 0x98, 0xD0, 0xD1, 0xD2, 0xD3]) :
    exec (.pmbusUnsupported code) s = .next (s.onPower (fun p => { p with statusCml := true, pmbusOut := [] })) := by
  rw [← pmbusCml_of_island h]
  exact congrArg Host.Outcome.next (if_neg (by simpa using hc))

theorem exec_mfrPowerCap_of_write {w : Nat} (h : s.island = true) (hw : w < 65536) :
    exec (.mfrPowerCap (some w)) s = .next (writeCap w s) := by
  change execMfrPowerCap (some w) s = _
  rw [execMfrPowerCap, if_neg (by simp [h]), Nat.mod_eq_of_lt hw]

theorem exec_mfrPowerCap_of_read (h : s.island = true) :
    exec (.mfrPowerCap none) s = .next (pmbus (natLe 2 s.power.effective.toNat) s) :=
  congrArg Host.Outcome.next (if_neg (by simp [h]))

/-- A read of the black box's image: 32 bytes inside it, or an answer of none with CML. -/
theorem exec_mfrBbRead_of_island (h : s.island = true) (off : Nat) : exec (.mfrBbRead off) s =
    .next (s.onPower (fun p => if off + 32 ≤ 0x1000000
      then { p with pmbusOut := MemOps.readN s.bb.mram off 32 } else { p with statusCml := true, pmbusOut := [] })) := by
  refine congrArg Host.Outcome.next ?_
  rw [pmbus_of_island h, pmbusCml_of_island h]
  split <;> rfl

/-- A request for a lower state while Active: refused while the module must stay, else recorded for the next tick. -/
theorem askState_of_active {m : PwrMode} (h : s.power.mode = .active) : askState m s =
    (s.onPower (fun p => { p with refusedState := false })).onPower (fun k =>
      if s.mustStay then { k with refusedState := true } else { k with wanted := some m }) := by
  rw [askState, if_pos h]
  split <;> rfl

theorem askState_sleep_of_standby (h : s.power.mode = .standby) :
    askState .sleep s = enterSleep (s.onPower (fun p => { p with refusedState := false })) := by
  rw [askState, if_neg (by simp [h]), if_pos ⟨h, rfl⟩]

/-- POWER_STATE Active, by the state that the module is in. -/
theorem exec_powerStateActive_of_island (h : s.island = true) : exec .powerStateActive s =
    let a := s.onPower (fun p => { p with refusedState := false })
    .next (match s.power.mode with
      | .active => a.onPower (fun p => { p with wanted := none })
      | .standby => leaveStandby a
      | .sleep => warmResetTo 0x0C (stateRec 3 0 a)
      | .off => a) :=
  congrArg Host.Outcome.next (if_neg (by simp [h]))

theorem exec_operationOff_of_on (h : s.island = true) (hon : s.power.mode ≠ .off) : exec .operationOff s =
    .next ((powerFailSeq 0x0F s.power.vin.toNat s.power.pinW.toNat s).onPower (fun p => { p with statusOff := true })) := by
  change execOperationOff s = _
  rw [execOperationOff, if_neg (by simp [h]), if_neg hon]

theorem startUp_of_mayStart (h : s.mayStart = true) :
    startUp s = fullReset 0 (if s.power.failing then s.power.rstCause.toNat else 1) s := if_pos h

end Sys2Proof.Machine
end

section
namespace Sys2Proof.Machine

/-- Settles O39: each command of the island by its conditions. -/
theorem pmbusRows : Obligations.PmbusRows := by
  refine ⟨?reads, fun s h => ⟨congrArg Host.Outcome.next (if_pos h), fun code hc => exec_pmbusUnsupported_of_unknown h hc,
      fun w hw => exec_mfrPowerCap_of_write h hw, fun off => exec_mfrBbRead_of_island h off⟩,
    fun s h hreset => ?resets, fun s h => ⟨fun hm => ⟨?active, ?lower⟩, fun hm => ⟨?leave, ?sleep⟩, fun hm => ?wake⟩,
    fun s h => ⟨fun hon => exec_operationOff_of_on h hon, fun hm hvin => ?on⟩⟩
  case reads =>
    simp only [List.forall_mem_cons, List.not_mem_nil, false_implies, implies_true, and_true]
    refine ⟨?_, ?_, ?_, ?_, ?_, ?_, ?_, ?_, fun s h => (exec_mfrPowerCap_of_read h).trans ?cap⟩
    case cap => rw [pmbus_of_island h]
    all_goals exact fun s h => congrArg Host.Outcome.next (pmbus_of_island h _)
  case resets =>
    have hboth : (s.island && s.canReset) = true := by rw [h, hreset]; rfl
    exact ⟨congrArg Host.Outcome.next (if_pos hboth), congrArg Host.Outcome.next (if_pos hboth), congrArg Host.Outcome.next (if_pos hboth)⟩
  case active => rw [exec_powerStateActive_of_island h, hm]
  case lower =>
    simp only [List.forall_mem_cons, List.not_mem_nil, false_implies, implies_true, and_true]
    exact ⟨congrArg Host.Outcome.next ((if_pos h).trans (askState_of_active hm)),
      congrArg Host.Outcome.next ((if_pos h).trans (askState_of_active hm))⟩
  case leave => rw [exec_powerStateActive_of_island h, hm]
  case sleep => exact congrArg Host.Outcome.next ((if_pos h).trans (askState_sleep_of_standby hm))
  case wake => rw [exec_powerStateActive_of_island h, hm]
  case on =>
    refine congrArg Host.Outcome.next ((if_pos (by simp [h, hm])).trans (startUp_of_mayStart ?_))
    simpa [State.mayStart, State.onPower, hm] using hvin

end Sys2Proof.Machine
end

section
/-! SUPPORT. Power, boot and the resets (R535 to R539, R553 to R590): each row by its conditions, and what the power-fail sequence keeps. -/

namespace Sys2Proof.Machine

variable {s : State} {vin pin n cause hot : Nat} {temps : List Nat}

theorem exec_powerUp_of_off (hm : s.power.mode = .off) (hlo : 50000 ≤ vin) (hhi : vin < 65536) (hoff : s.power.statusOff = false) :
    exec (.powerUp vin) s = .next (fullReset 0 (if s.power.failing then s.power.rstCause.toNat else 1)
      (s.onPower (fun p => { p with vin := BitVec.ofNat 16 vin }))) :=
  congrArg Host.Outcome.next (startUp_of_mayStart (by simpa [State.mayStart, State.onPower, hm, hoff, Nat.mod_eq_of_lt hhi] using hlo))

theorem exec_powerUp_of_on (hm : s.power.mode ≠ .off) :
    exec (.powerUp vin) s = .next (s.onPower (fun p => { p with vin := BitVec.ofNat 16 vin })) :=
  congrArg Host.Outcome.next (if_neg (by simp [State.mayStart, State.onPower, hm]))

theorem exec_powerFail_of_on (hm : s.power.mode ≠ .off) (hv : vin < 46000) : exec (.powerFail vin pin) s =
    .next ((powerFailSeq 0x0E vin pin s).onPower (fun p => { p with statusInputBits := p.statusInputBits ||| 0x18 })) := by
  change execPowerFail vin pin s = _
  rw [execPowerFail, if_neg (Nat.not_le.2 hv), if_neg hm]

theorem assertHold_rot (unit idx slot : Nat) : (assertHold cause unit idx slot s).rot = s.rot := by
  simp only [assertHold]
  split <;> rfl

/-- The power-fail sequence leaves the hold asserted. -/
theorem powerFailSeq_safe_hold : (powerFailSeq cause vin pin s).safe.hold = true := by
  rw [State.safe_hold, powerFailSeq_held]

theorem bbAdd_rot (type sev unit idx : Nat) (st : Half) (data : List Byte) : (bbAdd type sev unit idx st data s).rot = s.rot := rfl

theorem bbCommitAll_rot : (bbCommitAll s).rot = s.rot := rfl

theorem onBb_rot (f : BbSt → BbSt) : (s.onBb f).rot = s.rot := rfl

theorem writeSnapshot_rot (kind : Nat) : (writeSnapshot cause kind s).rot = s.rot := by
  unfold writeSnapshot
  exact onBb_rot _

theorem onPower_rot (f : PowerSt → PowerSt) : (s.onPower f).rot = s.rot := rfl

theorem darkTo_fuses (mode : PwrMode) : (darkTo mode s).rot.uds = s.rot.uds ∧ (darkTo mode s).rot.imgs = s.rot.imgs := ⟨rfl, rfl⟩

/-- The power-fail sequence leaves the fuses and the images as they are. -/
theorem powerFailSeq_fuses : (powerFailSeq cause vin pin s).rot.uds = s.rot.uds ∧ (powerFailSeq cause vin pin s).rot.imgs = s.rot.imgs := by
  unfold powerFailSeq
  rw [onPower_rot, (darkTo_fuses _).1, (darkTo_fuses _).2, bbCommitAll_rot, writeSnapshot_rot, bbCommitAll_rot, bbAdd_rot, assertHold_rot]
  exact ⟨rfl, rfl⟩

/-- The power-fail sequence leaves the module off, its outputs low and nothing planned. -/
theorem powerFailSeq_off : (powerFailSeq cause vin pin s).power.mode = .off ∧ (powerFailSeq cause vin pin s).power.failing = true ∧
    (powerFailSeq cause vin pin s).safe.aLvl = false ∧ (powerFailSeq cause vin pin s).safe.bLvl = false ∧
    (powerFailSeq cause vin pin s).rot.released = false ∧ (powerFailSeq cause vin pin s).plan.cur = [] := by
  simp only [powerFailSeq, darkTo, State.onPower, true_and]
  rfl

theorem exec_thermalCapStep_of_hot (hp : s.powered = true) (hh : 110 ≤ temps.foldl max 0) : exec (.thermalCapStep temps) s =
    .next ((powerFailSeq 0x0D s.power.vin.toNat s.power.pinW.toNat
      (s.onPower (fun p => { p with tempMax := BitVec.ofNat 8 (min 255 (temps.foldl max 0)) }))).onPower
        (fun p => { p with statusTempBits := p.statusTempBits ||| 0x80 })) := by
  change execThermalCapStep temps s = _
  rw [execThermalCapStep, if_neg (by simp [hp]), if_pos hh]

theorem exec_thermalCapStep_of_beating (hb : s.beating = true) (hp : s.powered = true) (hen : s.beat.enable = true)
    (hh : temps.foldl max 0 < 110) : exec (.thermalCapStep temps) s = .next (thermalStep (temps.foldl max 0)
      (s.onPower (fun p => { p with tempMax := BitVec.ofNat 8 (min 255 (temps.foldl max 0)) }))) := by
  change execThermalCapStep temps s = _
  rw [execThermalCapStep, if_neg (by simp [hp]), if_neg (Nat.not_le.2 hh), if_pos (by simp [hb, hen])]

/-- The beats in a row above the power model, with that of `w` watts. -/
def highBeats (w : Nat) (s : State) : Nat := if s.power.modelW.toNat * 11 < w * 10 then s.power.highBeats + 1 else 0

theorem exec_modelHigh_of_not_eighth {w : Nat} (hb : s.beating = true) (hn : highBeats w s ≠ 8) : exec (.modelHigh w) s =
    .next (s.onPower (fun p => { p with
      pinW := BitVec.ofNat 16 w, highBeats := highBeats w s, modelHigh := p.modelHigh || decide (8 ≤ highBeats w s) })) := by
  refine congrArg Host.Outcome.next ((if_neg (by simp [hb])).trans ?_)
  exact if_neg hn

theorem exec_norRefresh_of_powered {l : List (Nat × Nat)} (hr : s.rot.dcpReady = true) (hp : s.powered = true) : exec (.norRefresh l) s =
    .next ((((l.filter (fun c => decide (2 < c.2))).map (·.1)).foldl (fun (s : State) (b : Nat) => refreshBlock b s) s).onPower
      (fun p => { p with nor := { p.nor with lastRefresh := p.timeUs } })) :=
  congrArg Host.Outcome.next (if_neg (by simp [hr, hp]))

variable {cxl : List (Nat × Nat × Nat × Nat)}

/-- A module that may boot: the Root of Trust released with the clock there, Active, not booted and not in recovery. -/
def MayBoot (s : State) : Prop :=
  s.rot.released = true ∧ s.rot.dcpReady = false ∧ s.rot.recovery = false ∧ s.pins.refclkHold = false ∧ s.power.mode = .active

/-- A boot that begins (R535): the identity derived anew and the generator seeded. -/
def bootBegun (s : State) : State :=
  let d := identityOf s.rot.uds
  (s.onRot (fun r => { r with
    idPriv := d, deviceId := BitVec.ofNat 64 (leNat ((sha256 (pubOf d)).take 8)),
    drbg := drbgInit (Config.seedBytes (r.bootCount.toNat + 2)) })).onPower (fun p => { p with nor := { p.nor with refreshBuf := none } })

theorem exec_boot_of_failed (h : MayBoot s) : exec (.boot false cxl) s = .next (enterRecovery 0 stIntegrityFail s) := by
  obtain ⟨hrel, hready, hrec, hclk, hmode⟩ := h
  exact (if_neg (by simp [hrel, hready, hrec, hclk, hmode])).trans (if_pos rfl)

theorem exec_boot_of_passed (h : MayBoot s) : exec (.boot true cxl) s =
    .next (if (bootTypes 6 1 (bootBegun s)).rot.recovery then bootTypes 6 1 (bootBegun s)
      else cxl.foldl (fun (s : State) (p : Nat × Nat × Nat × Nat) => trainCxl p s)
        ((bootTypes 6 1 (bootBegun s)).onRot (fun r => { r with dcpReady := true }))) := by
  obtain ⟨hrel, hready, hrec, hclk, hmode⟩ := h
  rw [apply_ite Host.Outcome.next]
  exact (if_neg (by simp [hrel, hready, hrec, hclk, hmode])).trans (if_neg (by decide))

theorem exec_trialTimeout_of_trial (hrel : s.rot.released = true) (hready : s.rot.dcpReady = false) (ht : ∃ i ∈ s.rot.imgs, i.trial = true) :
    exec .trialTimeout s = .next (warmRun 0x0B s) := by
  refine if_pos ?_
  simpa [hrel, hready] using ht

end Sys2Proof.Machine
end

section
namespace Sys2Proof.Machine

/-- Settles O38: each row by its conditions; the power-fail sequence keeps the fuses and asserts the hold; boot, by the outcome of the
known-answer test and of the images. -/
theorem powerBootAndResets : Obligations.PowerBootAndResets := by
  refine ⟨fun vin s => ⟨fun hm hlo hhi hoff => exec_powerUp_of_off hm hlo hhi hoff, fun hm => exec_powerUp_of_on hm⟩,
    fun vin pin s hm => ⟨fun hv => exec_powerFail_of_on hm hv, congrArg Host.Outcome.next (if_neg hm), fun hp hlo hhi => ?brownout⟩,
    fun cause vin pin s => ?sequence,
    fun temps s => ⟨fun hp hh => exec_thermalCapStep_of_hot hp hh, fun hb hp hen hh => exec_thermalCapStep_of_beating hb hp hen hh⟩,
    fun w s hb hn => exec_modelHigh_of_not_eighth hb hn, fun s hm => congrArg Host.Outcome.next (if_neg hm),
    fun l s hr hp => exec_norRefresh_of_powered hr hp, fun n cause s hreset => ?resets,
    fun ms s hms => congrArg Host.Outcome.next (if_neg (Nat.not_lt.2 hms)),
    fun cxl s hrel hready hrec hclk hm => ?boot, fun s hrel hready ht => exec_trialTimeout_of_trial hrel hready ht⟩
  case brownout => exact congrArg Host.Outcome.next (if_neg (by simp [hp, hlo, hhi]))
  case sequence =>
    obtain ⟨huds, himgs⟩ := powerFailSeq_fuses (cause := cause) (vin := vin) (pin := pin) (s := s)
    obtain ⟨hmode, hfail, ha, hb, hrel, hcur⟩ := powerFailSeq_off (cause := cause) (vin := vin) (pin := pin) (s := s)
    exact ⟨hmode, hfail, powerFailSeq_safe_hold, ha, hb, hrel, huds, himgs, hcur⟩
  case resets =>
    refine ⟨?_, fun hc => ?_, fun hc => ?_, fun hc => ?_⟩
    · exact congrArg Host.Outcome.next (if_congr (and_iff_left hreset) rfl rfl)
    · exact congrArg Host.Outcome.next (if_pos ⟨hc, hreset⟩)
    · exact congrArg Host.Outcome.next (if_pos (by simp [hc, hreset]))
    · exact congrArg Host.Outcome.next (if_pos ⟨hc, hreset⟩)
  case boot =>
    have hmay : MayBoot s := ⟨hrel, hready, hrec, hclk, hm⟩
    exact ⟨exec_boot_of_failed hmay, bootBegun s, rfl, rfl, exec_boot_of_passed hmay⟩

end Sys2Proof.Machine
end

section
/-! SUPPORT. The Safety Monitor (R502 to R525): the bodies of STOPWORD_START and STOPWORD_STOP where every check passes, the verdicts of a
slot's paths, and the pulses, blaze frames and checker tests by their conditions. -/

namespace Sys2Proof.Machine

variable {m : Msg} {a s : State} {ca cb : Channel} {q : SwSlot} {p : SwPath} {slot path dom t : Nat} {w : List Byte} {st : Half}

/-! ## Stop-words -/

theorem stopwordStart_of_ok (h : StopwordOk m ca cb a) : stopwordStart m a =
    (addReservations (swResvs m a) (a.onCtrl (fun c => { c with slots := c.slots ++ [startedSlot m a] })),
      waitFor m 0x0611 (m.f 0x14 1) none 0) := by
  obtain ⟨hhandles, hca, hcb, hokA, hokB, hports, hobjA, hobjB, hslot, hz, hsafe, hfree, hclusters, hload, hresA, hresB, hadmit⟩ := h
  simp only [List.forall_mem_cons] at hhandles
  obtain ⟨⟨hlive, howns⟩, ⟨hliveA, hownsA⟩, ⟨hliveB, hownsB⟩, ⟨hliveSa, hownsSa⟩, ⟨hliveSb, hownsSb⟩, -⟩ := hhandles
  simp only [swResvs, List.map_cons, List.map_nil] at hadmit ⊢
  rw [stopwordStart, checked_of_pass]
  · rfl
  · simp only [List.forall_mem_cons]
    refine ⟨?_, ?_, ?_, hobjA, hobjB, ?_, hz, ?_, ?_, by simp⟩
    · simp [hlive, hliveA, hliveB, hliveSa, hliveSb]
    · simp [hca, hokA]
    · simp [hca, hcb, hokB, hports]
    · simp [hslot]
    · simp [hsafe, howns, hownsA, hownsB, hownsSa, hownsSb]
    · simpa [hfree, hclusters, hload, hresA, hresB] using hadmit

theorem stopwordStop_of_none (hk : m.f 0 1 ≤ 7) (hz : m.z 1 3 = true) (hsafe : a.isSafety m.client = true)
    (hnone : a.swSlot (m.f 0 1) = none) : stopwordStop m a = (a, .done stOk []) := by
  simp only [stopwordStop, hnone]
  exact checked_of_pass _ _ (by simp [hk, hz, hsafe])

theorem stopwordStop_of_started (hk : m.f 0 1 ≤ 7) (hz : m.z 1 3 = true) (hsafe : a.isSafety m.client = true)
    (hq : a.swSlot (m.f 0 1) = some q) (hmine : q.client = m.client) (hon : q.stopAt = none) (hstarted : q.started = true) :
    stopwordStop m a = (slotStopping (m.f 0 1) m a, waitFor m 0x0612 (m.f 0 1) none 0) := by
  simp only [stopwordStop, hq]
  rw [checked_of_pass _ _ (by simp [hk, hz, hsafe, hmine, hon]), hstarted]
  simp only [slotStopping, Bool.true_and, if_true]
  cases a.otherSlots (m.f 0 1) <;> rfl

/-! ## Verdicts -/

theorem exec_verdictWrite_of_foreign (hs : slot < 8) (hp : path < 2) (hf : s.safe.safetyDomain = 0xFF ∨ dom ≠ s.safe.safetyDomain.toNat) :
    exec (.verdictWrite dom slot path w st) s = .next (s.onSafe (fun k => { k with foreign := satInc k.foreign })) :=
  congrArg Host.Outcome.next ((if_neg (by omega)).trans (if_pos hf))

theorem exec_verdictWrite_of_running (hs : slot < 8) (hpath : path < 2) (hset : s.safe.safetyDomain ≠ 0xFF)
    (hdom : dom = s.safe.safetyDomain.toNat) (hq : s.swSlot slot = some q) (hp : q.paths[path]? = some p) :
    exec (.verdictWrite dom slot path w st) s = .next (verdictTaken slot path p w st s) := by
  change Host.Outcome.next (verdictTake dom slot path w st s) = _
  simp only [verdictTake, hq, Option.bind_some, hp]
  rw [if_neg (by omega), if_neg (not_or.2 ⟨hset, not_not.2 hdom⟩)]
  simp only [verdictTaken, Bool.not_eq_true']

theorem exec_verdictDeadline_of_expected {e : Nat × Nat} (hq : s.swSlot slot = some q) (hp : q.paths[path]? = some p) (he : p.expect = some e) :
    exec (.verdictDeadline slot path) s =
      let s1 := s.onBeat (fun b => { b with clock := max b.clock p.deadline })
      .next (if p.got < e.2 then assertHold 0x02 0 0 slot s1 else s1) := by
  change execVerdictDeadline slot path s = _
  simp only [execVerdictDeadline, hq, Option.bind_some, hp, he]

theorem exec_verdictStarvation_of_running (hq : s.swSlot slot = some q) (hp : q.paths[path]? = some p) :
    exec (.verdictStarvation slot path) s =
      .next (if p.lastClear + s.starveLimit < s.beat.number.toNat then assertHold 0x02 0 0 slot s else s) := by
  change execVerdictStarvation slot path s = _
  simp only [execVerdictStarvation, hq, Option.bind_some, hp]

/-! ## The hold, its test pulses and the clock -/

theorem execSafeAckEdge_eq (lo hi : Nat) : exec (.safeAckEdge lo hi) s =
    .next (if 20 ≤ lo ∧ 20 ≤ hi ∧ s.safe.hold ∧ s.causePresent = false ∧ s.allClear = true then releaseHold s else s) := by
  refine congrArg Host.Outcome.next ?_
  by_cases hlevels : lo < 20 ∨ hi < 20
  · rw [if_pos hlevels, if_neg (by omega)]
  · rw [if_neg hlevels]
    refine if_congr ?_ rfl rfl
    simp only [not_or, Nat.not_lt] at hlevels
    simp [hlevels, and_assoc]

theorem exec_testPulse_of_hold {chB lo hi : Bool} (h : s.safe.hold = true) : exec (.testPulse chB lo hi) s = .next s :=
  congrArg Host.Outcome.next (if_pos (by rw [h]; rfl))

theorem exec_testPulse_of_due {chB lo hi : Bool} (h : s.safe.hold = false) (hb : s.beat.number.toNat % 1024 = if chB then 512 else 0) :
    exec (.testPulse chB lo hi) s = .next (
      if lo = false ∧ hi = true then s.onSafe (fun k => { k with pulse := false, aLvl := true, bLvl := true })
      else assertHold 0x0E 0 0 0xFF (s.onSafe (fun k => { k with outFail := true }))) := by
  refine congrArg Host.Outcome.next ((if_neg (by rw [h, hb]; simp)).trans ?_)
  cases lo <;> cases hi <;> rfl

/-! ## Blaze frames and checker tests -/

theorem exec_blazeFrame_of_serving {sigs exps : List Word} {bad : Bool} {r : Nat} (hslot : s.blazeSlot.1 = r)
    (hu : s.serves (blazeUnitOf r) = true) (hm : s.power.mode = .active) (hr : s.rot.dcpReady = true)
    (hw : s.beat.ticked = true → s.beat.part = .window) : exec (.blazeFrame sigs exps bad) s = .next (blazeJudged r sigs exps bad s) := by
  subst hslot
  refine congrArg Host.Outcome.next ((if_neg ?_).trans ?_)
  · simpa [hu, hm, hr] using hw
  · generalize hunit : s.blazeSlot.1 = r
    cases hboot : s.bootFrame with
    | none =>
      have hset : s.blazeSlot.2 = s.beat.number.toNat / 24 % 4 := by rw [State.blazeSlot, hboot]
      simp only [blazeJudged, State.bootNext, hboot, hset]
      rfl
    | some f =>
      have hset : s.blazeSlot.2 = f % 4 := by rw [State.blazeSlot, hboot]
      simp only [blazeJudged, State.bootNext, hboot, hset]

theorem exec_selfTestSlice_of_kerf {e : Option Engine} {tests : List (Checker × Bool)} (hr : s.rot.dcpReady = true)
    (ht : s.beat.ticked = true) (hk : s.beat.part = .kerf) (hu : ∀ u, e.bind engineUnit = some u → s.serves u = true) :
    exec (.selfTestSlice e t tests) s = .next (sliceRun e t tests s) := by
  have hserves : (match e.bind engineUnit with | some u => !s.serves u | none => false) = false := by
    cases hunit : e.bind engineUnit with
    | none => rfl
    | some u => simp [hu u hunit]
  refine congrArg Host.Outcome.next ((if_neg ?_).trans ?_)
  · rw [hr, ht, hk, Bool.not_true, Bool.false_or, Bool.or_false, bne_self_eq_false, Bool.or_false]
    exact ne_true_of_eq_false hserves
  · exact if_congr (Bool.or_eq_true_iff.trans (or_congr Iff.rfl decide_eq_true_iff)) rfl rfl

/-- A latent-fault check in which every checker found belongs to a unit: no reset follows. -/
theorem exec_latentCheck_of_units (hr : s.rot.dcpReady = true)
    (hu : ∀ c ∈ allCheckers, s.checkerIn c = true → s.latentAt t c = true → checkerUnit c ≠ none) :
    exec (.latentCheck t) s = .next (latentFound t s) := by
  have hhard : ((allCheckers.filter s.checkerIn).filter (s.latentAt t)).filter (fun c => (checkerUnit c).isNone) = [] := by
    refine List.filter_eq_nil_iff.2 fun c hc hnone => ?_
    obtain ⟨hhere, hlatent⟩ := List.mem_filter.1 hc
    obtain ⟨hall, hin⟩ := List.mem_filter.1 hhere
    exact hu c hall hin hlatent (Option.isNone_iff_eq_none.1 hnone)
  change execLatentCheck t s = _
  simp only [execLatentCheck, hr, hhard]
  rfl

end Sys2Proof.Machine
end

section
namespace Sys2Proof.Machine

/-- Settles O35: the bodies of the messages reply as stated once their checks pass; a verdict by the order of its judgements; the other rows
by their conditions. -/
theorem safetyMonitor : Obligations.SafetyMonitor := by
  refine ⟨fun m s ca cb h hok => waits_of_body rfl h (stopwordStart_of_ok hok), fun m s h hk hz hsafe => ⟨fun hnone => ?_,
      fun q hq hmine hon hstarted => ?_⟩,
    fun dom slot path w st s hs hp => ⟨fun hf => exec_verdictWrite_of_foreign hs hp hf,
      fun q p hset hdom hq hpath => exec_verdictWrite_of_running hs hp hset hdom hq hpath⟩,
    fun slot path s q p hq hp => ⟨fun e he => exec_verdictDeadline_of_expected hq hp he, exec_verdictStarvation_of_running hq hp⟩,
    fun lo hi s => execSafeAckEdge_eq lo hi, fun chB lo hi s => ⟨fun h => exec_testPulse_of_hold h, fun h hb => exec_testPulse_of_due h hb⟩,
    fun s => ⟨rfl, fun hf => ?_⟩, fun sigs exps bad s hu hm hr hw => exec_blazeFrame_of_serving ?_ hu hm hr hw,
    fun e t tests s hr ht hk hu => exec_selfTestSlice_of_kerf hr ht hk hu, fun ok s hr => congrArg Host.Outcome.next (if_neg (by simp [hr])),
    fun t s hr hu => exec_latentCheck_of_units hr hu⟩
  · exact answers_of_body rfl h (stopwordStop_of_none hk hz hsafe hnone)
  · exact waits_of_body rfl h (stopwordStop_of_started hk hz hsafe hq hmine hon hstarted)
  · exact congrArg Host.Outcome.next (if_neg (by simp [hf]))
  · rw [State.blazeSlot]
    cases s.bootFrame <;> rfl

end Sys2Proof.Machine
end
